-- ==== Sys2Proof/Word.lean ====
section
/-! DEFINITION. The word types of the Ryulas 6400 and their plainest arithmetic (spec/00 R6, spec/02 R45). -/

namespace Sys2Proof

/-- One 32-bit word: a lane of a V register, an S register, an instruction word. -/
abbrev Word := BitVec 32
/-- One byte of memory. -/
abbrev Byte := BitVec 8
/-- A 64-bit quantity: an address, a lane mask, a register pair. -/
abbrev DWord := BitVec 64
/-- The 128 bytes of one cache line, byte i in bits 8i+7 to 8i. -/
abbrev LineData := BitVec 1024

/-- A register pair as one 64-bit value, the low word in the first register (spec/02 R46). -/
def pair64 (lo hi : Word) : DWord := hi ++ lo

/-- Low word of a 64-bit value. -/
def lo32 (x : DWord) : Word := x.setWidth 32

/-- High word of a 64-bit value. -/
def hi32 (x : DWord) : Word := (x >>> 32).setWidth 32

end Sys2Proof
end

