-- ==== Sys2Proof/Config.lean ====
section
/-! DEFINITION. The values the manual leaves open: constants with no body, so nothing can evaluate them and a claim holds
whatever they are (notes/assumptions 5, 6, 7). They are applied to State's own issue serial, and to what they concern. -/

namespace Sys2Proof.Config

/-- Whether an early reader sees the old value (false) or a written one (true): issue serial, register key, candidate
(spec/03 R73, R74; log 5). -/
opaque seesNew : Nat → Nat → Nat → Bool

/-- Whether a long-latency write that completes after a later fixed-latency write to the same lane is the one left:
serial of the completion, register key (spec/03 R74; log 5). -/
opaque lateWriteWins : Nat → Nat → Bool

/-- Which two terms the n-th addition of a LRED.ADD.F32 tree joins: serial, n, side (spec/05 R134; log 6). -/
opaque treePick : Nat → Nat → Nat → Nat

/-- Which of the remaining lanes performs its atomic next: serial, n (spec/06 R166; log 7). -/
opaque atomicPick : Nat → Nat → Nat

/-- The result of a special function where the working precision of Sfu.lean does not decide the rounding: function
number, input bits, format (spec/01 R38; log 12). -/
opaque undecidedRounding : Nat → Nat → Nat → Bool

/-- The home slice, 0 to 63, of a physical line (spec/16 R358 leaves the mapping to the device): 0 and a physical line, or
ASID + 1 and the virtual line of a generator block. -/
opaque homeSlice : Nat → Nat → Nat

/-- The code an FP8 operand of FDP4 receives from an immediate its format cannot hold exactly: format, immediate
(spec/03 R78 states only exact conversions; log 13). -/
opaque inexactImmediate : Nat → BitVec 9 → BitVec 8

/-- The half word CPACK receives from an immediate: the manual names no format for it (spec/03 R78, spec/04 R128; log 13). -/
opaque cpackImmediate : BitVec 9 → BitVec 16

/-- The set of its slice a line stands in (spec/16 R358, R384): ASID and virtual line of a generated line, or 2^16 and a physical
line. -/
opaque llcSet : Nat → Nat → Nat

/-- By which entry of a CONT set an address is translated: one of the sixteen, or, from 16 on, the one it indexes: serial, page
(spec/14 R325; log 10). It matters only where the set breaks the rule of R325. -/
opaque contPick : Nat → Nat → Nat

/-- What a sample record says of its instruction's timing (spec/14 R349; log 16): the queue times of its 16 bytes, by the sample's CLK
and the serial. -/
opaque queueTimes : Nat → Nat → BitVec 128

/-- Which of a sampled instruction's lanes had its data last, and whether it issued packed: CLK, serial (spec/14 R349; log 16). -/
opaque lastLane : Nat → Nat → Nat
opaque packed : Nat → Nat → Bool

/-- What a word of a new carve-out holds among what the manual allows (spec/07 R199): zero, or, true, the value it held when it was
last part of a carve-out or an L1 line of the same ASID: serial, word of the array (log 20). -/
opaque residueKept : Nat → Nat → Bool

/-- Whether a converted store to an integer format stores 0, with IOC, for a register that holds the bits of an FP32 NaN
(spec/01 R31, its last clause), and not the register's low bits (spec/06 R157): the two rules differ there (log 74). -/
opaque nanStoresZero : Bool

/-- The header slot of a packet on the link, whose coding the manual does not give (spec/19 R432; log 59): kind, destination, address
or value. -/
opaque packetHeader : Nat → Nat → Nat → Nat

/-- The array time of an MMAS beyond half that of MMA: round (spec/08 R231 gives a range; log 16). -/
opaque mmasTime : Nat → Nat

/-- The way of its set, among sixteen, from which a line leaves a full set of the last-level cache or of an L2: serial
(spec/00 R4 leaves the choice to the device; log 69). -/
opaque evictedWay : Nat → Nat

end Sys2Proof.Config
end

