-- ==== Sys2Proof/Machine/Flags.lean ====
section
/-! DEFINITION. The FPSR flags (spec/01 R34-R37): their bits, and how an instruction gathers them; each operation of Fp.lean
gives its own. -/

namespace Sys2Proof.Machine

/-- The FPSR flags one operation raises, bit by bit as FPSR holds them (spec/01 R34). -/
abbrev Flg := BitVec 6
def Flg.ioc : Flg := 1
def Flg.dzc : Flg := 2
def Flg.ofc : Flg := 4
def Flg.ufc : Flg := 8
def Flg.ixc : Flg := 16
def Flg.fmt : Flg := 32

/-- The flags a list of contributions raises together: FPSR is sticky (spec/01 R35). -/
def Flg.all (fs : List Flg) : Flg := fs.foldl (fun a b => a ||| b) 0

/-- FPSR after an instruction's flags are raised. -/
def Flg.into (fpsr : Word) (f : Flg) : Word := fpsr ||| f.setWidth 32

end Sys2Proof.Machine
end

