-- ==== Sys2Proof/Machine/Fp.lean ====
section
/-! DEFINITION. Number formats and arithmetic of a lane: decoding, exact sums and products, rounding, flushing, saturation,
NaNs, flags and conversions (spec/01 R10-R37). Every value is exact until one rounding. -/

namespace Sys2Proof.Machine

/-- Rounding modes (spec/01 R21). -/
inductive Rm | rne | rz | ru | rd
  deriving DecidableEq, Repr

/-- What the codes with an exponent field of all ones mean (spec/01 R12). -/
inductive TopKind | ieee | e4m3 | finite
  deriving DecidableEq, Repr

/-- A floating-point format other than E8M0 (spec/01 R12): exponent bits, mantissa bits, bias, top codes. -/
structure FFmt where
  ebits : Nat
  mbits : Nat
  bias  : Nat
  top   : TopKind
  deriving DecidableEq, Repr

def FFmt.fp32 : FFmt := ⟨8, 23, 127, .ieee⟩
def FFmt.fp16 : FFmt := ⟨5, 10, 15, .ieee⟩
def FFmt.bf16 : FFmt := ⟨8, 7, 127, .ieee⟩
def FFmt.e5m2 : FFmt := ⟨5, 2, 15, .ieee⟩
def FFmt.e4m3 : FFmt := ⟨4, 3, 7, .e4m3⟩
def FFmt.e3m2 : FFmt := ⟨3, 2, 3, .finite⟩
def FFmt.e2m3 : FFmt := ⟨2, 3, 1, .finite⟩
def FFmt.e2m1 : FFmt := ⟨2, 1, 1, .finite⟩

/-- The bit below which the exponent and mantissa fields lie: the sign's place. -/
def FFmt.signPos (f : FFmt) : Nat := f.ebits + f.mbits

/-- The code of +∞ where the format has one. -/
def FFmt.infCode (f : FFmt) : Nat := (2 ^ f.ebits - 1) * 2 ^ f.mbits

/-- The code of the largest finite magnitude (spec/01 R12). -/
def FFmt.maxCode (f : FFmt) : Nat :=
  match f.top with
  | .ieee => f.infCode - 1
  | .e4m3 => 2 ^ f.signPos - 2
  | .finite => 2 ^ f.signPos - 1

/-- The canonical NaN of the format; +0 where it holds none (spec/01 R31, R27). -/
def FFmt.nanCode (f : FFmt) : Nat :=
  match f.top with
  | .ieee => f.infCode + 2 ^ (f.mbits - 1)
  | .e4m3 => 2 ^ f.signPos - 1
  | .finite => 0

/-- The exponent of the least significant bit of a subnormal. -/
def FFmt.qmin (f : FFmt) : Int := 1 - (f.bias : Int) - f.mbits

/-- A value read from a format: a NaN (with whether it raises IOC), an infinity, or (−1)^neg × m × 2^e exactly. -/
inductive FV
  | nan (ioc : Bool)
  | inf (neg : Bool)
  | fin (neg : Bool) (m : Nat) (e : Int)
  deriving DecidableEq, Repr

def FV.isNan : FV → Bool
  | .nan _ => true
  | _ => false

def FV.isInf : FV → Bool
  | .inf _ => true
  | _ => false

def FV.negate : FV → FV
  | .nan i => .nan i
  | .inf n => .inf (!n)
  | .fin n m e => .fin (!n) m e

/-- The value a code of a format stands for (spec/01 R12, R13, R32); only its low signPos + 1 bits count. -/
def FFmt.decode (f : FFmt) (code : Nat) : FV :=
  let neg := code.testBit f.signPos
  let mag := code % 2 ^ f.signPos
  let x := mag / 2 ^ f.mbits
  let m := mag % 2 ^ f.mbits
  let top := x = 2 ^ f.ebits - 1
  if f.top = .ieee ∧ top then
    if m = 0 then .inf neg else .nan (!(m.testBit (f.mbits - 1)))
  else if f.top = .e4m3 ∧ mag = 2 ^ f.signPos - 1 then .nan false
  else if x = 0 then .fin neg m f.qmin
  else .fin neg (2 ^ f.mbits + m) (f.qmin + (x - 1 : Nat))

/-- R29 on an input: a subnormal of the format reads as zero of its sign. -/
def FFmt.flushCode (f : FFmt) (fz : Bool) (code : Nat) : Nat :=
  let mag := code % 2 ^ f.signPos
  if fz && mag < 2 ^ f.mbits then code - mag else code

/-- Read a code with R29's flush. -/
def FFmt.read (f : FFmt) (fz : Bool) (code : Nat) : FV := f.decode (f.flushCode fz code)

/-- The value of an E8M0 code (spec/01 R13). -/
def e8m0Value (code : Nat) : FV := if code % 256 = 255 then .nan false else .fin false 1 ((code % 256 : Nat) - 127)

/-- Floor of log2 of a positive number. -/
def ilog2 (m : Nat) : Nat := Nat.log2 m

/-- m × 2^e aligned to multiples of 2^q: quotient, remainder and the remainder's unit count 2^shift. -/
def alignAt (m : Nat) (e q : Int) : Nat × Nat × Nat :=
  if q ≤ e then (m * 2 ^ (e - q).toNat, 0, 1)
  else
    let u := 2 ^ (q - e).toNat
    (m / u, m % u, u)

/-- Whether a quotient with this remainder is rounded up in magnitude (spec/01 R21, R22). -/
def roundsUp (rm : Rm) (neg : Bool) (quo rem unit : Nat) : Bool :=
  match rm with
  | .rne => decide (unit < 2 * rem) || (decide (2 * rem = unit) && decide (quo % 2 = 1))
  | .rz => false
  | .ru => decide (rem ≠ 0) && !neg
  | .rd => decide (rem ≠ 0) && neg

def roundAt (rm : Rm) (neg : Bool) (m : Nat) (e q : Int) : Nat × Bool :=
  let (quo, rem, unit) := alignAt m e q
  (if roundsUp rm neg quo rem unit then quo + 1 else quo, decide (rem ≠ 0))

/-- A code with its sign bit. -/
def FFmt.signed (f : FFmt) (neg : Bool) (mag : Nat) : Nat := if neg then 2 ^ f.signPos + mag else mag

/-- What a finite result above the format's largest magnitude becomes (spec/01 R23, R24). -/
def FFmt.overflowCode (f : FFmt) (rm : Rm) (sat neg : Bool) : Nat :=
  match f.top with
  | .ieee =>
    let toInf := match rm with
      | .rne => true
      | .rz => false
      | .ru => !neg
      | .rd => neg
    f.signed neg (if toInf && !sat then f.infCode else f.maxCode)
  | _ => f.signed neg f.maxCode

/-- An infinite result that needed no rounding (spec/01 R24, R27). -/
def FFmt.infinite (f : FFmt) (sat neg : Bool) : Nat × Flg :=
  match f.top with
  | .ieee => (f.signed neg (if sat then f.maxCode else f.infCode), 0)
  | _ => (f.signed neg f.maxCode, Flg.ofc)

/-- Round the exact value (−1)^neg × m × 2^e once to the format: its code and the flags OFC, UFC, IXC
(spec/01 R21-R24, R29, R37). -/
def FFmt.roundTo (f : FFmt) (rm : Rm) (sat fz : Bool) (neg : Bool) (m : Nat) (e : Int) : Nat × Flg :=
  if m = 0 then (f.signed neg 0, 0)
  else
    let ex : Int := (ilog2 m : Nat) + e
    let emin : Int := 1 - (f.bias : Int)
    let q := (if ex < emin then emin else ex) - f.mbits
    let (r, inexact) := roundAt rm neg m e q
    let code := (q - f.qmin).toNat * 2 ^ f.mbits + r
    if f.maxCode < code then (f.overflowCode rm sat neg, Flg.ofc ||| Flg.ixc)
    else if fz && code ≠ 0 && code < 2 ^ f.mbits then (f.signed neg 0, Flg.ufc ||| Flg.ixc)
    else
      let tiny := decide (ex < emin) &&
        !(decide (ex = emin - 1) && decide ((roundAt rm neg m e (ex - f.mbits)).1 = 2 ^ (f.mbits + 1)))
      (f.signed neg code, (if inexact then Flg.ixc else 0) ||| (if tiny && inexact then Flg.ufc else 0))

/-- The exact product of two values (spec/01 R32, R41). -/
def FV.mul : FV → FV → FV
  | .nan i, .nan j => .nan (i || j)
  | .nan i, _ => .nan i
  | _, .nan j => .nan j
  | .inf a, .inf b => .inf (a != b)
  | .inf a, .fin b m _ => if m = 0 then .nan true else .inf (a != b)
  | .fin a m _, .inf b => if m = 0 then .nan true else .inf (a != b)
  | .fin a m e, .fin b n k => .fin (a != b) (m * n) (e + k)

/-- The exact sum of terms, as a value: the sign of an exactly zero sum is R21's. IOC for ∞ − ∞ is in the NaN. -/
def FV.sum (rm : Rm) (ts : List FV) : FV :=
  let pos := ts.any (· == .inf false)
  let neg := ts.any (· == .inf true)
  if ts.any FV.isNan || (pos && neg) then
    .nan ((pos && neg) || ts.any (fun t => t == .nan true))
  else if pos then .inf false
  else if neg then .inf true
  else
    let low : Int := ts.foldl (fun a t => match t with | .fin _ m e => if m = 0 then a else min a e | _ => a) 4000
    let total : Int := ts.foldl (fun a t => match t with
      | .fin n m e => if m = 0 then a else (if n then a - (m * 2 ^ (e - low).toNat : Nat) else a + (m * 2 ^ (e - low).toNat : Nat))
      | _ => a) 0
    if total = 0 then
      let allZero (n : Bool) := ts.all (fun t => match t with | .fin s m _ => s == n && m == 0 | _ => false)
      if allZero true then .fin true 0 0
      else if allZero false then .fin false 0 0
      else .fin (rm == .rd) 0 0
    else .fin (decide (total < 0)) total.natAbs low

/-- The environment of one FP operation: rounding, saturation, the flush bits of FPCR (spec/01 R21, R24, R29). -/
structure FEnv where
  rm   : Rm
  sat  : Bool
  fz32 : Bool
  fz16 : Bool
  deriving DecidableEq, Repr

/-- Which flush bit governs a format (spec/01 R29, R30). -/
def FEnv.fz (v : FEnv) (f : FFmt) : Bool :=
  if f = .fp16 then v.fz16 else if f = .fp32 ∨ f = .bf16 then v.fz32 else false

/-- Write an exact value to a floating-point format: R21-R24, R27, R29, R31. -/
def FFmt.write (f : FFmt) (v : FEnv) : FV → Nat × Flg
  | .nan i => (f.nanCode, if i || f.top == .finite then Flg.ioc else 0)
  | .inf n => f.infinite v.sat n
  | .fin n m e => f.roundTo v.rm v.sat (v.fz f) n m e

/-- Conversion to E8M0 (spec/01 R28). -/
def toE8M0 (rm : Rm) : FV → Nat × Flg
  | .nan i => (0xFF, if i then Flg.ioc else 0)
  | .inf _ => (0xFE, Flg.ofc)
  | .fin _ m e =>
    if m = 0 then (0, Flg.ufc ||| Flg.ixc)
    else
      let l := ilog2 m
      let fl : Int := (l : Nat) + e
      let exact := decide (m = 2 ^ l)
      let up := match rm with
        | .rz => false
        | .rd => false
        | .ru => !exact
        | .rne => decide (3 * 2 ^ l < 2 * m) || (decide (3 * 2 ^ l = 2 * m) && decide ((fl + 127) % 2 = 1))
      let x := if up then fl + 1 else fl
      let ix : Flg := if exact && decide (-127 ≤ x) && decide (x ≤ 127) then 0 else Flg.ixc
      if 127 < x then (0xFE, Flg.ofc ||| Flg.ixc)
      else if x < -127 then (0, Flg.ufc ||| ix)
      else ((x + 127).toNat, ix)

/-- Round an exact value to an integer under a mode, and whether it was not integral. -/
def toInteger (rm : Rm) (neg : Bool) (m : Nat) (e : Int) : Int × Bool :=
  let (r, ix) := roundAt rm neg m e 0
  (if neg then -(r : Int) else r, ix)

/-- Conversion to an integer format with range lo..hi (spec/01 R27): value and flags. -/
def FV.toIntSat (rm : Rm) (lo hi : Int) : FV → Int × Flg
  | .nan _ => (0, Flg.ioc)
  | .inf n => (if n then lo else hi, Flg.ioc)
  | .fin n m e =>
    -- a magnitude of 2^80 or more is out of every range
    if m ≠ 0 ∧ (80 : Int) < (ilog2 m : Nat) + e then (if n then lo else hi, Flg.ioc)
    else
      let (x, ix) := toInteger rm n m (if e < -4096 then -4096 else e)
      if x < lo then (lo, Flg.ioc)
      else if hi < x then (hi, Flg.ioc)
      else (x, if ix then Flg.ixc else 0)

/-- minimumNumber and maximumNumber (spec/01 R33) on codes already flushed: the code of the result. -/
def FV.lt : FV → FV → Bool
  | .nan _, _ => false
  | _, .nan _ => false
  | .inf a, .inf b => a && !b
  | .inf a, .fin .. => a
  | .fin .., .inf b => !b
  | .fin a m e, .fin b n k =>
    let low := min e k
    let x : Int := (m * 2 ^ (e - low).toNat : Nat)
    let y : Int := (n * 2 ^ (k - low).toNat : Nat)
    decide ((if a then -x else x) < (if b then -y else y))

/-- Equality of numbers, −0 equal to +0 (spec/04 R102). -/
def FV.eq (x y : FV) : Bool := !x.isNan && !y.isNan && !x.lt y && !y.lt x

def FFmt.minmax (f : FFmt) (fz isMax : Bool) (a b : Nat) : Nat × Flg :=
  let a := f.flushCode fz a
  let b := f.flushCode fz b
  let x := f.decode a
  let y := f.decode b
  let fl : Flg := if x == .nan true || y == .nan true then Flg.ioc else 0
  match x.isNan, y.isNan with
  | true, true => (f.nanCode, fl)
  | true, false => (b, fl)
  | false, true => (a, fl)
  | false, false =>
    let aBelow := x.lt y || (x.eq y && a.testBit f.signPos && !b.testBit f.signPos)
    (if aBelow != isMax then a else b, fl)

/-- One xorshift step of a lane's PRNG (spec/01 R25). -/
def xorshiftStep (s : Word) : Word :=
  let s := s ^^^ (s <<< 13)
  let s := s ^^^ (s >>> 17)
  s ^^^ (s <<< 5)

/-- sr_round of R26 with the 16 random bits: code and flags, for a finite value. -/
def FFmt.srRound (f : FFmt) (sat fz : Bool) (rnd : Nat) (neg : Bool) (m : Nat) (e : Int) : Nat × Flg :=
  if m = 0 then (f.signed neg 0, 0)
  else
    let ex : Int := (ilog2 m : Nat) + e
    let emin : Int := 1 - (f.bias : Int)
    let q := (if ex < emin then emin else ex) - f.mbits
    let (quo, rem, unit) := alignAt m e q
    let d := rem * 65536 / unit
    let up := decide (65536 ≤ d + rnd)
    let r := if up then quo + 1 else quo
    let code := (q - f.qmin).toNat * 2 ^ f.mbits + r
    if f.maxCode < code then (f.overflowCode .rne sat neg, Flg.ofc ||| Flg.ixc)
    else if fz && code ≠ 0 && code < 2 ^ f.mbits then (f.signed neg 0, Flg.ufc ||| Flg.ixc)
    else
      let inexact := up || decide (rem ≠ 0)
      (f.signed neg code, (if inexact then Flg.ixc else 0) ||| (if inexact && decide (ex < emin) then Flg.ufc else 0))

/-- R26's stochastic rounding to E8M0. -/
def srE8M0 (rnd : Nat) (m : Nat) (e : Int) : Nat × Flg :=
  if m = 0 then (0, Flg.ufc ||| Flg.ixc)
  else
    let l := ilog2 m
    let fl : Int := (l : Nat) + e
    if fl < -127 then (0, Flg.ufc ||| Flg.ixc)
    else
      let d := (m - 2 ^ l) * 65536 / 2 ^ l
      let up := decide (65536 ≤ d + rnd)
      let x := if up then fl + 1 else fl
      if 127 < x then (0xFE, Flg.ofc ||| Flg.ixc)
      else ((x + 127).toNat, if up || decide (m ≠ 2 ^ l) then Flg.ixc else 0)

/-- The element formats by their codes (spec/01 R10). -/
inductive Fmt
  | int8 | uint8 | int16 | uint16 | int32 | uint32 | int4 | uint4 | fp32 | fp16 | bf16 | e4m3 | e5m2 | e2m1 | e3m2 | e2m3
  | e8m0 | t5 | cb16 | c16 | cbf | c32
  deriving DecidableEq, Repr

/-- Codes 0x00 to 0x15; 0x16 to 0x1F are reserved (spec/01 R10). -/
def Fmt.ofCode (c : BitVec 5) : Option Fmt :=
  [Fmt.int8, .uint8, .int16, .uint16, .int32, .uint32, .int4, .uint4, .fp32, .fp16, .bf16, .e4m3, .e5m2, .e2m1, .e3m2,
   .e2m3, .e8m0, .t5, .cb16, .c16, .cbf, .c32][c.toNat]?

/-- The floating-point descriptor of a format that has one. -/
def Fmt.ffmt? : Fmt → Option FFmt
  | .fp32 => some .fp32
  | .fp16 => some .fp16
  | .bf16 => some .bf16
  | .e4m3 => some .e4m3
  | .e5m2 => some .e5m2
  | .e2m1 => some .e2m1
  | .e3m2 => some .e3m2
  | .e2m3 => some .e2m3
  | _ => none

/-- Storage bits of one element in memory, for the formats whose elements stand alone (spec/01 R10). -/
def Fmt.bits : Fmt → Nat
  | .int8 | .uint8 | .e4m3 | .e5m2 | .e3m2 | .e2m3 | .e8m0 | .t5 => 8
  | .int16 | .uint16 | .fp16 | .bf16 | .cb16 => 16
  | .int32 | .uint32 | .fp32 | .c16 | .cbf => 32
  | .int4 | .uint4 | .e2m1 => 4
  | .c32 => 64

/-- The range of an integer format (spec/01 R14). -/
def Fmt.intRange? : Fmt → Option (Int × Int)
  | .int8 => some (-128, 127)
  | .uint8 => some (0, 255)
  | .int16 => some (-32768, 32767)
  | .uint16 => some (0, 65535)
  | .int32 => some (-2147483648, 2147483647)
  | .uint32 => some (0, 4294967295)
  | .int4 => some (-8, 7)
  | .uint4 => some (0, 15)
  | _ => none

/-- The value of an element of any scalar format, R29 applied to FP32, BF16 and FP16 codes; integers are exact. -/
def Fmt.value (f : Fmt) (v : FEnv) (code : Nat) : FV :=
  match f.ffmt? with
  | some g => g.read (v.fz g) code
  | none =>
    match f.intRange? with
    | some (lo, hi) =>
      let n := code % 2 ^ f.bits
      let x : Int := if hi < (n : Int) ∧ lo < 0 then (n : Int) - (2 ^ f.bits : Nat) else n
      .fin (decide (x < 0)) x.natAbs 0
    | none => if f = .e8m0 then e8m0Value code else .fin false 0 0

/-- convert(x, fmt, rm, SAT) of R27, R28: the element's code and its flags. -/
def Fmt.convert (f : Fmt) (v : FEnv) (x : FV) : Nat × Flg :=
  match f.ffmt? with
  | some g => g.write v x
  | none =>
    match f.intRange? with
    | some (lo, hi) =>
      let (n, fl) := x.toIntSat v.rm lo hi
      ((n % (2 ^ f.bits : Nat)).toNat, fl)
    | none => if f = .e8m0 then toE8M0 v.rm x else (0, 0)

/-- Element scaling by an E8M0 code, exact; a scale of 0xFF is a NaN without a flag (spec/01 R19). -/
def FV.scaleBy (x : FV) (scale : Nat) : FV :=
  if scale % 256 = 255 then .nan false
  else match x with
    | .fin n m e => .fin n m (e + ((scale % 256 : Nat) - 127))
    | .inf n => .inf n
    | .nan _ => .nan false

/-- The five digits of a T5 byte, or none for a reserved one (spec/01 R15). -/
def t5Digits (v : Nat) : Option (List Int) :=
  if 242 < v then none
  else some ([1, 3, 9, 27, 81].map (fun w => match v / w % 3 with | 1 => 1 | 2 => -1 | _ => 0))

/-- cb16_decode (spec/01 R17): element k of an index under a table entry, as an exact value. -/
def cb16Element (x ent k : Nat) : FV :=
  let neg := if k < 7 then x.testBit (8 + k)
    else (List.range 7).foldl (fun b i => b != x.testBit (8 + i)) false
  let mag : Int := (ent / 2 ^ (3 * k) % 8 : Nat)
  let c : Int := if x.testBit 15 then 1 else 0
  let q : Int := (if neg then -(2 * mag) else 2 * mag) - c
  .fin (decide (q < 0)) q.natAbs (-2)

end Sys2Proof.Machine
end

