-- ==== Sys2Proof/Syntax.lean ====
section
/-! DEFINITION. The instructions of the Ryulas 6400 and the device's own events, one constructor per row of
spec/opcode_table.json, with their operands as the encodings carry them (spec/03 R76-R97 and each class's chapter). -/

namespace Sys2Proof

/-- The fields every instruction word 0 has beside its opcode, length and modifiers (spec/03 R76). -/
structure Hdr where
  gneg  : Bool
  guard : BitVec 7
  fsel  : BitVec 2
  stall : BitVec 3
  deriving DecidableEq, Repr

/-- A 9-bit operand field (spec/02 R51): V, S, P registers, constants, and the reserved values 496 to 511. -/
inductive Opd
  | v (n : Fin 320)
  | s (n : Fin 64)
  | p (n : Fin 96)
  | k (n : Fin 16)
  | rsv (n : Fin 16)
  deriving DecidableEq, Repr

/-- Operand B: a register operand, a 9-bit signed immediate (IMMB 1), or the IMM32 of a 96i form (spec/03 R77, R78). -/
inductive SrcB
  | opd (o : Opd)
  | imm9 (i : BitVec 9)
  | imm32 (i : BitVec 32)
  deriving DecidableEq, Repr

/-- Destination and A. -/
structure DA where
  d : Opd
  a : Opd
  deriving DecidableEq, Repr

/-- Destination, A and B. -/
structure DAB where
  d : Opd
  a : Opd
  b : SrcB
  deriving DecidableEq, Repr

/-- Destination, A, B and C (96c forms). -/
structure DABC where
  d : Opd
  a : Opd
  b : SrcB
  c : Opd
  deriving DecidableEq, Repr

/-- .SAT and .U of the INT and UNIF classes (spec/04 R101, R108). -/
structure SatU where
  u   : Bool
  sat : Bool
  deriving DecidableEq, Repr

/-- MOD8 of the real FP class (spec/04 R101). -/
structure FpMods where
  abs : Bool
  nc  : Bool
  nb  : Bool
  na  : Bool
  sat : Bool
  rm  : BitVec 3
  deriving DecidableEq, Repr

/-- MOD8 of the complex FP class (spec/04 R101). -/
structure CpxMods where
  nc  : Bool
  cjb : Bool
  cja : Bool
  sat : Bool
  rm  : BitVec 3
  deriving DecidableEq, Repr

/-- .SAT and the rounding field of a conversion (spec/03 R80). -/
structure CvtMods where
  sat : Bool
  rm  : BitVec 3
  deriving DecidableEq, Repr

/-- The real formats of the FP and SFU classes. -/
inductive Fmt3 | f32 | h2 | b2
  deriving DecidableEq, Repr

/-- The complex formats (spec/01 R18). -/
inductive CFmt | c16 | c32 | cbf
  deriving DecidableEq, Repr

/-- Formats and element indexes of CVTF and UNPKMX (spec/04 R118, R124). -/
structure ElemSel where
  sfmt : BitVec 5
  dfmt : BitVec 5
  sidx : BitVec 3
  didx : BitVec 3
  deriving DecidableEq, Repr

/-- One operation of a PAIR word (spec/03 R85). -/
structure PairOp where
  mod2 : BitVec 2
  b    : BitVec 8
  a    : BitVec 8
  d    : BitVec 8
  sub  : BitVec 6
  deriving DecidableEq, Repr

/-- The reductions of QRED, LRED and LSCAN (spec/05 R130, R134). -/
inductive RedOp | add | min | max | and | or
  deriving DecidableEq, Repr

/-- The four SHFL forms (spec/05 R132). -/
inductive ShflMode | idx | up | dn | xor
  deriving DecidableEq, Repr

/-- The operations of ATOMG, ATOMS and REDG (spec/06 R164). -/
inductive AtomOp | add | min | max | and | or | xor | exch | inc | dec | fadd
  deriving DecidableEq, Repr

/-- ORDER, SCOPE and TYPE of an atomic (spec/06 R164). -/
structure AtomMods where
  order : BitVec 2
  scope : BitVec 3
  ty    : BitVec 3
  deriving DecidableEq, Repr

/-- An address: base, index or IMMB offset, scale code, and IMM23 in the 96c form (spec/06 R150). -/
structure Addr where
  base  : Opd
  idx   : SrcB
  scale : BitVec 3
  off   : Option (BitVec 23)
  deriving DecidableEq, Repr

/-- Address and data of an atomic: the 64 form has a bare base, the 96c form a full address (spec/06 R165). -/
inductive AtomArg
  | short (base : Opd) (data : SrcB)
  | long (adr : Addr) (data : Opd)
  deriving DecidableEq, Repr

/-- VSZ, MFMT and CV of a load or store (spec/06 R156). -/
structure MemMods where
  vsz  : BitVec 3
  mfmt : BitVec 5
  cv   : Bool
  deriving DecidableEq, Repr

/-- Every row of the opcode table: program instructions, and the events by which the rest of the device moves. Event
arguments say which unit, and resolve what the manual leaves to the device (notes/assumptions 2). -/
inductive Instr
  -- Integer and logic (spec/04 R104)
  | iadd (h : Hdr) (m : SatU) (o : DAB)
  | isub (h : Hdr) (m : SatU) (o : DAB)
  | iadd3 (h : Hdr) (m : SatU) (o : DABC)
  | iaddc (h : Hdr) (o : DABC) (pco : BitVec 7)
  | isubb (h : Hdr) (o : DABC) (pco : BitVec 7)
  | iadd64 (h : Hdr) (o : DAB)
  | isub64 (h : Hdr) (o : DAB)
  | imul (h : Hdr) (o : DAB)
  | imulhiS (h : Hdr) (o : DAB)
  | imulhiU (h : Hdr) (o : DAB)
  | imad (h : Hdr) (o : DABC)
  | imadwS (h : Hdr) (o : DABC)
  | imadwU (h : Hdr) (o : DABC)
  | iabs (h : Hdr) (sat : Bool) (o : DA)
  | iminS (h : Hdr) (o : DAB)
  | iminU (h : Hdr) (o : DAB)
  | imaxS (h : Hdr) (o : DAB)
  | imaxU (h : Hdr) (o : DAB)
  | iclampS (h : Hdr) (o : DABC)
  | iclampU (h : Hdr) (o : DABC)
  | ishl (h : Hdr) (o : DAB)
  | ishr (h : Hdr) (o : DAB)
  | ishra (h : Hdr) (o : DAB)
  | shfL (h : Hdr) (o : DABC)
  | shfR (h : Hdr) (o : DABC)
  | irot (h : Hdr) (o : DAB)
  | isad (h : Hdr) (u : Bool) (o : DABC)
  | idp4S (h : Hdr) (o : DABC)
  | idp4U (h : Hdr) (o : DABC)
  | idp2 (h : Hdr) (u : Bool) (o : DABC)
  | popc (h : Hdr) (o : DA)
  | clz (h : Hdr) (o : DA)
  | ctz (h : Hdr) (o : DA)
  | brev (h : Hdr) (o : DA)
  | bfeS (h : Hdr) (o : DAB)
  | bfeU (h : Hdr) (o : DAB)
  | bfi (h : Hdr) (o : DABC)
  | logt (h : Hdr) (o : DABC) (lut : BitVec 8)
  | prmt (h : Hdr) (o : DABC)
  | sel (h : Hdr) (o : DABC)
  | isetS (h : Hdr) (cc : BitVec 4) (o : DAB)
  | isetU (h : Hdr) (cc : BitVec 4) (o : DAB)
  | iset64 (h : Hdr) (cc : BitVec 4) (u : Bool) (o : DAB)
  | imov (h : Hdr) (o : DA)
  | movi (h : Hdr) (d : Opd) (imm : Word)
  | lea (h : Hdr) (sh : BitVec 5) (o : DAB)
  | lea64 (h : Hdr) (u : Bool) (sh : BitVec 5) (o : DAB)
  | pset (h : Hdr) (o : DABC) (lut : BitVec 8)
  | iaddH2 (h : Hdr) (m : SatU) (o : DAB)
  | isubH2 (h : Hdr) (m : SatU) (o : DAB)
  | imulH2 (h : Hdr) (o : DAB)
  | imadH2 (h : Hdr) (o : DABC)
  | iminH2 (h : Hdr) (u : Bool) (o : DAB)
  | imaxH2 (h : Hdr) (u : Bool) (o : DAB)
  | ishlH2 (h : Hdr) (o : DAB)
  | isetH2 (h : Hdr) (cc : BitVec 4) (u : Bool) (o : DAB)
  -- Floating point (spec/04 R109, R113)
  | fadd (h : Hdr) (t : Fmt3) (m : FpMods) (o : DAB)
  | fmul (h : Hdr) (t : Fmt3) (m : FpMods) (o : DAB)
  | ffma (h : Hdr) (t : Fmt3) (m : FpMods) (o : DABC)
  | fmin (h : Hdr) (t : Fmt3) (m : FpMods) (o : DAB)
  | fmax (h : Hdr) (t : Fmt3) (m : FpMods) (o : DAB)
  | fset (h : Hdr) (t : Fmt3) (cc : BitVec 4) (m : FpMods) (o : DAB)
  | fclamp (h : Hdr) (t : Fmt3) (m : FpMods) (o : DABC)
  | fadd3 (h : Hdr) (m : FpMods) (o : DABC)
  | fmed3 (h : Hdr) (t : Fmt3) (m : FpMods) (o : DABC)
  | fdp2 (h : Hdr) (t : Fmt3) (m : FpMods) (o : DABC)
  | fdp4 (h : Hdr) (e5 : Bool) (m : FpMods) (o : DABC)
  | frnd (h : Hdr) (t : Fmt3) (m : FpMods) (o : DA)
  | fscale (h : Hdr) (t : Fmt3) (m : FpMods) (o : DAB)
  | fclass (h : Hdr) (t : Fmt3) (o : DA)
  | cadd (h : Hdr) (t : CFmt) (m : CpxMods) (o : DAB)
  | cmul (h : Hdr) (t : CFmt) (m : CpxMods) (o : DAB)
  | cfma (h : Hdr) (t : CFmt) (m : CpxMods) (o : DABC)
  | cabs2 (h : Hdr) (t : CFmt) (m : CpxMods) (o : DA)
  -- Special functions (spec/04 R115) and their completion
  | frcp (h : Hdr) (t : Fmt3) (abs : Bool) (na : Bool) (o : DA)
  | frsq (h : Hdr) (t : Fmt3) (abs : Bool) (na : Bool) (o : DA)
  | fsqrt (h : Hdr) (t : Fmt3) (abs : Bool) (na : Bool) (o : DA)
  | fexp2 (h : Hdr) (t : Fmt3) (abs : Bool) (na : Bool) (o : DA)
  | flog2 (h : Hdr) (t : Fmt3) (abs : Bool) (na : Bool) (o : DA)
  | fsin (h : Hdr) (t : Fmt3) (abs : Bool) (na : Bool) (o : DA)
  | fcos (h : Hdr) (t : Fmt3) (abs : Bool) (na : Bool) (o : DA)
  | ftanh (h : Hdr) (t : Fmt3) (abs : Bool) (na : Bool) (o : DA)
  | fsigm (h : Hdr) (t : Fmt3) (abs : Bool) (na : Bool) (o : DA)
  | fgelu (h : Hdr) (t : Fmt3) (abs : Bool) (na : Bool) (o : DA)
  -- Conversions (spec/04 R117)
  | cvtf (h : Hdr) (m : CvtMods) (d : Opd) (a : Opd) (c : Opd) (x : ElemSel)
  | cvtfSr (h : Hdr) (sat : Bool) (d : Opd) (a : Opd) (c : Opd) (x : ElemSel)
  | cvtfi (h : Hdr) (u : Bool) (src : BitVec 2) (m : CvtMods) (o : DA)
  | cvtif (h : Hdr) (u : Bool) (dst : BitVec 2) (m : CvtMods) (o : DA)
  | cvtii (h : Hdr) (sat : Bool) (src : BitVec 3) (dst : BitVec 3) (o : DA)
  | packh (h : Hdr) (m : CvtMods) (o : DAB)
  | packb (h : Hdr) (m : CvtMods) (o : DAB)
  | packf8 (h : Hdr) (e5 : Bool) (hi : Bool) (m : CvtMods) (o : DAB)
  | packmx (h : Hdr) (blk : BitVec 2) (dfmt : BitVec 5) (m : CvtMods) (d : Opd) (a : Opd) (c : Opd)
  | unpkmx (h : Hdr) (scb : BitVec 2) (m : CvtMods) (d : Opd) (a : Opd) (c : Opd) (x : ElemSel)
  | packt5 (h : Hdr) (o : DAB)
  | unpkt5 (h : Hdr) (k : BitVec 2) (o : DA)
  | cbdec (h : Hdr) (slot : BitVec 2) (half : Bool) (pair : BitVec 2) (fp16 : Bool) (m : CvtMods) (d : Opd) (a : Opd) (c : Opd)
  | cpack (h : Hdr) (o : DAB)
  | cpackU (h : Hdr) (hi : Bool) (o : DA)
  -- PAIR words (spec/03 R85)
  | pairFF (h : Hdr) (p : PairOp) (q : PairOp)
  | pairFI (h : Hdr) (p : PairOp) (q : PairOp)
  | pairII (h : Hdr) (p : PairOp) (q : PairOp)
  | pairFX (h : Hdr) (p : PairOp) (q : PairOp)
  -- Exchanges (spec/05 R129)
  | qswpH (h : Hdr) (o : DA)
  | qswpV (h : Hdr) (o : DA)
  | qswpD (h : Hdr) (o : DA)
  | qbcst (h : Hdr) (k : BitVec 2) (o : DA)
  | qred (h : Hdr) (op : RedOp) (u : Bool) (f32 : Bool) (o : DA)
  | qhelp (h : Hdr) (o : DA)
  | shfl (h : Hdr) (mode : ShflMode) (seg : BitVec 3) (o : DAB)
  | voteAny (h : Hdr) (o : DA)
  | voteAll (h : Hdr) (o : DA)
  | voteBal (h : Hdr) (o : DA)
  | matchLanes (h : Hdr) (o : DA)
  | lred (h : Hdr) (op : RedOp) (u : Bool) (f32 : Bool) (o : DA)
  | lscan (h : Hdr) (op : RedOp) (u : Bool) (exc : Bool) (o : DA)
  -- Uniform unit (spec/05 R136)
  | sadd (h : Hdr) (m : SatU) (o : DAB)
  | ssub (h : Hdr) (m : SatU) (o : DAB)
  | sadd64 (h : Hdr) (o : DAB)
  | smul (h : Hdr) (o : DAB)
  | smad (h : Hdr) (o : DABC)
  | smin (h : Hdr) (u : Bool) (o : DAB)
  | smax (h : Hdr) (u : Bool) (o : DAB)
  | sshl (h : Hdr) (o : DAB)
  | sshr (h : Hdr) (o : DAB)
  | sshra (h : Hdr) (o : DAB)
  | slogt (h : Hdr) (o : DABC) (lut : BitVec 8)
  | spopc (h : Hdr) (o : DA)
  | sclz (h : Hdr) (o : DA)
  | sbfe (h : Hdr) (u : Bool) (o : DAB)
  | sbfi (h : Hdr) (o : DABC)
  | sset (h : Hdr) (cc : BitVec 4) (u : Bool) (o : DAB)
  | smov (h : Hdr) (o : DA)
  | smovi (h : Hdr) (d : Opd) (imm : Word)
  | slea (h : Hdr) (u : Bool) (sh : BitVec 5) (o : DAB)
  | s2v (h : Hdr) (o : DA)
  | v2s (h : Hdr) (o : DA)
  | srdsr (h : Hdr) (sr : BitVec 8) (d : Opd)
  | swrsr (h : Hdr) (sr : BitVec 8) (b : SrcB)
  -- Control (spec/05 R139)
  | bra (h : Hdr) (any : Bool) (off : BitVec 27)
  | braDivergent (h : Hdr) (off : BitVec 27) (rc : BitVec 23)
  | brau (h : Hdr) (off : BitVec 27)
  | brx (h : Hdr) (a : Opd)
  | call (h : Hdr) (l : BitVec 6) (off : BitVec 27)
  | callx (h : Hdr) (l : BitVec 6) (a : Opd)
  | ret (h : Hdr) (l : BitVec 6)
  | join (h : Hdr)
  | loop (h : Hdr) (c : BitVec 6) (off : BitVec 27)
  | exit (h : Hdr)
  | nop (h : Hdr)
  | yield (h : Hdr)
  | trap (h : Hdr) (code : BitVec 8)
  | bkpt (h : Hdr) (code : BitVec 8)
  | tret (h : Hdr)
  | tretSkip (h : Hdr)
  | mark (h : Hdr) (code : BitVec 8)
  | markImm (h : Hdr) (code : BitVec 8) (imm : Word)
  -- Memory (spec/06)
  | ldg (h : Hdr) (m : MemMods) (d : Opd) (adr : Addr)
  | ldgNc (h : Hdr) (m : MemMods) (d : Opd) (adr : Addr)
  | ldacq (h : Hdr) (vsz : BitVec 3) (sc : BitVec 3) (d : Opd) (adr : Addr)
  | ldb (h : Hdr) (m : MemMods) (d : Opd) (adr : Addr)
  | stg (h : Hdr) (m : MemMods) (d : Opd) (adr : Addr)
  | strel (h : Hdr) (vsz : BitVec 3) (sc : BitVec 3) (d : Opd) (adr : Addr)
  | lds (h : Hdr) (m : MemMods) (d : Opd) (adr : Addr)
  | ldsX (h : Hdr) (vsz : BitVec 3) (swz : BitVec 2) (d : Opd) (adr : Addr)
  | sts (h : Hdr) (m : MemMods) (d : Opd) (adr : Addr)
  | ldc (h : Hdr) (m : MemMods) (d : Opd) (adr : Addr)
  | ldl (h : Hdr) (m : MemMods) (d : Opd) (adr : Addr)
  | stl (h : Hdr) (m : MemMods) (d : Opd) (adr : Addr)
  | atomg (h : Hdr) (op : AtomOp) (m : AtomMods) (d : Opd) (x : AtomArg)
  | atomgCas (h : Hdr) (m : AtomMods) (d : Opd) (base : Opd) (cmp : SrcB) (new : Opd) (off : BitVec 23)
  | atoms (h : Hdr) (op : AtomOp) (m : AtomMods) (d : Opd) (x : AtomArg)
  | atomsCas (h : Hdr) (m : AtomMods) (d : Opd) (base : Opd) (cmp : SrcB) (new : Opd) (off : BitVec 23)
  | redg (h : Hdr) (op : AtomOp) (m : AtomMods) (x : AtomArg)
  | bchk (h : Hdr) (off : BitVec 27)
  | bclr (h : Hdr)
  | fence (h : Hdr) (ord : BitVec 2) (sc : BitVec 3)
  | acqr (h : Hdr) (sc : BitVec 3) (b : SrcB)
  | anch (h : Hdr) (d : Opd) (adr : Addr)
  | await (h : Hdr)
  | prefL2 (h : Hdr) (adr : Addr)
  | prefLlc (h : Hdr) (adr : Addr)
  | gpref (h : Hdr) (adr : Addr)
  | cctlWb (h : Hdr) (all : Bool) (adr : Addr)
  | cctlInv (h : Hdr) (all : Bool) (adr : Addr)
  -- Synchronisation and queues (spec/10 R270, R271; spec/12 R294; spec/17 R397)
  | binit (h : Hdr) (a : Opd) (b : SrcB)
  | barv (h : Hdr) (rd : Bool) (sc : BitVec 3) (d : Opd) (a : Opd) (b : SrcB)
  | bexp (h : Hdr) (a : Opd) (b : SrcB)
  | btry (h : Hdr) (sc : BitVec 3) (d : Opd) (a : Opd) (b : Opd)
  | bwait (h : Hdr) (sc : BitVec 3) (a : Opd) (b : Opd)
  | binval (h : Hdr) (a : Opd)
  | barwg (h : Hdr) (n : BitVec 2) (sc : BitVec 3)
  | barrp (h : Hdr) (n : BitVec 2)
  | qresv (h : Hdr) (pd : BitVec 7) (d : Opd) (a : Opd) (b : SrcB)
  | qput (h : Hdr) (a : Opd) (b : Opd) (c : Opd)
  | qcommit (h : Hdr) (sc : BitVec 3) (a : Opd) (b : Opd) (d : Opd)
  | qsig (h : Hdr) (store : Bool) (sc : BitVec 3) (a : Opd) (c : Opd)
  -- Engines (spec/10)
  | tcopy (h : Hdr) (tok : BitVec 3) (bar : Bool) (d : Opd) (a : Opd) (b : Opd) (c : Opd) (off : BitVec 23)
  | tcopys (h : Hdr) (tok : BitVec 3) (bar : Bool) (d : Opd) (a : Opd) (b : Opd) (c : Opd) (off : BitVec 23)
  | tcopyx (h : Hdr) (tok : BitVec 3) (bar : Bool) (d : Opd) (a : Opd) (b : Opd) (c : Opd) (off : BitVec 23)
  | tcopyr (h : Hdr) (tok : BitVec 3) (bar : Bool) (d : Opd) (a : Opd) (b : Opd) (c : Opd) (off : BitVec 23)
  | chain (h : Hdr) (tok : BitVec 3) (ch : BitVec 4) (a : Opd)
  | chstat (h : Hdr) (ch : BitVec 4) (d : Opd)
  | decwBit (h : Hdr) (tok : BitVec 3) (sg : Bool) (d : Opd) (a : Opd) (c : Opd) (nb : BitVec 4)
  | decwDlt (h : Hdr) (tok : BitVec 3) (sg : Bool) (d : Opd) (a : Opd) (c : Opd) (nb : BitVec 4)
  | decwRle (h : Hdr) (tok : BitVec 3) (sg : Bool) (d : Opd) (a : Opd) (c : Opd) (nb : BitVec 4)
  | topk (h : Hdr) (tok : BitVec 3) (n : BitVec 4) (slot : BitVec 2) (res : Bool) (a : Opd) (b : SrcB) (c : Opd)
  | resid (h : Hdr) (tok : BitVec 3) (flush : Bool) (slot : BitVec 2) (a : Opd) (b : SrcB)
  | bstart (h : Hdr) (d : Opd) (a : Opd) (b : Opd)
  | bpop (h : Hdr) (q : BitVec 2) (d : Opd)
  | bpush (h : Hdr) (q : BitVec 2) (a : Opd)
  | bstop (h : Hdr)
  -- Tiles and matrices (spec/08 R215, spec/09)
  | tld (h : Hdr) (fmt : BitVec 5) (hdr : Bool) (sp : Bool) (t : BitVec 4) (a : Opd) (b : SrcB) (off : Option (BitVec 23))
  | tldX (h : Hdr) (fmt : BitVec 5) (hdr : Bool) (sp : Bool) (t : BitVec 4) (a : Opd) (b : SrcB) (off : Option (BitVec 23))
  | tst (h : Hdr) (fmt : BitVec 5) (hdr : Bool) (sp : Bool) (t : BitVec 4) (a : Opd) (b : SrcB) (off : Option (BitVec 23))
  | tstX (h : Hdr) (fmt : BitVec 5) (hdr : Bool) (sp : Bool) (t : BitVec 4) (a : Opd) (b : SrcB) (off : Option (BitVec 23))
  | tzeroTile (h : Hdr) (t : BitVec 4)
  | tzeroAcc (h : Hdr) (n : BitVec 3)
  | tmov (h : Hdr) (td : BitVec 4) (ts : BitVec 4)
  | ttrn (h : Hdr) (td : BitVec 4) (ts : BitVec 4)
  | tbmp (h : Hdr) (t : BitVec 4)
  | ttagWr (h : Hdr) (acc : Bool) (n : BitVec 4) (a : Opd)
  | ttagRd (h : Hdr) (acc : Bool) (n : BitVec 4) (d : Opd)
  | mma (h : Hdr) (b4 : Bool) (tb : BitVec 4) (ta : BitVec 4) (sf : Opd)
  | mmas (h : Hdr) (b4 : Bool) (tb : BitVec 4) (ta : BitVec 4) (sf : Opd)
  | mmaf (h : Hdr) (tb : BitVec 4) (ta : BitVec 4) (sf : Opd)
  | xfwd (h : Hdr) (c : BitVec 3) (td : BitVec 4) (ts : BitVec 4)
  | xinv (h : Hdr) (fold : Bool) (sat : Bool) (td : BitVec 4) (ts : BitVec 4)
  | accrd (h : Hdr) (colb : BitVec 3) (n : BitVec 3) (d : Opd) (b : SrcB)
  | accwr (h : Hdr) (colb : BitVec 3) (n : BitVec 3) (a : Opd) (b : SrcB)
  | accout (h : Hdr) (fmt : BitVec 5) (n : BitVec 3) (td : BitVec 4) (a : Opd)
  | fbchk (h : Hdr) (f : Bool) (d : Opd) (a : Opd)
  | cbld (h : Hdr) (slot : BitVec 2) (a : Opd) (b : SrcB)
  -- Generator-backed memory (spec/16 R375)
  | fillc (h : Hdr) (a : Opd)
  | filla (h : Hdr)
  | fillq (h : Hdr) (d : Opd) (adr : Addr)
  | ftinfo (h : Hdr) (which : BitVec 3) (d : Opd) (b : SrcB)
  | fillv (h : Hdr) (b : SrcB)
  -- System (spec/12 R298, spec/14 R348-R351)
  | stopr (h : Hdr) (code : BitVec 8)
  | psamp (h : Hdr) (code : BitVec 8)
  | logfl (h : Hdr)
  | evinc (h : Hdr) (evn : BitVec 4) (b : SrcB)
  -- Device events: the steps of the part that no program instruction is (spec/95)
  | unassignedOpcode (w : Word)
  | clkAdvance (core : Nat)
  | clauseWaitRelease (core : Nat) (ctx : Nat) (slot : Nat)
  | sfuComplete (core : Nat) (part : Nat)
  | yieldExpiry (core : Nat) (ctx : Nat) (slot : Nat)
  | storeQueueLeave (core : Nat) (which : Nat) (arg : Nat)
  | memoryReplay (core : Nat) (ctx : Nat) (slot : Nat)
  | loadComplete (core : Nat) (id : Nat) (late : Bool)
  | belayAnswer (core : Nat) (id : Nat)
  | homeValidate (core : Nat) (id : Nat) (falseStrike : Bool)
  | belayRoundSelfInvalidate (core : Nat)
  | awaitTimeout (core : Nat) (ctx : Nat)
  | localWriteback (core : Nat) (asid : Nat) (line : Nat)
  | copyComplete (core : Nat) (id : Nat)
  | chainRecord (ch : Nat) (phase : Nat)
  | decodeComplete (core : Nat)
  | topkComplete (core : Nat)
  | matrixComplete (core : Nat) (id : Nat)
  | transformService (core : Nat)
  | cbldTakeover (core : Nat) (id : Nat)
  | allotmentRelease (core : Nat) (ctx : Nat)
  | workgroupPlace (launch : Nat) (core : Nat)
  | ropePlace (launch : Nat) (cluster : Nat) (x : Nat) (y : Nat)
  | ropeWaitReserve (launch : Nat) (cluster : Nat) (x : Nat) (y : Nat)
  | launchAging (launch : Nat)
  | starvationPromote (core : Nat) (ctx : Nat) (slot : Nat)
  | throttleWindowEnd (core : Nat)
  | pageWalk (cluster : Nat) (asid : Nat) (va : Nat)
  | fltrespRetry (seq : Nat)
  | fltrespUnresolved (seq : Nat)
  | ringRecordWrite (ring : Nat)
  | counterSweep
  | preemptPre (asid : Nat)
  | preemptRes (asid : Nat)
  | preemptKill (asid : Nat)
  | groupSave (core : Nat) (ctx : Nat)
  | preemptOverrun (core : Nat) (ctx : Nat) (slot : Nat)
  | groupResume (launch : Nat) (core : Nat)
  | ropeStop (rope : Nat)
  | dbgcmdStop (cluster : Nat) (w : Nat)
  | dbgcmdResume (cluster : Nat) (w : Nat)
  | homeMiss (core : Nat) (ctx : Nat) (slot : Nat)
  | fillLaunch (tracker : Nat) (core : Nat)
  | implicitFilla (launch : Nat)
  | heldRequesterResend (slice : Nat)
  | llcEviction (asid : Nat) (line : Nat)
  | vsbaseWrite (v : Nat)
  | vssizeWrite (v : Nat)
  | qkick (v : Nat)
  | queueStep
  | barrierPacket (q : Nat) (n : Nat)
  | copyPacket (q : Nat) (n : Nat) (ch : Nat)
  | inval (q : Nat) (n : Nat)
  | packetComplete (q : Nat) (n : Nat)
  | hostRequest (kind : Nat) (addr : Nat) (data : List Byte)
  | peerInboundRequest (src : Nat) (kind : Nat) (addr : Nat) (data : List Byte)
  | registerPacket (write : Bool) (src : Nat) (addr : Nat) (v : Nat) (half : Bool)
  | msiForward (src : Nat) (vec : Nat)
  | fabcfgWrite (v : Nat)
  | portstatWrite (port : Nat) (v : Nat)
  | flitReceive (port : Nat) (words : List Nat)
  | nakReceive (port : Nat) (seq : Nat)
  | ackTimeoutRetrain (port : Nat)
  | portTrainingDone (port : Nat) (lanes : Nat)
  | portFail (port : Nat) (down : Bool)
  | peerTimeout (id : Nat)
  | coldReset (strap : Nat) (opt : Nat) (grade : Nat) (fwOk : Bool)
  | basecampTestResult (cause : Nat)
  | enterRun
  | freezeAssert
  | freezeDeassert
  | securityAlarm (cause : Nat)
  | powerThrottle (cluster : Nat) (mhz : Nat)
  | thermalTrip
  | registerWrite (addr : Nat) (v : Nat) (half : Bool)
  | ucieLinkTraining (kind : Nat) (arg : Nat)
  | debugUnlock (auth : Bool)
  deriving DecidableEq, Repr

end Sys2Proof
end

