-- ==== Sys2Proof/Machine/State.lean ====
section
/-! DEFINITION. The whole machine as plain data: groups, cores, clusters, the die, the cache die, queues, host attachment,
fabric and device life. Tables are lists of (key, value) sorted by key; an unlisted key has the default its accessor gives. -/

namespace Sys2Proof.Machine

/-- A table: pairs sorted by strictly rising key. -/
abbrev Tbl (α : Type) := List (Nat × α)

/-- Why a step stops. -/
inductive Fault
  /-- A program instruction is executed while no valid stream is named by State.cur: the manual has no such event, since an
  instruction belongs to the stream that issues it. Raised by the issue wrapper of every program instruction. Safe. -/
  | noStream
  /-- An access to device memory above 64 MiB in base camp, where no such memory exists (spec/17 R411). Raised by every
  access to memory. Safe. -/
  | noMemory
  deriving DecidableEq, Repr

/-- Why an instruction has no meaning. -/
inductive Refusal
  /-- The arm of this mnemonic has no meaning yet. Raised by Dispatch.exec alone. Safe. -/
  | notModelled (mnemonic : String)
  deriving DecidableEq, Repr

/-- What a pending lane waits for (spec/06 R167). -/
inductive Pend
  /-- parked on a generator block: its ASID and block address -/
  | parked (asid : Nat) (block : Nat)
  /-- held at the core: the slice had no free tracker or wait entry; true once a fill of the slice has ended since -/
  | held (slice : Nat) (free : Bool)
  /-- the page fault with this SEQ is outstanding -/
  | fault (seq : Nat)
  /-- its wait has ended: the lane replays; woken n-th, or 0 -/
  | ready (n : Nat)
  /-- declared unresolved: fatal at replay -/
  | fatal
  /-- a load or atomic of a peer's line is on its way: its PeerReq (spec/19 R435) -/
  | peer (id : Nat)
  /-- that request has failed: PEER_FAULT at replay -/
  | peerFail
  /-- its access has this fatal cause; its trap waits for the peers' lines that other lanes have on their way -/
  | dead (cause : Nat)
  deriving DecidableEq, Repr

/-- Why a slot issues nothing although its spacing would allow it (spec/07 R186). -/
inductive Wait
  | none
  /-- its condition failed; it looks again at the next clk -/
  | retry
  /-- arrived at a workgroup barrier, with the scope of its acquire -/
  | barwg (n : Nat) (scope : Nat)
  /-- arrived at a rope barrier -/
  | barrp (n : Nat)
  /-- before a BWAIT, on the barrier object at this place of an array, with its window address, for a PCOUNT other than t -/
  | bwait (tgt addr t : Nat)
  /-- AWAIT, with the clk at which it issued -/
  | await (since : Nat)
  /-- JOIN wait of R142 step 3 -/
  | join
  /-- at the quartet gate -/
  | gate
  /-- a DECW whose stream has not been read: the operation's id -/
  | decode (id : Nat)
  /-- a memory instruction with pending lanes -/
  | replay
  /-- YIELD until this clk, or until each of these streams (context × 2 + slot) has issued -/
  | yield (untilClk : Nat) (others : List Nat)
  /-- a fetch or stack access held by the outstanding page fault with this SEQ -/
  | fetch (seq : Nat)
  /-- an instruction whose access is made as one lane, which waits (spec/06 R167) -/
  | pend (p : Pend)
  deriving DecidableEq, Repr

/-- Where a slot stands in its clause. -/
inductive Phase
  /-- arriving at its clause header: the steps of R142 are next -/
  | arrive
  /-- at its clause header, the WAIT condition next -/
  | header
  /-- released by its WAIT, which is looked at again until the first instruction issues -/
  | released
  /-- inside the clause, the instruction at pc next -/
  | run
  deriving DecidableEq, Repr

/-- How a load reads (spec/06 R158). -/
inductive LoadKind | ldg | nc | acq | ldb | lds | ldc | ldl
  deriving DecidableEq, Repr

/-- An atomic or reduction (spec/06 R164): its operation (none is CAS), TYPE, SCOPE, whether old values are returned, and
whether it acquires. -/
structure AtomInfo where
  op    : Option AtomOp
  ty    : Nat
  scope : Nat
  ret   : Bool
  acq   : Bool
  deriving DecidableEq, Repr

/-- What a memory instruction does in each lane. -/
inductive MemKind
  | load (k : LoadKind)
  | store
  | stl
  | sts
  | atomg (a : AtomInfo)
  | atoms (a : AtomInfo)
  | anch
  /-- invalidating, and on every line of the ASID -/
  | cctl (inv all : Bool)
  deriving DecidableEq, Repr

/-- A lane of a memory instruction: its address, and its data and compare value, as read at issue. -/
structure MLane where
  lane : Nat
  addr : DWord
  data : Nat
  cmp  : Nat
  deriving DecidableEq, Repr

/-- A memory instruction as captured at issue: bytes and registers per lane, format of a converted access, destination,
lanes, and the lanes active at first issue. -/
structure MemOp where
  kind   : MemKind
  size   : Nat
  nreg   : Nat
  mfmt   : BitVec 5
  cv     : Bool
  dst    : Option Opd
  lanes  : List MLane
  active : DWord
  deriving DecidableEq, Repr

/-- A memory instruction with lanes not yet done: the instruction, its pending lanes and what each waits for, the operation
that keeps its flag, its FFIRST and how often it has replayed. -/
structure Replay where
  op     : MemOp
  why    : List (Nat × Pend)
  opId   : Option Nat
  count  : Nat
  /-- an LDB of which a line was a bypass has been counted (spec/06 R172) -/
  byp    : Bool
  /-- the instruction's length in words, and its STALL -/
  len    : Nat
  stall  : Nat
  /-- every wait is for a peer's line on its way: no lane has an outcome yet -/
  flown  : Bool := false
  deriving DecidableEq, Repr

/-- A program-counter slot (spec/02 R54), with its clause header's fields (spec/03 R70) and its waits. -/
structure Slot where
  valid   : Bool
  clause  : BitVec 64
  pos     : Nat
  pc      : BitVec 64
  hdr     : BitVec 32
  phase   : Phase
  mask    : BitVec 64
  /-- reconvergence offset in 4-byte units from the kernel header; 0 is none -/
  reconv  : BitVec 32
  readyAt : Nat
  wait    : Wait
  replay  : Option Replay
  /-- issue serial of the slot's last issue; 0 before any -/
  lastIssue : Nat
  /-- clk since when the slot has been eligible without issuing -/
  eligSince : Option Nat
  /-- stands at the head of the choice once (spec/07 R187) -/
  promoted  : Bool
  /-- PSAMP code for the next memory instruction -/
  psamp   : Option (BitVec 8)
  /-- clause headers passed since a pre-emption request -/
  passed  : Nat
  /-- stopped at a pre-emption stop -/
  atStop  : Bool
  /-- issues its next instruction once without the watchpoint check (spec/12 R298) -/
  noWatch : Bool
  /-- the last instruction issued was a BARWG (spec/14 R342) -/
  afterBarwg : Bool
  /-- the safe point at which it stands counts as passed (spec/14 R344) -/
  safePast : Bool
  /-- lanes TRET restricts the next instruction to (spec/05 R148) -/
  tretLanes : Option (BitVec 64)
  /-- the fetch or stack fault it waited for was declared unresolved (spec/14 R332) -/
  fatal   : Bool
  /-- the flag that its instruction keeps raised while it waits for one access to be filled or resolved (spec/02 R56) -/
  kept    : Option Nat
  /-- the phase its BWAIT waited for has completed: it passes when it issues next (spec/10 R269) -/
  bpast   : Bool := false
  /-- the one unit its instruction's next attempt reads, and the units of its records read so far, each with its 16 bytes
  (spec/13 R304; log 42) -/
  readNext : Option Nat := none
  got     : List (Nat × Nat) := []
  deriving DecidableEq, Repr

/-- What a trap saved to continue from (spec/05 R146). -/
structure TrapCtx where
  slot    : Nat
  clause  : BitVec 64
  pos     : Nat
  pc      : BitVec 64
  hdr     : BitVec 32
  mask    : BitVec 64
  reconv  : BitVec 32
  /-- taken at a clause header: there is no instruction to skip -/
  atHeader : Bool
  /-- a memory instruction: only FMASK's lanes replay -/
  isMem   : Bool
  /-- the other slot was valid, and issues nothing until TRET -/
  other   : Bool
  /-- length in words of the trapping instruction, for TRET.SKIP -/
  len     : Nat
  /-- what the TRET of a restore routine restores from the header: FPCR, FPSR, owners of DEPTH's entries (spec/14 R344) -/
  regs    : Option (Word × Word × List Nat)
  deriving DecidableEq, Repr

/-- The ANCH monitor (spec/06 R179): the physical line when armed. -/
inductive Monitor
  | idle
  | armed (asid : Nat) (line : Nat)
  | fired
  deriving DecidableEq, Repr

/-- How a group's pre-emption stands (spec/14 R341, R344): its save routine runs, or has ended; its save is written; its restore
routine runs. -/
inductive SaveMode | none | saving | saved | done | restoring
  deriving DecidableEq, Repr

/-- A group (spec/02). -/
structure Group where
  uid      : Nat
  launch   : Nat
  wg       : Nat
  grpid    : Nat
  role     : Nat
  width    : Nat
  nlaunch  : Nat
  kernel   : BitVec 64
  vAlloc   : Nat
  sAlloc   : Nat
  pAlloc   : Nat
  tAlloc   : Nat
  aAlloc   : Nat
  /-- register × 64 + lane -/
  v        : Tbl Word
  s        : Tbl Word
  p        : Tbl (BitVec 64)
  prng     : Tbl Word
  launched : BitVec 64
  helper   : BitVec 64
  slot0    : Slot
  slot1    : Slot
  depth    : Nat
  /-- the slots that own the stack's entries, top first -/
  owners   : List Nat
  flags    : Tbl (BitVec 6)
  fpcr     : Word
  fpsr     : Word
  fmask    : BitVec 64
  ffirst   : BitVec 64
  faddr    : BitVec 64
  trapCause : Word
  dstkBase : BitVec 64
  lbase    : BitVec 64
  prio     : Nat
  fillTask : Bool
  level    : Nat
  bypass   : BitVec 8
  lostStruck : Bool
  monitor  : Monitor
  inHandler : Bool
  trapCtx  : Option TrapCtx
  /-- tile × 8192 + offset -/
  tiles    : Tbl Byte
  tags     : Tbl (BitVec 128)
  /-- side bitmaps, element n of row m at bit 512 m + n -/
  bitmaps  : Tbl Nat
  /-- accumulator × 4096 + 64 m + n -/
  accs     : Tbl Word
  atags    : Tbl (BitVec 64)
  inRegion : Bool
  regionEntry : BitVec 64
  snapshot : Tbl Word
  /-- lanes arrived: workgroup barriers 0-3, rope barriers 4-7 -/
  arrived  : Tbl (BitVec 64)
  /-- read copies of R351: (L1 or not, line, serial) -/
  logSet   : List Nat
  save     : SaveMode
  /-- started this many clk on its core: the throttle's order (spec/07 R193) -/
  startedAt : Nat
  ended    : Bool
  /-- first peer write whose acknowledgement failed (spec/19 R435) -/
  peerFail : Option (BitVec 64)
  /-- per slot number, the count its last CLK.LO read captured (spec/02 R62) -/
  clkCap   : Tbl (BitVec 64)
  /-- a bobbin program's starter: context (spec/10 R275) -/
  starter  : Option Nat
  deriving DecidableEq, Repr

/-- A register class of an operand. -/
inductive RegCls | v | s | p
  deriving DecidableEq, Repr

/-- One pending write of a register in one lane; P writes bit 0. -/
structure RegWrite where
  cls  : RegCls
  reg  : Nat
  lane : Nat
  val  : Word
  deriving DecidableEq, Repr

/-- A tensor layout record as read (spec/10 R258). -/
structure Layout where
  base    : Nat
  fmt     : Nat
  rank    : Nat
  fill    : Nat
  swz     : Nat
  index   : Bool
  dims    : List Nat
  strides : List Nat
  fillv   : Nat
  deriving DecidableEq, Repr

/-- A tensor copy captured at issue (spec/10 R260-R264): kind 0 TCOPY, 1 TCOPYS, 2 TCOPYX, 3 TCOPYR. -/
structure CopyOp where
  kind  : Nat
  data  : Layout
  index : Option Layout
  box   : List Nat
  coord : List Int
  dst   : Nat
  bar   : Option Nat
  deriving DecidableEq, Repr

/-- A member of a quartet instruction as captured at its arrival (spec/08 R225, R227). -/
structure MatOp where
  opc   : Nat
  base  : Nat
  ta    : Nat
  tb    : Nat
  fb    : List Word
  /-- scale bytes: A's, then the B quarter's -/
  ascale : List Nat
  bscale : List Nat
  /-- codebook entries, when an operand is CB16 -/
  book  : List Nat
  expB  : Int
  blenB : Nat
  deriving DecidableEq, Repr

/-- Where a tile load reads (spec/08 R217): scratchpad or global, its chunks (address and bytes), whether the first holds a
header, and TLD.X's element bytes. -/
structure TileSrc where
  sp     : Bool
  chunks : List (Nat × Nat)
  hdr    : Bool
  x      : Option Nat
  deriving DecidableEq, Repr

/-- What an operation in flight does at its completion. -/
inductive What
  /-- its register writes, at a fixed clk -/
  | fixed
  | sfu (part : Nat)
  | load (m : MemOp)
  /-- its register writes, at any later time -/
  | data
  /-- completes when its store-queue entry is performed -/
  | store
  /-- an atomic that returns old values: so does it -/
  | fetch
  /-- quads without launched lanes leave the slot's mask -/
  | help (slot : Nat) (lanes : BitVec 64)
  | copy (c : CopyOp)
  /-- form 0 BIT, 1 DLT, 2 RLE; signed; blocks; address; start bit; first register; C's register; lanes; STALL -/
  | decode (form : Nat) (sg : Bool) (nb addr bit dst cReg : Nat) (lanes : BitVec 64) (stall : Nat)
  /-- input, k, n, slot, RES, output -/
  | topk (inp k n slot : Nat) (res : Bool) (out : Nat)
  | resid (addr n slot : Nat) (flush : Bool)
  /-- the slot, the 256 entries as read, and the address they are read from -/
  | cbld (slot : Nat) (book : List Nat) (src : Nat)
  | chain (ch : Nat) (head : Nat)
  /-- the round, this member's own operation and exponent, and the members' contexts and operations in member order -/
  | matrix (round : Nat) (mine : MatOp) (e : Int) (quarters : List (Nat × MatOp))
  /-- XFWD: c, td, ts -/
  | xfwd (c td ts : Nat)
  | xinv (fold sat : Bool) (td ts : Nat)
  /-- tile data and tag written at completion; a load's, with where it reads -/
  | tile (t : Nat) (bytes : List Byte) (tag : BitVec 128) (src : Option TileSrc)
  /-- the tracker, and the array place of the block's data -/
  | fillc (tracker place : Nat)
  /-- LOGFL: completes when the log ring holds no record to be written -/
  | logfl
  | bpop (q dst : Nat) (lanes : BitVec 64)
  /-- a barrier instruction waiting at its barrier keeps its flag -/
  | barrier
  deriving DecidableEq, Repr

/-- A tile or accumulator an operation reads, or writes too (spec/08 R214). -/
structure TileUse where
  acc    : Bool
  n      : Nat
  writes : Bool
  deriving DecidableEq, Repr

/-- A memory instruction that is sampled (spec/14 R349): its PSAMP code, or 0 and no PSAMP; its lanes and CLK at first issue, the
sectors they touch, its replays so far, and whether it returns data. -/
structure Sample where
  code    : Nat
  psamp   : Bool
  lanes   : BitVec 64
  clk     : Nat
  sectors : Nat
  replays : Nat
  data    : Bool
  deriving DecidableEq, Repr

/-- An operation in flight: it keeps its flag until it completes (spec/02 R56, R58). -/
structure Op where
  id     : Nat
  ctx    : Nat
  uid    : Nat
  wg     : Nat
  asid   : Nat
  slot   : Nat
  serial : Nat
  flag   : Option Nat
  due    : Option Nat
  writes : List RegWrite
  /-- registers, and lanes of them, it will still write with values not yet among its writes -/
  dests  : List (RegCls × Nat × BitVec 64)
  fl     : BitVec 6
  fpsr   : Bool
  what   : What
  ffirst : BitVec 64
  /-- the page fault that holds it, with the faulting address -/
  held   : Option (Nat × Nat)
  sample : Option Sample
  /-- the rope stamp taken at issue (spec/12 R301) -/
  stamp  : Nat
  uses   : List TileUse
  /-- the clk of its issue: operations of one clk are served in partition order (spec/09 R247, spec/10 R277) -/
  clk    : Nat
  /-- units of a transfer done before its completion, with what was read of them (spec/13 R304) -/
  parts  : List (Nat × List Byte)
  /-- lanes of registers (RegWrite.key) at which a write issued later has completed: no reader sees this one's value before it
  completes (spec/03 R74) -/
  hidden : List Nat := []
  /-- those at which the other write is the one left: this one does not land (spec/03 R73, R74; log 5) -/
  dropped : List Nat := []
  deriving DecidableEq, Repr

/-- A byte of a store on its way: virtual address, physical place (2^60 above for a peer's memory), value; its page is uncached
(spec/14 R327). -/
structure SCell where
  va  : Nat
  tgt : Nat
  b   : Byte
  unc : Bool := false
  deriving DecidableEq, Repr

/-- A lane of an atomic on its way: lane, virtual address, place (scratchpad: core × 2^20 + byte), data, compare value. -/
structure ALane where
  lane : Nat
  va   : Nat
  tgt  : Nat
  data : Nat
  cmp  : Nat
  /-- performed at the home of its line, not in the L1 -/
  home : Bool
  deriving DecidableEq, Repr

/-- What a store-queue entry does when it leaves (spec/06 R160, R166). -/
inductive SqWhat
  /-- a global store -/
  | bytes (cells : List SCell)
  /-- a local store -/
  | loc (cells : List SCell)
  /-- a scratchpad store: core × 2^20 + byte, value -/
  | scratch (cells : List (Nat × Byte))
  /-- ATOMG or REDG -/
  | atomg (a : AtomInfo) (lanes : List ALane) (dst : Option Opd)
  /-- ATOMS -/
  | atoms (a : AtomInfo) (lanes : List ALane) (dst : Option Opd)
  deriving DecidableEq, Repr

/-- One entry of a group's store queue. -/
structure SqEntry where
  id   : Nat
  ctx  : Nat
  uid  : Nat
  asid : Nat
  opId : Option Nat
  what : SqWhat
  deriving DecidableEq, Repr

/-- A write of one line on its way from a store queue to the coherent caches. -/
structure Wt where
  /-- the store-queue entry it came from -/
  id    : Nat
  uid   : Nat
  asid  : Nat
  cells : List SCell
  deriving DecidableEq, Repr

/-- How an L1 line was filled (spec/06 R162, spec/07 R200). -/
inductive LineKind | glob | nc | loc
  deriving DecidableEq, Repr

/-- An L1 line (spec/07 R200, R201): virtual line VA[56:7], physical line, data, dirty bytes of a local line, version. -/
structure L1Line where
  asid  : Nat
  line  : Nat
  pline : Nat
  peer  : Bool
  kind  : LineKind
  data  : LineData
  dirty : BitVec 128
  ver   : Nat
  /-- when it was filled: names the copy for R351 -/
  fill  : Nat
  /-- its place in the array: 3 × row + third (spec/07 R194) -/
  place : Nat
  deriving DecidableEq, Repr

/-- An entry of the belay table (spec/07 R202). -/
structure Belay where
  ctx   : Nat
  count : Nat
  state : Nat
  sbit  : Bool
  genr  : Nat
  pline : Nat
  peer  : Bool
  deriving DecidableEq, Repr

/-- A validation on its way, or its answer (spec/06 R171, R173). -/
structure Validation where
  id    : Nat
  index : Nat
  genr  : Nat
  pline : Nat
  peer  : Bool
  ver   : Nat
  /-- none on its way to the home; some confirm on its way back -/
  answer : Option Bool
  /-- the port by which one of a peer's line travels (spec/19 R431) -/
  port   : Option Nat := none
  deriving DecidableEq, Repr

/-- The load throttle (spec/07 R191-R193). -/
structure Throttle where
  limit   : Option Nat
  hits    : Nat
  tags    : List (Nat × Nat)
  /-- permitted contexts, longest in the set first -/
  permitted : List Nat
  held    : Tbl Nat
  /-- held-back groups eligible for a load in this window; a permitted one issued a load -/
  wanted  : List Nat
  /-- some held-back group was so, whether it is still there or not -/
  waited  : Bool
  loaded  : Bool
  window  : Nat
  deriving DecidableEq, Repr

/-- The last use of an array row: the ASID that used it last, and the ASID that used each of its thirds last (spec/07 R199). -/
structure RowUse where
  last : Nat
  a    : Nat
  b    : Nat
  c    : Nat
  deriving DecidableEq, Repr

/-- What a partition has issued last (spec/07 R183, R187, R189): when, and until when that holds its port; the launch and address of
the first issue, whether members may be added, the streams issued (context and slot), and the quads they take:
context × 16 + quad. -/
structure PortUse where
  clk    : Nat
  till   : Nat
  launch : Nat
  pc     : BitVec 64
  packs  : Bool
  mems   : List (Nat × Nat)
  quads  : List Nat
  deriving DecidableEq, Repr

/-- A member waiting at a quartet gate (spec/08 R229): context, member number, slot, and its operation or a skip. -/
structure GateArrival where
  ctx    : Nat
  slot   : Nat
  wg     : Nat
  quart  : Nat
  g      : Nat
  op     : Option (MatOp × Int)
  opId   : Option Nat
  stall  : Nat
  deriving DecidableEq, Repr

/-- A core (spec/07). -/
structure Core where
  clk      : Nat
  boundary : Nat
  /-- rows below this are being taken from the L1 by a boundary move that waits; 0 is none (spec/07 R197) -/
  taking   : Nat
  /-- array bytes, 384 × row + byte of the row; a line's bytes are written here when it leaves the L1 -/
  array    : Tbl Byte
  rowUse   : Tbl RowUse
  l1       : List L1Line
  /-- the places the L1's next allocations take: the model's own account of what the manual leaves to the device -/
  l1Next   : List Nat
  /-- per partition, its last issue -/
  ports    : Tbl PortUse
  wt       : List Wt
  sq       : List SqEntry
  ops      : List Op
  belay    : Tbl Belay
  vals     : List Validation
  /-- slot × 256 + entry -/
  books    : Tbl Nat
  bookAsid : Tbl Nat
  /-- slot × 1024 + index -/
  resids   : Tbl Word
  residAsid : Tbl Nat
  queues   : Tbl (List (List Word))
  /-- the launch whose bobbin program filled the queues -/
  bobLaunch : Option Nat
  throttle : Throttle
  gates    : List GateArrival
  /-- memory instructions issued, for samples (spec/14 R349) -/
  memCount : Nat
  deriving DecidableEq, Repr

/-- A translation held by a cluster's TLB (spec/14 R328): virtual page and size, leaf fields, BLKLOG of a GEN leaf. -/
structure Tlb where
  asid   : Nat
  page   : Nat
  size   : Nat
  pa     : Nat
  leaf   : BitVec 64
  blklog : Nat
  deriving DecidableEq, Repr

/-- A cluster (spec/12). -/
structure Cluster where
  tlb      : List Tlb
  dbgctl   : BitVec 64
  dumpbase : BitVec 64
  frsva    : BitVec 64
  frsvb    : BitVec 64
  mhz      : Nat
  /-- keys of the lines its L2 holds, oldest first (spec/12 R285); their data is that of the coherent caches -/
  l2       : List Nat
  deriving DecidableEq, Repr

/-- The fields of a kernel header (spec/14 R336). -/
structure KHdr where
  flags  : Nat
  entry  : BitVec 32
  wcode  : Nat
  groups : Nat
  rw     : Nat
  rh     : Nat
  rk     : Nat
  vcnt   : Nat
  scnt   : Nat
  pcnt   : Nat
  tcnt   : Nat
  acnt   : Nat
  scratch : Nat
  localB : Nat
  sptab  : List (BitVec 32 × BitVec 32 × BitVec 32 × Nat)
  spgap  : Nat
  dstk   : Nat
  roles  : Nat
  handler : BitVec 32
  deriving DecidableEq, Repr

/-- How one workgroup of a launch stands when it is not placed (spec/14 R341, R343). -/
inductive WgRest
  | fresh
  | saved
  /-- discarded: per group its region entry clause and snapshot -/
  | discarded (groups : List (Nat × BitVec 64 × List (Nat × Word)))
  | placed
  | ended
  deriving DecidableEq, Repr

/-- What the device keeps of a saved group beside memory: how it was saved (true: by routine), its waits, lanes, region. -/
structure SavedGroup where
  grpid    : Nat
  routine  : Bool
  ended    : Bool
  launched : BitVec 64
  helper   : BitVec 64
  slot0    : Slot
  slot1    : Slot
  owners   : List Nat
  clause   : BitVec 32
  arrived  : List (Nat × BitVec 64)
  hadBelay : Bool
  clkCap   : List (Nat × BitVec 64)
  fmask    : BitVec 64
  ffirst   : BitVec 64
  faddr    : BitVec 64
  trapCause : Word
  inRegion : Bool
  regionEntry : BitVec 64
  snapshot : List (Nat × Word)
  /-- slot and flag of each barrier instruction that waits -/
  barFlags : List (Nat × Nat)
  deriving DecidableEq, Repr

/-- A workgroup of a launch (spec/14 R335, R341). -/
structure WgInfo where
  rest   : WgRest
  groups : List SavedGroup
  rounds : List Nat
  deriving DecidableEq, Repr

/-- A launch, or a fill task (spec/14 R334-R344, spec/16 R373). -/
structure Launch where
  asid     : Nat
  kernel   : BitVec 64
  hdr      : KHdr
  prio     : Nat
  args     : List Word
  localA   : BitVec 64
  dstkA    : BitVec 64
  saveA    : BitVec 64
  gx       : Nat
  gy       : Nat
  gz       : Nat
  nlaunch  : Nat
  wgs      : Tbl WgInfo
  /-- none while it runs -/
  status   : Option Nat
  queue    : Option (Nat × Nat)
  stallchk : Bool
  log      : Bool
  trace    : Bool
  /-- workgroups may be placed; false while pre-empted -/
  placeable : Bool
  preempting : Bool
  aged     : Bool
  accepted : Nat
  turns    : Nat
  /-- the tracker of a fill task -/
  fill     : Option Nat
  /-- cores its L1 lines were invalidated on -/
  cleaned  : List Nat
  /-- the rectangle kept for its waiting rope: cluster, column, row (spec/12 R289) -/
  rect     : Option (Nat × Nat × Nat)
  /-- the die's time since when its next workgroup or rope waits -/
  waitFrom : Nat
  /-- for how many clk of that wait the workgroup or rope has fitted somewhere (spec/14 R335) -/
  fitted   : Nat
  deriving DecidableEq, Repr

/-- A resident workgroup (spec/07 R196, spec/10 R271). -/
structure Wg where
  launch  : Nat
  linear  : Nat
  core    : Nat
  base    : Nat
  gran    : Nat
  rope    : Option Nat
  wgidx   : Nat
  cx      : Nat
  cy      : Nat
  present : BitVec 16
  rounds  : Tbl Nat
  deriving DecidableEq, Repr

/-- Why and where a rope stopped (spec/12 R297, R299). -/
structure RopeStop where
  cause  : Nat
  code   : Nat
  swg    : Nat
  sgrp   : Nat
  /-- the slot stopped before its instruction, by a watchpoint; 2 is none -/
  slot   : Nat
  ffirst : BitVec 64
  faddr  : BitVec 64
  clk    : Nat
  dumped : Bool
  held   : Nat
  ngrp   : Nat
  deriving DecidableEq, Repr

/-- A rope; a workgroup without a rope has one of its own for stops (spec/12 R286-R300). -/
structure Rope where
  launch  : Nat
  ropeId  : Nat
  cluster : Nat
  origin  : Nat
  w       : Nat
  h       : Nat
  k       : Nat
  wgs     : Tbl Nat
  real    : Bool
  pcount  : Tbl Nat
  stop    : Option RopeStop
  pend    : BitVec 16
  deriving DecidableEq, Repr

/-- A generated line in the last-level cache (spec/16 R360). -/
structure GenLine where
  asid   : Nat
  line   : Nat
  /-- its home, which its block decides (spec/16 R358) -/
  slice  : Nat
  poison : Bool
  data   : LineData
  pol    : Nat
  deriving DecidableEq, Repr

/-- A wait entry of a bivouac list (spec/16 R368). -/
structure Park where
  seq  : Nat
  core : Nat
  ctx  : Nat
  slot : Nat
  prio : Nat
  deriving DecidableEq, Repr

/-- A fill tracker (spec/16 R365). -/
structure Tracker where
  slice  : Nat
  asid   : Nat
  block  : Nat
  blklog : Nat
  genidx : Nat
  vpol   : Nat
  level  : Nat
  prio   : Nat
  launch : Option Nat
  decided : Bool
  fillv  : Nat
  /-- the record's VPOL, as read when the fill was launched -/
  recPol : Nat
  parks  : List Park
  posted : Nat
  table  : Nat
  count  : Nat
  record : Nat
  /-- the die's time when its priority last rose (spec/16 R371) -/
  risen  : Nat := 0
  deriving DecidableEq, Repr

/-- An outstanding replayable fault (spec/14 R332): kind 0 read, 1 write, 2 fetch. -/
structure OutFault where
  asid : Nat
  page : Nat
  kind : Nat
  seq  : Nat
  deriving DecidableEq, Repr

/-- A ring (spec/14 R330). -/
structure Ring where
  base : BitVec 64
  size : BitVec 64
  head : BitVec 64
  tail : BitVec 64
  vec  : BitVec 64
  off  : Bool
  /-- records waiting, oldest first -/
  wait : List (List Byte)
  deriving DecidableEq, Repr

/-- A packet the queue processor has started (spec/17 R400): its 64 bytes, its queue's ASID and its place as they were then. -/
structure Packet where
  q      : Nat
  idx    : Nat
  asid   : Nat
  va     : Nat
  body   : Nat
  /-- none until its effect has ended -/
  status : Option Nat
  launch : Option Nat
  chan   : Option Nat
  /-- rounded ranges of a DISPATCH: reads and writes, none for RANGES 0 -/
  ranges : Option (List (Nat × Nat) × List (Nat × Nat))
  /-- the page fault that holds it; that fault was declared unresolved -/
  held   : Option Nat
  fatal  : Bool
  done   : Bool
  /-- a BARRIER that has read its signals (spec/17 R400) -/
  begun  : Bool := false
  deriving DecidableEq, Repr

/-- A queue's run state inside the processor (spec/17 R401, R404). -/
structure QState where
  next    : Nat
  work    : Bool
  since   : Nat
  lane    : Option Nat
  started : Nat
  published : Nat
  pubSeen : Bool
  /-- the page fault that holds its next packet; that fault was declared unresolved -/
  held    : Option Nat
  fatal   : Bool
  /-- the QDONE word that waits for its −1, and its ASID -/
  qdone   : Option (Nat × Nat)
  /-- the page fault that holds that store; that fault was declared unresolved -/
  doneHeld  : Option Nat := none
  doneFatal : Bool := false
  /-- its next packet waits for an earlier one of the queue (spec/17 R404) -/
  blocked : Bool := false
  deriving DecidableEq, Repr

/-- What a miss or GPREF carries to a home (spec/16 R365, R386). -/
structure Req where
  core   : Nat
  ctx    : Nat
  slot   : Nat
  asid   : Nat
  va     : Nat
  genidx : Nat
  vpol   : Nat
  blklog : Nat
  level  : Nat
  prio   : Nat
  deriving DecidableEq, Repr

/-- An INVAL in progress: its packet, its ASID and range, and the GPREFs held meanwhile (spec/16 R387). -/
structure Inval where
  q    : Nat
  idx  : Nat
  asid : Nat
  lo   : Nat
  hi   : Nat
  prefs : List Req := []
  deriving DecidableEq, Repr

/-- On whose behalf an engine reaches memory: its core and cluster, group, ASID, fill level and priority, and what its records
carry (spec/10 R257, spec/12 R301). -/
structure EngWho where
  core   : Nat
  ctx    : Nat
  uid    : Nat
  slot   : Nat
  asid   : Nat
  level  : Nat
  prio   : Nat
  ffirst : BitVec 64
  stamp  : Nat
  /-- under which its requests to peers stand: its operation, or its channel; none for the queue processor and the device -/
  key    : Option Nat := none
  deriving DecidableEq, Repr

/-- A bulk channel (spec/10 R265-R267). -/
structure Chan where
  running : Bool
  err     : Bool
  cause   : Nat
  who     : EngWho
  recA    : Nat
  /-- the COPY packet it works for: queue and index -/
  byPacket : Option (Nat × Nat)
  /-- the page fault that holds it -/
  held    : Option Nat
  /-- of its record: 0 its bytes are not all copied, 1 they are, 2 its signal is done too; and what is kept of its units -/
  stage   : Nat
  parts   : List (Nat × List Byte)
  /-- it failed with this cause while its record's signal, at this address, may not be written yet (spec/10 R257, R266) -/
  dead    : Option (Nat × Nat) := none
  /-- the die's time when it last went idle (spec/17 R400) -/
  idleAt  : Nat := 0
  deriving DecidableEq, Repr

/-- A packet on its way out of a port, by its destination: a request for a line, a write, an atomic, a validation, a register access
(spec/17 R415), an interrupt message; an answer with data, with a register's value, an acknowledgement, a confirmation or a strike, an
error; or the slots of another device's packet (spec/19 R426-R431). -/
inductive PMsg
  | read (dev addr : Nat)
  | write (dev addr : Nat) (cells : List Host.Cell)
  | atomic (dev addr : Nat)
  | validate (dev addr ver : Nat)
  | reg (dev : Nat) (write : Bool) (addr v : Nat) (half : Bool)
  | msi (dev vec : Nat)
  | data (dev : Nat) (bytes : List Byte)
  | value (dev v : Nat)
  | ack (dev : Nat)
  | confirm (dev : Nat) (ok : Bool)
  | error (dev : Nat)
  | forward (slots : List Nat)
  deriving DecidableEq, Repr

/-- A fabric port (spec/19 R432-R434). -/
structure Port where
  state    : Nat
  width    : Nat
  faults   : Nat
  crcerr   : Nat
  replays  : Nat
  retrains : Nat
  lastAcc  : Nat
  nextSeq  : Nat
  unacked  : List (Nat × List Nat)
  naks     : Nat
  nakOf    : Nat
  fails    : Nat
  /-- packets accepted in order, and flits to send again -/
  accepted : List (List Nat)
  resend   : List Nat
  /-- packets that wait for a flit, requests with their number, and the flits sent -/
  outQ     : List (Option Nat × PMsg) := []
  sent     : List (List Nat) := []
  /-- it has left UP since the other last did: routes do not go back to it (spec/19 R426) -/
  lost     : Bool := false
  deriving DecidableEq, Repr

/-- A request to a peer of a group or an engine (spec/19 R429, R435): the port it goes by, its group's core and uid, its address, and
its place, device × 2^35 + byte. A write waits for its acknowledgement, and holds what its home has not performed yet; a read waits
for the peer's answer, with which its slot or engine reads the line. -/
structure PeerReq where
  id    : Nat
  port  : Nat
  core  : Nat
  uid   : Nat
  va    : Nat
  read  : Option (Nat × Nat) := none
  /-- the peer has answered the load or atomic -/
  back  : Bool := false
  tgt   : Nat := 0
  cells : List (Nat × Byte) := []
  /-- the engine operation or channel it belongs to -/
  op    : Option Nat := none
  /-- it has failed (spec/19 R435, R436) -/
  bad   : Bool := false
  /-- an atomic's -/
  atom  : Bool := false
  deriving DecidableEq, Repr

/-- Board-level life of the device (spec/17 R407, R410-R415). -/
structure Life where
  keyStore : Bool
  frozen   : Bool
  stopped  : Bool
  thermalTrip : Bool
  unlocked : Bool
  /-- DEVSEL straps -/
  straps   : Nat
  /-- host option N -/
  optN     : Bool
  /-- temperature grade E -/
  gradeE   : Bool
  cxlCache : Bool
  modules  : Nat
  gts      : Nat
  testPass : Bool
  deriving DecidableEq, Repr

/-- Who moves in a step: the model's own account of what the manual leaves to the device (notes/assumptions 2). -/
inductive Turn
  /-- a partition chooses and issues under R187 -/
  | issue (core part : Nat)
  /-- a slot arrived at a clause header takes the steps of R142 -/
  | arrive (core ctx slot : Nat)
  /-- an event of the device -/
  | event (i : Instr)
  /-- the L1 evicts a line -/
  | evictL1 (core asid line : Nat)
  /-- a line leaves a cluster's L2 -/
  | evictL2 (cluster asid line : Nat)
  /-- the TLB of a cluster drops a page -/
  | evictTlb (cluster asid page : Nat)
  /-- a line leaves the last-level cache: its version is lost -/
  | evictLlc (pline : Nat)
  /-- a risen priority reaches the groups of a tracker's fill task -/
  | passPrio (tracker : Nat)
  /-- a peer's acknowledgement of a write arrives -/
  | peerAck (id : Nat)
  /-- board memory has an uncorrectable error as the victim store inserts a line, or looks one up (false) -/
  | vsError (insert : Bool) (asid vline : Nat)
  /-- a line's data comes to hold an uncorrectable error, or holds one no longer -/
  | eccError (key : Nat) (on : Bool)
  /-- the host comes to answer accesses to a line of its memory with an error, or does so no longer -/
  | hostError (line : Nat) (on : Bool)
  /-- a peer performs the writes of a line that are on their way to it -/
  | peerPerform (pline : Nat)
  /-- a peer answers a request with an error -/
  | peerError (id : Nat)
  /-- a peer writes its own memory: device × 2^35 + address -/
  | peerWrite (addr : Nat) (bytes : List Byte)
  /-- a port sends a flit with so many of the packets that wait, or sends one again -/
  | flitSend (port n : Nat)
  /-- the oldest so many accepted slots of a port are a packet for another device -/
  | forward (port n : Nat)
  /-- every core of the other devices of the set has invalidated in the current belay round -/
  | peersRound
  /-- part k of a store-queue entry goes before the rest of it: a 16-byte unit, or a lane of an atomic -/
  | splitSq (core id k : Nat)
  /-- part k of an operation's transfer goes before the rest of it -/
  | movePart (core id k : Nat)
  /-- the next attempt of a slot's instruction reads this unit of its records before the rest -/
  | readFirst (core ctx slot unit : Nat)
  /-- part k of the record a channel walks is copied before the rest -/
  | chanPart (ch k : Nat)
  /-- a write goes on its way, as STORE_QUEUE_LEAVE says -/
  | drain (core which arg : Nat)
  /-- the L1's next allocations take these places -/
  | l1Next (core : Nat) (places : List Nat)
  deriving DecidableEq, Repr

/-- The stream whose instruction is executed, and the instruction's length in words as its fetch found it. -/
structure Cur where
  core : Nat
  ctx  : Nat
  slot : Nat
  len  : Nat
  /-- for a YIELD: the other streams of its partition eligible now, context × 2 + slot -/
  others : List Nat := []
  deriving DecidableEq, Repr

/-- The whole machine. -/
structure State where
  mem      : List Host.Cell
  peerMem  : List Host.Cell
  /-- keys of the lines whose data has an uncorrectable error now (spec/05 R147; log 68) -/
  eccBad   : List Nat
  versions : Tbl Nat
  verRound : Tbl Nat
  roundNo  : Nat
  roundSeen : List Nat
  /-- the other devices of an enabled fabric have invalidated in this round (spec/19 R431) -/
  roundPeers : Bool
  /-- lines of host memory whose accesses the host answers with an error (spec/14 R437) -/
  hostBad  : List Nat
  groups   : Tbl Group
  cores    : Tbl Core
  clusters : Tbl Cluster
  launches : Tbl Launch
  wgs      : Tbl Wg
  ropes    : Tbl Rope
  genLines : List GenLine
  trackers : Tbl Tracker
  parkSeq  : Tbl Nat
  genTables : Tbl (Nat × Nat)
  vsSeq    : BitVec 32
  faults   : List OutFault
  /-- write-backs of local lines held by a page fault: core, ASID, line, SEQ (spec/07 R438) -/
  wbHeld   : List (Nat × Nat × Nat × Nat)
  /-- writes and reads of save areas and dumps held by a page fault: SEQ, and the launch, or the rope of a dump (true) -/
  devHeld  : List (Nat × Nat × Bool)
  rings    : Tbl Ring
  rptSeq   : BitVec 32
  wps      : Tbl (BitVec 64 × BitVec 64)
  queues   : Tbl QState
  packets  : List Packet
  invals   : List Inval
  chans    : Tbl Chan
  ports    : Tbl Port
  peerReqs : List PeerReq
  devstate : BitVec 64
  plim     : BitVec 64
  qtabbase : BitVec 64
  ctxbase  : BitVec 64
  preempt  : BitVec 64
  cntbase  : BitVec 64
  sampper  : BitVec 64
  vsbase   : BitVec 64
  vssize   : BitVec 64
  vserr    : BitVec 64
  fabcfg   : BitVec 64
  /-- a FABCFG write with EN 0 that waits for requests in flight -/
  fabNext  : Option (BitVec 64)
  msix     : Tbl Word
  msiPend  : List Nat
  msiSent  : List Nat
  /-- the host's last access was answered with an error (spec/17 R409, R413) -/
  hostErr  : Bool
  /-- halves of write-only registers written by 4-byte accesses: register, low half, high half (spec/17 R409) -/
  halves   : Tbl (Word × Word)
  counters : Tbl Word
  swept    : Tbl Word
  life     : Life
  /-- the next number for ids, serials and uids: the model's own -/
  serial   : Nat
  agenda   : List Turn
  cur      : Cur
  stuck    : Option Fault
  deriving DecidableEq, Repr

/-- What a meaning answers. -/
abbrev Out := Host.Outcome State Fault Refusal

/-- The throttle right after reset: open (spec/07 R192). -/
def Throttle.reset : Throttle := ⟨none, 0, [], [], [], [], false, false, 0⟩

/-- A core right after reset. -/
def Core.reset : Core :=
  { clk := 0, boundary := 0, taking := 0, array := [], rowUse := [], l1 := [], l1Next := [], ports := [], wt := [], sq := [], ops := [], belay := [], vals := [],
    books := [], bookAsid := [], resids := [], residAsid := [], queues := [], bobLaunch := none, throttle := Throttle.reset, gates := [],
    memCount := 0 }

/-- A cluster right after reset: base camp runs at 800 MHz (spec/17 R411). -/
def Cluster.reset : Cluster :=
  { tlb := [], dbgctl := 0, dumpbase := 0, frsva := 0, frsvb := 0, mhz := 800, l2 := [] }

def Ring.reset : Ring := ⟨0, 0, 0, 0, 0, true, []⟩
def Chan.reset : Chan := ⟨false, false, 0, ⟨0, 0, 0, 0, 0, 0, 0, 0, 0, none⟩, 0, none, none, 0, [], none, 0⟩
def Port.reset : Port := ⟨0, 0, 0, 0, 0, 0, 0, 1, [], 0, 0, 0, [], [], [], [], false⟩
def QState.reset : QState := ⟨0, false, 0, none, 0, 0, false, none, false, none, none, false, false⟩
def Life.reset : Life :=
  { keyStore := true, frozen := false, stopped := false, thermalTrip := false, unlocked := false, straps := 0, optN := false,
    gradeE := false, cxlCache := false, modules := 0, gts := 0, testPass := false }

/-- The machine right after a cold reset with firmware authenticated: base camp, every register of R409 at its reset value,
no group, no launch, memory with nothing listed (spec/17 R409, R410). -/
def State.reset : State :=
  { mem := [], peerMem := [], eccBad := [], versions := [], verRound := [], roundNo := 0, roundSeen := [], roundPeers := false, hostBad := [], groups := [], cores := [],
    clusters := [], launches := [], wgs := [], ropes := [], genLines := [], trackers := [], parkSeq := [], genTables := [],
    vsSeq := 0, faults := [], wbHeld := [], devHeld := [], rings := [], rptSeq := 0, wps := [], queues := [], packets := [], invals := [], chans := [], ports := [],
    peerReqs := [], devstate := 1, plim := 600, qtabbase := 0, ctxbase := 0, preempt := 0, cntbase := 0, sampper := 0,
    vsbase := 0, vssize := 0, vserr := 0, fabcfg := 0, fabNext := none, msix := [], msiPend := [], msiSent := [], hostErr := false, halves := [],
    counters := [], swept := [], life := Life.reset, serial := 0, agenda := [], cur := ⟨0, 0, 0, 1, []⟩, stuck := none }

end Sys2Proof.Machine
end

