-- ==== Sys2Proof/Machine/Table.lean ====
section
/-! DEFINITION. Tables: pairs sorted by key; and memory, a table of bytes in which no listed byte is 0 (log 1). -/

namespace Sys2Proof.Machine

/-- The value at a key, if listed. -/
def Tbl.look {α : Type} : Tbl α → Nat → Option α
  | [], _ => none
  | (j, v) :: r, k => if j = k then some v else Tbl.look r k

/-- The value at a key, or the default. -/
def Tbl.lookD {α : Type} (t : Tbl α) (d : α) (k : Nat) : α := (t.look k).getD d

/-- Set a key, keeping the keys rising. -/
def Tbl.put {α : Type} : Tbl α → Nat → α → Tbl α
  | [], k, v => [(k, v)]
  | (j, w) :: r, k, v =>
    if k < j then (k, v) :: (j, w) :: r
    else if j = k then (k, v) :: r
    else (j, w) :: Tbl.put r k v

/-- Remove a key, wherever it is listed. -/
def Tbl.del {α : Type} : Tbl α → Nat → Tbl α
  | [], _ => []
  | (j, w) :: r, k => if j = k then Tbl.del r k else (j, w) :: Tbl.del r k

/-- Set a key whose default is d: the default itself is not listed. -/
def Tbl.putD {α : Type} [DecidableEq α] (t : Tbl α) (d : α) (k : Nat) (v : α) : Tbl α :=
  if v = d then t.del k else t.put k v

/-- Set several keys whose default is d, in order. -/
def Tbl.putAll {α : Type} [DecidableEq α] (t : Tbl α) (d : α) (l : List (Nat × α)) : Tbl α :=
  l.foldl (fun t x => t.putD d x.1 x.2) t

/-- Apply a function to a listed value. -/
def Tbl.adjust {α : Type} (t : Tbl α) (k : Nat) (f : α → α) : Tbl α :=
  match t.look k with
  | none => t
  | some v => t.put k (f v)

/-- Apply a function to every value, which may use the key. -/
def Tbl.mapAll {α : Type} (t : Tbl α) (f : Nat → α → α) : Tbl α := t.map (fun x => (x.1, f x.1 x.2))

/-- The n values from a key on, with the default for those not listed; the table begins at that key or above. -/
def Tbl.dense {α : Type} (d : α) : Nat → Nat → Tbl α → List α
  | 0, _, _ => []
  | n + 1, k, [] => d :: Tbl.dense d n (k + 1) []
  | n + 1, k, (j, v) :: r => if j = k then v :: Tbl.dense d n (k + 1) r else d :: Tbl.dense d n (k + 1) ((j, v) :: r)

/-- The values at keys lo to lo + n − 1. -/
def Tbl.range {α : Type} (t : Tbl α) (d : α) (lo n : Nat) : List α := Tbl.dense d n lo (t.filter (fun x => decide (lo ≤ x.1)))

/-- Replace the values at the keys from lo on by a list. -/
def Tbl.setRange {α : Type} [DecidableEq α] (t : Tbl α) (d : α) (lo : Nat) (vs : List α) : Tbl α :=
  t.filter (fun x => decide (x.1 < lo)) ++ ((vs.zipIdx lo).filterMap (fun x => if x.1 = d then none else some (x.2, x.1))) ++
  t.filter (fun x => decide (lo + vs.length ≤ x.1))

/-- Keys strictly rising. -/
def Tbl.sorted {α : Type} : Tbl α → Bool
  | [] => true
  | [_] => true
  | a :: b :: r => decide (a.1 < b.1) && Tbl.sorted (b :: r)

/-- Memory in canonical form: addresses strictly rising, no listed byte 0. -/
def Memory.wf (m : List Host.Cell) : Bool := Tbl.sorted m && m.all (fun c => c.2 != 0)

/-- What an address reads as: an unlisted one reads 0 (log 1). -/
def Memory.read (m : List Host.Cell) (a : Nat) : Byte := Tbl.lookD m 0 a

/-- Write one byte. -/
def Memory.write (m : List Host.Cell) (a : Nat) (b : Byte) : List Host.Cell := Tbl.putD m 0 a b

/-- Write cells in order. -/
def Memory.writes (m : List Host.Cell) (cells : List (Nat × Byte)) : List Host.Cell :=
  cells.foldl (fun m c => Memory.write m c.1 c.2) m

/-- n bytes of a number, lowest first (spec/00 R6). -/
def leBytes : Nat → Nat → List Byte
  | 0, _ => []
  | n + 1, x => BitVec.ofNat 8 x :: leBytes n (x / 256)

/-- The number little-endian bytes stand for. -/
def leNat : List Byte → Nat
  | [] => 0
  | b :: bs => b.toNat + 256 * leNat bs

/-- Bytes laid out from an address on. -/
def cellsFrom : Nat → List Byte → List (Nat × Byte)
  | _, [] => []
  | a, b :: bs => (a, b) :: cellsFrom (a + 1) bs

/-- The numbers of the bits that are set. -/
def lanesOf (m : DWord) : List Nat := (List.range 64).filter (fun i => m.getLsbD i)

/-- The mask with these bits set. -/
def maskOf (ls : List Nat) : DWord := ls.foldl (fun m l => m ||| ((1 : DWord) <<< l)) 0

/-- Bits lo to lo + n − 1 of a number. -/
def bits (x lo n : Nat) : Nat := x / 2 ^ lo % 2 ^ n

/-- A list without repeats, first occurrences kept. -/
def dedup : List Nat → List Nat
  | [] => []
  | x :: xs => x :: (dedup xs).filter (fun y => y != x)

/-- Element k of a list replaced. -/
def setNth {α : Type} : List α → Nat → α → List α
  | [], _, _ => []
  | _ :: xs, 0, v => v :: xs
  | x :: xs, n + 1, v => x :: setNth xs n v

end Sys2Proof.Machine
end

