-- ==== Sys2Proof/Machine/Ops.lean ====
section
/-! DEFINITION. The named operations over the state: registers, groups, coherent memory, records, the end of a launch, taking
a trap and returning from one, and the operations in flight. -/

namespace Sys2Proof.Machine

/-! Places -/

/-- Key of a context of a core in State.groups; context 64 is the bobbin slot (spec/07 R185). -/
def gkey (core ctx : Nat) : Nat := core * 65 + ctx

def State.core (s : State) (c : Nat) : Core := s.cores.lookD Core.reset c
def State.modCore (s : State) (c : Nat) (f : Core → Core) : State := { s with cores := s.cores.put c (f (s.core c)) }
def State.cluster (s : State) (k : Nat) : Cluster := s.clusters.lookD Cluster.reset k
def State.modCluster (s : State) (k : Nat) (f : Cluster → Cluster) : State :=
  { s with clusters := s.clusters.put k (f (s.cluster k)) }
def State.group? (s : State) (c ctx : Nat) : Option Group := s.groups.look (gkey c ctx)
def State.modGroup (s : State) (c ctx : Nat) (f : Group → Group) : State :=
  { s with groups := s.groups.adjust (gkey c ctx) f }
def Group.slotOf (g : Group) (n : Nat) : Slot := if n = 0 then g.slot0 else g.slot1
def Group.setSlot (g : Group) (n : Nat) (sl : Slot) : Group := if n = 0 then { g with slot0 := sl } else { g with slot1 := sl }
def State.modSlot (s : State) (c ctx n : Nat) (f : Slot → Slot) : State :=
  s.modGroup c ctx (fun g => g.setSlot n (f (g.slotOf n)))
def State.modLaunch (s : State) (l : Nat) (f : Launch → Launch) : State := { s with launches := s.launches.adjust l f }
def State.modWg (s : State) (w : Nat) (f : Wg → Wg) : State := { s with wgs := s.wgs.adjust w f }
def State.modRope (s : State) (r : Nat) (f : Rope → Rope) : State := { s with ropes := s.ropes.adjust r f }
def clusterOf (core : Nat) : Nat := core / 16

/-- The lanes of the group that have not exited (spec/02 R42). -/
def Group.live (g : Group) : DWord := g.launched ||| g.helper

/-- An empty slot (spec/02 R54). -/
def Slot.free : Slot :=
  { valid := false, clause := 0, pos := 0, pc := 0, hdr := 0, phase := .arrive, mask := 0, reconv := 0, readyAt := 0, wait := .none,
    replay := none, lastIssue := 0, eligSince := none, promoted := false, psamp := none, passed := 0,
    atStop := false, noWatch := false, afterBarwg := false, safePast := false, tretLanes := none, fatal := false, kept := none, bpast := false,
    readNext := none, got := [] }

/-- The fields of a kernel header of zeros. -/
def KHdr.zero : KHdr := ⟨0, 0, 0, 0, 0, 0, 0, 0, 0, 0, 0, 0, 0, 0, [], 0, 0, 0, 0⟩

def State.khdr (s : State) (l : Nat) : KHdr := match s.launches.look l with | some x => x.hdr | none => KHdr.zero
def State.asid (s : State) (l : Nat) : Nat := match s.launches.look l with | some x => x.asid | none => 0

/-- A code address from a signed offset in 4-byte units from the kernel header (spec/03 R65). -/
def codeAddr (kernel : DWord) (off : BitVec 32) : DWord := kernel + (off.signExtend 64 <<< 2)

/-- The offset in 4-byte units of a code address. -/
def codeOff (kernel a : DWord) : BitVec 32 := ((a - kernel).sshiftRight 2).setWidth 32

/-! Counters (spec/14 R347) and records (spec/14 R330, R331; spec/12 R301) -/

def State.count (s : State) (unit event n : Nat) : State :=
  let k := unit * 256 + event
  { s with counters := s.counters.putD 0 k (s.counters.lookD 0 k + BitVec.ofNat 32 n) }

/-- A ring is on: a base, and a power of two of records from 64 to 65,536. -/
def Ring.on (r : Ring) : Bool :=
  r.base != 0 && (List.range 11).any (fun k => r.size.toNat == 64 * 2 ^ k) && !r.off

/-- Hand a record to a ring. Sample and trace records of a ring that is off are dropped and counted. -/
def State.ringPut (s : State) (k : Nat) (rec : List Byte) : State :=
  let r := s.rings.lookD Ring.reset k
  if k = 0 ∨ r.on then { s with rings := s.rings.put k { r with wait := r.wait ++ [rec] } }
  else if k = 3 then s
  else s.count 268 4 1

/-- The rope stamp of a group's slot (spec/12 R301). -/
def State.stamp (s : State) (c : Nat) (g : Group) (n : Nat) (exited : Bool) : Nat :=
  let base := (if exited then 1 else 0) + 2 * n + 128 * g.grpid + 65536 * c + 2 ^ 28 * clusterOf c
  match s.wgs.look g.wg with
  | none => base + 2 ^ 32 * 0xFFFFFFFF
  | some w =>
    match w.rope.bind s.ropes.look with
    | none => base + 2 ^ 32 * 0xFFFFFFFF
    | some r =>
      if r.real then
        base + 2048 * w.wgidx + 2 ^ 32 * r.ropeId
          + ((List.range 4).map (fun i => 2 ^ (64 + 16 * i) * (r.pcount.lookD 0 i % 65536))).sum
      else base + 2 ^ 32 * 0xFFFFFFFF

/-- Write a report record (spec/14 R331); answers the state, the record's SEQ standing in s.rptSeq before. -/
def State.report (s : State) (type cause asid : Nat) (faddr ffirst : DWord) (status flags stamp clk : Nat) : State :=
  { s with rptSeq := s.rptSeq + 1 }.ringPut 0
    (leBytes 1 type ++ leBytes 1 cause ++ leBytes 2 asid ++ leBytes 4 s.rptSeq.toNat ++ leBytes 8 faddr.toNat
      ++ leBytes 8 ffirst.toNat ++ leBytes 4 status ++ leBytes 4 flags ++ leBytes 16 stamp ++ leBytes 8 clk ++ leBytes 8 0)

/-! Coherent memory (spec/13 R305, R306; spec/06 R170, R180; spec/14 R437) -/

/-- Key of a physical line in the version tables: own lines, then the peers'. -/
def lineKey (peer : Bool) (line : Nat) : Nat := if peer then 2 ^ 50 + line else line

/-- The die's time for waits that no core counts: the largest CLK (log 22). -/
def State.dieClk (s : State) : Nat := s.cores.foldl (fun m k => max m k.2.clk) 0

def State.baseCamp (s : State) : Bool := s.devstate.toNat % 16 == 1
/-- The device has no memory at this physical address (spec/17 R411). -/
def State.hole (s : State) (a : Nat) : Bool := s.baseCamp && decide (2 ^ 26 ≤ a) && decide (a < 2 ^ 35)
/-- The physical address is host memory (spec/14 R437). -/
def isHost (a : Nat) : Bool := decide (2 ^ 35 ≤ a)
/-- Host memory answers: option A, and CXL.cache trained (spec/14 R437). -/
def State.hostOk (s : State) : Bool := s.life.cxlCache && !s.life.optN
/-- An access to this address ends as one the host answers with an error (spec/14 R437). -/
def State.hostFails (s : State) (a : Nat) : Bool := isHost a && (!s.hostOk || s.hostBad.contains (a / 128))

def State.byteAt (s : State) (peer : Bool) (a : Nat) : Byte := Memory.read (if peer then s.peerMem else s.mem) a
def State.bytesAt (s : State) (peer : Bool) (a n : Nat) : List Byte := (List.range n).map (fun i => s.byteAt peer (a + i))
def State.numAt (s : State) (peer : Bool) (a n : Nat) : Nat := leNat (s.bytesAt peer a n)

/-- The monitors armed on a line fire; a slot in AWAIT is released, which sets the monitor IDLE (spec/06 R179, R180). -/
def Group.fire (g : Group) : Group :=
  let waits (sl : Slot) : Bool := match sl.wait with | .await _ => true | _ => false
  let wake (sl : Slot) : Slot := if waits sl then { sl with wait := .none } else sl
  match g.monitor with
  | .armed _ _ =>
    if waits g.slot0 || waits g.slot1 then { g with monitor := .idle, slot0 := wake g.slot0, slot1 := wake g.slot1 }
    else { g with monitor := .fired }
  | _ => g

/-- A line is written, or its L2 copies go: they are gone, and the monitors armed on it fire (spec/06 R180, spec/12 R285). -/
def State.fireLine (s : State) (k : Nat) : State :=
  { s with groups := s.groups.mapAll (fun _ g => match g.monitor with
             | .armed _ l => if l = k then g.fire else g
             | _ => g),
           clusters := s.clusters.mapAll (fun _ c => { c with l2 := c.l2.filter (fun x => x != k) }) }

/-! The last-level cache and the victim store (spec/00 R4; spec/16 R358, R382-R385) -/

/-- Key of a generated line in the version tables and for monitors: no physical line has it. -/
def genKey (asid vline : Nat) : Nat := 2 ^ 61 + asid * 2 ^ 50 + vline

def State.genLine? (s : State) (asid vline : Nat) : Option GenLine :=
  s.genLines.find? (fun l => l.asid == asid && l.line == vline)
def State.dropGen (s : State) (asid vline : Nat) : State :=
  { s with genLines := s.genLines.filter (fun l => !(l.asid == asid && l.line == vline)) }

def State.vsSteps (s : State) : Nat := bits s.vssize.toNat 0 9
def State.vsBase (s : State) : Nat := bits s.vsbase.toNat 26 26 * 2 ^ 26
def State.vsSet (s : State) (asid vline : Nat) : Nat := (vline ^^^ (asid * 128)) % (28672 * s.vsSteps)
def State.vsDir (s : State) (set w : Nat) : Nat := s.vsBase + 7 * (2 ^ 26 * s.vsSteps) / 8 + 256 * set + 16 * w
def State.vsData (s : State) (set w : Nat) : Nat := s.vsBase + 2048 * set + 128 * w

/-- A directory entry names a line of an ASID (spec/16 R383). -/
def vsNames (e asid vline : Nat) : Bool := e.testBit 0 && bits e 7 50 == vline && bits e 80 16 == asid

/-- The way that holds a line, and the policy of its entry. -/
def State.vsFind (s : State) (asid vline : Nat) : Option (Nat × Nat) :=
  if s.vsSteps = 0 then none else
  let set := s.vsSet asid vline
  ((List.range 16).map (fun w => (w, s.numAt false (s.vsDir set w) 16))).findSome? (fun x =>
    if vsNames x.2 asid vline then some (x.1, bits x.2 64 2) else none)

/-- A line's 1,024 bits from its 128 bytes. -/
def lineOf (bs : List Byte) : LineData := BitVec.ofNat 1024 (leNat bs)
def lineBytes (d : LineData) : List Byte := leBytes 128 d.toNat

/-- Insert a line, unless an entry holds it: in a free way, else in the way with the oldest SEQ (spec/16 R384). -/
def State.vsInsert (s : State) (asid vline : Nat) (d : LineData) (pol : Nat) : State :=
  if s.vsSteps = 0 ∨ (s.vsFind asid vline).isSome then s else
  let set := s.vsSet asid vline
  let es := (List.range 16).map (fun w => (w, s.numAt false (s.vsDir set w) 16))
  let w := match es.find? (fun x => !x.2.testBit 0) with
    | some x => x.1
    | none =>
      let age (e : Nat) : Nat := (s.vsSeq.toNat + 2 ^ 32 - bits e 96 32) % 2 ^ 32
      (es.foldl (fun b x => if age x.2 > b.2 then (x.1, age x.2) else b) (0, 0)).1
  let e := 1 + vline * 128 + pol * 2 ^ 64 + asid * 2 ^ 80 + s.vsSeq.toNat * 2 ^ 96
  { s with mem := Memory.writes s.mem (cellsFrom (s.vsDir set w) (leBytes 16 e) ++ cellsFrom (s.vsData set w) (lineBytes d)),
           vsSeq := s.vsSeq + 1 }.count 268 3 5

/-- A line leaves the last-level cache: VALID lines by their policy, PIN as
KEEP does; its L2 copies go, which fires monitors
(spec/16 R384; spec/06 R180). -/
def State.leaveGen (s : State) (asid vline : Nat) : State :=
  match s.genLine? asid vline with
  | none => s
  | some l =>
    let s := (s.dropGen asid vline).fireLine (genKey asid vline)
    if l.poison ∨ l.pol = 1 then s else s.vsInsert asid vline l.data l.pol

/-- An ordinary line leaves the last-level cache: its version is lost, its L2 copies go (spec/06 R170, R180). -/
def State.leaveLine (s : State) (key : Nat) : State :=
  { s with versions := s.versions.del key, verRound := s.verRound.del key }.fireLine key

/-- The slice and set of an ordinary line, by its key, and of a generated one. -/
def llcSetOf (key : Nat) : Nat × Nat := (Config.homeSlice 0 key % 64, Config.llcSet 65536 key % 8192)
def GenLine.llcSet (l : GenLine) : Nat × Nat := (l.slice, Config.llcSet l.asid l.line % 8192)

/-- Make room in a set of sixteen ways: a line that is not marked PIN leaves a full one (spec/16 R358, R384). Lines of peers have
their homes elsewhere. -/
def State.llcRoom (s : State) (place : Nat × Nat) : State :=
  if s.versions.length + s.genLines.length < 16 then s else
  let own := (s.versions.filter (fun v => decide (v.1 < 2 ^ 50) && llcSetOf v.1 == place)).map (fun v => v.1)
  let gens := s.genLines.filter (fun l => l.llcSet == place)
  if own.length + gens.length < 16 then s else
  let free := gens.filter (fun l => l.poison || l.pol != 3)
  let i := Config.evictedWay s.serial % (own.length + free.length)
  match own[i]? with
  | some k => s.leaveLine k
  | none => match free[i - own.length]? with
    | some l => s.leaveGen l.asid l.line
    | none => s

/-- The die event of 32-byte sectors of GDDR-7 read or written (spec/14 R347; log 69). -/
def State.sectors (s : State) (n : Nat) : State := if n = 0 then s else s.count 268 3 n

/-- A line enters the last-level cache at version 4,095 (spec/06 R170): its four sectors are read, if it is a line of this
device's GDDR-7 (spec/14 R347). -/
def State.enterLine (s : State) (k : Nat) : State :=
  match s.versions.look k with
  | some _ => s
  | none =>
    let s := if k < 2 ^ 50 then s.llcRoom (llcSetOf k) else s
    { s with versions := s.versions.put k 4095, verRound := s.verRound.put k s.roundNo }.sectors (if k < 2 ^ 28 then 4 else 0)

/-- An access reaches the home of an own or host line: a hit or a miss of its slice (spec/14 R347). The home of a peer's line is the
peer's. -/
def State.reachHome (s : State) (key : Nat) : State :=
  (if key < 2 ^ 50 then s.count (204 + (llcSetOf key).1) (if (s.versions.look key).isSome then 0 else 1) 1 else s).enterLine key

/-- The home performs a write to the line, or grants permission for one (spec/06 R170). -/
def State.bumpLine (s : State) (k : Nat) : State :=
  let s := s.enterLine k
  let v := s.versions.lookD 4095 k
  if v < 4095 then
    { s with versions := s.versions.put k (v + 1),
             verRound := if v + 1 = 4095 then s.verRound.put k s.roundNo else s.verRound }
  else if s.verRound.lookD 0 k + 2 ≤ s.roundNo then { s with versions := s.versions.put k 0 }
  else s

/-- A line enters a cluster's L2 of 6 MiB; a full L2 lets one go (spec/00 R4, spec/12 R285). -/
def State.l2Enter (s : State) (cl key : Nat) : State :=
  let have_ := (s.cluster cl).l2
  let s := if have_.length < 49152 then s else
    match have_[Config.evictedWay s.serial % have_.length]? with
    | some k =>
      { s with groups := s.groups.mapAll (fun i g => match g.monitor with
          | .armed _ l => if l = k ∧ clusterOf (i / 65) = cl then g.fire else g
          | _ => g) }.modCluster cl (fun c => { c with l2 := c.l2.filter (fun x => x != k) })
    | none => s
  s.modCluster cl (fun c => { c with l2 := c.l2 ++ [key] })

/-- A cluster reaches an ordinary line at the coherent caches: an L2 hit, or an L2 miss that hits or misses at its home
(spec/14 R347). No L2 holds a line of a peer (spec/19 R427). -/
def State.reachLine (s : State) (cl key : Nat) : State :=
  if 2 ^ 50 ≤ key then s.enterLine key
  else if (s.cluster cl).l2.contains key then s.count (192 + cl) 0 1
  else ((s.count (192 + cl) 1 1).reachHome key).l2Enter cl key

/-- Sectors of this device's GDDR-7 that some bytes lie in. -/
def gddrSectors (peer : Bool) (cells : List (Nat × Byte)) : Nat :=
  if peer then 0 else (dedup ((cells.filter (fun c => decide (c.1 < 2 ^ 35))).map (fun c => c.1 / 32))).length

/-- Bytes written at the coherent caches: memory, versions and monitors. An address at which no memory exists stops the run. -/
def State.cohWrite (s : State) (peer : Bool) (cells : List (Nat × Byte)) : State :=
  let s := (dedup (cells.map (fun c => lineKey peer (c.1 / 128)))).foldl (fun s k => (s.bumpLine k).fireLine k) s
  let s := s.sectors (gddrSectors peer cells)
  let s := if !peer && cells.any (fun c => s.hole c.1) then { s with stuck := some .noMemory } else s
  if peer then { s with peerMem := Memory.writes s.peerMem cells } else { s with mem := Memory.writes s.mem cells }

/-- What is on its way to a peer's line is performed there, in order: requests for one line travel one ordered path
(spec/19 R426, R429). -/
def State.land (s : State) (pline : Nat) : State :=
  let mine (r : PeerReq) : Bool := r.tgt / 128 == pline && r.cells != []
  if !s.peerReqs.any mine then s else
  (s.peerReqs.filter mine).foldl (fun s r => s.cohWrite true r.cells)
    { s with peerReqs := s.peerReqs.map (fun (r : PeerReq) => if r.tgt / 128 = pline then { r with cells := [] } else r) }

/-- The requests left once a slot has used what peers answered it. -/
def State.reqsAfter (s : State) (uid n : Nat) : List PeerReq :=
  s.peerReqs.filter (fun r => !(r.back && r.uid == uid && r.op.isNone && r.read.any (fun x => x.1 == n)))

/-- A slot has used what peers answered it. -/
def State.forget (s : State) (uid n : Nat) : State := { s with peerReqs := s.reqsAfter uid n }

/-- Under which the requests of an operation, or of a channel, stand. -/
def opKey (id : Nat) : Nat := 2 * id
def chanKey (ch : Nat) : Nat := 2 * ch + 1

/-- An operation or channel has used what peers answered it; its writes stay on their way. -/
def State.forgetOp (s : State) (key : Nat) : State :=
  { s with peerReqs := s.peerReqs.filter (fun r => !(r.op == some key && (r.read.isSome || r.bad))) }

/-- Bytes written through a cluster's L2, which then holds their lines (spec/12 R285, spec/13 R305); a peer's lines are written at
their home (spec/19 R427). -/
def State.l2Write (s : State) (cl : Nat) (peer : Bool) (cells : List (Nat × Byte)) : State :=
  if peer then ((dedup (cells.map (fun c => c.1 / 128))).foldl State.land s).cohWrite true cells else
  let keys := dedup (cells.map (fun c => lineKey peer (c.1 / 128)))
  keys.foldl (fun s k => s.l2Enter cl k) ((keys.foldl (fun s k => s.reachLine cl k) s).cohWrite peer cells)

/-- Bytes of uncached pages are written at their home (spec/14 R327). -/
def State.homeWrite (s : State) (cells : List (Nat × Byte)) : State :=
  ((dedup (cells.map (fun c => c.1 / 128))).foldl State.reachHome s).cohWrite false cells

/-- A belay round ends when every core has invalidated in it: the 192 here and, with the fabric enabled, those of every device of
the set (spec/06 R170, spec/19 R431). -/
def State.roundEnd (s : State) : State :=
  if s.roundSeen.length = 192 ∧ (!s.fabcfg.getLsbD 12 || s.roundPeers) = true then
    { s with roundNo := s.roundNo + 1, roundSeen := [], roundPeers := false }
  else s

/-- A core has invalidated its clean global lines: one step of the belay round (spec/06 R170). -/
def State.roundStep (s : State) (c : Nat) : State :=
  { s with roundSeen := if s.roundSeen.contains c then s.roundSeen else s.roundSeen ++ [c] }.roundEnd

/-- Every core of the other devices of the set has invalidated in this round (spec/19 R431). -/
def State.peersRound (s : State) : State :=
  if s.fabcfg.getLsbD 12 then { s with roundPeers := true }.roundEnd else s

/-! Operations in flight -/

def RegWrite.same (a b : RegWrite) : Bool := a.cls == b.cls && a.reg == b.reg && a.lane == b.lane

/-- A number that names a register's lane, for free values. -/
def RegWrite.key (w : RegWrite) : Nat := ((match w.cls with | .v => 0 | .s => 1 | .p => 2) * 512 + w.reg) * 64 + w.lane

def Group.write (g : Group) (w : RegWrite) : Group :=
  match w.cls with
  | .v => { g with v := g.v.putD 0 (w.reg * 64 + w.lane) w.val }
  | .s => { g with s := g.s.putD 0 w.reg w.val }
  | .p =>
    let m := g.p.lookD 0 w.reg
    let b : DWord := 1 <<< w.lane
    { g with p := g.p.putD 0 w.reg (if w.val.getLsbD 0 then m ||| b else m &&& ~~~b) }

/-- The group an operation belongs to, if it is still there. -/
def State.opGroup (s : State) (c : Nat) (o : Op) : Option Group :=
  match s.group? c o.ctx with
  | some g => if g.uid = o.uid then some g else none
  | none => none

/-- Raise and lower a completion flag (spec/02 R56). -/
def Group.flagUp (g : Group) (f : Option Nat) : Group :=
  match f with
  | none => g
  | some n => { g with flags := g.flags.putD 0 n (g.flags.lookD 0 n + 1) }
def Group.flagDown (g : Group) (f : Option Nat) : Group :=
  match f with
  | none => g
  | some n => { g with flags := g.flags.putD 0 n (g.flags.lookD 0 n - 1) }

/-- An operation will still write a register in a lane; an S register has one value for all lanes. -/
def Op.writesTo (o : Op) (cls : RegCls) (reg lane : Nat) : Bool :=
  o.writes.any (fun w => w.cls == cls && w.reg == reg && (cls == .s || w.lane == lane)) ||
  o.dests.any (fun d => d.1 == cls && d.2.1 == reg && (cls == .s || d.2.2.getLsbD lane))

/-- The writes that land when the operation completes: those no other write has replaced for good (spec/03 R73, R74). -/
def Op.lands (o : Op) : List RegWrite := o.writes.filter (fun w => !o.dropped.contains w.key)

/-- Of o's write, landing now, and p's, to the same lane of a register and not yet done, o's is the one left: an older fixed-latency
write of the same stream never lands after it (spec/03 R73); of a fixed-latency and a long-latency write, and of a write and one
issued before it that completes later, Config.lateWriteWins says whether the long-latency, or later completed, one is left
(spec/03 R74; log 5). -/
def stays (o p : Op) (key : Nat) : Bool :=
  match o.due.isSome, p.due.isSome with
  | true, true => decide (p.id < o.id) && (p.slot == o.slot || !Config.lateWriteWins p.serial key)
  | true, false => !Config.lateWriteWins p.serial key
  | false, true => Config.lateWriteWins o.serial key
  | false, false => decide (p.id < o.id) && !Config.lateWriteWins p.serial key

/-- What a completion settles for another operation of its group, which may yet have to learn the values it writes: a value
overtaken by this later write is seen by no reader before it lands, and the write that stays keeps the other from landing
(spec/03 R73, R74). -/
def settle (o p : Op) : Op :=
  if p.ctx = o.ctx ∧ p.uid = o.uid then
    let keys := (o.lands.filter (fun w => p.writesTo w.cls w.reg w.lane)).map RegWrite.key
    { p with hidden := if p.id < o.id then p.hidden ++ keys else p.hidden, dropped := p.dropped ++ keys.filter (stays o p) }
  else p

/-- Complete an operation: its writes, its FPSR flags, its completion flag (spec/02 R56, R58; spec/01 R36). -/
def State.complete (s : State) (c : Nat) (o : Op) : State :=
  let s := (s.forgetOp (opKey o.id)).modCore c (fun k => { k with ops := (k.ops.filter (fun p => p.id != o.id)).map (settle o) })
  match s.opGroup c o with
  | none => s
  | some _ => s.modGroup c o.ctx (fun g =>
      let g := o.lands.foldl Group.write g
      { g with fpsr := Flg.into g.fpsr o.fl }.flagDown o.flag)

def State.findOp (s : State) (c id : Nat) : Option Op := (s.core c).ops.find? (fun o => o.id == id)
def State.setOp (s : State) (c : Nat) (o : Op) : State :=
  s.modCore c (fun k => { k with ops := k.ops.map (fun p => if p.id = o.id then o else p) })
def State.dropOp (s : State) (c id : Nat) : State := (s.forgetOp (opKey id)).modCore c (fun k => { k with ops := k.ops.filter (fun p => p.id != id) })

/-- Operations with no destination among registers, tiles and accumulators outlive their group (spec/02 R49). -/
def What.toMemory : What → Bool
  | .store => true
  | .logfl => true
  | .copy _ => true
  | .chain _ _ => true
  | .fillc _ _ => true
  | .topk _ _ _ _ _ _ => true
  | .resid _ _ _ _ => true
  | _ => false

/-! The end of groups, workgroups and launches -/

/-- Free every belay entry of a context; a validation of one, wherever it is, reaches no entry any more (spec/06 R173,
spec/07 R203). -/
def Core.freeBelay (k : Core) (ctx : Nat) : Core :=
  { k with vals := k.vals.map (fun v => match k.belay.look v.index with
      | some b => if b.ctx = ctx ∧ b.state ≠ 0 then { v with index := 256 } else v
      | none => v)
           belay := k.belay.mapAll (fun _ b => if b.ctx = ctx ∧ b.state ≠ 0 then
      { b with state := 0, count := 0, sbit := false, genr := (b.genr + 1) % 4 } else b) }

/-! The permitted groups of the load throttle (spec/07 R192, R193) -/

/-- The resident ordinary groups of a core, by context, in order of their start. -/
def State.ordinary (s : State) (c : Nat) : List Nat :=
  let gs := (s.groups.filter (fun x => x.1 / 65 == c && x.1 % 65 != 64 && !x.2.fillTask && !x.2.ended)).map
    (fun x => (x.2.startedAt, x.1 % 65))
  let before (x y : Nat × Nat) : Bool := decide (x.1 < y.1) || (x.1 == y.1 && decide (x.2 < y.2))
  (gs.foldl (fun l x => l.takeWhile (fun y => before y x) ++ [x] ++ l.dropWhile (fun y => before y x)) []).map (fun x => x.2)

/-- The permitted set brought to n members of the groups in start order: the latest-started leave, the earliest-started held-back
ones join, after those already there. -/
def permitted (order now : List Nat) (n : Nat) : List Nat :=
  let have_ := now.filter (fun x => order.contains x)
  if n ≤ have_.length then
    let stay := (order.filter (fun x => have_.contains x)).take n
    have_.filter (fun x => stay.contains x)
  else have_ ++ ((order.filter (fun x => !have_.contains x)).take (n - have_.length))

/-- No group, fill group or bobbin program is on a core (spec/07 R192). -/
def State.coreIdle (s : State) (c : Nat) : Bool := !s.groups.any (fun x => x.1 / 65 == c)

/-- Keep the permitted set as R193 gives after groups started or ended, and forget what was noted of those that ended; an idle core is
open (spec/07 R192). -/
def State.fixThrottle (s : State) (c : Nat) : State :=
  let order := s.ordinary c
  let idle := s.coreIdle c
  s.modCore c (fun k =>
    let t := { k.throttle with wanted := k.throttle.wanted.filter (fun x => order.contains x),
                               held := k.throttle.held.filter (fun x => order.contains x.1) }
    match t.limit with
    | none => { k with throttle := t }
    | some l =>
      if idle then { k with throttle := { t with limit := none, permitted := [], held := [] } }
      else { k with throttle := { t with permitted := permitted order t.permitted (min l order.length) } })

/-- A group leaves its context: its entries, its place at gates and its register-writing operations go with it; the throttle's
set follows. -/
def State.removeGroup (s : State) (c ctx : Nat) : State :=
  match s.group? c ctx with
  | none => s
  | some g =>
    let s := s.modCore c (fun k =>
      { k.freeBelay ctx with ops := k.ops.filter (fun o => o.uid != g.uid || o.what.toMemory),
                             gates := k.gates.filter (fun a => a.ctx != ctx) })
    let s := if ctx = 64 then s else
      s.modWg g.wg (fun w => { w with present := w.present &&& ~~~((1 : BitVec 16) <<< g.grpid) })
    { s with groups := s.groups.del (gkey c ctx) }.fixThrottle c

/-- The boundary falls to the end of the highest carve-out in use (spec/07 R198); a placement that still waits takes its rows anew. -/
def State.lowerBoundary (s : State) (c : Nat) : State :=
  let top := s.wgs.foldl (fun m w => if w.2.core = c then max m (w.2.base + 32 * w.2.gran) else m) 0
  s.modCore c (fun k => { k with boundary := min k.boundary top, taking := 0 })

/-- Remove workgroups and give their rows back. -/
def State.removeWgs (s : State) (p : Nat → Wg → Bool) : State :=
  let gone := s.wgs.filter (fun w => p w.1 w.2)
  let s := { s with wgs := s.wgs.filter (fun w => !(p w.1 w.2)) }
  (dedup (gone.map (fun w => w.2.core))).foldl State.lowerBoundary s

/-- Operations of a workgroup are still on their way: its carve-out stays until they are done (spec/02 R49). -/
def State.wgBusy (s : State) (wg : Nat) : Bool :=
  s.cores.any (fun k => k.2.ops.any (fun o => o.wg == wg))

/-- The tile stores of a launch's groups that have issued are dropped (spec/08 R236). -/
def State.dropTileStores (s : State) (l : Nat) : State :=
  let uids := (s.groups.filter (fun g => g.2.launch == l)).map (fun g => g.2.uid)
  { s with cores := s.cores.mapAll (fun _ k =>
      let gone := (k.ops.filter (fun o => uids.contains o.uid && o.what == .store && o.uses != [])).map (fun o => o.id)
      { k with ops := k.ops.filter (fun o => !gone.contains o.id),
               sq := k.sq.filter (fun q => match q.opId with | some i => !gone.contains i | none => true) }) }

/-- End a launch with a status (spec/14 R334): its groups, ropes and register-writing operations go, and its workgroups but
those whose operations to memory are still on their way; a status other than OK of an accepted launch that is no fill task writes a TYPE 2 record (spec/14 R333). -/
def State.endLaunch (s : State) (l status cause : Nat) (faddr ffirst : DWord) (flags stamp clk : Nat) : State :=
  match s.launches.look l with
  | none => s
  | some x =>
    if x.status.isSome then s else
    let s := if status ≠ 0 ∧ x.fill.isNone then s.report 2 cause x.asid faddr ffirst status flags stamp clk else s
    let s := s.dropTileStores l
    let gs := s.groups.filter (fun g => g.2.launch == l)
    let s := gs.foldl (fun s g => s.removeGroup (g.1 / 65) (g.1 % 65)) s
    let s := { s with ropes := s.ropes.filter (fun r => r.2.launch != l) }
    let s := s.removeWgs (fun i w => w.launch == l && !s.wgBusy i)
    let s := { s with cores := s.cores.mapAll (fun _ k =>
      if k.bobLaunch = some l then { k with queues := [], bobLaunch := none } else k) }
    s.modLaunch l (fun x => { x with status := some status, placeable := false })

/-! Traps (spec/05 R146-R148) -/

/-- The die event of a GEN_NEST fault, one a fault taken (spec/14 R347). -/
def State.countNest (s : State) (cause : Nat) : State := if cause = 11 then s.count 268 2 1 else s

/-- Take a trap at a slot: the fault registers, the trap context, and the handler clause; without a handler, or inside it,
the launch ends (spec/05 R146), as it does in a save routine (spec/14 R341). A bobbin program has no handler (spec/10 R276). A cause with 256 added is a walk error's, for
FLAGS.WALK of a report (spec/14 R324); that WRITE and FETCH of such a report are 0 is the model's choice (log 47). -/
def State.takeTrap (s : State) (c ctx n cause0 : Nat) (mask faddr ffirst : DWord) (atHeader isMem : Bool) : State :=
  let cause := cause0 % 256
  match s.group? c ctx with
  | none => s
  | some g =>
    let sl := g.slotOf n
    let g0 := g.flagDown sl.kept
    let g1 := { g0 with ffirst := ffirst, faddr := faddr, fmask := mask, trapCause := BitVec.ofNat 32 (256 * n + cause),
                        peerFail := if cause = 25 ∧ g.peerFail = some faddr then none else g.peerFail }
    let k := s.khdr g.launch
    let s1 := ((s.countNest cause).forget g.uid n).modGroup c ctx (fun _ => g1)
    let stop (status : Nat) : State :=
      s1.endLaunch g.launch status cause faddr ffirst (if 256 ≤ cause0 then 8 else 0) (s.stamp c g n false) (s.core c).clk
    if ctx = 64 then stop 7
    else if g.save = .saving then stop 8
    else if k.handler = 0 then stop 7
    else if g.inHandler then stop 8
    else
      let h := codeAddr g.kernel k.handler
      s1.modGroup c ctx (fun g =>
        { g with
          inHandler := true,
          trapCtx := some
            { slot := n, clause := sl.clause, pos := sl.pos, pc := sl.pc, hdr := sl.hdr, mask := sl.mask, reconv := sl.reconv,
              atHeader := atHeader, isMem := isMem, other := (g.slotOf (1 - n)).valid, len := s.cur.len, regs := none } }.setSlot n
          { sl with clause := h, pc := h, pos := 0, phase := .arrive, wait := .none, replay := none, tretLanes := none,
                    fatal := false, kept := none, bpast := false, readNext := none, got := [] })

/-- A precise trap of a slot whose instruction of this length is not the one being executed. -/
def State.trapSlot (s : State) (c ctx n cause len : Nat) (mask faddr ffirst : DWord) : State :=
  let l := s.cur.len
  let s := { s with cur := { s.cur with len := len } }.takeTrap c ctx n cause mask faddr ffirst false false
  { s with cur := { s.cur with len := l } }

/-- Return from a trap: resume its context, release the other slot (spec/05 R148). SKIP goes past the instruction, and past
the clause when it was the last; there is none to skip after a trap at a clause header. -/
def State.trapReturn (s : State) (c ctx : Nat) (skip : Bool) : State :=
  s.modGroup c ctx (fun g =>
    match g.trapCtx with
    | none => { g with inHandler := false }
    | some t =>
      let sl := g.slotOf t.slot
      let past := skip && !t.atHeader
      let pc := if past then t.pc + BitVec.ofNat 64 (4 * t.len) else t.pc
      let last := past && t.pos == (t.hdr &&& 15).toNat
      let g1 := { g with inHandler := false, trapCtx := none }
      let g2 := match t.regs with
        | none => g1
        | some (a, b, os) => { g1 with fpcr := a, fpsr := b, depth := os.length, owners := os, save := .none }
      g2.setSlot t.slot
        { sl with
          valid := true, clause := if last then pc else t.clause, pc := pc,
          pos := if last then 0 else if past then t.pos + 1 else t.pos, hdr := t.hdr,
          phase := if t.atHeader || last then .arrive else .run, mask := t.mask &&& g.live, reconv := t.reconv,
          wait := .none, replay := none, safePast := t.regs.isSome, tretLanes := if t.isMem && !past then some g.fmask else none })

/-! The environment of an issue -/

/-- What an instruction sees of its stream at issue: its place, group, slot, kernel header and operations in flight. -/
structure Env where
  core   : Nat
  ctx    : Nat
  n      : Nat
  len    : Nat
  g      : Group
  sl     : Slot
  k      : KHdr
  asid   : Nat
  ops    : List Op
  clk    : Nat
  serial : Nat
  check  : Bool
  deriving DecidableEq, Repr

/-- The environment of a slot, if it is valid. -/
def State.envAt (s : State) (c ctx n len : Nat) : Option Env :=
  match s.group? c ctx with
  | none => none
  | some g =>
    if (g.slotOf n).valid then
      some { core := c, ctx := ctx, n := n, len := len, g := g, sl := g.slotOf n, k := s.khdr g.launch, asid := s.asid g.launch,
             ops := (s.core c).ops.filter (fun o => o.ctx == ctx && o.uid == g.uid), clk := (s.core c).clk, serial := s.serial,
             check := match s.launches.look g.launch with | some l => l.stallchk | none => false }
    else none

/-- The environment of the stream State.cur names. -/
def State.env? (s : State) : Option Env := s.envAt s.cur.core s.cur.ctx s.cur.slot s.cur.len

/-- A register's lane as a reader at issue sees it: the written value, or, per pending write, old or new (spec/03 R73, R74;
log 5). -/
def Env.see (e : Env) (cls : RegCls) (reg lane : Nat) (base : Word) : Word :=
  let w0 : RegWrite := ⟨cls, reg, lane, 0⟩
  e.ops.foldl (fun acc o =>
    match o.writes.find? (fun w => w.same w0) with
    | none => acc
    | some w => if !o.hidden.contains w0.key && Config.seesNew e.serial w0.key o.id then w.val else acc) base

def Env.vreg (e : Env) (r lane : Nat) : Word := e.see .v r lane (e.g.v.lookD 0 (r * 64 + lane))
def Env.sreg (e : Env) (r : Nat) : Word := e.see .s r 0 (e.g.s.lookD 0 r)
def Env.preg (e : Env) (r lane : Nat) : Bool :=
  (e.see .p r lane (if (e.g.p.lookD 0 r).getLsbD lane then 1 else 0)).getLsbD 0

/-- The guard of a lane (spec/03 R76, R77). -/
def Env.guard (e : Env) (h : Hdr) (lane : Nat) : Bool :=
  (if h.guard = 127 then true else e.preg h.guard.toNat lane) ^^ h.gneg

/-- The active lanes (spec/02 R44), restricted by TRET to the lanes that replay (spec/05 R148). -/
def Env.active (e : Env) (h : Hdr) : List Nat :=
  (lanesOf (match e.sl.tretLanes with | some m => e.sl.mask &&& m | none => e.sl.mask)).filter (fun l => e.guard h l)

/-- The guard in the leading lane, the lowest-numbered of the slot's mask (spec/05 R139). -/
def Env.lead (e : Env) (h : Hdr) : Bool :=
  match lanesOf e.sl.mask with
  | [] => false
  | l :: _ => e.guard h l

def Env.isLaunched (e : Env) (lane : Nat) : Bool := e.g.launched.getLsbD lane
def Env.clen (e : Env) : Nat := (e.sl.hdr &&& 15).toNat
/-- The instruction is the last of its clause. -/
def Env.last (e : Env) : Bool := e.sl.pos == e.clen

/-- The flag FSEL selects, if its header field names one (spec/03 R70). -/
def Env.flag (e : Env) (h : Hdr) : Option Nat :=
  match h.fsel.toNat with
  | 1 => some (bits e.sl.hdr.toNat 16 4)
  | 2 => some (bits e.sl.hdr.toNat 20 4)
  | _ => none

/-! Issue -/

/-- The checks an instruction adds to those every instruction has, and the registers it reads and writes. -/
structure Chk where
  /-- step 6 of R84 -/
  ill   : Bool := false
  /-- step 7 -/
  opd   : Bool := false
  /-- step 8 -/
  fmt   : Bool := false
  /-- step 9: the cause -/
  ninth : Option Nat := none
  /-- a bobbin program may issue it (spec/10 R276) -/
  bob   : Bool := false
  /-- registers read, and written at a fixed latency, for STALLCHK; the reads take place in every lane of the mask -/
  reads : List (RegCls × Nat) := []
  writes : List (RegCls × Nat) := []
  every : Bool := false
  /-- a token the instruction sets -/
  tok   : Option Nat := none
  /-- it waits, without being issued -/
  hold  : Bool := false
  deriving DecidableEq, Repr

/-- FSEL that names no flag, or a flag beside a token (spec/03 R70, R81). -/
def Env.badFsel (e : Env) (h : Hdr) (tok : Option Nat) : Bool :=
  (match e.flag h with | some f => f == 15 | none => false) || (tok.isSome && h.fsel != 0)

/-- The guard names a predicate beyond the allotment (spec/02 R46). -/
def Env.badGuard (e : Env) (h : Hdr) : Bool := h.guard != 127 && decide (e.g.pAlloc ≤ h.guard.toNat)

/-- The lanes whose reads or fixed-latency writes R73 and R74 leave open (spec/03 R75): the guard is read in every lane of the
mask, sources and destinations in active lanes, or, by an exchange, sources in every lane. -/
def Env.openLanes (e : Env) (h : Hdr) (c : Chk) : DWord :=
  let act := maskOf (e.active h)
  maskOf ((lanesOf e.sl.mask).filter (fun l => e.ops.any (fun o =>
    (h.guard != 127 && o.writesTo .p h.guard.toNat l) ||
    ((c.every || act.getLsbD l) && c.reads.any (fun r => o.writesTo r.1 r.2 l)) ||
    (act.getLsbD l && o.due.isNone && c.writes.any (fun r => o.writesTo r.1 r.2 l)))))

/-- Stall-check mode is on, and a read or write is left open (spec/03 R75). -/
def Env.stallBad (e : Env) (h : Hdr) (c : Chk) : Bool := e.check && e.openLanes h c != 0

/-- The first check of R84 that fails: its cause and FMASK. -/
def Env.failed (e : Env) (h : Hdr) (c : Chk) : Option (Nat × DWord) :=
  if e.badFsel h c.tok || c.ill then some (2, e.sl.mask)
  else if e.badGuard h || c.opd then some (4, e.sl.mask)
  else if c.fmt then some (5, e.sl.mask)
  else if e.ctx = 64 ∧ !c.bob then some (6, e.sl.mask)
  else c.ninth.map (fun k => (k, e.sl.mask))

/-- The instruction would raise a flag from 63 (spec/02 R56). -/
def Env.flagFull (e : Env) (h : Hdr) (tok : Option Nat) : Bool :=
  (match e.flag h with | some f => e.g.flags.lookD 0 f == 63 | none => false) ||
  (match tok with | some f => e.g.flags.lookD 0 f == 63 | none => false)

/-- A precise trap of the instruction at the slot's pc, with FADDR as given (spec/05 R146). -/
def State.trapAt (s : State) (e : Env) (cause : Nat) (mask faddr : DWord) (isMem : Bool := false) : State :=
  s.takeTrap e.core e.ctx e.n cause mask faddr e.sl.pc false isMem

/-- The slot stays where it is and looks again at the next clk. -/
def State.hold (s : State) (e : Env) (w : Wait := .retry) : State :=
  s.modSlot e.core e.ctx e.n (fun sl => { sl with wait := w })

/-- The slot after its instruction has issued: past the instruction's words, or at the next clause header after the last
(spec/03 R65, R72). -/
def Slot.past (sl : Slot) (len clk stall serial : Nat) : Slot :=
  let pc := sl.pc + BitVec.ofNat 64 (4 * len)
  let last := sl.pos == (sl.hdr &&& 15).toNat
  { sl with
    pc := pc, pos := if last then 0 else sl.pos + 1, clause := if last then pc else sl.clause,
    phase := if last then .arrive else .run, readyAt := clk + 1 + stall, lastIssue := serial, wait := .none, replay := none,
    eligSince := none, promoted := false, noWatch := false, tretLanes := none, fatal := false, afterBarwg := false,
    safePast := false, kept := none, bpast := false, readNext := none, got := [] }

/-- The slot goes on past its instruction; the serial advances. -/
def State.goOn (s : State) (e : Env) (stall : Nat) : State :=
  { s with serial := s.serial + 1, peerReqs := s.reqsAfter e.g.uid e.n }.modSlot e.core e.ctx e.n (fun sl => sl.past e.len e.clk stall (e.serial + 1))

/-- The instruction has issued: its slot goes on, and the issue is counted (spec/03 R72, spec/14 R347). -/
def State.retire (s : State) (e : Env) (h : Hdr) : State := (s.goOn e h.stall.toNat).count e.core 0 1

/-- The operation an issue starts, with nothing to write yet. -/
def Env.op (e : Env) (s : State) (flag : Option Nat) (what : What) : Op :=
  { id := e.serial, ctx := e.ctx, uid := e.g.uid, wg := e.g.wg, asid := e.asid, slot := e.n, serial := e.serial, flag := flag,
    due := none, writes := [], fl := 0, fpsr := false, what := what, ffirst := e.sl.pc, held := none, sample := none,
    stamp := s.stamp e.core e.g e.n false, uses := [], dests := [], clk := e.clk, parts := [], hidden := [], dropped := [] }

/-- Start an operation: it raises its flag (spec/02 R56). -/
def State.start (s : State) (e : Env) (o : Op) : State :=
  (s.modCore e.core (fun k => { k with ops := k.ops ++ [o] })).modGroup e.core e.ctx (fun g => g.flagUp o.flag)

/-- A state that a missing piece of memory has stopped is a fault. -/
def finish (s : State) : Out :=
  match s.stuck with
  | some f => .fault f
  | none => .next s

/-- The slot waits, and its instruction has not issued. -/
def State.waits (s : State) (e : Env) : Bool :=
  match s.group? e.core e.ctx with
  | none => false
  | some g => match (g.slotOf e.n).wait with
    | .retry => true
    | .bwait _ _ _ => true
    | .fetch _ => true
    | .pend _ => true
    | _ => false

/-- Issue an instruction of the stream State.cur names: the checks of R84 from step 6 on, its waits, then STALLCHK (spec/03 R75;
log 70), then its effect. -/
def issue (h : Hdr) (chk : Env → Chk) (eff : Env → State → State) (s : State) : Out :=
  match s.env? with
  | none => .fault .noStream
  | some e =>
    let c := chk e
    match e.failed h c with
    | some (cause, mask) => .next (s.trapAt e cause mask e.sl.pc)
    | none =>
      if e.flagFull h c.tok || c.hold then .next (s.hold e)
      else
        let t := eff e s
        if e.stallBad h c && !t.waits e then .next (s.trapAt e 20 (e.openLanes h c) e.sl.pc) else finish t

/-- The width in lanes of the current group. -/
def State.curWidth (s : State) : Nat := match s.group? s.cur.core s.cur.ctx with | some g => g.width | none => 64

end Sys2Proof.Machine
end

