-- ==== Sys2Proof/WellFormed.lean ====
section
/-! DEFINITION. Which instructions are well formed: the field rules of R84 step 6 that an instruction's own words decide
(spec/03 R79). Rules that need the clause, the group or the launch are checked at issue. -/

namespace Sys2Proof

/-- GUARD is a predicate or 127, FSEL is not 0b11 (spec/03 R76). -/
def Hdr.ok (h : Hdr) : Bool := (decide (h.guard.toNat < 96) || h.guard == 127) && h.fsel != 3

def SrcB.isImm : SrcB → Bool
  | .imm9 _ => true
  | _ => false

def SrcB.isImm32 : SrcB → Bool
  | .imm32 _ => true
  | _ => false

def SatU.bits (m : SatU) : BitVec 8 := (0 : BitVec 3) ++ BitVec.ofBool m.u ++ BitVec.ofBool m.sat ++ (0 : BitVec 3)
def FpMods.bits (m : FpMods) : BitVec 8 :=
  BitVec.ofBool m.abs ++ BitVec.ofBool m.nc ++ BitVec.ofBool m.nb ++ BitVec.ofBool m.na ++ BitVec.ofBool m.sat ++ m.rm
def CpxMods.bits (m : CpxMods) : BitVec 8 :=
  (0 : BitVec 1) ++ BitVec.ofBool m.nc ++ BitVec.ofBool m.cjb ++ BitVec.ofBool m.cja ++ BitVec.ofBool m.sat ++ m.rm
def CvtMods.bits (m : CvtMods) : BitVec 8 := (0 : BitVec 4) ++ BitVec.ofBool m.sat ++ m.rm
def AtomMods.bits (m : AtomMods) : BitVec 8 := m.order ++ m.scope ++ m.ty
def MemMods.bits (m : MemMods) : BitVec 8 := m.vsz ++ m.mfmt

/-- Only the modifier bits of a mask are set, and the rounding code is one of R80. -/
def FpMods.fits (m : FpMods) (mask : BitVec 8) : Bool := m.bits &&& ~~~mask == 0 && decide (m.rm.toNat < 5)
def CpxMods.fits (m : CpxMods) (mask : BitVec 8) : Bool := m.bits &&& ~~~mask == 0 && decide (m.rm.toNat < 5)
def CvtMods.fits (m : CvtMods) : Bool := decide (m.rm.toNat < 5)

/-- No modifier at all. -/
def FpMods.none : FpMods := ⟨false, false, false, false, false, 0⟩

/-- A predicate number or 127 (spec/04 R105, spec/17 R397). -/
def pcoOk (p : BitVec 7) : Bool := decide (p.toNat < 96) || p == 127

/-- Codes 0x16 to 0x1F are reserved: they pass here and trap ILLEGAL_FORMAT at step 8 (spec/01 R10, spec/03 R84). -/
def fmtReserved (c : BitVec 5) : Bool := decide (22 ≤ c.toNat)

/-- FP32, FP16, BF16, E4M3, E5M2, E2M1, E3M2, E2M3 or E8M0 (spec/04 R118). -/
def cvtfFmt (c : BitVec 5) : Bool := fmtReserved c || (decide (8 ≤ c.toNat) && decide (c.toNat ≤ 16))

/-- Elements of a CVTF format in 32 bits (spec/04 R118). -/
def elemCount (c : BitVec 5) : Nat :=
  match c.toNat with
  | 8 => 1
  | 9 => 2
  | 10 => 2
  | 13 => 8
  | _ => 4

def ElemSel.okCvtf (x : ElemSel) : Bool :=
  cvtfFmt x.sfmt && cvtfFmt x.dfmt && (fmtReserved x.sfmt || decide (x.sidx.toNat < elemCount x.sfmt)) &&
  (fmtReserved x.dfmt || decide (x.didx.toNat < elemCount x.dfmt))

/-- E2M1, E3M2, E2M3, E4M3, E5M2 or INT8 (spec/04 R122). -/
def mxFmt (c : BitVec 5) : Bool := fmtReserved c || c == 0 || (decide (11 ≤ c.toNat) && decide (c.toNat ≤ 15))

/-- UNPKMX: a PACKMX source, an FP32, FP16 or BF16 destination whose half index fits (spec/04 R124). -/
def ElemSel.okUnpk (x : ElemSel) : Bool :=
  mxFmt x.sfmt && (fmtReserved x.sfmt || decide (x.sidx.toNat < elemCount x.sfmt)) &&
  (fmtReserved x.dfmt || x.dfmt == 8 || x.dfmt == 9 || x.dfmt == 10) && decide (x.didx.toNat < 2) &&
  (fmtReserved x.dfmt || x.dfmt != 8 || x.didx == 0)

/-- .U and .F32 of QRED and LRED (spec/05 R130, R134). That .U and .F32 together are refused for MIN and MAX is the model's choice
(log 84). -/
def redOk (op : RedOp) (u f32 : Bool) : Bool :=
  (!f32 || (op != .and && op != .or)) && (!u || (!f32 && (op == .min || op == .max)))

/-- Scale codes up to 16; an IMMB offset has scale 0b000 (spec/06 R150). -/
def Addr.ok (x : Addr) : Bool := !x.idx.isImm32 && decide (x.scale.toNat < 5) && (!x.idx.isImm || x.scale == 0)

/-- Address fields all zero, as CCTL's .ALL forms need them (spec/06 R181). -/
def Addr.isZero (x : Addr) : Bool :=
  x.base == .v 0 && x.idx == .opd (.v 0) && x.scale == 0 && (x.off == none || x.off == some 0)

/-- VSZ and MFMT of a load or store (spec/06 R156, R157). -/
def MemMods.okLoad (m : MemMods) : Bool :=
  decide (m.vsz.toNat < 3) &&
  (if m.cv then
    fmtReserved m.mfmt || (decide (m.mfmt.toNat < 16) && !(m.vsz == 0 && (m.mfmt == 6 || m.mfmt == 7 || m.mfmt == 13)))
   else fmtReserved m.mfmt || m.mfmt == 5)

/-- Which TYPE an operation takes (spec/06 R164): 0 U32, 1 S32, 2 U64, 3 S64, 4 F32, 5 H2. -/
def AtomOp.typeOk (op : AtomOp) (ty : BitVec 3) : Bool :=
  match op with
  | .add | .min | .max => decide (ty.toNat < 4)
  | .and | .or | .xor | .exch => ty == 0 || ty == 2
  | .inc | .dec => ty == 0
  | .fadd => ty == 4 || ty == 5

def AtomMods.okAtomg (m : AtomMods) (op : AtomOp) : Bool := op.typeOk m.ty && decide (m.scope.toNat < 6)
def AtomMods.okAtoms (m : AtomMods) (op : AtomOp) : Bool := op.typeOk m.ty && decide (m.scope.toNat < 4)
/-- REDG has no EXCH, INC or DEC, and no acquire (spec/06 R164). -/
def AtomMods.okRedg (m : AtomMods) (op : AtomOp) : Bool :=
  op.typeOk m.ty && decide (m.scope.toNat < 6) && (m.order == 0 || m.order == 2) && op != .exch && op != .inc && op != .dec

def AtomArg.ok : AtomArg → Bool
  | .short _ data => !data.isImm32
  | .long adr _ => adr.ok && adr.off.isSome

/-- Tile formats (spec/08 R208), or a reserved code, which traps later. -/
def tileFmt (c : BitVec 5) : Bool :=
  [0, 1, 6, 7, 8, 9, 10, 11, 12, 13, 14, 15, 18, 19, 20].contains c.toNat
def tileFmtOrReserved (c : BitVec 5) : Bool := fmtReserved c || tileFmt c
/-- The formats TLD.X and TST.X accept (spec/08 R219). -/
def tileXFmt (c : BitVec 5) : Bool := fmtReserved c || [0, 1, 9, 10, 11, 12, 14, 15].contains c.toNat

/-- Accumulators an ACCOUT format reads (spec/08 R234); 0 for a format it does not accept. -/
def accoutCount (c : BitVec 5) : Nat :=
  match c.toNat with
  | 8 | 9 | 10 => 1
  | 0 | 1 | 11 | 12 | 14 | 15 | 19 | 20 => 2
  | 6 | 7 | 13 => 4
  | _ => 0
def accoutOk (c : BitVec 5) (n : BitVec 3) : Bool :=
  fmtReserved c || (decide (accoutCount c ≠ 0) && decide (n.toNat % accoutCount c = 0))

/-- The classes of operations a PAIR word joins (spec/03 R86). -/
inductive PairKind | ff | fi | ii | fx
  deriving DecidableEq, Repr

/-- Rows of the F table, integer rows and conversion rows of the I table (spec/03 R87, R88). -/
def pairRowF (p : PairOp) : Bool := decide (p.sub.toNat ≤ 0x0E)
def pairRowI (p : PairOp) : Bool :=
  decide (p.sub.toNat ≤ 0x10) && !p.mod2.getLsbD 1 && (p.sub.toNat != 0x0E || (p.b == 0 && p.mod2 == 0))
def pairRowX (p : PairOp) : Bool :=
  decide (0x20 ≤ p.sub.toNat) && decide (p.sub.toNat ≤ 0x25) && (decide (0x24 ≤ p.sub.toNat) || p.b == 0)

/-- Registers an operation reads (spec/03 R86): A, B unless an immediate or unused, and D where it is an addend. -/
def pairReadsF (p : PairOp) : List Nat :=
  [p.a.toNat, p.b.toNat] ++ (if [2, 7, 12].contains p.sub.toNat then [p.d.toNat] else [])
def pairReadsI (p : PairOp) : List Nat :=
  [p.a.toNat] ++
  (if (p.sub.toNat < 0x20 && (p.mod2.getLsbD 0 || p.sub.toNat == 0x0E)) || (0x20 ≤ p.sub.toNat && p.sub.toNat < 0x24 : Bool)
   then [] else [p.b.toNat]) ++
  (if p.sub.toNat = 3 then [p.d.toNat] else [])

/-- At most three distinct registers, at most two of them in one bank. -/
def pairPorts (rs : List Nat) : Bool :=
  let u := rs.eraseDups
  decide (u.length ≤ 3) && [0, 1, 2, 3].all (fun b => decide ((u.filter (fun n => n % 4 == b)).length ≤ 2))

/-- R86. -/
def pairOk (k : PairKind) (p q : PairOp) : Bool :=
  let f1 := k != .ii
  let f2 := k == .ff
  (if f1 then pairRowF p else pairRowI p) &&
  (match k with | .ff => pairRowF q | .fi => pairRowI q | .ii => pairRowI q | .fx => pairRowX q) &&
  decide (p.d.toNat % 4 ≠ q.d.toNat % 4) &&
  pairPorts ((if f1 then pairReadsF p else pairReadsI p) ++ (if f2 then pairReadsF q else pairReadsI q))

/-- The static rules an instruction obeys on its own: guard and FSEL codes (spec/03 R76, R79) and each instruction's own
reserved values, which its decoder refuses with ILLEGAL_INSTRUCTION. Events carry no encoding and no such rules. -/
def Instr.wf : Instr → Bool
  | .iadd h m _ => h.ok && (m.sat || !m.u)
  | .isub h m _ => h.ok && (m.sat || !m.u)
  | .iadd3 h m o => h.ok && (m.sat || !m.u) && !o.b.isImm32
  | .iaddc h o pco => h.ok && !o.b.isImm32 && pcoOk pco
  | .isubb h o pco => h.ok && !o.b.isImm32 && pcoOk pco
  | .iadd64 h _ => h.ok
  | .isub64 h _ => h.ok
  | .imul h _ => h.ok
  | .imulhiS h o => h.ok && !o.b.isImm32
  | .imulhiU h o => h.ok && !o.b.isImm32
  | .imad h o => h.ok && !o.b.isImm32
  | .imadwS h o => h.ok && !o.b.isImm32
  | .imadwU h o => h.ok && !o.b.isImm32
  | .iabs h _ _ => h.ok
  | .iminS h _ => h.ok
  | .iminU h _ => h.ok
  | .imaxS h _ => h.ok
  | .imaxU h _ => h.ok
  | .iclampS h o => h.ok && !o.b.isImm32
  | .iclampU h o => h.ok && !o.b.isImm32
  | .ishl h o => h.ok && !o.b.isImm32
  | .ishr h o => h.ok && !o.b.isImm32
  | .ishra h o => h.ok && !o.b.isImm32
  | .shfL h o => h.ok && !o.b.isImm32
  | .shfR h o => h.ok && !o.b.isImm32
  | .irot h o => h.ok && !o.b.isImm32
  | .isad h _ o => h.ok && !o.b.isImm32
  | .idp4S h o => h.ok && !o.b.isImm32
  | .idp4U h o => h.ok && !o.b.isImm32
  | .idp2 h _ o => h.ok && !o.b.isImm32
  | .popc h _ => h.ok
  | .clz h _ => h.ok
  | .ctz h _ => h.ok
  | .brev h _ => h.ok
  | .bfeS h o => h.ok && !o.b.isImm32
  | .bfeU h o => h.ok && !o.b.isImm32
  | .bfi h o => h.ok && !o.b.isImm32
  | .logt h o _ => h.ok && !o.b.isImm32
  | .prmt h o => h.ok && !o.b.isImm32
  | .sel h o => h.ok && !o.b.isImm32
  | .isetS h cc _ => h.ok && decide (cc.toNat < 6)
  | .isetU h cc _ => h.ok && decide (cc.toNat < 6)
  | .iset64 h cc _ _ => h.ok && decide (cc.toNat < 6)
  | .imov h _ => h.ok
  | .movi h _ _ => h.ok
  | .lea h _ o => h.ok && !o.b.isImm32
  | .lea64 h _ _ o => h.ok && !o.b.isImm32
  | .pset h o _ => h.ok && !o.b.isImm32
  | .iaddH2 h m _ => h.ok && (m.sat || !m.u)
  | .isubH2 h m _ => h.ok && (m.sat || !m.u)
  | .imulH2 h _ => h.ok
  | .imadH2 h o => h.ok && !o.b.isImm32
  | .iminH2 h _ _ => h.ok
  | .imaxH2 h _ _ => h.ok
  | .ishlH2 h o => h.ok && !o.b.isImm32
  | .isetH2 h cc _ o => h.ok && decide (cc.toNat < 6) && !o.b.isImm32
  | .fadd h _ m _ => h.ok && m.fits 0xBF
  | .fmul h _ m _ => h.ok && m.fits 0xBF
  | .ffma h _ m o => h.ok && m.fits 0xFF && !o.b.isImm32
  | .fmin h _ m _ => h.ok && m.fits 0xB0
  | .fmax h _ m _ => h.ok && m.fits 0xB0
  | .fset h _ cc m _ => h.ok && m.fits 0xB0 && decide (cc.toNat < 14)
  | .fclamp h _ m o => h.ok && m.fits 0xF0 && !o.b.isImm32
  | .fadd3 h m o => h.ok && m.fits 0xFF && !o.b.isImm32
  | .fmed3 h t m o => h.ok && m.fits 0xF0 && (t == .f32 || t == .h2) && !o.b.isImm32
  | .fdp2 h t m o => h.ok && m.fits 0xFF && (t == .h2 || t == .b2) && !o.b.isImm32
  | .fdp4 h _ m o => h.ok && m.fits 0x4F && !o.b.isImm32
  | .frnd h t m _ => h.ok && m.fits 0x97 && (t == .f32 || t == .h2)
  | .fscale h t m o => h.ok && m.fits 0x9F && (t == .f32 || t == .h2) && !o.b.isImm32
  | .fclass h t _ => h.ok && (t == .f32 || t == .h2)
  | .cadd h t m o => h.ok && m.fits 0x3F && t != .cbf && !o.b.isImm32
  | .cmul h _ m o => h.ok && m.fits 0x3F && !o.b.isImm32
  | .cfma h _ m o => h.ok && m.fits 0x7F && !o.b.isImm32
  | .cabs2 h t m _ => h.ok && m.fits 0x1F && t != .cbf
  | .frcp h _ _ _ _ => h.ok
  | .frsq h _ _ _ _ => h.ok
  | .fsqrt h _ _ _ _ => h.ok
  | .fexp2 h _ _ _ _ => h.ok
  | .flog2 h _ _ _ _ => h.ok
  | .fsin h _ _ _ _ => h.ok
  | .fcos h _ _ _ _ => h.ok
  | .ftanh h _ _ _ _ => h.ok
  | .fsigm h _ _ _ _ => h.ok
  | .fgelu h _ _ _ _ => h.ok
  | .sfuComplete _ _ => true
  | .cvtf h m _ _ _ x => h.ok && m.fits && x.okCvtf
  | .cvtfSr h _ _ _ _ x => h.ok && x.okCvtf
  | .cvtfi h _ src m _ => h.ok && m.fits && !m.sat && src != 3
  | .cvtif h _ dst m _ => h.ok && m.fits && dst != 3
  | .cvtii h _ _ _ _ => h.ok
  | .packh h m o => h.ok && m.fits && !o.b.isImm32
  | .packb h m o => h.ok && m.fits && !o.b.isImm32
  | .packf8 h _ _ m o => h.ok && m.fits && !o.b.isImm32
  | .packmx h blk dfmt m _ _ _ => h.ok && m.fits && blk != 0 && mxFmt dfmt
  | .unpkmx h _ m _ _ _ x => h.ok && m.fits && x.okUnpk
  | .packt5 h o => h.ok && !o.b.isImm32
  | .unpkt5 h _ _ => h.ok
  | .cbdec h _ _ _ _ m _ _ _ => h.ok && m.fits
  | .cpack h o => h.ok && !o.b.isImm32
  | .cpackU h _ _ => h.ok
  | .pairFF h p q => h.ok && pairOk .ff p q
  | .pairFI h p q => h.ok && pairOk .fi p q
  | .pairII h p q => h.ok && pairOk .ii p q
  | .pairFX h p q => h.ok && pairOk .fx p q
  | .qswpH h _ => h.ok
  | .qswpV h _ => h.ok
  | .qswpD h _ => h.ok
  | .qbcst h _ _ => h.ok
  | .qred h op u f32 _ => h.ok && redOk op u f32
  | .qhelp h _ => h.ok
  | .shfl h _ seg o => h.ok && seg != 7 && !o.b.isImm32
  | .voteAny h _ => h.ok
  | .voteAll h _ => h.ok
  | .voteBal h _ => h.ok
  | .matchLanes h _ => h.ok
  | .lred h op u f32 _ => h.ok && redOk op u f32
  | .lscan h op u _ _ => h.ok && (op == .add || op == .max) && (op == .max || !u)
  | .sadd h m _ => h.ok && (m.sat || !m.u)
  | .ssub h m _ => h.ok && (m.sat || !m.u)
  | .sadd64 h _ => h.ok
  | .smul h _ => h.ok
  | .smad h o => h.ok && !o.b.isImm32
  | .smin h _ _ => h.ok
  | .smax h _ _ => h.ok
  | .sshl h o => h.ok && !o.b.isImm32
  | .sshr h o => h.ok && !o.b.isImm32
  | .sshra h o => h.ok && !o.b.isImm32
  | .slogt h o _ => h.ok && !o.b.isImm32
  | .spopc h _ => h.ok
  | .sclz h _ => h.ok
  | .sbfe h _ o => h.ok && !o.b.isImm32
  | .sbfi h o => h.ok && !o.b.isImm32
  | .sset h cc _ _ => h.ok && decide (cc.toNat < 6)
  | .smov h _ => h.ok
  | .smovi h _ _ => h.ok
  | .slea h _ _ o => h.ok && !o.b.isImm32
  | .s2v h _ => h.ok
  | .v2s h _ => h.ok
  | .srdsr h _ _ => h.ok
  | .swrsr h _ b => h.ok && !b.isImm32
  | .bra h _ _ => h.ok
  | .braDivergent h _ _ => h.ok
  | .brau h _ => h.ok
  | .brx h _ => h.ok
  | .call h _ _ => h.ok
  | .callx h _ _ => h.ok
  | .ret h _ => h.ok
  | .join h => h.ok
  | .loop h _ _ => h.ok
  | .exit h => h.ok
  | .nop h => h.ok
  | .yield h => h.ok
  | .yieldExpiry _ _ _ => true
  | .trap h _ => h.ok
  | .bkpt h _ => h.ok
  | .tret h => h.ok
  | .tretSkip h => h.ok
  | .mark h _ => h.ok
  | .markImm h _ _ => h.ok
  | .clauseWaitRelease _ _ _ => true
  | .ldg h m _ adr => h.ok && m.okLoad && adr.ok
  | .ldgNc h m _ adr => h.ok && m.okLoad && adr.ok
  | .ldacq h vsz sc _ adr => h.ok && decide (vsz.toNat < 2) && decide (sc.toNat < 6) && adr.ok
  | .ldb h m _ adr => h.ok && m.okLoad && adr.ok
  | .stg h m _ adr => h.ok && m.okLoad && adr.ok
  | .strel h vsz sc _ adr => h.ok && decide (vsz.toNat < 2) && decide (sc.toNat < 6) && adr.ok
  | .lds h m _ adr => h.ok && m.okLoad && adr.ok
  | .ldsX h vsz swz _ adr => h.ok && decide (vsz.toNat < 3) && swz != 0 && adr.ok
  | .sts h m _ adr => h.ok && m.okLoad && adr.ok
  | .ldc h m _ adr => h.ok && m.okLoad && !m.cv && adr.ok
  | .ldl h m _ adr => h.ok && m.okLoad && adr.ok
  | .stl h m _ adr => h.ok && m.okLoad && adr.ok
  | .atomg h op m _ x => h.ok && m.okAtomg op && x.ok
  | .atomgCas h m _ _ cmp _ _ => h.ok && m.okAtomg .exch && !cmp.isImm32
  | .atoms h op m _ x => h.ok && m.okAtoms op && x.ok
  | .atomsCas h m _ _ cmp _ _ => h.ok && m.okAtoms .exch && !cmp.isImm32
  | .redg h op m x => h.ok && m.okRedg op && x.ok
  | .storeQueueLeave _ _ _ => true
  | .memoryReplay _ _ _ => true
  | .loadComplete _ _ _ => true
  | .bchk h _ => h.ok
  | .bclr h => h.ok
  | .belayAnswer _ _ => true
  | .homeValidate _ _ _ => true
  | .belayRoundSelfInvalidate _ => true
  | .fence h ord sc => h.ok && ord != 0 && decide (sc.toNat < 6)
  | .acqr h sc b => h.ok && !b.isImm32 && (sc == 3 || sc == 4)
  | .anch h _ adr => h.ok && adr.ok
  | .await h => h.ok
  | .awaitTimeout _ _ => true
  | .prefL2 h adr => h.ok && adr.ok
  | .prefLlc h adr => h.ok && adr.ok
  | .gpref h adr => h.ok && adr.ok
  | .cctlWb h all adr => h.ok && adr.ok && (!all || adr.isZero)
  | .cctlInv h all adr => h.ok && adr.ok && (!all || adr.isZero)
  | .localWriteback _ _ _ => true
  | .binit h _ b => h.ok && !b.isImm32
  | .barv h rd sc d _ b => h.ok && !b.isImm32 && decide (sc.toNat < 5) && (rd || d == .v 0)
  | .bexp h _ b => h.ok && !b.isImm32
  | .btry h sc _ _ _ => h.ok && decide (sc.toNat < 5)
  | .bwait h sc _ _ => h.ok && decide (sc.toNat < 5)
  | .binval h _ => h.ok
  | .barwg h _ sc => h.ok && decide (0 < sc.toNat) && decide (sc.toNat < 5)
  | .barrp h _ => h.ok
  | .qresv h pd _ _ b => h.ok && !b.isImm32 && pcoOk pd
  | .qput h _ _ _ => h.ok
  | .qcommit h sc _ _ _ => h.ok && (sc == 4 || sc == 5)
  | .qsig h _ sc _ _ => h.ok && (sc == 4 || sc == 5)
  | .tcopy h _ bar _ _ _ c _ => h.ok && (bar || c == .v 0) && h.fsel == 0
  | .tcopys h _ bar _ _ _ c _ => h.ok && (bar || c == .v 0) && h.fsel == 0
  | .tcopyx h _ bar _ _ _ c _ => h.ok && (bar || c == .v 0) && h.fsel == 0
  | .tcopyr h _ bar _ _ _ c _ => h.ok && (bar || c == .v 0) && h.fsel == 0
  | .copyComplete _ _ => true
  | .chain h _ _ _ => h.ok && h.fsel == 0
  | .chstat h _ _ => h.ok
  | .chainRecord _ _ => true
  | .decwBit h _ _ _ _ _ _ => h.ok && h.fsel == 0
  | .decwDlt h _ sg _ _ _ _ => h.ok && h.fsel == 0 && !sg
  | .decwRle h _ _ _ _ _ _ => h.ok && h.fsel == 0
  | .decodeComplete _ => true
  | .topk h _ _ _ _ _ b _ => h.ok && !b.isImm32 && h.fsel == 0
  | .resid h _ _ _ _ b => h.ok && !b.isImm32 && h.fsel == 0
  | .topkComplete _ => true
  | .bstart h _ _ _ => h.ok
  | .bpop h _ _ => h.ok
  | .bpush h _ _ => h.ok
  | .bstop h => h.ok
  | .tld h fmt hdr _ _ _ b _ => h.ok && !b.isImm32 && (if hdr then fmt == 0 else tileFmtOrReserved fmt)
  | .tldX h fmt hdr _ _ _ b _ => h.ok && !b.isImm32 && !hdr && tileXFmt fmt
  | .tst h fmt hdr _ _ _ b _ => h.ok && !b.isImm32 && (if hdr then fmt == 0 else tileFmtOrReserved fmt)
  | .tstX h fmt hdr _ _ _ b _ => h.ok && !b.isImm32 && !hdr && tileXFmt fmt
  | .tzeroTile h _ => h.ok
  | .tzeroAcc h _ => h.ok
  | .tmov h _ _ => h.ok
  | .ttrn h _ _ => h.ok
  | .tbmp h _ => h.ok
  | .ttagWr h acc n _ => h.ok && (!acc || decide (n.toNat < 8))
  | .ttagRd h acc n _ => h.ok && (!acc || decide (n.toNat < 8))
  | .mma h _ _ _ _ => h.ok
  | .mmas h _ _ _ _ => h.ok
  | .mmaf h _ _ _ => h.ok
  | .matrixComplete _ _ => true
  | .xfwd h c _ _ => h.ok && c != 0 && c != 7
  | .xinv h _ _ _ _ => h.ok
  | .transformService _ => true
  | .accrd h _ _ _ b => h.ok && !b.isImm32
  | .accwr h _ _ _ b => h.ok && !b.isImm32
  | .accout h fmt n _ _ => h.ok && accoutOk fmt n
  | .fbchk h _ _ _ => h.ok
  | .cbld h _ _ b => h.ok && !b.isImm32
  | .cbldTakeover _ _ => true
  | .fillc h _ => h.ok
  | .filla h => h.ok
  | .fillq h _ adr => h.ok && adr.ok && adr.off.isNone
  | .ftinfo h which _ b => h.ok && !b.isImm32 && decide (which.toNat < 5) && (which == 3 || b == .opd (.v 0))
  | .fillv h b => h.ok && !b.isImm32
  | .stopr h _ => h.ok
  | .psamp h _ => h.ok
  | .logfl h => h.ok
  | .evinc h _ b => h.ok && !b.isImm32
  | .allotmentRelease _ _ => true
  | .workgroupPlace _ _ => true
  | .ropePlace _ _ _ _ => true
  | .ropeWaitReserve _ _ _ _ => true
  | .launchAging _ => true
  | .starvationPromote _ _ _ => true
  | .throttleWindowEnd _ => true
  | .pageWalk _ _ _ => true
  | .fltrespRetry _ => true
  | .fltrespUnresolved _ => true
  | .ringRecordWrite _ => true
  | .counterSweep => true
  | .preemptPre _ => true
  | .preemptRes _ => true
  | .preemptKill _ => true
  | .groupSave _ _ => true
  | .preemptOverrun _ _ _ => true
  | .groupResume _ _ => true
  | .ropeStop _ => true
  | .dbgcmdStop _ _ => true
  | .dbgcmdResume _ _ => true
  | .homeMiss _ _ _ => true
  | .fillLaunch _ _ => true
  | .implicitFilla _ => true
  | .heldRequesterResend _ => true
  | .llcEviction _ _ => true
  | .vsbaseWrite _ => true
  | .vssizeWrite _ => true
  | .qkick _ => true
  | .queueStep => true
  | .barrierPacket _ _ => true
  | .copyPacket _ _ _ => true
  | .inval _ _ => true
  | .packetComplete _ _ => true
  | .hostRequest _ _ _ => true
  | .peerInboundRequest _ _ _ _ => true
  | .registerPacket _ _ _ _ _ => true
  | .msiForward _ _ => true
  | .fabcfgWrite _ => true
  | .portstatWrite _ _ => true
  | .flitReceive _ _ => true
  | .nakReceive _ _ => true
  | .ackTimeoutRetrain _ => true
  | .portTrainingDone _ _ => true
  | .portFail _ _ => true
  | .peerTimeout _ => true
  | .coldReset _ _ _ _ => true
  | .basecampTestResult _ => true
  | .enterRun => true
  | .freezeAssert => true
  | .freezeDeassert => true
  | .securityAlarm _ => true
  | .powerThrottle _ _ => true
  | .thermalTrip => true
  | .registerWrite _ _ _ => true
  | .clkAdvance _ => true
  | .unassignedOpcode _ => true
  | .ucieLinkTraining _ _ => true
  | .debugUnlock _ => true

end Sys2Proof
end

