-- ==== Sys2Proof/Machine/Operands.lean ====
section
/-! DEFINITION. The operand forms of the lane instructions: what a field supplies, what is checked of it, and the shared
course of an instruction of the INT, FP, SFU, CVT, XCHG and PAIR classes (spec/02 R44, R51-R53; spec/03 R78, R84). -/

namespace Sys2Proof.Machine

/-- How an operand is read: word integer, pair integer, packed halves, the FP formats, bits, and CPACK's B. -/
inductive OKind | i32 | i64 | ih2 | f32 | fh2 | fb2 | fe4 | fe5 | c16 | cbf | c32 | raw | cpackB
  deriving DecidableEq, Repr

/-- The operand spans two registers, or is a constant, and is no predicate (spec/04 R99). -/
def OKind.wide : OKind → Bool
  | .i64 => true
  | .c32 => true
  | _ => false

/-- The pattern a constant operand supplies (spec/02 R52). -/
def constPattern (n : Fin 16) : Word :=
  match n.val with
  | 0 => 0
  | 1 => 1
  | 2 => 0xFFFFFFFF
  | 3 => 2
  | 4 => 0x3F000000
  | 5 => 0x3F800000
  | 6 => 0xBF800000
  | 7 => 0x40000000
  | 8 => 0x40800000
  | 9 => 0x7FFFFFFF
  | 10 => 0x80000000
  | 11 => 0x7F800000
  | 12 => 0x3C003C00
  | 13 => 0x3F803F80
  | 14 => 0x0000FFFF
  | _ => 0x3FB8AA3B

/-- A constant as a 64-bit operand: the sign extension for 480 to 483 in an integer operand, else a zero high word, which
in a C32 operand is the imaginary part +0 (spec/02 R53). -/
def constWide (k : OKind) (n : Fin 16) : DWord :=
  if k = .i64 ∧ n.val < 4 then (constPattern n).signExtend 64 else (constPattern n).setWidth 64

/-- The word a 9-bit operand supplies in a lane (spec/02 R51). A reserved value never reaches a meaning. -/
def Env.word (e : Env) (o : Opd) (lane : Nat) : Word :=
  match o with
  | .v n => e.vreg n.val lane
  | .s n => e.sreg n.val
  | .p n => if e.preg n.val lane then 1 else 0
  | .k n => constPattern n
  | .rsv _ => 0

/-- The 64-bit value an operand of pair kind supplies in a lane, the low word in the first register (spec/02 R46). -/
def Env.wide (e : Env) (k : OKind) (o : Opd) (lane : Nat) : DWord :=
  match o with
  | .v n => pair64 (e.vreg n.val lane) (e.vreg (n.val + 1) lane)
  | .s n => pair64 (e.sreg n.val) (e.sreg (n.val + 1))
  | .k n => constWide k n
  | _ => 0

/-- A small integer exactly in a format. -/
def FFmt.ofInt9 (f : FFmt) (i : Int) : Nat :=
  (f.write ⟨.rne, false, false, false⟩ (.fin (decide (i < 0)) i.natAbs 0)).1

/-- An FP8 operand's bytes from an immediate: exact where the format holds it, else a free value (log 13). That all four bytes
receive it is the model's choice: R78 speaks of halves alone (log 71). -/
def fp8Immediate (f : FFmt) (e5 : Bool) (i : BitVec 9) : Word :=
  let r := f.write ⟨.rne, false, false, false⟩ (.fin (decide (i.toInt < 0)) i.toInt.natAbs 0)
  let b : BitVec 8 := if r.2 = 0 then BitVec.ofNat 8 r.1 else Config.inexactImmediate (if e5 then 1 else 0) i
  b ++ b ++ b ++ b

/-- The value an immediate of −256 to 255 supplies (spec/03 R78, spec/04 R100). -/
def imm9Value (k : OKind) (i : BitVec 9) : DWord :=
  let x := i.toInt
  let both (c : Nat) : DWord := BitVec.ofNat 64 (c + 65536 * c)
  match k with
  | .i64 => i.signExtend 64
  | .ih2 => both (BitVec.ofInt 16 x).toNat
  | .f32 => BitVec.ofNat 64 (FFmt.fp32.ofInt9 x)
  | .c32 => BitVec.ofNat 64 (FFmt.fp32.ofInt9 x)
  | .fh2 => both (FFmt.fp16.ofInt9 x)
  | .fb2 => both (FFmt.bf16.ofInt9 x)
  | .c16 => BitVec.ofNat 64 (FFmt.fp16.ofInt9 x)
  | .cbf => BitVec.ofNat 64 (FFmt.bf16.ofInt9 x)
  | .fe4 => (fp8Immediate .e4m3 false i).setWidth 64
  | .fe5 => (fp8Immediate .e5m2 true i).setWidth 64
  | .cpackB => (Config.cpackImmediate i).setWidth 64
  | .i32 => (i.signExtend 32).setWidth 64
  | .raw => (i.signExtend 32).setWidth 64

/-- The value operand B or another source supplies in a lane. -/
def Env.operand (e : Env) (k : OKind) (b : SrcB) (lane : Nat) : DWord :=
  match b with
  | .opd o => if k.wide then e.wide k o lane else (e.word o lane).setWidth 64
  | .imm9 i => imm9Value k i
  | .imm32 w => if k = .i64 then w.signExtend 64 else w.setWidth 64

/-- A source the instruction may not name: reserved, beyond the allotment, an odd pair, a predicate as a pair
(spec/02 R46, spec/04 R99). -/
def Env.badSrc (e : Env) (wide : Bool) (o : Opd) : Bool :=
  match o with
  | .v n => decide (e.g.vAlloc ≤ n.val) || (wide && (n.val % 2 == 1 || decide (e.g.vAlloc ≤ n.val + 1)))
  | .s n => decide (e.g.sAlloc ≤ n.val) || (wide && (n.val % 2 == 1 || decide (e.g.sAlloc ≤ n.val + 1)))
  | .p n => decide (e.g.pAlloc ≤ n.val) || wide
  | .k _ => false
  | .rsv _ => true

def Env.badB (e : Env) (wide : Bool) (b : SrcB) : Bool :=
  match b with
  | .opd o => e.badSrc wide o
  | _ => false

/-- A V destination of n registers whose first must be a multiple of n (spec/02 R46, spec/06 R156). -/
def Env.badV (e : Env) (n : Nat) (o : Opd) : Bool :=
  match o with
  | .v r => decide (e.g.vAlloc < r.val + n) || r.val % n != 0
  | _ => true

/-- An S destination of n registers. -/
def Env.badS (e : Env) (n : Nat) (o : Opd) : Bool :=
  match o with
  | .s r => decide (e.g.sAlloc < r.val + n) || r.val % n != 0
  | _ => true

/-- A P destination. -/
def Env.badP (e : Env) (o : Opd) : Bool :=
  match o with
  | .p r => decide (e.g.pAlloc ≤ r.val)
  | _ => true

end Sys2Proof.Machine

namespace Sys2Proof
open Machine

/-- The class and number of a register operand, with its second register when it is a pair. -/
def Opd.regs (wide : Bool) : Opd → List (RegCls × Nat)
  | .v n => (.v, n.val) :: (if wide then [(.v, n.val + 1)] else [])
  | .s n => (.s, n.val) :: (if wide then [(.s, n.val + 1)] else [])
  | .p n => [(.p, n.val)]
  | _ => []

def SrcB.regs (wide : Bool) : SrcB → List (RegCls × Nat)
  | .opd o => o.regs wide
  | _ => []

end Sys2Proof

namespace Sys2Proof.Machine

/-- A lane's inputs. -/
structure LaneIn where
  lane     : Nat
  launched : Bool
  active   : Bool := true
  fpcr     : Word
  prng     : Word
  xs       : List DWord
  deriving DecidableEq, Repr

def LaneIn.at (i : LaneIn) (k : Nat) : DWord := (i.xs[k]?).getD 0
def LaneIn.a (i : LaneIn) : Word := lo32 (i.at 0)
def LaneIn.b (i : LaneIn) : Word := lo32 (i.at 1)
def LaneIn.c (i : LaneIn) : Word := lo32 (i.at 2)
def LaneIn.a64 (i : LaneIn) : DWord := i.at 0
def LaneIn.b64 (i : LaneIn) : DWord := i.at 1
def LaneIn.c64 (i : LaneIn) : DWord := i.at 2
def LaneIn.w (i : LaneIn) (k : Nat) : Word := lo32 (i.at k)

/-- A lane's results: D (and D + 1), a second destination of a PAIR word, flags, carry, the next PRNG state, and whether the
lane met a reserved T5 byte. -/
structure LaneOut where
  d     : DWord
  d2    : Word := 0
  flags : Flg := 0
  pout  : Bool := false
  prng  : Option Word := none
  badT5 : Bool := false
  deriving DecidableEq, Repr

def LaneOut.w32 (w : Word) : LaneOut := { d := w.setWidth 64 }
def LaneOut.w64 (d : DWord) : LaneOut := { d := d }

inductive DKind | w32 | w64
  deriving DecidableEq, Repr

/-- The operands of a lane instruction, and what is checked of them. -/
structure AluForm where
  dst   : Opd
  dk    : DKind
  srcs  : List (SrcB × OKind)
  /-- the carry predicate, 127 for none -/
  pco   : Option (BitVec 7) := none
  pOk   : Bool := false
  pOnly : Bool := false
  fmts  : List (BitVec 5) := []
  minWidth : Nat := 0
  dst2  : Option Opd := none
  segment : Option (BitVec 3) := none
  /-- which sources of a PAIR word are read -/
  pairReads : Option (List Bool) := none
  /-- it may raise FPSR flags -/
  fp    : Bool := true
  /-- its sources are read in every lane of the mask -/
  every : Bool := false
  deriving DecidableEq, Repr

def OKind.fp : OKind → Bool
  | .i32 => false
  | .i64 => false
  | .ih2 => false
  | _ => true

end Sys2Proof.Machine

namespace Sys2Proof
open Machine

def DA.form (o : DA) (k : OKind) : AluForm :=
  { dst := o.d, dk := if k.wide then .w64 else .w32, srcs := [(.opd o.a, k)], fp := k.fp }
def DAB.form (o : DAB) (k : OKind) : AluForm :=
  { dst := o.d, dk := .w32, srcs := [(.opd o.a, k), (o.b, k)], fp := k.fp }
def DAB.form64 (o : DAB) (k : OKind) : AluForm := { o.form k with dk := .w64 }
def DAB.formMix (o : DAB) (dk : DKind) (ka kb : OKind) : AluForm :=
  { dst := o.d, dk := dk, srcs := [(.opd o.a, ka), (o.b, kb)], fp := ka.fp }
def DABC.form (o : DABC) (k : OKind) : AluForm :=
  { dst := o.d, dk := .w32, srcs := [(.opd o.a, k), (o.b, k), (.opd o.c, k)], fp := k.fp }
def DABC.form64 (o : DABC) (k : OKind) : AluForm := { o.form k with dk := .w64 }
def DABC.formMix (o : DABC) (dk : DKind) (ka kb kc : OKind) : AluForm :=
  { dst := o.d, dk := dk, srcs := [(.opd o.a, ka), (o.b, kb), (.opd o.c, kc)], fp := ka.fp }

end Sys2Proof

namespace Sys2Proof.Machine

def vOpd (n : BitVec 8) : Opd := .v ⟨n.toNat, by have := n.isLt; omega⟩

/-- Which of A, B and D a row of a PAIR word reads (spec/03 R86). -/
def pairReadMask (isF : Bool) (p : PairOp) : List Bool :=
  let u := p.sub.toNat
  if isF then [true, true, u == 2 || u == 7 || u == 12]
  else [true, u != 0x0E && !(decide (0x20 ≤ u) && decide (u < 0x24)) && !(decide (u < 0x20) && p.mod2.getLsbD 0), u == 3]

/-- The sources that are read. -/
def AluForm.used (f : AluForm) : List (SrcB × OKind) :=
  match f.pairReads with
  | none => f.srcs
  | some m => ((f.srcs.zip m).filter (·.2)).map (·.1)

/-- The destination is of a class the instruction forbids, or beyond the allotment (spec/04 R99, spec/02 R46). -/
def Env.badDst (e : Env) (f : AluForm) : Bool :=
  (match f.dst with
  | .v _ => f.pOnly || e.badV (if f.dk = .w64 then 2 else 1) f.dst
  | .p _ => !f.pOk || e.badP f.dst
  | _ => true) ||
  (match f.dst2 with | some o => e.badV 1 o | none => false) ||
  (match f.pco with | some q => q != 127 && decide (e.g.pAlloc ≤ q.toNat) | none => false)

def AluForm.dstRegs (f : AluForm) : List (RegCls × Nat) :=
  f.dst.regs (f.dk == .w64) ++ (match f.dst2 with | some o => o.regs false | none => []) ++
  (match f.pco with | some q => if q = 127 then [] else [(.p, q.toNat)] | none => [])

/-- The checks of a lane instruction (spec/03 R84). -/
def AluForm.chk (f : AluForm) (bob : Bool) (e : Env) : Chk :=
  { ill := decide (e.g.width < f.minWidth) ||
      (match f.segment with | some g => g == 7 || decide (e.g.width < 2 ^ g.toNat) && g != 0 | none => false),
    opd := e.badDst f || f.used.any (fun x => e.badB x.2.wide x.1),
    fmt := f.fmts.any (fun c => (Fmt.ofCode c).isNone),
    bob := bob,
    reads := f.used.flatMap (fun x => x.1.regs x.2.wide),
    writes := f.dstRegs,
    every := f.every }

/-- The checks of a lane instruction of long latency: R74 leaves none of its destination writes open (spec/03 R75). -/
def AluForm.slowChk (f : AluForm) (e : Env) : Chk := { f.chk false e with writes := [] }

/-- The inputs of a lane. -/
def AluForm.laneIn (f : AluForm) (e : Env) (active : Bool) (lane : Nat) : LaneIn :=
  { lane := lane, launched := e.isLaunched lane, active := active, fpcr := e.g.fpcr, prng := e.g.prng.lookD 0 lane,
    xs := f.srcs.map (fun x => e.operand x.2 x.1 lane) }

/-- The register writes of a lane's results. -/
def AluForm.writesOf (f : AluForm) (lane : Nat) (r : LaneOut) : List RegWrite :=
  (match f.dst with
  | .v n => ⟨.v, n.val, lane, lo32 r.d⟩ :: (if f.dk = .w64 then [⟨.v, n.val + 1, lane, hi32 r.d⟩] else [])
  | .p n => [⟨.p, n.val, lane, lo32 r.d⟩]
  | _ => []) ++
  (match f.dst2 with | some (.v n) => [⟨.v, n.val, lane, r.d2⟩] | _ => []) ++
  (match f.pco with | some q => if q = 127 then [] else [⟨.p, q.toNat, lane, if r.pout then 1 else 0⟩] | none => [])

/-- Flags raised by the launched lanes (spec/01 R35). -/
def flagsOf (e : Env) (rs : List (Nat × LaneOut)) : Flg :=
  Flg.all ((rs.filter (fun r => e.isLaunched r.1)).map (fun r => r.2.flags))

/-- Start the operation that writes the lanes' results: at t + lat, or at an SFU completion. Each stochastic rounding has
advanced its lane's PRNG (spec/01 R26). -/
def State.startAlu (s : State) (e : Env) (h : Hdr) (f : AluForm) (due : Option Nat) (what : What)
    (rs : List (Nat × LaneOut)) : State :=
  let o := { e.op s (e.flag h) what with
    due := due, writes := rs.flatMap (fun r => f.writesOf r.1 r.2), fl := flagsOf e rs, fpsr := f.fp }
  (s.start e o).modGroup e.core e.ctx (fun g =>
    { g with prng := rs.foldl (fun t r => match r.2.prng with | some w => t.putD 0 r.1 w | none => t) g.prng })

/-- The launched lanes that met a reserved T5 byte (spec/01 R15). -/
def t5Lanes (e : Env) (rs : List (Nat × LaneOut)) : DWord :=
  maskOf ((rs.filter (fun r => r.2.badT5 && e.isLaunched r.1)).map (·.1))

/-- What a lane instruction does once its checks have passed: nothing without an active lane; the FORMAT trap where FPCR.FMTTRAP
asks for it; else its operation. -/
def State.runAlu (s : State) (e : Env) (h : Hdr) (f : AluForm) (due : Option Nat) (what : What)
    (rs : List (Nat × LaneOut)) : State :=
  if (e.active h).isEmpty then s.retire e h
  else if e.g.fpcr.getLsbD 4 && t5Lanes e rs != 0 then s.trapAt e 23 (t5Lanes e rs) e.sl.pc
  else (s.startAlu e h f due what rs).retire e h

/-- A fixed-latency instruction that computes each lane from its own operands. -/
def alu (h : Hdr) (lat : Nat) (f : AluForm) (g : LaneIn → LaneOut) : State → Out :=
  issue h (f.chk true) (fun e s =>
    s.runAlu e h f (some (e.clk + lat)) .fixed ((e.active h).map (fun l => (l, g (f.laneIn e true l)))))

/-- An FP instruction or PAIR word: the same, and no bobbin program may issue it (spec/10 R276). -/
def fpu (h : Hdr) (f : AluForm) (g : LaneIn → LaneOut) : State → Out :=
  issue h (f.chk false) (fun e s =>
    s.runAlu e h f (some (e.clk + 4)) .fixed ((e.active h).map (fun l => (l, g (f.laneIn e true l)))))

/-- One that computes the active lanes together. -/
def aluAll (h : Hdr) (lat : Nat) (f : AluForm) (g : Word → List LaneIn → List (Nat × LaneOut)) : State → Out :=
  issue h (f.chk true) (fun e s =>
    s.runAlu e h f (some (e.clk + lat)) .fixed (g e.g.fpcr ((e.active h).map (fun l => f.laneIn e true l))))

/-- An exchange: it reads every lane of the slot's mask (spec/05 R129). -/
def aluGrp (h : Hdr) (lat : Nat) (f : AluForm) (g : Word → Nat → List LaneIn → List (Nat × LaneOut)) : State → Out :=
  issue h (f.chk false) (fun e s =>
    s.runAlu e h f (some (e.clk + lat)) .fixed
      (g e.g.fpcr e.serial ((lanesOf e.sl.mask).map (fun l => f.laneIn e ((e.active h).contains l) l))))

/-- A special function: the partition's unit completes it (spec/04 R116). -/
def sfu (h : Hdr) (f : AluForm) (g : LaneIn → LaneOut) : State → Out :=
  issue h f.slowChk (fun e s =>
    s.runAlu e h f none (.sfu (e.ctx / 16)) ((e.active h).map (fun l => (l, g (f.laneIn e true l)))))

/-! FP modifiers (spec/04 R101, R103) -/

end Sys2Proof.Machine

namespace Sys2Proof.Machine

/-- The rounding mode: FPCR.RM, or the modifier's (spec/01 R21, spec/03 R80). -/
def roundingOf (rm : BitVec 3) (fpcr : Word) : Rm :=
  let k := if rm = 0 then fpcr.toNat % 4 else rm.toNat - 1
  match k with
  | 0 => .rne
  | 1 => .rz
  | 2 => .ru
  | _ => .rd

def envOf (rm : BitVec 3) (sat : Bool) (fpcr : Word) : FEnv :=
  { rm := roundingOf rm fpcr, sat := sat, fz32 := fpcr.getLsbD 2, fz16 := fpcr.getLsbD 3 }

end Sys2Proof.Machine

namespace Sys2Proof
open Machine

def FpMods.env (m : FpMods) (fpcr : Word) : FEnv := envOf m.rm m.sat fpcr
def CpxMods.env (m : CpxMods) (fpcr : Word) : FEnv := envOf m.rm m.sat fpcr
def CvtMods.env (m : CvtMods) (fpcr : Word) : FEnv := envOf m.rm m.sat fpcr

def Fmt3.kind : Fmt3 → OKind
  | .f32 => .f32
  | .h2 => .fh2
  | .b2 => .fb2
def Fmt3.ffmt : Fmt3 → FFmt
  | .f32 => .fp32
  | .h2 => .fp16
  | .b2 => .bf16

/-- The sign bits of a word in a format. -/
def Fmt3.signs : Fmt3 → Word
  | .f32 => 0x80000000
  | _ => 0x80008000

end Sys2Proof

namespace Sys2Proof.Machine

/-- .ABS first, then negation, on each half of a packed word (spec/04 R103). -/
def signMods (t : Fmt3) (abs neg : Bool) (w : Word) : Word :=
  let w := if abs then w &&& ~~~t.signs else w
  if neg then w ^^^ t.signs else w

end Sys2Proof.Machine

namespace Sys2Proof
open Machine

def FpMods.onA (m : FpMods) (t : Fmt3) (w : Word) : Word := signMods t m.abs m.na w
def FpMods.onB (m : FpMods) (t : Fmt3) (w : Word) : Word := signMods t false m.nb w
def FpMods.onC (m : FpMods) (t : Fmt3) (w : Word) : Word := signMods t false m.nc w

end Sys2Proof

namespace Sys2Proof.Machine

/-- The codes of one element of A, B and C. -/
structure Elems where
  a : Nat
  b : Nat
  c : Nat
  deriving DecidableEq, Repr

end Sys2Proof.Machine

namespace Sys2Proof
open Machine

/-- A function of one element applied to a word, or to each half, after the sign modifiers. -/
def Fmt3.each (t : Fmt3) (m : FpMods) (fpcr : Word) (g : FFmt → FEnv → Elems → Nat × Flg) (i : LaneIn) : LaneOut :=
  let v := m.env fpcr
  let a := (m.onA t i.a).toNat
  let b := (m.onB t i.b).toNat
  let c := (m.onC t i.c).toNat
  match t with
  | .f32 =>
    let r := g .fp32 v ⟨a, b, c⟩
    { LaneOut.w32 (BitVec.ofNat 32 r.1) with flags := r.2 }
  | _ =>
    let lo := g t.ffmt v ⟨a % 65536, b % 65536, c % 65536⟩
    let hi := g t.ffmt v ⟨a / 65536, b / 65536, c / 65536⟩
    { LaneOut.w32 (BitVec.ofNat 32 (lo.1 + 65536 * hi.1)) with flags := lo.2 ||| hi.2 }

def CFmt.kind : CFmt → OKind
  | .c16 => .c16
  | .cbf => .cbf
  | .c32 => .c32

def DAB.formC (o : DAB) (t : CFmt) : AluForm := o.formMix (if t = .c32 then .w64 else .w32) t.kind t.kind
def DABC.formC (o : DABC) (t : CFmt) : AluForm := o.formMix (if t = .c32 then .w64 else .w32) t.kind t.kind t.kind

end Sys2Proof

namespace Sys2Proof.Machine

/-- A codebook entry as a group's lane reads it: the slot's, or, while a CBLD of the slot is in flight, the old or the new one;
a slot of another ASID reads as after reset (spec/04 R127, spec/07 R206). -/
def State.codebookEntry (s : State) (slot lane idx : Nat) : Nat :=
  let k := s.core s.cur.core
  let asid := match s.group? s.cur.core s.cur.ctx with | some g => s.asid g.launch | none => 0
  if k.bookAsid.lookD 0 slot ≠ asid then 0 else
  k.ops.foldl (fun acc o => match o.what with
    | .cbld sl book _ => if sl = slot ∧ o.asid = asid ∧ Config.seesNew s.serial (64 * idx + lane) o.id then
        (book[idx]?).getD 0 else acc
    | _ => acc) (k.books.lookD 0 (slot * 256 + idx))

end Sys2Proof.Machine
end

