-- ==== Sys2Proof/Machine/Int.lean ====
section
/-! DEFINITION. Integer and logic instructions (spec/04 R98-R108): fixed latency 4, no FPSR flag, no memory. -/

namespace Sys2Proof.Machine

/-- Clamp an exact integer to INT32, or to UINT32 with .U (spec/04 R108). -/
def satInt (m : SatU) (bits : Nat) (x : Int) : Int :=
  if m.sat then
    let lo : Int := if m.u then 0 else -(2 ^ (bits - 1) : Nat)
    let hi : Int := if m.u then (2 ^ bits : Nat) - 1 else (2 ^ (bits - 1) : Nat) - 1
    if x < lo then lo else if hi < x then hi else x
  else x

/-- The number a word stands for, signed or unsigned. -/
def numOf (u : Bool) (w : Word) : Int := if u then w.toNat else w.toInt
def numOf16 (u : Bool) (w : BitVec 16) : Int := if u then w.toNat else w.toInt

/-- Each half of a packed word separately, low half first. -/
def onHalves (f : BitVec 16 → BitVec 16 → BitVec 16 → BitVec 16) (a b c : Word) : Word :=
  f (a.extractLsb' 16 16) (b.extractLsb' 16 16) (c.extractLsb' 16 16) ++
  f (a.extractLsb' 0 16) (b.extractLsb' 0 16) (c.extractLsb' 0 16)

/-- A signed or unsigned comparison by its code (spec/04 R102); codes beyond GE are refused by the decoder. -/
def icmp (cc : BitVec 4) (x y : Int) : Bool :=
  match cc.toNat with
  | 0 => decide (x = y)
  | 1 => decide (x ≠ y)
  | 2 => decide (x < y)
  | 3 => decide (x ≤ y)
  | 4 => decide (y < x)
  | _ => decide (y ≤ x)

def ones32 (b : Bool) : Word := if b then 0xFFFFFFFF else 0

/-- Byte i of a word. -/
def byteOf (w : Word) (i : Nat) : BitVec 8 := (w >>> (8 * i)).setWidth 8

/-- Number of 1 bits; leading zeros; trailing zeros (32 for zero); bits in reverse. -/
def popc (w : Word) : Nat := (List.range 32).foldl (fun n i => if w.getLsbD i then n + 1 else n) 0
def clz (w : Word) : Nat := if w = 0 then 32 else 31 - Nat.log2 w.toNat
def ctz (w : Word) : Nat := ((List.range 32).find? (fun i => w.getLsbD i)).getD 32
def brev (w : Word) : Word := (List.range 32).foldl (fun r i => (r <<< 1) ||| (if w.getLsbD i then 1 else 0)) 0

/-- Left, logical right and arithmetic right shifts by a whole register (spec/04 R104). -/
def shlW (a b : Word) : Word := if b.toNat < 32 then a <<< b.toNat else 0
def shrW (a b : Word) : Word := if b.toNat < 32 then a >>> b.toNat else 0
def shraW (a b : Word) : Word := a.sshiftRight (min b.toNat 31)

/-- Position and width of a bit field given by B (spec/04 R106). -/
def bitField (b : Word) : Nat × Nat :=
  let pos := b.toNat % 256
  let len := b.toNat / 256 % 256
  (pos, if pos < 32 then min len (32 - pos) else 0)

/-- The low w bits set. -/
def lowMask (w : Nat) : Word := BitVec.ofNat 32 (2 ^ w - 1)

def bfeU (a b : Word) : Word := let (pos, w) := bitField b; (a >>> pos) &&& lowMask w
def bfeS (a b : Word) : Word :=
  let (pos, w) := bitField b
  let x := (a >>> pos) &&& lowMask w
  if w ≠ 0 ∧ x.getLsbD (w - 1) then x ||| ~~~ lowMask w else x
def bfi (a b c : Word) : Word :=
  let (pos, w) := bitField b
  let k := lowMask w <<< pos
  (c &&& ~~~ k) ||| ((a <<< pos) &&& k)

/-- Any bitwise function of three words by its truth table (spec/04 R107). -/
def logt (lut : BitVec 8) (a b c : Word) : Word :=
  (List.range 8).foldl (fun r i =>
    if lut.getLsbD i then
      r ||| ((if i.testBit 0 then a else ~~~a) &&& (if i.testBit 1 then b else ~~~b) &&& (if i.testBit 2 then c else ~~~c))
    else r) 0

/-- Byte permute (spec/04 R107). -/
def prmt (a b c : Word) : Word :=
  (List.range 4).foldl (fun r i =>
    let n := (c >>> (4 * i)).toNat % 16
    let x := if n % 8 < 4 then byteOf a (n % 8) else byteOf b (n % 8 - 4)
    let y : BitVec 8 := if n < 8 then x else if x.getLsbD 7 then 0xFF else 0
    r ||| (y.setWidth 32 <<< (8 * i))) 0

/-- Dot products of four bytes and of two halves (spec/04 R104). -/
def idp4 (u : Bool) (a b c : Word) : Word :=
  (List.range 4).foldl (fun (r : Word) i =>
    let x := byteOf a i
    let y := byteOf b i
    r + BitVec.ofInt 32 (if u then (x.toNat : Int) * y.toNat else x.toInt * y.toInt)) c
def idp2 (u : Bool) (a b c : Word) : Word :=
  [0, 16].foldl (fun (r : Word) i =>
    r + BitVec.ofInt 32 (numOf16 u (a.extractLsb' i 16) * numOf16 u (b.extractLsb' i 16))) c

/-- The high word of a product. -/
def mulHi (u : Bool) (a b : Word) : Word := hi32 (BitVec.ofInt 64 (numOf u a * numOf u b))

/-- Sums and differences of two words, wrapped or saturated. -/
def iaddW (m : SatU) (a b : Word) : Word := BitVec.ofInt 32 (satInt m 32 (numOf m.u a + numOf m.u b))
def isubW (m : SatU) (a b : Word) : Word := BitVec.ofInt 32 (satInt m 32 (numOf m.u a - numOf m.u b))
def iadd3W (m : SatU) (a b c : Word) : Word := BitVec.ofInt 32 (satInt m 32 (numOf m.u a + numOf m.u b + numOf m.u c))

def iminW (u : Bool) (a b : Word) : Word := if numOf u b < numOf u a then b else a
def imaxW (u : Bool) (a b : Word) : Word := if numOf u a < numOf u b then b else a

/-- The carry rules of IADDC and ISUBB: the result and Pco (spec/04 R105). -/
def addc (a b c : Word) : LaneOut :=
  let t := a.toNat + b.toNat + c.toNat % 2
  { LaneOut.w32 (BitVec.ofNat 32 t) with pout := decide (2 ^ 32 ≤ t) }
def subb (a b c : Word) : LaneOut :=
  let n := b.toNat + c.toNat % 2
  { LaneOut.w32 (a - BitVec.ofNat 32 n) with pout := decide (a.toNat < n) }

section
variable (h : Hdr)

def execIadd (m : SatU) (o : DAB) : State → Out := alu h 4 (o.form .i32) (fun i => .w32 (iaddW m i.a i.b))
def execIsub (m : SatU) (o : DAB) : State → Out := alu h 4 (o.form .i32) (fun i => .w32 (isubW m i.a i.b))
def execIadd3 (m : SatU) (o : DABC) : State → Out := alu h 4 (o.form .i32) (fun i => .w32 (iadd3W m i.a i.b i.c))
def execIaddc (o : DABC) (pco : BitVec 7) : State → Out :=
  alu h 4 { o.form .i32 with pco := some pco } (fun i => addc i.a i.b i.c)
def execIsubb (o : DABC) (pco : BitVec 7) : State → Out :=
  alu h 4 { o.form .i32 with pco := some pco } (fun i => subb i.a i.b i.c)
def execIadd64 (o : DAB) : State → Out := alu h 4 (o.form64 .i64) (fun i => .w64 (i.a64 + i.b64))
def execIsub64 (o : DAB) : State → Out := alu h 4 (o.form64 .i64) (fun i => .w64 (i.a64 - i.b64))
def execImul (o : DAB) : State → Out := alu h 4 (o.form .i32) (fun i => .w32 (i.a * i.b))
def execImulhiS (o : DAB) : State → Out := alu h 4 (o.form .i32) (fun i => .w32 (mulHi false i.a i.b))
def execImulhiU (o : DAB) : State → Out := alu h 4 (o.form .i32) (fun i => .w32 (mulHi true i.a i.b))
def execImad (o : DABC) : State → Out := alu h 4 (o.form .i32) (fun i => .w32 (i.a * i.b + i.c))
/-- The C operand and the destination are pairs, A and B words (spec/04 R104). -/
def execImadwS (o : DABC) : State → Out :=
  alu h 4 (o.formMix .w64 .i32 .i32 .i64) (fun i => .w64 (i.a.signExtend 64 * i.b.signExtend 64 + i.c64))
def execImadwU (o : DABC) : State → Out :=
  alu h 4 (o.formMix .w64 .i32 .i32 .i64) (fun i => .w64 (i.a.setWidth 64 * i.b.setWidth 64 + i.c64))
def execIabs (sat : Bool) (o : DA) : State → Out :=
  alu h 4 (o.form .i32) (fun i => .w32 (if i.a = 0x80000000 ∧ sat then 0x7FFFFFFF else if i.a.msb then -i.a else i.a))
def execIminS (o : DAB) : State → Out := alu h 4 (o.form .i32) (fun i => .w32 (iminW false i.a i.b))
def execIminU (o : DAB) : State → Out := alu h 4 (o.form .i32) (fun i => .w32 (iminW true i.a i.b))
def execImaxS (o : DAB) : State → Out := alu h 4 (o.form .i32) (fun i => .w32 (imaxW false i.a i.b))
def execImaxU (o : DAB) : State → Out := alu h 4 (o.form .i32) (fun i => .w32 (imaxW true i.a i.b))
def execIclampS (o : DABC) : State → Out := alu h 4 (o.form .i32) (fun i => .w32 (iminW false (imaxW false i.a i.b) i.c))
def execIclampU (o : DABC) : State → Out := alu h 4 (o.form .i32) (fun i => .w32 (iminW true (imaxW true i.a i.b) i.c))
def execIshl (o : DAB) : State → Out := alu h 4 (o.form .i32) (fun i => .w32 (shlW i.a i.b))
def execIshr (o : DAB) : State → Out := alu h 4 (o.form .i32) (fun i => .w32 (shrW i.a i.b))
def execIshra (o : DAB) : State → Out := alu h 4 (o.form .i32) (fun i => .w32 (shraW i.a i.b))
def execShfL (o : DABC) : State → Out := alu h 4 (o.form .i32) (fun i => .w32 (hi32 (pair64 i.a i.b <<< (i.c.toNat % 32))))
def execShfR (o : DABC) : State → Out := alu h 4 (o.form .i32) (fun i => .w32 (lo32 (pair64 i.a i.b >>> (i.c.toNat % 32))))
def execIrot (o : DAB) : State → Out := alu h 4 (o.form .i32) (fun i => .w32 (i.a.rotateLeft (i.b.toNat % 32)))
def execIsad (u : Bool) (o : DABC) : State → Out :=
  alu h 4 (o.form .i32) (fun i => .w32 (BitVec.ofNat 32 (numOf u i.a - numOf u i.b).natAbs + i.c))
def execIdp4S (o : DABC) : State → Out := alu h 4 (o.form .i32) (fun i => .w32 (idp4 false i.a i.b i.c))
def execIdp4U (o : DABC) : State → Out := alu h 4 (o.form .i32) (fun i => .w32 (idp4 true i.a i.b i.c))
/-- B is a packed 16-bit operand (spec/04 R100). -/
def execIdp2 (u : Bool) (o : DABC) : State → Out := alu h 4 (o.formMix .w32 .i32 .ih2 .i32) (fun i => .w32 (idp2 u i.a i.b i.c))
def execPopc (o : DA) : State → Out := alu h 4 (o.form .i32) (fun i => .w32 (BitVec.ofNat 32 (popc i.a)))
def execClz (o : DA) : State → Out := alu h 4 (o.form .i32) (fun i => .w32 (BitVec.ofNat 32 (clz i.a)))
def execCtz (o : DA) : State → Out := alu h 4 (o.form .i32) (fun i => .w32 (BitVec.ofNat 32 (ctz i.a)))
def execBrev (o : DA) : State → Out := alu h 4 (o.form .i32) (fun i => .w32 (brev i.a))
def execBfeS (o : DAB) : State → Out := alu h 4 (o.form .i32) (fun i => .w32 (bfeS i.a i.b))
def execBfeU (o : DAB) : State → Out := alu h 4 (o.form .i32) (fun i => .w32 (bfeU i.a i.b))
def execBfi (o : DABC) : State → Out := alu h 4 (o.form .i32) (fun i => .w32 (bfi i.a i.b i.c))
/-- A P destination takes bit 0 (spec/04 R99); spec/04 R99 lists the forms. -/
def execLogt (o : DABC) (lut : BitVec 8) : State → Out :=
  alu h 4 { o.form .i32 with pOk := true } (fun i => .w32 (logt lut i.a i.b i.c))
def execPrmt (o : DABC) : State → Out := alu h 4 (o.form .i32) (fun i => .w32 (prmt i.a i.b i.c))
def execSel (o : DABC) : State → Out :=
  alu h 4 { o.form .i32 with pOk := true } (fun i => .w32 (if i.c.getLsbD 0 then i.a else i.b))
def execIsetS (cc : BitVec 4) (o : DAB) : State → Out :=
  alu h 4 { o.form .i32 with pOk := true } (fun i => .w32 (ones32 (icmp cc i.a.toInt i.b.toInt)))
def execIsetU (cc : BitVec 4) (o : DAB) : State → Out :=
  alu h 4 { o.form .i32 with pOk := true } (fun i => .w32 (ones32 (icmp cc i.a.toNat i.b.toNat)))
/-- The operands are pairs, the result one word (spec/04 R104). -/
def execIset64 (cc : BitVec 4) (u : Bool) (o : DAB) : State → Out :=
  alu h 4 { o.form .i64 with pOk := true } (fun i => .w32 (ones32
    (if u then icmp cc i.a64.toNat i.b64.toNat else icmp cc i.a64.toInt i.b64.toInt)))
def execImov (o : DA) : State → Out := alu h 4 { o.form .i32 with pOk := true } (fun i => .w32 i.a)
def execMovi (d : Opd) (imm : Word) : State → Out :=
  alu h 4 { dst := d, dk := .w32, srcs := [(.imm32 imm, .i32)] } (fun i => .w32 i.a)
def execLea (sh : BitVec 5) (o : DAB) : State → Out := alu h 4 (o.form .i32) (fun i => .w32 (i.a + (i.b <<< sh.toNat)))
def execLea64 (u : Bool) (sh : BitVec 5) (o : DAB) : State → Out :=
  alu h 4 { o.form64 .i64 with srcs := [(.opd o.a, .i64), (o.b, .i32)] }
    (fun i => .w64 (i.a64 + ((if u then i.b.setWidth 64 else i.b.signExtend 64) <<< sh.toNat)))
/-- PSET writes a predicate and requires one (spec/04 R99, R107). -/
def execPset (o : DABC) (lut : BitVec 8) : State → Out :=
  alu h 4 { o.form .i32 with pOk := true, pOnly := true } (fun i => .w32 (logt lut i.a i.b i.c &&& 1))
def execIaddH2 (m : SatU) (o : DAB) : State → Out :=
  alu h 4 (o.form .ih2) (fun i => .w32 (onHalves (fun a b _ =>
    BitVec.ofInt 16 (satInt m 16 (numOf16 m.u a + numOf16 m.u b))) i.a i.b 0))
def execIsubH2 (m : SatU) (o : DAB) : State → Out :=
  alu h 4 (o.form .ih2) (fun i => .w32 (onHalves (fun a b _ =>
    BitVec.ofInt 16 (satInt m 16 (numOf16 m.u a - numOf16 m.u b))) i.a i.b 0))
def execImulH2 (o : DAB) : State → Out := alu h 4 (o.form .ih2) (fun i => .w32 (onHalves (fun a b _ => a * b) i.a i.b 0))
def execImadH2 (o : DABC) : State → Out := alu h 4 (o.form .ih2) (fun i => .w32 (onHalves (fun a b c => a * b + c) i.a i.b i.c))
def execIminH2 (u : Bool) (o : DAB) : State → Out :=
  alu h 4 (o.form .ih2) (fun i => .w32 (onHalves (fun a b _ => if numOf16 u b < numOf16 u a then b else a) i.a i.b 0))
def execImaxH2 (u : Bool) (o : DAB) : State → Out :=
  alu h 4 (o.form .ih2) (fun i => .w32 (onHalves (fun a b _ => if numOf16 u a < numOf16 u b then b else a) i.a i.b 0))
def execIshlH2 (o : DAB) : State → Out :=
  alu h 4 (o.form .ih2) (fun i => .w32 (onHalves (fun a b _ => if b.toNat < 16 then a <<< b.toNat else 0) i.a i.b 0))
def execIsetH2 (cc : BitVec 4) (u : Bool) (o : DAB) : State → Out :=
  alu h 4 (o.form .ih2) (fun i => .w32 (onHalves (fun a b _ =>
    if icmp cc (numOf16 u a) (numOf16 u b) then 0xFFFF else 0) i.a i.b 0))
end

end Sys2Proof.Machine
end

