-- ==== Sys2Proof/Machine/Cvt.lean ====
section
/-! DEFINITION. Conversions (spec/04 R117-R128). -/

namespace Sys2Proof.Machine

/-- Element i of a word in a format: the field's start and width; E3M2 and E2M3 take six bits of their byte (spec/01 R11). -/
def elemBits (f : Fmt) (i : Nat) : Nat × Nat :=
  (f.bits * i, if f = .e3m2 ∨ f = .e2m3 then 6 else f.bits)

def getElem (f : Fmt) (w : Word) (i : Nat) : Nat :=
  let (p, n) := elemBits f i
  w.toNat / 2 ^ p % 2 ^ n

/-- The word with element i replaced by a code; the element's unused top bits are written zero. -/
def setElem (f : Fmt) (w : Word) (i : Nat) (code : Nat) : Word :=
  let p := f.bits * i
  let k : Word := BitVec.ofNat 32 ((2 ^ f.bits - 1) * 2 ^ p)
  (w &&& ~~~k) ||| (BitVec.ofNat 32 (code % 2 ^ f.bits * 2 ^ p))

/-- A code of a reserved format never reaches a meaning: the issue checks have trapped (spec/01 R10). -/
def fmtOr (c : BitVec 5) : Fmt := (Fmt.ofCode c).getD .fp32

/-- CVTF of one lane (spec/04 R118). -/
def cvtfLane (m : CvtMods) (x : ElemSel) (i : LaneIn) : LaneOut :=
  let sf := fmtOr x.sfmt
  let df := fmtOr x.dfmt
  let v := m.env i.fpcr
  let r := df.convert v (sf.value v (getElem sf i.a x.sidx.toNat))
  { LaneOut.w32 (setElem df i.c x.didx.toNat r.1) with flags := r.2 }

/-- CVTF.SR of one lane: a finite element advances the PRNG once and rounds by it (spec/01 R26). -/
def cvtfSrLane (sat : Bool) (x : ElemSel) (i : LaneIn) : LaneOut :=
  let sf := fmtOr x.sfmt
  let df := fmtOr x.dfmt
  let v : FEnv := { CvtMods.env { sat := sat, rm := 1 } i.fpcr with rm := .rne }
  match sf.value v (getElem sf i.a x.sidx.toNat) with
  | .fin n m e =>
    let st := xorshiftStep i.prng
    let rnd := st.toNat / 65536
    let r := match df.ffmt? with
      | some g => g.srRound sat (v.fz g) rnd n m e
      | none => srE8M0 rnd m e
    { LaneOut.w32 (setElem df i.c x.didx.toNat r.1) with flags := r.2, prng := some st }
  | y =>
    let r := df.convert v y
    { LaneOut.w32 (setElem df i.c x.didx.toNat r.1) with flags := r.2 }

/-- The floating-point operand format of CVTFI and CVTIF: FP32, or FP16 or BF16 in the low half (spec/04 R119). -/
def cvt2Fmt (c : BitVec 2) : Fmt := if c = 1 then .fp16 else if c = 2 then .bf16 else .fp32

def cvtfi (rm : CvtMods) (src : BitVec 2) (u : Bool) (fpcr a : Word) : Nat × Flg :=
  let sf := cvt2Fmt src
  (if u then Fmt.uint32 else .int32).convert (rm.env fpcr) (sf.value (rm.env fpcr) (getElem sf a 0))

def cvtif (m : CvtMods) (dst : BitVec 2) (u : Bool) (fpcr a : Word) : Nat × Flg :=
  (cvt2Fmt dst).convert (m.env fpcr) ((if u then Fmt.uint32 else .int32).value (m.env fpcr) a.toNat)

/-- CVTII: element 0 of A, wrapped or clamped to the destination, extended by its signedness (spec/04 R120). -/
def cvtii (sat : Bool) (src dst : BitVec 3) (a : Word) : Word :=
  let sf := fmtOr (src.setWidth 5)
  let df := fmtOr (dst.setWidth 5)
  let x : Int := match sf.value ⟨.rne, false, false, false⟩ (getElem sf a 0) with
    | .fin n m _ => if n then -(m : Int) else m
    | _ => 0
  match df.intRange? with
  | none => 0
  | some (lo, hi) =>
    let y := if sat then (if x < lo then lo else if hi < x then hi else x)
      else
        let z := x % (2 ^ df.bits : Nat)
        if hi < z then z - (2 ^ df.bits : Nat) else z
    BitVec.ofInt 32 y

/-- Two FP32 words packed to two codes of a format (spec/04 R121). -/
def pack2 (f : Fmt) (m : CvtMods) (fpcr a b : Word) : Nat × Nat × Flg :=
  let v := m.env fpcr
  let x := f.convert v (Fmt.fp32.value v a.toNat)
  let y := f.convert v (Fmt.fp32.value v b.toNat)
  (x.1, y.1, x.2 ||| y.2)

/-- floor(log2) limits of a block's scale (spec/04 R122). -/
def pmxEmax : Fmt → Int
  | .e2m1 => 2
  | .e3m2 => 4
  | .e2m3 => 2
  | .e4m3 => 8
  | .e5m2 => 15
  | _ => 6

/-- One PACKMX block: its active lanes as (lane, launched, A, C) give each lane's result (spec/04 R122, R123). -/
def packmxBlock (m : CvtMods) (df : Fmt) (fpcr : Word) (ls : List LaneIn) : List (Nat × LaneOut) :=
  let v := m.env fpcr
  let con := ls.filter (·.launched)
  match con with
  | [] => []
  | c0 :: _ =>
    let val (i : LaneIn) := Fmt.fp32.value v i.a.toNat
    let bad := con.any (fun i => (val i).isNan || (val i).isInf)
    -- the largest magnitude as floor(log2), none when every contributor is zero
    let top : Option Int := con.foldl (fun t i => match val i with
      | .fin _ n e => if n = 0 then t else
          let l : Int := (ilog2 n : Nat) + e
          match t with | none => some l | some k => some (max k l)
      | _ => t) none
    let off : Int := c0.c.toInt
    let scode : Nat := if bad then 255 else match top with
      | none => 0
      | some l =>
        let e := l - pmxEmax df + off
        ((if e < -127 then -127 else if 127 < e then 127 else e) + 127).toNat
    ls.map (fun i =>
      let r : Nat × Flg :=
        if scode = 255 then (0, Flg.ioc)
        else if scode = 0 then
          match val i, df.ffmt? with
          | .fin n _ _, some g => (g.signed n 0, 0)
          | .inf n, some g => (g.signed n 0, 0)
          | .nan _, some g => (g.signed (i.a.msb) 0, 0)
          | _, none => (0, 0)
        else match val i with
          | .fin n k e => df.convert v (.fin n k (e - ((scode : Nat) - 127)))
          | x => df.convert v x
      (i.lane, { LaneOut.w32 (BitVec.ofNat 32 (scode * 256 + r.1 % 256)) with flags := r.2 }))

/-- Widen one scaled element: exact product, one rounding (spec/01 R19, R20, R30; spec/04 R124). -/
def widenScaled (v : FEnv) (df : FFmt) (x : FV) (scale : Nat) : Nat × Flg := df.write v (x.scaleBy scale)

/-- A narrow element's exact value, never flushed. -/
def narrowValue (f : Fmt) (code : Nat) : FV := f.value ⟨.rne, false, false, false⟩ code

/-- The byte of five elements' signs (spec/04 R125). -/
def packt5 (a b : Word) : Word :=
  let dig (w : Word) (i : Nat) : Nat := let x := (byteOf w i).toInt; if x = 0 then 0 else if 0 < x then 1 else 2
  BitVec.ofNat 32 (dig a 0 + 3 * dig a 1 + 9 * dig a 2 + 27 * dig a 3 + 81 * dig b 0)

def unpkt5 (k : Nat) (a : Word) : LaneOut :=
  match t5Digits (byteOf a k).toNat with
  | none => { LaneOut.w32 0 with flags := Flg.fmt, badT5 := true }
  | some ds => .w32 (BitVec.ofNat 32 (ds.foldr (fun d r => r * 16 + (d % 16).toNat) 0))

section
variable (h : Hdr)

def execCvtf (m : CvtMods) (d a c : Opd) (x : ElemSel) : State → Out :=
  alu h 4 { dst := d, dk := .w32, srcs := [(.opd a, .raw), (.opd (.k 0), .raw), (.opd c, .raw)], fmts := [x.sfmt, x.dfmt] }
    (cvtfLane m x)
def execCvtfSr (sat : Bool) (d a c : Opd) (x : ElemSel) : State → Out :=
  alu h 4 { dst := d, dk := .w32, srcs := [(.opd a, .raw), (.opd (.k 0), .raw), (.opd c, .raw)], fmts := [x.sfmt, x.dfmt] }
    (cvtfSrLane sat x)
def execCvtfi (u : Bool) (src : BitVec 2) (m : CvtMods) (o : DA) : State → Out :=
  alu h 4 (o.form .raw) (fun i =>
    let r := cvtfi m src u i.fpcr i.a
    { LaneOut.w32 (BitVec.ofNat 32 r.1) with flags := r.2 })
def execCvtif (u : Bool) (dst : BitVec 2) (m : CvtMods) (o : DA) : State → Out :=
  alu h 4 { o.form .i32 with fp := true } (fun i =>
    let r := cvtif m dst u i.fpcr i.a
    { LaneOut.w32 (BitVec.ofNat 32 r.1) with flags := r.2 })
def execCvtii (sat : Bool) (src dst : BitVec 3) (o : DA) : State → Out :=
  alu h 4 { o.form .i32 with fp := true } (fun i => .w32 (cvtii sat src dst i.a))
def execPackh (m : CvtMods) (o : DAB) : State → Out :=
  alu h 4 (o.form .f32) (fun i =>
    let r := pack2 .fp16 m i.fpcr i.a i.b
    { LaneOut.w32 (BitVec.ofNat 32 (r.1 + 65536 * r.2.1)) with flags := r.2.2 })
def execPackb (m : CvtMods) (o : DAB) : State → Out :=
  alu h 4 (o.form .f32) (fun i =>
    let r := pack2 .bf16 m i.fpcr i.a i.b
    { LaneOut.w32 (BitVec.ofNat 32 (r.1 + 65536 * r.2.1)) with flags := r.2.2 })
/-- PACKF8 keeps the other two bytes of D, which it reads at issue (spec/04 R121). -/
def execPackf8 (e5 hi : Bool) (m : CvtMods) (o : DAB) : State → Out :=
  alu h 4 { dst := o.d, dk := .w32, srcs := [(.opd o.a, .f32), (o.b, .f32), (.opd o.d, .raw)] } (fun i =>
    let r := pack2 (if e5 then .e5m2 else .e4m3) m i.fpcr i.a i.b
    let p := if hi then 65536 else 1
    let keep : Word := if hi then 0x0000FFFF else 0xFFFF0000
    { LaneOut.w32 ((i.c &&& keep) ||| BitVec.ofNat 32 ((r.1 + 256 * r.2.1) * p)) with flags := r.2.2 })
/-- The blocks of 16, 32 or 64 lanes of the issuing half (spec/04 R122). -/
def execPackmx (blk : BitVec 2) (dfmt : BitVec 5) (m : CvtMods) (d a c : Opd) : State → Out :=
  aluAll h 4 { dst := d, dk := .w32, srcs := [(.opd a, .f32), (.opd (.k 0), .raw), (.opd c, .i32)], fmts := [dfmt],
               minWidth := 8 * 2 ^ blk.toNat }
    (fun fpcr ls =>
      let n := 8 * 2 ^ blk.toNat
      (List.range (64 / n)).flatMap (fun j => packmxBlock m (fmtOr dfmt) fpcr (ls.filter (fun i => i.lane / n = j))))
/-- D's other half is written zero (spec/04 R124). -/
def execUnpkmx (scb : BitVec 2) (m : CvtMods) (d a c : Opd) (x : ElemSel) : State → Out :=
  alu h 4 { dst := d, dk := .w32, srcs := [(.opd a, .raw), (.opd (.k 0), .raw), (.opd c, .raw)], fmts := [x.sfmt, x.dfmt] }
    (fun i =>
      let sf := fmtOr x.sfmt
      let df := (fmtOr x.dfmt).ffmt?.getD .fp32
      let r := widenScaled (m.env i.fpcr) df (narrowValue sf (getElem sf i.a x.sidx.toNat)) (byteOf i.c scb.toNat).toNat
      { LaneOut.w32 (BitVec.ofNat 32 (if x.didx = 1 ∧ df ≠ .fp32 then r.1 * 65536 else r.1)) with flags := r.2 })
def execPackt5 (o : DAB) : State → Out := alu h 4 { o.form .i32 with fp := true } (fun i => .w32 (packt5 i.a i.b))
def execUnpkt5 (k : BitVec 2) (o : DA) : State → Out := alu h 4 (o.form .raw) (fun i => unpkt5 k.toNat i.a)
/-- The codebook entry is read at issue; during a CBLD of the slot each lane sees the old or the new entry (spec/04 R127). -/
def execCbdec (slot : BitVec 2) (half : Bool) (pair : BitVec 2) (fp16 : Bool) (m : CvtMods) (d a c : Opd) (s : State) : Out :=
  alu h 4 { dst := d, dk := .w32, srcs := [(.opd a, .raw), (.opd (.k 0), .raw), (.opd c, .raw)] } (fun i =>
    let x := i.a.toNat / (if half then 65536 else 1) % 65536
    let ent := s.codebookEntry slot.toNat i.lane (x % 256)
    let df : FFmt := if fp16 then .fp16 else .bf16
    let one (k : Nat) := widenScaled (m.env i.fpcr) df (cb16Element x ent k) (i.c.toNat % 256)
    let r := one (2 * pair.toNat)
    let q := one (2 * pair.toNat + 1)
    { LaneOut.w32 (BitVec.ofNat 32 (r.1 + 65536 * q.1)) with flags := r.2 ||| q.2 }) s
/-- CPACK copies bits (spec/04 R128). -/
def execCpack (o : DAB) : State → Out :=
  alu h 4 (o.form .cpackB) (fun i => .w32 ((i.a &&& 0xFFFF) ||| (i.b <<< 16)))
def execCpackU (hi : Bool) (o : DA) : State → Out :=
  alu h 4 (o.form .raw) (fun i => .w32 (if hi then i.a >>> 16 else i.a &&& 0xFFFF))
end

end Sys2Proof.Machine
end

