-- ==== Sys2Proof/Machine/Float.lean ====
section
/-! DEFINITION. Floating-point and complex instructions (spec/04 R109-R114). Every result is exact before one rounding. -/

namespace Sys2Proof.Machine

/-- Whether a code of the format is a subnormal, a NaN and so on: the class bit (spec/04 R112). -/
def fclassBit (f : FFmt) (code : Nat) : Nat :=
  let neg := code.testBit f.signPos
  match f.decode code with
  | .nan true => 0
  | .nan false => 1
  | .inf n => if n then 2 else 9
  | .fin _ m _ =>
    if m = 0 then (if neg then 5 else 6)
    else if m < 2 ^ f.mbits then (if neg then 4 else 7)
    else (if neg then 3 else 8)

/-- A comparison by its code, with its flag (spec/04 R102). -/
def fcmp (cc : BitVec 4) (x y : FV) : Bool × Flg :=
  let un := x.isNan || y.isNan
  let fl : Flg := if x == .nan true || y == .nan true then Flg.ioc else 0
  (match cc.toNat with
  | 0 => x.eq y
  | 1 => !un && !x.eq y
  | 2 => x.lt y
  | 3 => x.lt y || x.eq y
  | 4 => y.lt x
  | 5 => y.lt x || x.eq y
  | 6 => !un
  | 7 => un
  | 8 => un || x.eq y
  | 9 => un || !x.eq y
  | 10 => un || x.lt y
  | 11 => un || x.lt y || x.eq y
  | 12 => un || y.lt x
  | _ => un || y.lt x || x.eq y, fl)

/-- The exact sum of terms rounded once to the format. -/
def sumTo (f : FFmt) (v : FEnv) (ts : List FV) : Nat × Flg := f.write v (FV.sum v.rm ts)

/-- A + B; A × B; A × B + C; A + B + C, on codes (spec/04 R109). -/
def fadd (f : FFmt) (v : FEnv) (a b : Nat) : Nat × Flg := sumTo f v [f.read (v.fz f) a, f.read (v.fz f) b]
def fmul (f : FFmt) (v : FEnv) (a b : Nat) : Nat × Flg := f.write v ((f.read (v.fz f) a).mul (f.read (v.fz f) b))
def ffma (f : FFmt) (v : FEnv) (a b c : Nat) : Nat × Flg :=
  sumTo f v [(f.read (v.fz f) a).mul (f.read (v.fz f) b), f.read (v.fz f) c]
def fadd3 (f : FFmt) (v : FEnv) (a b c : Nat) : Nat × Flg :=
  sumTo f v [f.read (v.fz f) a, f.read (v.fz f) b, f.read (v.fz f) c]

def fminmax (isMax : Bool) (f : FFmt) (v : FEnv) (a b : Nat) : Nat × Flg := f.minmax (v.fz f) isMax a b
def fclamp (f : FFmt) (v : FEnv) (a b c : Nat) : Nat × Flg :=
  let x := fminmax true f v a b
  let y := fminmax false f v x.1 c
  (y.1, x.2 ||| y.2)
/-- The composition of R33 that R109 gives. -/
def fmed3 (f : FFmt) (v : FEnv) (a b c : Nat) : Nat × Flg :=
  let lo := fminmax false f v a b
  let hi := fminmax true f v a b
  let m := fminmax false f v hi.1 c
  let r := fminmax true f v lo.1 m.1
  (r.1, lo.2 ||| hi.2 ||| m.2 ||| r.2)

/-- All ones of the element's width, or zero. -/
def fset (cc : BitVec 4) (f : FFmt) (v : FEnv) (a b : Nat) : Nat × Flg :=
  let r := fcmp cc (f.read (v.fz f) a) (f.read (v.fz f) b)
  (if r.1 then 2 ^ (f.signPos + 1) - 1 else 0, r.2)

/-- Round to an integral value of the same format (spec/04 R111). -/
def frnd (f : FFmt) (v : FEnv) (a : Nat) : Nat × Flg :=
  match f.read (v.fz f) a with
  | .nan i => (f.nanCode, if i then Flg.ioc else 0)
  | .inf n => (f.signed n f.infCode, 0)
  | .fin n m e =>
    if 0 ≤ e then ((f.roundTo .rz false false n m e).1, 0)
    else ((f.roundTo .rz false false n (roundAt v.rm n m e 0).1 0).1, 0)

/-- A × 2^B with one rounding; beyond ±1,024 the exponent no longer changes the result (spec/04 R111). -/
def fscale (f : FFmt) (v : FEnv) (a : Nat) (b : Int) : Nat × Flg :=
  let k : Int := if b < -1024 then -1024 else if 1024 < b then 1024 else b
  match f.read (v.fz f) a with
  | .fin n m e => f.write v (.fin n m (e + k))
  | x => f.write v x

/-- Σ aᵢ × bᵢ + C rounded once to FP32, elements of a narrow format (spec/04 R109, R111). -/
def fdp (f : FFmt) (bits n : Nat) (v : FEnv) (a b c : Nat) : Nat × Flg :=
  let el (x i : Nat) : FV := f.read (v.fz f) (x / 2 ^ (bits * i) % 2 ^ bits)
  sumTo .fp32 v ((List.range n).map (fun i => (el a i).mul (el b i)) ++ [FFmt.fp32.read v.fz32 c])

/-- The real and imaginary parts of a complex operand. -/
structure Cpx where
  re : FV
  im : FV
  deriving DecidableEq, Repr

/-- ar·br − ai·bi and ar·bi + ai·br with C's parts as further terms (spec/04 R113). -/
def cmulParts (a b : Cpx) : List FV × List FV :=
  ([a.re.mul b.re, (a.im.mul b.im).negate], [a.re.mul b.im, a.im.mul b.re])

end Sys2Proof.Machine

namespace Sys2Proof
open Machine

/-- The bits of a part: C16 and CBF in halves, C32 in words. -/
def CFmt.part (t : CFmt) : FFmt × Nat :=
  match t with
  | .c16 => (.fp16, 16)
  | .cbf => (.bf16, 16)
  | .c32 => (.fp32, 32)

/-- Read a complex operand, negating the imaginary part or both parts as asked. -/
def CFmt.readC (t : CFmt) (v : FEnv) (conj neg : Bool) (x : DWord) : Cpx :=
  let (f, w) := t.part
  let re := f.read (v.fz f) (x.toNat % 2 ^ w)
  let im := f.read (v.fz f) (x.toNat / 2 ^ w % 2 ^ w)
  let im := if conj then im.negate else im
  if neg then ⟨re.negate, im.negate⟩ else ⟨re, im⟩

/-- Round both parts and pack them. -/
def CFmt.writeC (t : CFmt) (v : FEnv) (re im : List FV) : LaneOut :=
  let (f, w) := t.part
  let r := sumTo f v re
  let i := sumTo f v im
  { d := BitVec.ofNat 64 (r.1 + i.1 * 2 ^ w), flags := r.2 ||| i.2 }

end Sys2Proof

namespace Sys2Proof.Machine

section
variable (h : Hdr)

def execFadd (t : Fmt3) (m : FpMods) (o : DAB) : State → Out :=
  fpu h (o.form t.kind) (fun i => t.each m i.fpcr (fun f v xs => fadd f v xs.a xs.b) i)
def execFmul (t : Fmt3) (m : FpMods) (o : DAB) : State → Out :=
  fpu h (o.form t.kind) (fun i => t.each m i.fpcr (fun f v xs => fmul f v xs.a xs.b) i)
def execFfma (t : Fmt3) (m : FpMods) (o : DABC) : State → Out :=
  fpu h (o.form t.kind) (fun i => t.each m i.fpcr (fun f v xs => ffma f v xs.a xs.b xs.c) i)
def execFmin (t : Fmt3) (m : FpMods) (o : DAB) : State → Out :=
  fpu h (o.form t.kind) (fun i => t.each m i.fpcr (fun f v xs => fminmax false f v xs.a xs.b) i)
def execFmax (t : Fmt3) (m : FpMods) (o : DAB) : State → Out :=
  fpu h (o.form t.kind) (fun i => t.each m i.fpcr (fun f v xs => fminmax true f v xs.a xs.b) i)
/-- FSET.F32 alone may write a predicate (spec/04 R99, R110). -/
def execFset (t : Fmt3) (cc : BitVec 4) (m : FpMods) (o : DAB) : State → Out :=
  fpu h { o.form t.kind with pOk := t == .f32 } (fun i => t.each m i.fpcr (fun f v xs => fset cc f v xs.a xs.b) i)
def execFclamp (t : Fmt3) (m : FpMods) (o : DABC) : State → Out :=
  fpu h (o.form t.kind) (fun i => t.each m i.fpcr (fun f v xs => fclamp f v xs.a xs.b xs.c) i)
def execFadd3 (m : FpMods) (o : DABC) : State → Out :=
  fpu h (o.form .f32) (fun i => Fmt3.f32.each m i.fpcr (fun f v xs => fadd3 f v xs.a xs.b xs.c) i)
def execFmed3 (t : Fmt3) (m : FpMods) (o : DABC) : State → Out :=
  fpu h (o.form t.kind) (fun i => t.each m i.fpcr (fun f v xs => fmed3 f v xs.a xs.b xs.c) i)
/-- A and B are packed halves, C and the result FP32 (spec/04 R109). -/
def execFdp2 (t : Fmt3) (m : FpMods) (o : DABC) : State → Out :=
  fpu h (o.formMix .w32 t.kind t.kind .f32) (fun i =>
    let r := fdp (t.ffmt) 16 2 (m.env i.fpcr) (m.onA t i.a).toNat (m.onB t i.b).toNat (m.onC .f32 i.c).toNat
    { LaneOut.w32 (BitVec.ofNat 32 r.1) with flags := r.2 })
def execFdp4 (e5 : Bool) (m : FpMods) (o : DABC) : State → Out :=
  fpu h (o.formMix .w32 (if e5 then .fe5 else .fe4) (if e5 then .fe5 else .fe4) .f32) (fun i =>
    let r := fdp (if e5 then .e5m2 else .e4m3) 8 4 (m.env i.fpcr) i.a.toNat i.b.toNat (m.onC .f32 i.c).toNat
    { LaneOut.w32 (BitVec.ofNat 32 r.1) with flags := r.2 })
def execFrnd (t : Fmt3) (m : FpMods) (o : DA) : State → Out :=
  fpu h (o.form t.kind) (fun i => t.each m i.fpcr (fun f v xs => frnd f v xs.a) i)
/-- B is a signed word, or a signed half for each half (spec/04 R109). -/
def execFscale (t : Fmt3) (m : FpMods) (o : DAB) : State → Out :=
  fpu h (o.formMix .w32 t.kind (if t == .f32 then .i32 else .ih2)) (fun i =>
    { i with } |> t.each { m with nb := false } i.fpcr (fun f v xs =>
      fscale f v xs.a (if f = .fp32 then (BitVec.ofNat 32 xs.b).toInt else (BitVec.ofNat 16 xs.b).toInt)))
/-- The class mask of the bits as stored, without a flag (spec/04 R112). -/
def execFclass (t : Fmt3) (o : DA) : State → Out :=
  fpu h (o.form t.kind) (fun i => .w32 (
    match t with
    | .f32 => BitVec.ofNat 32 (2 ^ fclassBit .fp32 i.a.toNat)
    | _ => BitVec.ofNat 32 (2 ^ fclassBit .fp16 (i.a.toNat % 65536) + 65536 * 2 ^ fclassBit .fp16 (i.a.toNat / 65536))))

def execCadd (t : CFmt) (m : CpxMods) (o : DAB) : State → Out :=
  fpu h (o.formC t) (fun i =>
    let v := m.env i.fpcr
    let a := t.readC v m.cja false i.a64
    let b := t.readC v m.cjb false i.b64
    t.writeC v [a.re, b.re] [a.im, b.im])
def execCmul (t : CFmt) (m : CpxMods) (o : DAB) : State → Out :=
  fpu h (o.formC t) (fun i =>
    let v := m.env i.fpcr
    let p := cmulParts (t.readC v m.cja false i.a64) (t.readC v m.cjb false i.b64)
    t.writeC v p.1 p.2)
def execCfma (t : CFmt) (m : CpxMods) (o : DABC) : State → Out :=
  fpu h (o.formC t) (fun i =>
    let v := m.env i.fpcr
    let p := cmulParts (t.readC v m.cja false i.a64) (t.readC v m.cjb false i.b64)
    let c := t.readC v false m.nc i.c64
    t.writeC v (p.1 ++ [c.re]) (p.2 ++ [c.im]))
/-- ar² + ai², an FP32 word; conjugating A changes nothing (spec/04 R114). -/
def execCabs2 (t : CFmt) (m : CpxMods) (o : DA) : State → Out :=
  fpu h { o.form t.kind with dk := .w32 } (fun i =>
    let v := m.env i.fpcr
    let a := t.readC v m.cja false i.a64
    let r := sumTo .fp32 v [a.re.mul a.re, a.im.mul a.im]
    { LaneOut.w32 (BitVec.ofNat 32 r.1) with flags := r.2 })
end

end Sys2Proof.Machine
end

