-- ==== Sys2Proof/Machine/Exchange.lean ====
section
/-! DEFINITION. Exchanges between lanes (spec/05 R129-R134): lanes of the issuing slot's mask are readable, others are not. -/

namespace Sys2Proof.Machine

/-- The A value of a lane, or the lane's own where that lane is unreadable (spec/05 R129). -/
def laneA (ls : List LaneIn) (src : Nat) (own : LaneIn) : Word :=
  match ls.find? (fun j => j.lane = src) with
  | some j => j.a
  | none => own.a

/-- Every active lane gets the word f gives it. -/
def eachActive (ls : List LaneIn) (f : LaneIn → LaneOut) : List (Nat × LaneOut) :=
  (ls.filter (·.active)).map (fun i => (i.lane, f i))

/-- An exchange whose lane L reads lane src L. -/
def xchg (h : Hdr) (o : DA) (src : Nat → Nat) : State → Out :=
  aluGrp h 4 { o.form .raw with fp := false, every := true } (fun _ _ ls => eachActive ls (fun i => .w32 (laneA ls (src i.lane) i)))

/-- The integer reductions (spec/05 R130). -/
def redInt (op : RedOp) (u : Bool) (a b : Word) : Word :=
  match op with
  | .add => a + b
  | .min => iminW u a b
  | .max => imaxW u a b
  | .and => a &&& b
  | .or => a ||| b

/-- One FP32 step of a reduction: an RNE sum, or R33's minimum or maximum. -/
def redF32 (op : RedOp) (v : FEnv) (a b : Nat) : Nat × Flg :=
  match op with
  | .add => fadd .fp32 v a b
  | .min => fminmax false .fp32 v a b
  | _ => fminmax true .fp32 v a b

/-- The environment of the FP32 reductions: RNE, no saturation, FZ32 of FPCR. -/
def redEnv (fpcr : Word) : FEnv := { rm := .rne, sat := false, fz32 := fpcr.getLsbD 2, fz16 := fpcr.getLsbD 3 }

/-- A term of an FP32 reduction, flushed, with IOC if it is a signalling NaN (spec/01 R29, R32). -/
def redTerm (v : FEnv) (a : Word) : Nat × Flg :=
  (FFmt.fp32.flushCode v.fz32 a.toNat, if FFmt.fp32.decode a.toNat == .nan true then Flg.ioc else 0)

/-- Join two optional terms; a missing one lets its partner pass unchanged (spec/05 R130). -/
def joinTerm (op : RedOp) (v : FEnv) : Option (Nat × Flg) → Option (Nat × Flg) → Option (Nat × Flg)
  | some a, some b => let r := redF32 op v a.1 b.1; some (r.1, a.2 ||| b.2 ||| r.2)
  | some a, none => some a
  | none, b => b

/-- The quad reduction over its contributing lanes (spec/05 R130). -/
def qred (op : RedOp) (u f32 : Bool) (fpcr : Word) (quad : List LaneIn) : LaneOut :=
  if f32 then
    let v := redEnv fpcr
    let t (k : Nat) : Option (Nat × Flg) := (quad.find? (fun i => i.lane % 4 = k)).map (fun i => redTerm v i.a)
    match joinTerm op v (joinTerm op v (t 0) (t 1)) (joinTerm op v (t 2) (t 3)) with
    | some r => { LaneOut.w32 (BitVec.ofNat 32 r.1) with flags := r.2 }
    | none => .w32 0
  else
    match quad with
    | [] => .w32 0
    | i :: is => .w32 (is.foldl (fun r j => redInt op u r j.a) i.a)

/-- The lane a SHFL reads, if it lies in the segment (spec/05 R132). -/
def shflSrc (mode : ShflMode) (seg lane n : Nat) : Option Nat :=
  let base := lane / seg * seg
  match mode with
  | .idx => some (base + n % seg)
  | .up => if base + n ≤ lane then some (lane - n) else none
  | .dn => if lane + n < base + seg then some (lane + n) else none
  | .xor => if (lane ^^^ n) / seg = lane / seg then some (lane ^^^ n) else none

/-- Remove the k-th element, giving it and the rest. -/
def takeNth (k : Nat) : List (Nat × Flg) → (Nat × Flg) × List (Nat × Flg)
  | [] => ((0, 0), [])
  | x :: xs => if k = 0 then (x, xs) else let r := takeNth (k - 1) xs; (r.1, x :: r.2)

/-- One binary tree of RNE additions: each addition joins the two terms Config.treePick names (spec/05 R134, log 6). -/
def treeAdd (v : FEnv) (serial : Nat) : Nat → List (Nat × Flg) → Nat × Flg
  | _, [] => (0, 0)
  | _, [x] => x
  | 0, x :: _ => x
  | fuel + 1, ts =>
    let a := takeNth (Config.treePick serial fuel 0 % ts.length) ts
    let b := takeNth (Config.treePick serial fuel 1 % a.2.length) a.2
    let r := fadd .fp32 v a.1.1 b.1.1
    treeAdd v serial fuel ((r.1, a.1.2 ||| b.1.2 ||| r.2) :: b.2)

/-- The identity of a reduction (spec/05 R134). -/
def redIdentity (op : RedOp) (u f32 : Bool) : Word :=
  match op with
  | .add => 0
  | .min => if f32 then 0x7F800000 else if u then 0xFFFFFFFF else 0x7FFFFFFF
  | .max => if f32 then 0xFF800000 else if u then 0 else 0x80000000
  | .and => 0xFFFFFFFF
  | .or => 0

/-- LRED over the contributing lanes. -/
def lred (op : RedOp) (u f32 : Bool) (fpcr : Word) (serial : Nat) (con : List LaneIn) : LaneOut :=
  if con.isEmpty then .w32 (redIdentity op u f32)
  else if f32 then
    let v := redEnv fpcr
    let ts := con.map (fun i => redTerm v i.a)
    let r := match op with
      -- the flags are those of the tree's additions alone
      | .add => treeAdd v serial ts.length (ts.map (fun (t : Nat × Flg) => (t.1, 0)))
      | _ => match ts.foldl (fun r t => joinTerm op v r (some t)) none with
        | some x => x
        | none => (0, 0)
    { LaneOut.w32 (BitVec.ofNat 32 r.1) with flags := r.2 }
  else .w32 (con.foldl (fun r i => redInt op u r i.a) (redIdentity op u false))

section
variable (h : Hdr)

def execQswpH (o : DA) : State → Out := xchg h o (fun l => l ^^^ 1)
def execQswpV (o : DA) : State → Out := xchg h o (fun l => l ^^^ 2)
def execQswpD (o : DA) : State → Out := xchg h o (fun l => l ^^^ 3)
def execQbcst (k : BitVec 2) (o : DA) : State → Out := xchg h o (fun l => l / 4 * 4 + k.toNat)
def execQred (op : RedOp) (u f32 : Bool) (o : DA) : State → Out :=
  aluGrp h 4 { o.form .raw with fp := f32 } (fun fpcr _ ls =>
    eachActive ls (fun i => qred op u f32 fpcr (ls.filter (fun j => j.active && j.lane / 4 = i.lane / 4))))
/-- Each active lane's own A where the source is outside the segment or unreadable (spec/05 R132). -/
def execShfl (mode : ShflMode) (seg : BitVec 3) (o : DAB) : State → Out :=
  fun s => aluGrp h 6 { o.form .raw with fp := false, srcs := [(.opd o.a, .raw), (o.b, .i32)], segment := some seg, every := true } (fun _ _ ls =>
    let w := if seg = 0 then s.curWidth else 2 ^ seg.toNat
    eachActive ls (fun i => .w32 (match shflSrc mode w i.lane (i.b.toNat % 64) with
      | some src => laneA ls src i
      | none => i.a))) s
def execVoteAny (o : DA) : State → Out :=
  aluGrp h 6 { o.form .raw with fp := false, pOk := true, pOnly := true } (fun _ _ ls =>
    let r := ls.any (fun i => i.active && i.launched && i.a.getLsbD 0)
    eachActive ls (fun _ => .w32 (if r then 1 else 0)))
def execVoteAll (o : DA) : State → Out :=
  aluGrp h 6 { o.form .raw with fp := false, pOk := true, pOnly := true } (fun _ _ ls =>
    let r := ls.all (fun i => !(i.active && i.launched) || i.a.getLsbD 0)
    eachActive ls (fun _ => .w32 (if r then 1 else 0)))
def execVoteBal (o : DA) : State → Out :=
  aluGrp h 6 { o.form .raw with fp := false, dk := .w64 } (fun _ _ ls =>
    let m := maskOf ((ls.filter (fun i => i.active && i.launched && i.a.getLsbD 0)).map (·.lane))
    eachActive ls (fun _ => .w64 m))
def execMatchLanes (o : DA) : State → Out :=
  aluGrp h 6 { o.form .raw with fp := false, dk := .w64 } (fun _ _ ls =>
    eachActive ls (fun i => .w64 (maskOf ((ls.filter (fun j => j.active && j.launched && j.a == i.a)).map (·.lane)))))
def execLred (op : RedOp) (u f32 : Bool) (o : DA) : State → Out :=
  aluGrp h 6 { o.form .raw with fp := f32 } (fun fpcr serial ls =>
    let r := lred op u f32 fpcr serial (ls.filter (fun i => i.active && i.launched))
    eachActive ls (fun _ => r))
/-- The running result of the contributing lanes in ascending order (spec/05 R134). -/
def execLscan (op : RedOp) (u exc : Bool) (o : DA) : State → Out :=
  aluGrp h 6 { o.form .raw with fp := false } (fun _ _ ls =>
    eachActive ls (fun i =>
      let pre := (ls.filter (fun j => j.active && j.launched && j.lane < i.lane)).foldl
        (fun r j => redInt op u r j.a) (redIdentity op u false)
      .w32 (if i.launched && !exc then redInt op u pre i.a else pre)))
end

end Sys2Proof.Machine
end

