-- ==== Sys2Proof/Machine/Translate.lean ====
section
/-! DEFINITION. Address translation: the context table, the five-level walk, the TLB, permissions, page faults
(spec/14 R323-R332; spec/16 R363; spec/19 R427, R436). -/

namespace Sys2Proof.Machine

/-- Kinds of access for permission and for TYPE 1 records (spec/14 R332). -/
inductive Acc | read | write | fetch
  deriving DecidableEq, Repr

/-- A translated address: where the byte lies and what its leaf says. -/
structure Xl where
  peer   : Bool
  addr   : Nat
  cp     : Nat
  gen    : Bool
  genidx : Nat
  vpol   : Nat
  blklog : Nat
  deriving DecidableEq, Repr

/-- The outcome of a translation with its permission check. -/
inductive TRes
  | ok (x : Xl)
  | page
  | prot (walk : Bool)
  | genw
  | peerFault
  deriving DecidableEq, Repr

/-- What a walk finds: a leaf entry with its address and page size, an entry with V 0, or a walk error. -/
inductive WalkRes
  | leaf (entry : Nat) (e : DWord) (size : Nat)
  | absent
  | error
  | hole
  deriving DecidableEq, Repr

/-- Bits 63 to 57 equal bit 56 (spec/06 R152). -/
def canonical (va : DWord) : Bool := ((va.setWidth 57).signExtend 64) == va

/-- Physical memory read at the coherent caches; none where the host answers with an error (spec/14 R437). -/
def State.physRead? (s : State) (a n : Nat) : Option Nat :=
  if s.hostFails a then none else some (s.numAt false a n)

/-- The level-5 table of an ASID, if its descriptor is valid (spec/14 R323). -/
def State.root? (s : State) (asid : Nat) : Option Nat :=
  match s.physRead? (s.ctxbase.toNat + 64 * asid) 16 with
  | none => none
  | some d => if bits d 64 16 = asid ∧ d.testBit 80 then some (bits d 12 40 * 4096) else none

/-- The flags of a context descriptor: STALLCHK, LOG, TRACE. -/
def State.ctxFlags (s : State) (asid : Nat) : Nat := s.numAt false (s.ctxbase.toNat + 64 * asid + 10) 2

/-- A leaf at level n is ill-formed (spec/14 R324, R325; spec/19 R427; spec/17 R411). -/
def State.badLeaf (s : State) (n : Nat) (e : DWord) : Bool :=
  let x := e.toNat
  decide (3 < n) || (n == 2 && e.getLsbD 10) || (e.getLsbD 3 && e.getLsbD 4) || bits x 7 2 == 3 ||
  (e.getLsbD 3 && (bits x 30 22 != 0 || s.baseCamp)) ||
  (e.getLsbD 4 && (bits x 50 2 != 0 || bits x 35 13 != 0 || bits x 48 2 == bits s.fabcfg.toNat 0 2))

/-- The walk from the table of level n on (spec/14 R324, R325). -/
def State.walkFrom (s : State) : Nat → Nat → Nat → WalkRes
  | 0, _, _ => .error
  | n + 1, table, va =>
    let a := table + 8 * bits va (12 + 9 * n) 9
    if s.hole a then .hole else
    match s.physRead? a 8 with
    | none => .error
    | some x =>
      let e := BitVec.ofNat 64 x
      if !e.getLsbD 0 then .absent
      else if bits x 52 12 ≠ 0 ∨ e.getLsbD 11 then .error
      else if e.getLsbD 9 then
        if s.badLeaf (n + 1) e then .error else .leaf a e (2 ^ (12 + 9 * n))
      else if n = 0 ∨ bits x 1 8 ≠ 0 ∨ e.getLsbD 10 then .error
      else s.walkFrom n (bits x 12 40 * 4096) va

/-- A walk of an ASID; a descriptor that is not valid makes it a walk error (spec/14 R323). -/
def State.walk (s : State) (asid va : Nat) : WalkRes :=
  if s.hole (s.ctxbase.toNat + 64 * asid) then .hole else
  match s.root? asid with
  | none => .error
  | some r => s.walkFrom 5 r va

/-- The translation a TLB holds for an address. -/
def Cluster.find (k : Cluster) (asid va : Nat) : Option Tlb :=
  k.tlb.find? (fun t => t.asid == asid && decide (t.page ≤ va) && decide (va < t.page + t.size))

/-- Set bits in the first byte of an entry with an atomic OR at the coherent caches (spec/14 R326). -/
def State.orEntry (s : State) (a : Nat) (b : Byte) : State := s.cohWrite false [(a, s.byteAt false a ||| b)]

/-- The port a request to a device leaves by: the shorter way round the ring over ports in state UP, P0 in a tie, or, with PAIR,
the port of the line's bit 7 (spec/19 R426). P0 leads to the next higher device number. -/
def State.peerRoute (s : State) (dev addr : Nat) : Option Nat :=
  let f := s.fabcfg.toNat
  let n := bits f 2 2 + 1
  let up (p : Nat) : Bool := (s.ports.lookD Port.reset p).state == 2 && f.testBit (4 + p)
  let kept (p : Nat) : Bool := up p && !(s.ports.lookD Port.reset p).lost
  let d := (dev + n - bits f 0 2) % n
  let first := if f.testBit 6 then addr / 128 % 2 else if d ≤ n - d then 0 else 1
  if kept first then some first else if kept (1 - first) then some (1 - first)
  else if up first then some first else if up (1 - first) then some (1 - first) else none

/-- The fabric takes new requests: it is enabled, and no write with EN 0 waits (spec/19 R425). -/
def State.fabOn (s : State) : Bool := s.fabcfg.getLsbD 12 && s.fabNext.isNone

/-- A peer's memory can be reached (spec/19 R436). -/
def State.peerOk (s : State) (dev addr : Nat) : Bool :=
  s.fabOn && decide (dev ≤ bits s.fabcfg.toNat 2 2) && (s.peerRoute dev addr).isSome

/-- A peer has answered a request for this line, of an atomic or of any read, that has not been used yet: it goes on, though EN is 0
(spec/19 R425). -/
def State.peerHeld (s : State) (pline : Nat) (atom : Bool) : Bool :=
  s.peerReqs.any (fun r => r.back && (r.atom || !atom) && r.read.any (fun x => x.2 == pline))

/-- The slots of a packet: a header, and the data of a line in eight (spec/19 R432; log 59). -/
def PMsg.slots (m : PMsg) : List Nat :=
  let line (bs : List Byte) : List Nat := (List.range 8).map (fun i => leNat ((bs.drop (16 * i)).take 16))
  match m with
  | .read d a => [Config.packetHeader 0 d a % 2 ^ 128]
  | .write d a cs => Config.packetHeader 1 d a % 2 ^ 128 ::
      line ((List.range 128).map (fun i => ((cs.find? (fun c => c.1 == a / 128 * 128 + i)).map (·.2)).getD 0))
  | .atomic d a => [Config.packetHeader 2 d a % 2 ^ 128]
  | .validate d a v => [Config.packetHeader 3 d (4096 * a + v) % 2 ^ 128]
  | .reg d w a v h => [Config.packetHeader (if w then if h then 6 else 5 else 4) d (2 ^ 64 * a + v) % 2 ^ 128]
  | .msi d v => [Config.packetHeader 7 d v % 2 ^ 128]
  | .data _ bs => line bs
  | .value d v => [Config.packetHeader 8 d v % 2 ^ 128]
  | .ack d => [Config.packetHeader 9 d 0 % 2 ^ 128]
  | .confirm d ok => [Config.packetHeader 10 d (if ok then 1 else 0) % 2 ^ 128]
  | .error d => [Config.packetHeader 11 d 0 % 2 ^ 128]
  | .forward xs => xs

/-- A packet waits for the next flit of a port; a request has its number. -/
def State.send (s : State) (p : Nat) (id : Option Nat) (m : PMsg) : State :=
  let x := s.ports.lookD Port.reset p
  { s with ports := s.ports.put p { x with outQ := x.outQ ++ [(id, m)] } }

/-- The place a held translation gives an address, with the checks of the access (spec/06 R160, spec/14 R437). -/
def State.permit (s : State) (t : Tlb) (va : Nat) (acc : Acc) : TRes :=
  let e := t.leaf
  -- memory is uncached in base camp (spec/17 R411)
  let cp := if s.baseCamp then 2 else bits e.toNat 7 2
  if acc = .write ∧ e.getLsbD 3 then .genw
  else if acc = .write ∧ !e.getLsbD 1 then .prot false
  else if acc = .fetch ∧ !e.getLsbD 2 then .prot false
  else if e.getLsbD 3 then
    .ok { peer := false, addr := 0, cp := cp, gen := true, genidx := bits e.toNat 12 16, vpol := bits e.toNat 28 2,
          blklog := t.blklog }
  else if e.getLsbD 4 then
    let dev := bits e.toNat 48 2
    let a := bits e.toNat 12 23 * 4096 + (va - t.page)
    if s.peerOk dev a || s.peerHeld ((dev * 2 ^ 35 + a % 2 ^ 35) / 128) (acc == .write) then
      .ok { peer := true, addr := dev * 2 ^ 35 + a % 2 ^ 35, cp := cp, gen := false, genidx := 0, vpol := 0, blklog := 0 }
    else .peerFault
  else
    let a := (t.pa + (va - t.page)) % 2 ^ 52
    if s.hostFails a then .prot false
    else .ok { peer := false, addr := a, cp := cp, gen := false, genidx := 0, vpol := 0, blklog := 0 }

/-- The first 16 bytes of a generator record, as a read at the coherent caches finds them (spec/16 R363); none where the ASID has
no such record, the read faults, or the record lies on a generated line that neither its slice nor the victim store holds
(log 72). -/
def State.recordRead (s : State) (asid genidx : Nat) : Option Nat :=
  match s.genTables.look asid with
  | none => none
  | some (table, count) =>
    let a := BitVec.ofNat 64 (table + 64 * genidx)
    if count ≤ genidx || !canonical a then none else
    let va := a.toNat % 2 ^ 57
    match s.walk asid va with
    | .leaf _ e size =>
      match s.permit ⟨asid, va / size * size, size, bits e.toNat 12 40 * 4096, e, 0⟩ va .read with
      | .ok x =>
        if s.eccBad.contains (if x.gen then genKey asid (va / 128) else lineKey x.peer (x.addr / 128)) then none
        else if !x.gen then some (s.numAt x.peer x.addr 16) else
        match s.genLine? asid (va / 128) with
        | some l => if l.poison then none else some (bits l.data.toNat (8 * (va % 128)) 128)
        | none => (s.vsFind asid (va / 128)).map (fun w => s.numAt false (s.vsData (s.vsSet asid (va / 128)) w.1 + va % 128) 16)
      | _ => none
    | _ => none

/-- The BLKLOG a translation of a generated page carries (spec/16 R363). -/
def State.recordBlklog (s : State) (asid genidx : Nat) : Nat :=
  match s.recordRead asid genidx with
  | none => 9
  | some d =>
    let b := bits d 64 8
    if d.testBit 88 ∧ 9 ≤ b ∧ b ≤ 17 then b else 9

/-- Fill the TLB of a cluster with a leaf; a full TLB of 8,192 entries drops its oldest (log 15). -/
def Cluster.enter (k : Cluster) (t : Tlb) : Cluster :=
  { k with tlb := (t :: k.tlb.filter (fun u => !(u.asid == t.asid && u.page == t.page && u.size == t.size))).take 8192 }

/-- A permitted write sets D in the entry its address indexes, if the leaf held has D 0 (spec/14 R326). -/
def State.dirty (s : State) (cl : Nat) (t : Tlb) (asid va : Nat) : State :=
  if t.leaf.getLsbD 6 then s else
  match s.walk asid va with
  | .leaf a _ _ => (s.orEntry a 0x60).modCluster cl (fun k => k.enter { t with leaf := t.leaf ||| 0x40 })
  | _ => s

/-- The entry by which an address of a page with CONT is translated: its own, or another of the set read as a page of the full size
(spec/14 R325; log 10). In a set that obeys R325 all give its own. -/
def State.contEntry (s : State) (a : Nat) (e : DWord) (size va : Nat) : DWord :=
  let k := Config.contPick s.serial (va / size)
  if !e.getLsbD 10 || e.getLsbD 3 || decide (16 ≤ k) then e else
  match s.physRead? (a / 128 * 128 + 8 * k) 8 with
  | none => e
  | some x =>
    let f := BitVec.ofNat 64 x
    if bits x 52 12 ≠ 0 ∨ !f.getLsbD 0 ∨ !f.getLsbD 9 ∨ !f.getLsbD 10 ∨ f.getLsbD 11 ∨ f.getLsbD 3 ∨
      s.badLeaf (if size = 4096 then 1 else 3) f then e
    else
      let pa := bits x 12 40 * 4096 / (16 * size) * (16 * size) + va / size % 16 * size
      BitVec.ofNat 64 (x % 4096 + pa) &&& ~~~0x60 ||| e &&& 0x60

/-- Translate an address for an access (spec/14 R328): through the TLB, or by a walk, which sets A and fills the TLB. -/
def State.translate (s : State) (cl asid : Nat) (va : DWord) (acc : Acc) : State × TRes :=
  if !canonical va then (s, .prot false) else
  let v := va.toNat % 2 ^ 57
  let finishWith (s : State) (t : Tlb) : State × TRes :=
    let r := s.permit t v acc
    match r with
    | .ok x =>
      let s := if acc = .write then s.dirty cl t asid v else s
      (if !x.peer && !x.gen && s.hole x.addr then { s with stuck := some .noMemory } else s, r)
    | _ => (s, r)
  match (s.cluster cl).find asid v with
  | some t => finishWith s t
  | none =>
    let s := (s.count (192 + cl) 2 1).count (192 + cl) 3 1
    match s.walk asid v with
    | .absent => (s, .page)
    | .error => (s, .prot true)
    | .hole => ({ s with stuck := some .noMemory }, .prot true)
    | .leaf a e size =>
      let e := s.contEntry a e size v
      let s := s.orEntry a 0x20
      let blk := if e.getLsbD 3 then s.recordBlklog asid (bits e.toNat 12 16) else 0
      let t : Tlb := { asid := asid, page := v / size * size, size := size, pa := bits e.toNat 12 40 * 4096,
                       leaf := e ||| 0x20, blklog := blk }
      finishWith (s.modCluster cl (fun k => k.enter t)) t

/-- The SEQ of the outstanding record of a page fault, writing the TYPE 1 record if there is none (spec/14 R332). -/
def State.raiseFault (s : State) (asid : Nat) (va : DWord) (acc : Acc) (engine : Bool) (ffirst : DWord) (stamp clk : Nat) :
    State × Nat :=
  let kind := match acc with | .read => 0 | .write => 1 | .fetch => 2
  let page := va.toNat % 2 ^ 57 / 4096
  match s.faults.find? (fun f => f.asid == asid && f.page == page && f.kind == kind) with
  | some f => (s, f.seq)
  | none =>
    let seq := s.rptSeq.toNat
    let flags := (if acc = .write then 1 else 0) + (if acc = .fetch then 2 else 0) + (if engine then 4 else 0)
    ({ s.report 1 7 asid va ffirst 0 flags stamp clk with faults := s.faults ++ [⟨asid, page, kind, seq⟩] }, seq)

/-- Translated bytes of plain memory, own or peer. -/
def State.readAt (s : State) (x : Xl) (n : Nat) : List Byte := s.bytesAt x.peer x.addr n

end Sys2Proof.Machine
end

