-- ==== Sys2Proof/Machine/Debug.lean ====
section
/-! DEFINITION. Watchpoints, rope stops' beginnings, replay logging and samples (spec/12 R296-R298; spec/14 R345, R346, R349,
R351). -/

namespace Sys2Proof.Machine

/-- The rope a workgroup counts as for stops: every placed workgroup has one, real or its own (spec/12 R296). -/
def State.ropeOf (s : State) (wg : Nat) : Option (Nat × Rope) :=
  match s.wgs.look wg with
  | none => none
  | some w => match w.rope with
    | none => none
    | some r => (s.ropes.look r).map (fun x => (r, x))

/-- Stops are enabled on a cluster for an ASID (spec/12 R296). -/
def State.stopsOn (s : State) (cl asid : Nat) : Bool :=
  let d := (s.cluster cl).dbgctl.toNat
  d.testBit 0 && bits d 16 16 == asid

/-- Begin a rope stop: its cause is recorded, or set in PEND; the slots issue nothing more, and monitors fire
(spec/12 R297). -/
def State.beginStop (s : State) (r : Nat) (st : RopeStop) : State :=
  match s.ropes.look r with
  | none => s
  | some x =>
    match x.stop with
    | some _ => s.modRope r (fun x => { x with pend := x.pend ||| (1 <<< st.cause) })
    | none =>
      let s := s.modRope r (fun x => { x with stop := some st })
      { s with groups := s.groups.mapAll (fun _ g =>
          if x.wgs.any (fun w => w.2 == g.wg) then g.fire else g) }

/-- The rope of a group is stopped or stopping. -/
def State.stopped (s : State) (g : Group) : Bool :=
  match s.ropeOf g.wg with
  | some (_, r) => r.stop.isSome
  | none => false

/-- The watchpoint a byte matches, if any (spec/14 R345): number. -/
def State.watch? (s : State) (asid : Nat) (write read engine : Bool) (x : Nat) : Option Nat :=
  (List.range 8).find? (fun n =>
    match s.wps.look n with
    | none => false
    | some (a, c) =>
      let c := c.toNat
      let len := min 32 (bits c 42 6)
      let lo := a.toNat / 2 ^ len * 2 ^ len
      c.testBit 0 && bits c 48 16 == asid && ((write && c.testBit 2) || (read && c.testBit 1)) && (!engine || c.testBit 3) &&
      decide (lo ≤ x) && decide (x < lo + 2 ^ len))

/-- The lowest watched byte of some ranges, with its watchpoint. -/
def State.watchRanges (s : State) (asid : Nat) (write read engine : Bool) (rs : List (Nat × Nat)) : Option (Nat × Nat) :=
  (rs.flatMap (fun r => (List.range r.2).filterMap (fun i =>
      (s.watch? asid write read engine (r.1 + i)).map (fun n => (r.1 + i, n))))).foldl
    (fun b x => match b with
      | none => some x
      | some y => if x.1 < y.1 then some x else b) none

/-- Replay logging is on for a group: its context's LOG flag at acceptance, and the log ring on (spec/14 R351). -/
def State.logs (s : State) (g : Group) : Bool :=
  (match s.launches.look g.launch with | some l => l.log | none => false) && (s.rings.lookD Ring.reset 3).on

/-- The log ring has no room: it holds the loading group. -/
def State.logFull (s : State) (g : Group) : Bool :=
  let r := s.rings.lookD Ring.reset 3
  s.logs g && decide (r.size.toNat ≤ (r.head - r.tail).toNat + r.wait.length)

/-- Write a log record of a line's 128 bytes as read. -/
def State.logLine (s : State) (e : Env) (va : Nat) (ffirst : DWord) (d : LineData) : State :=
  s.ringPut 3 (leBytes 16 (s.stamp e.core e.g e.n false) ++ leBytes 8 va ++ leBytes 8 ffirst.toNat ++ leBytes 128 d.toNat)

/-- A read of a copy of a line, named by its fill, or of the coherent caches; recorded once per copy. -/
def State.logRead (s : State) (e : Env) (va : Nat) (copy : Option Nat) (d : LineData) : State :=
  if !s.logs e.g then s else
  let seen := match s.group? e.core e.ctx with | some g => g.logSet | none => []
  match copy with
  | none => s.logLine e (va / 128 * 128) e.sl.pc d
  | some n =>
    if seen.contains n then s
    else (s.logLine e (va / 128 * 128) e.sl.pc d).modGroup e.core e.ctx (fun g => { g with logSet := g.logSet ++ [n] })

/-- A group's set of read copies is emptied. -/
def State.emptyLog (s : State) (e : Env) : State := s.modGroup e.core e.ctx (fun g => { g with logSet := [] })

/-- The rope stamp of an operation now; one whose group has exited carries that of its issue, with ISSUER_EXITED (spec/12 R301). -/
def State.opStamp (s : State) (c : Nat) (o : Op) : Nat :=
  match s.opGroup c o with
  | some g => if g.ended then o.stamp / 2 * 2 + 1 else s.stamp c g o.slot false
  | none => o.stamp / 2 * 2 + 1

/-- Write a sample record, stamped as it is written (spec/14 R349, spec/12 R301). Its queue times, LASTLANE among its lanes and PACKED are timing the model does not keep:
free values (log 16). -/
def State.sampleRecord (s : State) (c : Nat) (o : Op) (x : Sample) (trapped : Bool) : State :=
  let ls := lanesOf x.lanes
  let last := if x.data then (ls[Config.lastLane x.clk s.serial % ls.length]?).getD 0 else 255
  let sflags := (if x.psamp then 1 else 0) + (if trapped then 2 else 0) + (if Config.packed x.clk s.serial then 4 else 0)
  s.ringPut 1 (leBytes 16 (s.opStamp c o) ++ leBytes 8 o.ffirst.toNat ++ leBytes 8 x.lanes.toNat ++ leBytes 2 x.sectors ++
    leBytes 1 (min 255 x.replays) ++ leBytes 1 last ++ leBytes 1 x.code ++ leBytes 1 sflags ++ leBytes 2 0 ++
    leBytes 16 (Config.queueTimes x.clk s.serial).toNat ++ leBytes 8 x.clk)

/-- The record of a sampled instruction that completes. -/
def State.sampleDone (s : State) (c : Nat) (o : Op) : State :=
  match o.sample with
  | none => s
  | some x => s.sampleRecord c o x false

end Sys2Proof.Machine
end

