-- ==== Sys2Proof/Machine/Home.lean ====
section
/-! DEFINITION. The homes of generator-backed lines: hits, parks, posts, commits, poison, eviction and the victim store
(spec/16 R358-R371, R376, R377, R382-R386). -/

namespace Sys2Proof.Machine

/-- The aligned run of 2^blklog bytes that holds an address (spec/16 R362). -/
def blockOf (va blklog : Nat) : Nat := va / 2 ^ blklog * 2 ^ blklog

/-- The virtual lines of a block. -/
def blockLines (block blklog : Nat) : List Nat := (List.range (2 ^ blklog / 128)).map (fun i => block / 128 + i)

def sliceOf (asid block : Nat) : Nat := Config.homeSlice (asid + 1) (block / 128) % 64

def State.genValid (s : State) (asid vline : Nat) : Bool :=
  match s.genLine? asid vline with | some l => !l.poison | none => false
def State.genPoisoned (s : State) (asid vline : Nat) : Bool :=
  match s.genLine? asid vline with | some l => l.poison | none => false
/-- The tracker of a block, with its key slice × 64 + index (spec/16 R373). -/
def State.trackerOf (s : State) (asid block : Nat) : Option (Nat × Tracker) :=
  s.trackers.find? (fun t => t.2.asid == asid && t.2.block == block)

def State.modTracker (s : State) (k : Nat) (f : Tracker → Tracker) : State := { s with trackers := s.trackers.adjust k f }

/-- The lines of a pending block that are not VALID (spec/16 R360). -/
def State.pendingLines (s : State) (t : Tracker) : List Nat :=
  (blockLines t.block t.blklog).filter (fun l => !s.genValid t.asid l)

/-! The victim store (spec/16 R382-R385) -/

/-- Free the entry of a line. -/
def State.vsFree (s : State) (asid vline : Nat) : State :=
  match s.vsFind asid vline with
  | none => s
  | some (w, _) => { s with mem := Memory.write s.mem (s.vsDir (s.vsSet asid vline) w) 0 }

/-- Drop every entry: the directory of the store is zeroed. -/
def State.vsClear (s : State) : State :=
  let lo := s.vsBase + 7 * (2 ^ 26 * s.vsSteps) / 8
  let hi := s.vsBase + 2 ^ 26 * s.vsSteps
  { s with mem := s.mem.filter (fun c => !(decide (lo ≤ c.1) && decide (c.1 < hi))) }

/-! Lines of a slice -/

/-- The policy a commit marks a line with: PIN only while fewer than 12 lines of its set are PIN (spec/16 R384). -/
def State.polFor (s : State) (asid vline slice pol : Nat) : Nat :=
  let n := (s.genLines.filter (fun g => g.pol == 3 && !g.poison && g.llcSet == (slice, Config.llcSet asid vline % 8192))).length
  if pol = 3 ∧ 12 ≤ n then 2 else pol

/-- Set a generated line in its slice, with room made for it: its version is 4,095 (spec/16 R360). -/
def State.setGen (s : State) (l : GenLine) : State :=
  let s := (s.dropGen l.asid l.line).llcRoom l.llcSet
  let k := genKey l.asid l.line
  { s with genLines := s.genLines ++ [l], versions := s.versions.del k, verRound := s.verRound.del k }.fireLine k

/-- An uncorrectable error of board memory (spec/16 R385): one in an insert drops the line that leaves; one in a directory fetch or
a data read makes the line miss, for which its entry is freed (log 67). Both are logged in VSERR. -/
def State.vsError (s : State) (insert : Bool) (asid vline : Nat) : State :=
  let leaves := match s.genLine? asid vline with | some l => !l.poison && l.pol == 2 | none => false
  if s.vsSteps = 0 || (insert && !leaves) then s else
  let n := min (2 ^ 30 - 1) (bits s.vserr.toNat 2 30 + 1)
  let t := if insert then (s.dropGen asid vline).fireLine (genKey asid vline) else s.vsFree asid vline
  { t with vserr := BitVec.ofNat 64 ((if insert then 2 else 1) + 4 * n + 2 ^ 32 * s.vsSet asid vline) }

/-- An uncorrectable error comes into a line's data, or leaves it (log 68). -/
def State.eccError (s : State) (key : Nat) (on : Bool) : State :=
  { s with eccBad := s.eccBad.filter (fun k => k != key) ++ (if on then [key] else []) }

/-! Priority inheritance (spec/16 R371) -/

/-- The groups of a fill launch stand parked on this tracker. -/
def State.parkedOf (s : State) (l : Nat) (t : Tracker) : Bool :=
  t.parks.any (fun p => match s.group? p.core p.ctx with | some g => g.launch == l | none => false)

/-- Raise a tracker's effective priority. It reaches the task of a fill that is launched later, within 200 clk. -/
def State.raisePrio (s : State) (k p : Nat) : State :=
  s.modTracker k (fun t => if p ≤ t.prio then t else { t with prio := p, risen := s.dieClk })

/-- A tracker's risen priority reaches the groups of its fill task, and goes on to the blocks they are parked on. -/
def State.passPrio (s : State) (k : Nat) : State :=
  match s.trackers.look k with
  | none => s
  | some t =>
    match t.launch.bind (fun l => (s.launches.look l).map (fun x => (l, x))) with
    | none => s
    | some (l, x) =>
      if t.prio ≤ x.prio then s else
      let s := { s with groups := s.groups.mapAll (fun _ g => if g.launch = l then { g with prio := t.prio } else g) }
      let s := s.modLaunch l (fun x => { x with prio := t.prio })
      (s.trackers.filter (fun u => s.parkedOf l u.2)).foldl (fun s u => s.raisePrio u.1 t.prio) s

/-! A miss at the home (spec/16 R365, R367, R370) -/

inductive HomeRes
  | data (d : LineData)
  | abort
  | nest
  | parked (block : Nat)
  | held (slice : Nat)
  deriving DecidableEq, Repr

/-- Wait entries in use in a slice (spec/16 R368). -/
def State.waitEntries (s : State) (slice : Nat) : Nat :=
  ((s.trackers.filter (fun t => t.2.slice == slice)).map (fun t => t.2.parks.length)).sum

/-- Park on a tracker: one entry per slot and block, drawn from the slice's park counter; its priority is inherited. -/
def State.park (s : State) (k : Nat) (r : Req) : State :=
  match s.trackers.look k with
  | none => s
  | some t =>
    let n := s.parkSeq.lookD 0 t.slice
    let s := { s with parkSeq := s.parkSeq.put t.slice (n + 1) }
    (s.modTracker k (fun t => { t with parks :=
      if (t.parks.any fun p => p.core == r.core && p.ctx == r.ctx && p.slot == r.slot) then t.parks
      else t.parks ++ [⟨n, r.core, r.ctx, r.slot, r.prio⟩] })).raisePrio k r.prio

/-- The priority a record gives, where it can be read; the fill launcher reads the record again. -/
def State.recordPrio (s : State) (asid genidx : Nat) : Nat :=
  match s.recordRead asid genidx with
  | none => 0
  | some d => min 7 (bits d 72 8)

/-- Allocate a tracker and post its fill request; the key of the tracker. -/
def State.post (s : State) (r : Req) : State × Option Nat :=
  let block := blockOf r.va r.blklog
  let slice := sliceOf r.asid block
  match (List.range 64).find? (fun i => (s.trackers.look (slice * 64 + i)).isNone) with
  | none => (s, none)
  | some i =>
    let tc := (s.genTables.look r.asid).getD (0, 0)
    let t : Tracker :=
      { slice := slice, asid := r.asid, block := block, blklog := r.blklog, genidx := r.genidx, vpol := r.vpol,
        level := r.level + 1, prio := max r.prio (s.recordPrio r.asid r.genidx), launch := none, decided := false, fillv := 0, recPol := 0,
        parks := [], posted := s.serial, table := tc.1, count := tc.2, record := tc.1 + 64 * r.genidx }
    ({ s with trackers := s.trackers.put (slice * 64 + i) t, serial := s.serial + 1 }.count (204 + slice) 2 1,
     some (slice * 64 + i))

/-- A line the victim store holds is read into the slice as VALID (spec/16 R385). -/
def State.vsHit (s : State) (asid vline slice : Nat) : Option (State × LineData) :=
  match s.vsFind asid vline with
  | none => none
  | some (w, pol) =>
    let d := lineOf (s.bytesAt false (s.vsData (s.vsSet asid vline) w) 128)
    some (((s.count (204 + slice) 3 1).count 268 3 4).setGen ⟨asid, vline, slice, false, d, s.polFor asid vline slice pol⟩, d)

/-- A request is in the range of an INVAL in progress: it is held at its home until that ends (spec/16 R387). -/
def Inval.holds (v : Inval) (r : Req) : Bool := v.asid == r.asid && decide (v.lo ≤ r.va) && decide (r.va < v.hi)
def State.invalHolds (s : State) (r : Req) : Bool := s.invals.any (fun v => v.holds r)

/-- A miss arrives at its home; one in the range of an INVAL in progress is held there until it ends (spec/16 R387). -/
def State.homeMiss (s : State) (r : Req) : State × HomeRes :=
  let vline := r.va / 128
  let block := blockOf r.va r.blklog
  let slice := sliceOf r.asid block
  if s.invalHolds r then (s, .held slice) else
  match s.genLine? r.asid vline with
  | some l =>
    if l.poison then (s, .abort) else (s.count (204 + slice) 0 1, .data l.data)
  | none =>
    let s := s.count (204 + slice) 1 1
    match s.vsHit r.asid vline slice with
    | some (s, d) => (s, .data d)
    | none =>
      if (blockLines block r.blklog).any (fun l => s.genPoisoned r.asid l) then (s, .abort)
      else match s.trackerOf r.asid block with
        | some (k, t) =>
          if t.launch.isSome then
            if t.level ≤ r.level then (s, .nest)
            else if 1024 ≤ s.waitEntries slice then (s, .held slice)
            else (s.park k r, .parked block)
          else if r.level = 2 then (s, .nest)
          else if 1024 ≤ s.waitEntries slice then (s, .held slice)
          else ((s.modTracker k (fun t => { t with level := max t.level (r.level + 1) })).park k r, .parked block)
        | none =>
          if r.level = 2 then (s, .nest)
          else if 1024 ≤ s.waitEntries slice then (s, .held slice)
          else match s.post r with
            | (s, none) => (s, .held slice)
            | (s, some k) => (s.park k r, .parked block)

/-! Deciding a block (spec/16 R369, R376, R377) -/

/-- Mark the lanes of a slot that match a wait as ready; an access made as one lane is made again. -/
def Slot.ready (sl : Slot) (p : Pend → Bool) (n : Nat) : Slot :=
  { sl with wait := (match sl.wait with | .pend x => if p x then .none else sl.wait | w => w),
            replay := sl.replay.map (fun r => { r with why := r.why.map (fun x => if p x.2 then (x.1, .ready n) else x) }) }

/-- Send the wakes of a tracker (a park of slot 2 is an engine's, which tries again by itself) in ascending park sequence, and let the held requesters of its slice send again. -/
def State.wake (s : State) (t : Tracker) : State :=
  let s := (t.parks.filter (fun p => decide (p.slot < 2))).foldl (fun s p =>
    let n := s.serial
    { s with serial := n + 1 }.modSlot p.core p.ctx p.slot (fun sl => sl.ready (fun x => x == Pend.parked t.asid t.block) (n + 1))) s
  let free (sl : Slot) : Slot := { sl with
    wait := (match sl.wait with | .pend (.held k _) => if k = t.slice then .none else sl.wait | w => w),
    replay := sl.replay.map (fun r => { r with why := r.why.map (fun x =>
    match x.2 with
    | .held k _ => if k = t.slice then (x.1, .held k true) else x
    | _ => x) }) }
  { s with groups := s.groups.mapAll (fun _ g => { g with slot0 := free g.slot0, slot1 := free g.slot1 }) }

/-- Commit a block with its data, or poison it: pending lines take their final state, the tracker is freed, wakes are sent. -/
def State.decideBlock (s : State) (k : Nat) (data : Option (List Byte)) : State :=
  match s.trackers.look k with
  | none => s
  | some t =>
    let pol := if t.fillv ≠ 0 then t.fillv else if t.vpol ≠ 0 then t.vpol else t.recPol
    let s := (s.pendingLines t).foldl (fun s l =>
      match data with
      | some bs => s.setGen ⟨t.asid, l, t.slice, false, lineOf ((bs.drop ((l - t.block / 128) * 128)).take 128),
          s.polFor t.asid l t.slice pol⟩
      | none => s.setGen ⟨t.asid, l, t.slice, true, 0, 1⟩) s
    { s with trackers := s.trackers.del k }.wake t

/-- GPREF at a line's home (spec/16 R386); in the range of an INVAL in progress it is held there until that ends
(spec/16 R387). -/
def State.homePref (s : State) (r : Req) : State :=
  let vline := r.va / 128
  let block := blockOf r.va r.blklog
  let slice := sliceOf r.asid block
  if s.invalHolds r then
    { s with invals := s.invals.map (fun v => if v.holds r && (v.prefs.find? (fun x => x == r)).isNone then { v with prefs := v.prefs ++ [r] } else v) }
  else if r.level = 2 ∨ (s.genLine? r.asid vline).isSome then s else
  match s.trackerOf r.asid block with
  | some (k, t) =>
    -- every line of the block that is not VALID is pending (spec/16 R360)
    if t.launch.isSome then s else
    let s := s.raisePrio k r.prio
    match s.vsHit r.asid vline slice with
    | some (s, _) => s
    | none => s
  | none =>
    match s.vsHit r.asid vline slice with
    | some (s, _) => s
    | none =>
      if (blockLines block r.blklog).any (fun l => s.genPoisoned r.asid l) then s
      else (s.post { r with level := 0 }).1

end Sys2Proof.Machine
end

