-- ==== Sys2Proof/Machine/Caches.lean ====
section
/-! DEFINITION. A core's L1, write-through buffer, scratchpad and belay table, and one lane's loads
(spec/06 R153-R158, R170-R173; spec/07 R194, R200-R203; spec/13 R317). -/

namespace Sys2Proof.Machine

/-! Scratchpad (spec/07 R194; spec/06 R153; spec/12 R291) -/

def wgBytes (w : Wg) : Nat := w.gran * 12288

/-- The array byte a window address reaches, as core × 2^20 + byte of the array, for an access of n bytes. -/
def State.window (s : State) (wg a n : Nat) : Option Nat :=
  match s.wgs.look wg with
  | none => none
  | some w =>
    if a + n ≤ wgBytes w then some (w.core * 2 ^ 20 + w.base * 384 + a)
    else if a < 0x01000000 then none
    else
      let v := (a - 0x01000000) / 0x80000
      let o := (a - 0x01000000) % 0x80000
      match s.ropeOf wg with
      | none => none
      | some (_, r) =>
        if !r.real then none else
        match (r.wgs.look v).bind s.wgs.look with
        | none => none
        | some x => if o + n ≤ wgBytes x then some (x.core * 2 ^ 20 + x.base * 384 + o) else none

def State.scrByte (s : State) (t : Nat) : Byte := (s.core (t / 2 ^ 20)).array.lookD 0 (t % 2 ^ 20)
def State.scrBytes (s : State) (t n : Nat) : List Byte := (List.range n).map (fun i => s.scrByte (t + i))

/-- What an operation has kept of a unit of its transfer before its completion (spec/13 R304): key 3u, what the 16-byte unit u of its
source held; 3u + 1, the unit u of its destination is done; 3u + 2, what unit u of an index held. -/
def partAt (ps : List (Nat × List Byte)) (k : Nat) : Option (List Byte) := (ps.find? (fun p => p.1 == k)).map (fun p => p.2)

/-- A byte of a captured unit. -/
def partByte (ps : List (Nat × List Byte)) (kind a : Nat) : Byte := (((partAt ps (3 * (a / 16) + kind)).getD [])[a % 16]?).getD 0

/-- A scratchpad byte as an operation reads it: as captured, else now. -/
def State.opByte (s : State) (ps : List (Nat × List Byte)) (t : Nat) : Byte :=
  if (partAt ps (3 * (t / 16))).isSome then partByte ps 0 t else s.scrByte t
def State.opBytes (s : State) (ps : List (Nat × List Byte)) (t n : Nat) : List Byte := (List.range n).map (fun i => s.opByte ps (t + i))

/-- Capture a unit of the scratchpad. -/
def State.takePart (s : State) (ps : List (Nat × List Byte)) (u : Nat) : List (Nat × List Byte) :=
  if (partAt ps (3 * u)).isSome then ps else ps ++ [(3 * u, s.scrBytes (16 * u) 16)]

def State.scrWrite (s : State) (cells : List (Nat × Byte)) : State :=
  cells.foldl (fun s c => s.modCore (c.1 / 2 ^ 20) (fun k => { k with array := k.array.putD 0 (c.1 % 2 ^ 20) c.2 })) s

/-- LDS.X's swizzle (spec/06 R159). -/
def swizzle (swz a : Nat) : Nat :=
  if swz = 0 then a else
  let g := 8 * 2 ^ swz
  a ^^^ (a / 128 % (128 / g) * g)

/-- The local space of a lane (spec/06 R154). -/
def localAddr (lbase : DWord) (width lane o : Nat) : Nat := lbase.toNat + o / 4 * (4 * width) + 4 * lane + o % 4

/-! The L1 (spec/07 R200) -/

/-- Bytes of a line, with some replaced. -/
def patchLine (d : LineData) (cs : List (Nat × Byte)) : LineData :=
  cs.foldl (fun d c =>
    let p := 8 * (c.1 % 128)
    (d &&& ~~~((0xFF : LineData) <<< p)) ||| ((c.2.setWidth 1024 : LineData) <<< p)) d

def byteOfLine (d : LineData) (i : Nat) : Byte := (d >>> (8 * i)).setWidth 8

def Core.l1Find (k : Core) (asid vline : Nat) : Option L1Line := k.l1.find? (fun l => l.asid == asid && l.line == vline)
def Core.l1Set (k : Core) (l : L1Line) : Core :=
  { k with l1 := k.l1.filter (fun x => !(x.asid == l.asid && x.line == l.line)) ++ [l] }

/-- The uses of a row nothing has used: no ASID is 2^16. -/
def RowUse.none : RowUse := ⟨65536, 65536, 65536, 65536⟩

/-- An L1 line's bytes stay in the array at its place, last used by its ASID (spec/07 R194, R199). Of lines of several ASIDs in one
row, the one that leaves the L1 last counts as the row's last user: the model's choice (log 20). -/
def Core.leaveArray (k : Core) (l : L1Line) : Core :=
  let r := k.rowUse.lookD RowUse.none (l.place / 3)
  let r := match l.place % 3 with
    | 0 => { r with last := l.asid, a := l.asid }
    | 1 => { r with last := l.asid, b := l.asid }
    | _ => { r with last := l.asid, c := l.asid }
  { k with array := k.array.setRange 0 (128 * l.place) (lineBytes l.data), rowUse := k.rowUse.put (l.place / 3) r }

/-- Keep only the L1 lines of a kind. -/
def Core.l1Keep (k : Core) (p : L1Line → Bool) : Core :=
  (k.l1.filter (fun l => !p l)).foldl Core.leaveArray { k with l1 := k.l1.filter p }
def Core.l1Drop (k : Core) (asid vline : Nat) : Core := k.l1Keep (fun x => !(x.asid == asid && x.line == vline))

/-- Invalidate every clean global line of a core's L1 but those of LDG.NC and LDC; local lines are kept (spec/06 R162). It is a step
of the belay round when no clean global line is left (spec/06 R170). -/
def State.dropClean (s : State) (c : Nat) : State :=
  let s := s.modCore c (fun k => k.l1Keep (fun l => l.kind != .glob))
  if (s.core c).l1.any (fun l => l.kind == .nc) then s else s.roundStep c

/-- Invalidate every clean global line of a core's L1, as a belay round asks (spec/06 R170). -/
def State.dropAllClean (s : State) (c : Nat) : State :=
  (s.modCore c (fun k => k.l1Keep (fun l => l.kind == .loc))).roundStep c

/-- Bytes of a virtual line still being written through by this core, in order (spec/13 R317). -/
def Core.wtBytes (k : Core) (asid vline : Nat) : List (Nat × Byte) :=
  (k.wt.filter (fun w => w.asid == asid)).flatMap (fun w =>
    (w.cells.filter (fun c => c.va / 128 == vline)).map (fun c => (c.va, c.b)))

/-- A group's own stores still in its store queue, as virtual bytes. -/
def Core.sqBytes (k : Core) (ctx uid : Nat) : List (Nat × Byte) :=
  (k.sq.filter (fun q => q.ctx == ctx && q.uid == uid)).flatMap (fun q => match q.what with
    | .bytes cs => cs.map (fun c => (c.va, c.b))
    | .loc cs => cs.map (fun c => (c.va, c.b))
    | _ => [])

/-- What a group's own queued stores hold of a virtual line that misses the L1 and is found at a physical place: local bytes by their
virtual address, global bytes by their place, through whatever address they were stored (spec/13 R314). -/
def Core.ownBytes (k : Core) (ctx uid vline tline : Nat) : List (Nat × Byte) :=
  (k.sq.filter (fun q => q.ctx == ctx && q.uid == uid)).flatMap (fun q => match q.what with
    | .bytes cs => (cs.filter (fun c => c.tgt / 128 == tline)).map (fun c => (128 * vline + c.tgt % 128, c.b))
    | .loc cs => cs.map (fun c => (c.va, c.b))
    | _ => [])

/-- A group's own queued stores write a physical line through another virtual line. -/
def Core.ownAlias (k : Core) (ctx uid vline tline : Nat) : Bool :=
  k.sq.any (fun q => q.ctx == ctx && q.uid == uid && (match q.what with
    | .bytes cs => cs.any (fun c => c.tgt / 128 == tline && c.va / 128 != vline)
    | _ => false))

/-- A physical line is being written through by way of another virtual line. -/
def Core.wtAlias (k : Core) (vline tline : Nat) : Bool :=
  k.wt.any (fun w => w.cells.any (fun c => c.tgt / 128 == tline && c.va / 128 != vline))

/-- A group's own scratchpad writes to a core's array are still in its store queue (spec/12 R293). -/
def Core.scratchPending (k : Core) (ctx uid core : Nat) : Bool :=
  k.sq.any (fun q => q.ctx == ctx && q.uid == uid && (match q.what with
    | .scratch cs => cs.any (fun c => c.1 / 2 ^ 20 == core)
    | .atoms _ ls _ => ls.any (fun l => l.tgt / 2 ^ 20 == core)
    | _ => false))

/-- The same for any array. -/
def Core.scratchAny (k : Core) (ctx uid : Nat) : Bool :=
  k.sq.any (fun q => q.ctx == ctx && q.uid == uid && (match q.what with
    | .scratch _ => true
    | .atoms _ _ _ => true
    | _ => false))

/-- An acquiring atomic of the group has yet to be performed: no later access goes before it (spec/06 R162). -/
def Core.acqPending (k : Core) (ctx uid : Nat) : Bool :=
  k.sq.any (fun q => q.ctx == ctx && q.uid == uid && (match q.what with
    | .atomg a _ _ => a.acq
    | .atoms a _ _ => a.acq
    | _ => false))

/-- The last of some cells that gives a byte. -/
def lastCell (cs : List (Nat × Byte)) (a : Nat) (b : Byte) : Byte := cs.foldl (fun b c => if c.1 = a then c.2 else b) b

/-- The line an own or peer physical line holds at the coherent caches. -/
def State.cohLine (s : State) (peer : Bool) (pline : Nat) : LineData := lineOf (s.bytesAt peer (pline * 128) 128)

/-- The outcome of a lane's access (spec/06 R167). -/
inductive Outcome1
  | done (bs : List Byte)
  | fatal (cause : Nat)
  | page
  | wait (p : Pend)
  deriving DecidableEq, Repr

def TRes.outcome : TRes → Outcome1
  | .ok _ => .done []
  | .page => .page
  | .prot walk => .fatal (if walk then 264 else 8)
  | .genw => .fatal 10
  | .peerFault => .fatal 25

/-- A line as read at the coherent caches through a translation, with its physical key: plain, peer or generated. -/
inductive LineRes
  | line (d : LineData) (peer : Bool) (pline : Nat) (ver : Nat)
  | no (o : Outcome1)
  deriving DecidableEq, Repr

/-- What a miss at the home needs of its requester. -/
def Env.req (e : Env) (va : Nat) (x : Xl) : Req :=
  { core := e.core, ctx := e.ctx, slot := e.n, asid := e.asid, va := va, genidx := x.genidx, vpol := x.vpol, blklog := x.blklog,
    level := e.g.level, prio := e.g.prio }

/-- The place of a translated byte: 2^60 above for a peer's memory. -/
def Xl.tgt (x : Xl) : Nat := if x.peer then 2 ^ 60 + x.addr else x.addr

/-- Read a translated line at the coherent caches: from the cluster's L2, or its home. A line of a page with CP 0b10 is read at its
home and stays out of the L2 (spec/14 R327); in the range of an INVAL in progress it waits for its end (spec/16 R387). Data that holds an uncorrectable error is not read: cause 24 (spec/05 R147, spec/06 R167). -/
def State.fetchReq (s : State) (r : Req) (x : Xl) : State × LineRes :=
  let cl := clusterOf r.core
  if !x.gen && s.invalHolds r then (s, .no (.wait (.held (sliceOf r.asid (blockOf r.va r.blklog)) false)))
  else if x.gen then
    let key := genKey r.asid (r.va / 128)
    let got (s : State) (d : LineData) : State × LineRes :=
      (s, if s.eccBad.contains key then .no (.fatal 24) else .line d false key 4095)
    if (s.cluster cl).l2.contains key && s.genValid r.asid (r.va / 128) && !s.invalHolds r then
      got (s.count (192 + cl) 0 1) (match s.genLine? r.asid (r.va / 128) with | some l => l.data | none => 0)
    else
      match (s.count (192 + cl) 1 1).homeMiss r with
      | (s, .data d) => got (if x.cp = 2 then s else s.l2Enter cl key) d
      | (s, .abort) => (s, .no (.fatal 12))
      | (s, .nest) => (s, .no (.fatal 11))
      | (s, .parked b) => (s, .no (.wait (.parked r.asid b)))
      | (s, .held k) => (s, .no (.wait (.held k false)))
  else
    let key := lineKey x.peer (x.addr / 128)
    if s.eccBad.contains key then (s, .no (.fatal 24)) else
    let s := if x.peer then s.land (x.addr / 128) else s
    let s := if x.cp = 2 then s.reachHome key else s.reachLine cl key
    (s, .line (s.cohLine x.peer (x.addr / 128)) x.peer (x.addr / 128) (s.versions.lookD 4095 key))

def State.fetchLine (s : State) (e : Env) (va : Nat) (x : Xl) : State × LineRes := s.fetchReq (e.req va x) x

/-- A load that misses counts a victim hit if its line's tag is among the victim tags (spec/07 R191). -/
def State.victimHit (s : State) (e : Env) (vline : Nat) : State :=
  let t := (s.core e.core).throttle
  if e.ctx = 64 ∨ e.g.fillTask ∨ !t.tags.contains (e.asid, vline) then s
  else (s.modCore e.core (fun k => { k with throttle := { k.throttle with
    hits := k.throttle.hits + 1, tags := k.throttle.tags.erase (e.asid, vline) } })).count e.core 4 1

/-- The port by which a peer's line is reached now (spec/19 R426, R436). -/
def State.lineRoute (s : State) (pline : Nat) : Option Nat :=
  let dev := 128 * pline / 2 ^ 35 % 4
  if s.peerOk dev (128 * pline % 2 ^ 35) then s.peerRoute dev (128 * pline % 2 ^ 35) else none

/-- A request goes to a peer. -/
def State.request (s : State) (r : PeerReq) (m : PMsg) : State :=
  { s with serial := s.serial + 1, peerReqs := s.peerReqs ++ [{ r with id := s.serial }] }.send r.port (some s.serial) m

/-- What a reader of a peer's line finds: the line and its version as the peer's home has it, once it has answered; its request on the
way; or a failure. -/
inductive PeerRes
  | line (d : LineData) (ver : Nat)
  | wait (id : Nat)
  | fail
  deriving DecidableEq, Repr

/-- A slot (n), its fetch (n + 2), or an engine (op) reads a peer's line, or performs an atomic there: the request is sent now unless it
was before (spec/19 R427, R435). -/
def State.peerAsk (s : State) (core uid n : Nat) (op : Option Nat) (atom : Bool) (pline va : Nat) : State × PeerRes :=
  match s.peerReqs.find? (fun r => r.core == core && r.uid == uid && r.op == op && r.atom == atom && r.read == some (n, pline)) with
  | some r =>
    if r.bad then (s, .fail)
    else if r.back then
      let t := s.land pline
      (t, .line (t.cohLine true pline) (t.versions.lookD 4095 (lineKey true pline)))
    else (s, .wait r.id)
  | none =>
    match s.lineRoute pline with
    | none => (s, .fail)
    | some p =>
      let dev := 128 * pline / 2 ^ 35
      let a := 128 * pline % 2 ^ 35
      (s.request { id := 0, port := p, core := core, uid := uid, va := va, read := some (n, pline), tgt := 128 * pline, op := op, atom := atom }
        (if atom then .atomic dev a else .read dev a), .wait s.serial)

/-- Read a translated line for a lane of a memory instruction, which waits while a peer's line is on its way; an uncorrectable
error in what the peer's home returned is cause 24 (spec/19 R436). -/
def State.laneLine (s : State) (e : Env) (fly : Bool) (v : Nat) (x : Xl) : State × LineRes :=
  if fly && x.peer then
    match s.peerAsk e.core e.g.uid e.n none false (x.addr / 128) v with
    | (s, .line d ver) =>
      (s, if s.eccBad.contains (lineKey true (x.addr / 128)) then .no (.fatal 24) else .line d true (x.addr / 128) ver)
    | (s, .wait id) => (s, .no (.wait (.peer id)))
    | (s, .fail) => (s, .no (.fatal 25))
  else s.fetchLine e v x

/-! The write-through (spec/06 R160, spec/13 R317) -/

/-- Perform a line's write at the coherent caches: through the cluster's L2, or, of an uncached page or a peer, at its home
(spec/14 R327, spec/19 R427). -/
def State.performWt (s : State) (c : Nat) (w : Wt) : State :=
  let own := w.cells.filter (fun c => decide (c.tgt < 2 ^ 60) && !c.unc)
  let unc := w.cells.filter (fun c => decide (c.tgt < 2 ^ 60) && c.unc)
  let peer := w.cells.filter (fun c => decide (2 ^ 60 ≤ c.tgt))
  let s := if own = [] then s else s.l2Write (clusterOf c) false (own.map (fun c => (c.tgt, c.b)))
  let s := if unc = [] then s else s.homeWrite (unc.map (fun c => (c.tgt, c.b)))
  if peer = [] then s else s.l2Write (clusterOf c) true (peer.map (fun c => (c.tgt - 2 ^ 60, c.b)))

/-- The port by which a place in a peer's memory is reached now (spec/19 R426). -/
def State.routeOf (s : State) (tgt : Nat) : Option Nat := s.peerRoute ((tgt - 2 ^ 60) / 2 ^ 35 % 4) (tgt % 2 ^ 35)

/-- A write goes to a peer's line, of a group or of an engine; its home performs it later, and then acknowledges it. -/
def State.sendWrite (s : State) (c uid : Nat) (op : Option Nat) (p va : Nat) (cells : List (Nat × Byte)) (sent : Bool) : State :=
  let a := (cells.head?.map (·.1)).getD 0
  s.request { id := 0, port := p, core := c, uid := uid, va := va, tgt := a, cells := if sent then cells else [], op := op }
    (.write (a / 2 ^ 35) (a % 2 ^ 35) (cells.map (fun c => (c.1 % 2 ^ 35, c.2))))

/-- A group's write-through of one line: a peer's line takes an acknowledgement, which comes once its home has performed the write;
with no route left it has failed (spec/19 R429, R435). -/
def State.leaveWt (s : State) (c : Nat) (w : Wt) : State :=
  match w.cells.find? (fun x => decide (2 ^ 60 ≤ x.tgt)) with
  | none => s.performWt c w
  | some x =>
    match s.routeOf x.tgt with
    | some p => s.sendWrite c w.uid none p x.va (w.cells.map (fun c => (c.tgt % 2 ^ 60, c.b))) true
    | none => { s with groups := s.groups.mapAll (fun _ g =>
        if g.uid = w.uid ∧ g.peerFail.isNone then { g with peerFail := some (BitVec.ofNat 64 x.va) } else g) }

/-- The core's writes to one physical line are performed in order, down to the last, a peer's line's at its home. -/
def State.flushLine (s : State) (c tgt : Nat) : State :=
  let hits (w : Wt) : Bool := w.cells.any (fun x => x.tgt / 128 == tgt / 128)
  let ws := (s.core c).wt
  let s := ws.foldl (fun s w => if hits w then s.leaveWt c w else s)
    (s.modCore c (fun k => { k with wt := k.wt.filter (fun w => !hits w) }))
  if tgt < 2 ^ 60 then s else s.land (tgt % 2 ^ 60 / 128)

/-- What a core has stored through a virtual line is performed, with what its physical lines hold before it. -/
def State.flushVa (s : State) (c asid vline : Nat) : State :=
  ((s.core c).wt.filter (fun w => w.asid == asid && w.cells.any (fun x => x.va / 128 == vline))).foldl
    (fun s w => w.cells.foldl (fun s x => s.flushLine c x.tgt) s) s

/-! Local lines and evictions (spec/07 R191, R197, R200, R438) -/

/-- The virtual address of a virtual line. -/
def lineVa (vline : Nat) : DWord := (BitVec.ofNat 64 (vline * 128)).setWidth 57 |>.signExtend 64

/-- A write-back has been done, or its data dropped; or it waits for the page fault with this SEQ. -/
inductive BackRes
  | done
  | waits (seq : Nat)
  deriving DecidableEq, Repr

/-- A local line's data is lost to a fault: it is dropped, and a TYPE 5 report tells (spec/07 R438). -/
def State.loseBack (s : State) (c : Nat) (l : L1Line) (cause : Nat) : State :=
  (s.modCore c (fun k => k.l1Drop l.asid l.line)).report 5 (cause % 256) l.asid (lineVa l.line) 0 0 (5 + (if 256 ≤ cause then 8 else 0))
    (1 + 65536 * c) (s.core c).clk

/-- The uid that stands for the queue processor and the device itself, which belong to no group. -/
def procUid : Nat := 2 ^ 64

/-- Write back a dirty local line of a core, translated afresh as an engine write (spec/07 R438): a page fault waits, unless it
was declared unresolved; any other fault drops the data and writes a TYPE 5 report. That the TYPE 1 record of the page fault carries
the stamp R438 gives for TYPE 5 is the model's choice (log 92). -/
def State.writeBack (s : State) (c : Nat) (l : L1Line) (unresolved : Bool) : State × BackRes :=
  if l.dirty = 0 then (s, .done) else
  let va := lineVa l.line
  match s.translate (clusterOf c) l.asid va .write with
  | (s, .ok x) =>
    if x.gen then (s.loseBack c l 10, .done) else
    let cells := ((List.range 128).filter (fun i => l.dirty.getLsbD i)).map (fun i =>
      (⟨128 * l.line + i, x.tgt + i, byteOfLine l.data i, x.cp == 2⟩ : SCell))
    ((s.performWt c ⟨0, procUid, l.asid, cells⟩).modCore c (fun k => match k.l1Find l.asid l.line with
      | some y => k.l1Set { y with dirty := 0 }
      | none => k), .done)
  | (s, .page) =>
    if unresolved then (s.loseBack c l 7, .done) else
    let x := s.raiseFault l.asid va .write true 0 (1 + 65536 * c) (s.core c).clk
    (x.1, .waits x.2)
  | (s, r) => (s.loseBack c l (match r.outcome with | .fatal k => k | _ => 8), .done)

/-- A dirty local line is written back, or waits for the page fault. -/
def State.tryBack (s : State) (core asid line : Nat) : State :=
  match (s.core core).l1Find asid line with
  | none => s
  | some l =>
    if l.kind != .loc || s.wbHeld.any (fun w => w.1 == core && w.2.1 == asid && w.2.2.1 == line) then s else
    match s.writeBack core l false with
    | (s, .done) => s
    | (s, .waits seq) => { s with wbHeld := s.wbHeld ++ [(core, asid, line, seq)] }

/-- The 512 victim tags: a new one replaces the oldest (spec/07 R191). -/
def lastTags (ts : List (Nat × Nat)) : List (Nat × Nat) := ts.drop (ts.length - 512)

/-- The L1 evicts a line: a clean global line leaves its tag among the victim tags; a dirty local line is written back first
(spec/07 R191, R200). -/
def State.evictL1 (s : State) (core asid line : Nat) : State :=
  match (s.core core).l1Find asid line with
  | none => s
  | some l =>
    let s := s.tryBack core asid line
    match (s.core core).l1Find asid line with
    | none => s
    | some m =>
      if m.dirty ≠ 0 then s else
      s.modCore core (fun k =>
        let th : Throttle := { k.throttle with tags := if l.kind = .loc then k.throttle.tags else lastTags (k.throttle.tags ++ [(asid, line)]) }
        { k.l1Drop asid line with throttle := th })

/-- The place of the L1 an allocation takes: the next the device has named, else the lowest free one, else the first of all
(spec/07 R194: the rows from the boundary on; R200 leaves placement to the device), above the rows that a boundary move under way
takes (spec/07 R197). -/
def Core.l1Place (k : Core) : Nat :=
  let lo := 3 * max k.boundary k.taking
  match k.l1Next with
  | p :: _ => if lo ≤ p ∧ p < 3072 then p else lo
  | [] => ((List.range (k.l1.length + 1)).map (fun i => lo + i)).find? (fun p => decide (p < 3072) && !k.l1.any (fun l => l.place == p)) |>.getD lo

/-- Allocate a line in the L1: the line at its place is evicted first, and while that waits nothing is allocated. -/
def State.l1Alloc (s : State) (c : Nat) (l : L1Line) : State × Bool :=
  let p := (s.core c).l1Place
  let s := match (s.core c).l1.find? (fun x => x.place == p) with
    | some x => s.evictL1 c x.asid x.line
    | none => s
  if (s.core c).l1.any (fun x => x.place == p) then (s, false)
  else (s.modCore c (fun k => { k with l1 := k.l1 ++ [{ l with place := p }], l1Next := k.l1Next.drop 1 }), true)

/-! Loads -/

/-- How a load goes: what it allocates, whether it goes past the L1, whether a peer's line is waited for, whether it counts
victim hits. -/
structure LoadHow where
  alloc  : Option LineKind
  bypass : Bool := false
  fly    : Bool := true
  victim : Bool := true
  deriving DecidableEq, Repr

/-- One lane's global or local load of n bytes: the group's own queued stores, then the L1 copy, else a line read at the
coherent caches, allocated in the L1 as asked (spec/06 R158, spec/07 R200). A line that is allocated holds what the core has
stored through its address and is writing through; otherwise that is performed first, and an older clean copy goes
(spec/13 R314, R317), as is what the core is writing through to the same place by way of another address. A line that a store of the
group, still in its queue, writes by way of another address is read and not kept (spec/07 R201). A hit on a copy that LDG.NC or LDC
filled returns that copy, though an acquire has kept it: the model's choice (log 93). -/
def State.loadBytes (s : State) (e : Env) (va : DWord) (n : Nat) (w : LoadHow) : State × Outcome1 :=
  if !canonical va then (s, .fatal 8) else
  let v := va.toNat % 2 ^ 57
  let vline := v / 128
  let pick (own : List (Nat × Byte)) (d : LineData) : List Byte :=
    (List.range n).map (fun i => lastCell own (v + i) (byteOfLine d ((v + i) % 128)))
  let log (s : State) (copy : Option Nat) (d : LineData) : State := if w.alloc = some .loc then s else s.logRead e v copy d
  match (if w.bypass then none else (s.core e.core).l1Find e.asid vline) with
  | some l =>
    -- a copy of a peer's line serves while the fabric is on (spec/19 R425)
    if l.peer && !s.fabOn then (s, .fatal 25) else
    (log (s.count e.core 2 1) (some l.fill) l.data, .done (pick ((s.core e.core).sqBytes e.ctx e.g.uid) l.data))
  | none =>
    let s := s.count e.core 3 1
    let s := if w.victim then s.victimHit e vline else s
    match s.translate (clusterOf e.core) e.asid va .read with
    | (s, .ok x) =>
      let tline := if x.gen then 2 ^ 62 else x.tgt / 128
      let keep := if x.cp = 0 ∧ !w.bypass ∧ !(s.core e.core).ownAlias e.ctx e.g.uid vline tline then w.alloc else none
      let s := if keep.isNone then s.flushVa e.core e.asid vline else s
      let s := if (s.core e.core).wtAlias vline tline then s.flushLine e.core x.tgt else s
      let own := (s.core e.core).ownBytes e.ctx e.g.uid vline tline
      match s.laneLine e w.fly v x with
      | (s, .no o) => (s, o)
      | (s, .line d peer pline ver) =>
        match keep with
        | none =>
          let s := s.modCore e.core (fun k => k.l1Keep (fun l => !(l.asid == e.asid && l.line == vline && l.kind == .glob)))
          (log s none d, .done (pick own d))
        | some k =>
          let d := patchLine d ((s.core e.core).wtBytes e.asid vline)
          let l : L1Line := { asid := e.asid, line := vline, pline := pline, peer := peer, kind := k, data := d, dirty := 0,
                              ver := ver, fill := s.serial, place := 0 }
          let r := { s with serial := s.serial + 1 }.l1Alloc e.core l
          (log r.1 (if r.2 then some l.fill else none) d, .done (pick own d))
    | (s, r) => (s, r.outcome)

/-- One lane's scratchpad load, once the group's own writes to that array have been performed (spec/12 R293). -/
def State.loadScratch (s : State) (e : Env) (a n : Nat) : Outcome1 :=
  match s.window e.g.wg a n with
  | none => .fatal 8
  | some t => .done (s.scrBytes t n)

/-- A scratchpad access of n bytes has to wait: the group's own writes to that array are still in its store queue, or an acquiring
atomic is not yet performed (spec/12 R293, spec/06 R162). -/
def State.scratchWaits (s : State) (e : Env) (a n : Nat) : Bool :=
  (s.core e.core).acqPending e.ctx e.g.uid ||
  (match s.window e.g.wg a n with
    | some t => (s.core e.core).scratchPending e.ctx e.g.uid (t / 2 ^ 20)
    | none => false)

/-! Belay loads (spec/06 R172, R173; spec/07 R202, R203) -/

def Core.belayOf (k : Core) (ctx pline : Nat) (peer : Bool) : Option (Nat × Belay) :=
  k.belay.find? (fun b => b.2.state != 0 && b.2.ctx == ctx && b.2.pline == pline && b.2.peer == peer)

/-- Entries a group holds, and entries in use. -/
def Core.belayCount (k : Core) (ctx : Nat) : Nat := (k.belay.filter (fun b => b.2.state != 0 && b.2.ctx == ctx)).length
def Core.belayUsed (k : Core) : Nat := (k.belay.filter (fun b => b.2.state != 0)).length

/-- Send a validation for an entry; one of a peer's line that no route takes is struck (spec/19 R431). -/
def State.validate (s : State) (c idx genr : Nat) (l : L1Line) : State :=
  let port := if l.peer then s.lineRoute l.pline else none
  let v : Validation := { id := s.serial, index := idx, genr := genr, pline := l.pline, peer := l.peer, ver := l.ver,
                          answer := if l.peer && port.isNone then some false else none, port := port }
  let t := ({ s with serial := s.serial + 1 }.modCore c (fun k => { k with vals := k.vals ++ [v] })).count c 6 1
  match port with
  | some p => t.send p (some v.id) (.validate (128 * l.pline / 2 ^ 35) (128 * l.pline % 2 ^ 35) l.ver)
  | none => t

/-- A virtual line lies in the local space of the group's launch (spec/06 R154, spec/17 R394). -/
def State.localLine (s : State) (e : Env) (vline : Nat) : Bool :=
  match s.launches.look e.g.launch with
  | none => false
  | some x =>
    let lo := x.localA.toNat % 2 ^ 57
    let n := x.gx * x.gy * x.gz * x.hdr.groups * (4 * e.g.width * ((x.hdr.localB + 3) / 4))
    decide (lo < 128 * vline + 128) && decide (128 * vline < lo + n)

/-- What LDB does about one line its lanes touch: whether it is a bypass. That a miss on a page with CP 0b10 is one, as on a page with
CP 0b01, is the model's choice (spec/14 R327; log 94). -/
def State.belayLine (s : State) (e : Env) (vline : Nat) : State × Bool :=
  let s := s.flushVa e.core e.asid vline
  let k := s.core e.core
  if s.localLine e vline then (s, true) else
  match k.l1Find e.asid vline with
  | none =>
    match s.translate (clusterOf e.core) e.asid (lineVa vline) .read with
    | (s, .ok x) => (s, !x.peer && !x.gen && isHost x.addr || x.cp != 0)
    | (s, _) => (s, false)
  | some l =>
    if l.kind = .loc ∨ (!l.peer ∧ isHost (l.pline * 128) ∧ l.pline < 2 ^ 45) then (s, true)
    else match k.belayOf e.ctx l.pline l.peer with
      | some (i, b) =>
        if b.state = 3 then (s.validate e.core i b.genr l, false)
        else if b.count = 63 then (s, true)
        else ((s.modCore e.core (fun k => { k with belay := k.belay.put i { b with count := b.count + 1, state := 1 } })).validate
          e.core i b.genr l, false)
      | none =>
        if 32 ≤ k.belayCount e.ctx ∨ 256 ≤ k.belayUsed then (s, true)
        else match (List.range 256).find? (fun i => match k.belay.look i with | some b => b.state == 0 | none => true) with
          | none => (s, true)
          | some i =>
            let genr := match k.belay.look i with | some b => b.genr | none => 0
            let b : Belay := { ctx := e.ctx, count := 1, state := 1, sbit := false, genr := genr, pline := l.pline, peer := l.peer }
            ((s.modCore e.core (fun k => { k with belay := k.belay.put i b })).validate e.core i genr l, false)

/-- Some entry of the group awaits an answer; some entry is struck, or its STRUCK bit set (spec/06 R173, R177). -/
def Core.belayPending (k : Core) (ctx : Nat) : Bool := k.belay.any (fun b => b.2.state != 0 && b.2.ctx == ctx && b.2.count != 0)
def Core.belayStruck (k : Core) (ctx : Nat) : Bool :=
  k.belay.any (fun b => b.2.state != 0 && b.2.ctx == ctx && (b.2.state == 3 || b.2.sbit))

/-! Releases and acquires (spec/06 R162, R176; spec/12 R293) -/

inductive RelRes
  | go
  | wait
  /-- a trap: its cause and FADDR, none for FFIRST -/
  | trap (cause : Nat) (faddr : Option DWord)
  deriving DecidableEq, Repr

/-- The group's stores have left their queue; and, for .K and wider, they, and what the core had stored before them, have been
written through (spec/13 R305, R314). -/
def State.drained (s : State) (e : Env) (scope : Nat) : Bool :=
  let k := s.core e.core
  !(k.sq.any (fun q => q.ctx == e.ctx && q.uid == e.g.uid)) && (decide (scope < 3) || k.wt.isEmpty)

/-- The other slot's memory instruction has lanes that are not done, or its DECW has not read its stream: no later access of the group
goes before them (spec/13 R320, spec/06 R162, spec/10 R273). A handler does not wait for the slot it holds (log 78). -/
def Env.siblingPends (e : Env) : Bool :=
  let sl := e.g.slotOf (1 - e.n)
  (sl.replay.isSome || (match sl.wait with | .pend _ => true | .decode _ => true | _ => false)) && !e.g.inHandler

/-- Whether a release may be performed: its group's stores, those of the other slot's pending lanes among them, the belay rule where
it applies, and at .S the acknowledgements of peer writes (spec/06 R162, spec/13 R317, spec/19 R435). -/
def State.release (s : State) (e : Env) (scope : Nat) (belay : Bool) : RelRes :=
  if e.siblingPends || !s.drained e scope then .wait
  else if belay && (s.core e.core).belayPending e.ctx then .wait
  else if belay && ((s.core e.core).belayStruck e.ctx || e.g.lostStruck) then .trap 18 none
  else if scope = 5 ∧ s.peerReqs.any (fun r => r.uid == e.g.uid && r.read.isNone && r.op.isNone) then .wait
  else if scope = 5 then
    match e.g.peerFail with
    | some a => .trap 25 (some a)
    | none => .go
  else .go

/-- The acquire actions at a scope (spec/06 R162, spec/14 R351). -/
def State.acquire (s : State) (c ctx scope : Nat) : State :=
  if scope < 3 then s else (s.dropClean c).modGroup c ctx (fun g => { g with logSet := [] })

end Sys2Proof.Machine
end

