-- ==== Sys2Proof/Machine/MemSys.lean ====
section
/-! DEFINITION. The shared course of a memory instruction: alignment, watchpoints, each lane's access, commits, parks, replays
and traps (spec/06 R155-R169; spec/14 R346, R349). -/

namespace Sys2Proof.Machine

/-! Formats of converted accesses (spec/06 R157) -/

def plainEnv : FEnv := ⟨.rne, false, false, false⟩

/-- Element i of a lane's bytes as a register word: integers extended, floating point exactly to FP32. -/
def elemToReg (f : Fmt) (x i : Nat) : Word :=
  let code := x / 2 ^ (f.bits * i) % 2 ^ (if f = .e3m2 ∨ f = .e2m3 then 6 else f.bits)
  match f.intRange? with
  | some (lo, _) => if lo < 0 ∧ 2 ^ (f.bits - 1) ≤ code then BitVec.ofInt 32 ((code : Int) - 2 ^ f.bits) else BitVec.ofNat 32 code
  | none => BitVec.ofNat 32 (Fmt.fp32.convert plainEnv (f.value plainEnv code)).1

/-- The bits are those of an FP32 NaN. -/
def isNanWord (w : Word) : Bool := decide (0x7F800000 < (w &&& 0x7FFFFFFF).toNat)

/-- A register word as an element, with its flags: integers wrap, whatever pattern they are; FP32 converts under FPCR.RM. That R157's
wrap or the 0 of R31's last clause holds for an integer format and a register that holds a NaN's bits is left open (log 74). -/
def regToElem (f : Fmt) (fpcr w : Word) : Nat × Flg :=
  match f.intRange? with
  | some _ => if isNanWord w && Config.nanStoresZero then (0, Flg.ioc) else (w.toNat % 2 ^ f.bits, 0)
  | none => f.convert (envOf 0 false fpcr) (Fmt.fp32.value (envOf 0 false fpcr) w.toNat)

/-- Registers per lane from VSZ. -/
def vszRegs (v : BitVec 3) : Nat := 2 ^ v.toNat

/-- Bytes per lane (spec/06 R157). -/
def accessBytes (cv : Bool) (mfmt : BitVec 5) (nreg : Nat) : Nat :=
  if cv then ((Fmt.ofCode mfmt).getD .fp32).bits * nreg / 8 else 4 * nreg

/-- The words a lane's bytes give its registers. -/
def MemOp.words (m : MemOp) (bs : List Byte) : List Word :=
  let x := leNat bs
  (List.range m.nreg).map (fun i =>
    if m.cv then elemToReg ((Fmt.ofCode m.mfmt).getD .fp32) x i else BitVec.ofNat 32 (x / 2 ^ (32 * i)))

/-- Writes of consecutive registers in a lane. -/
def wordWrites (dst : Option Opd) (lane : Nat) (ws : List Word) : List RegWrite :=
  match dst with
  | some (.v n) => (ws.zipIdx).map (fun x => ⟨.v, n.val + x.2, lane, x.1⟩)
  | some (.s n) => (ws.zipIdx).map (fun x => ⟨.s, n.val + x.2, 0, x.1⟩)
  | some (.p n) => [⟨.p, n.val, lane, ws.headD 0⟩]
  | _ => []

def MemOp.writesFor (m : MemOp) (lane : Nat) (bs : List Byte) : List RegWrite := wordWrites m.dst lane (m.words bs)

/-- The registers, and lanes of them, the instruction writes. -/
def MemOp.dests (m : MemOp) : List (RegCls × Nat × DWord) :=
  (wordWrites m.dst 0 (List.replicate m.nreg 0)).map (fun w => (w.cls, w.reg, m.active))

/-! What kind of access -/

def MemKind.isLoad : MemKind → Bool
  | .load _ => true
  | .anch => true
  | _ => false
/-- Atomics, stores and reductions of helper lanes make no access (spec/06 R168). -/
def MemKind.isStore : MemKind → Bool
  | .store => true
  | .stl => true
  | .sts => true
  | .atomg _ => true
  | .atoms _ => true
  | _ => false
def MemKind.isCctl : MemKind → Bool
  | .cctl _ _ => true
  | _ => false
def MemKind.scratch : MemKind → Bool
  | .load .lds => true
  | .sts => true
  | .atoms _ => true
  | _ => false
def MemKind.reads : MemKind → Bool
  | .load _ => true
  | .anch => true
  | .atomg a => a.ret
  | _ => false
/-- One address, the first lane's, serves every lane (spec/06 R158, R179). -/
def MemKind.one : MemKind → Bool
  | .load .ldc => true
  | .anch => true
  | _ => false
def MemKind.local : MemKind → Bool
  | .load .ldl => true
  | .stl => true
  | _ => false

/-- The virtual address a lane's access begins at: local offsets are mapped (spec/06 R154). -/
def MemOp.vaOf (m : MemOp) (e : Env) (l : MLane) : DWord :=
  if m.kind.local then BitVec.ofNat 64 (localAddr e.g.lbase e.g.width l.lane l.addr.toNat) else l.addr

/-- The runs of bytes a lane's access covers: one, or a local access's words, which lie apart (spec/06 R154). -/
def MemOp.pieces (m : MemOp) (e : Env) (l : MLane) : List (DWord × Nat) :=
  if m.kind.local then (List.range ((m.size + 3) / 4)).map (fun k =>
    (BitVec.ofNat 64 (localAddr e.g.lbase e.g.width l.lane (l.addr.toNat + 4 * k)), min 4 m.size))
  else [(l.addr, m.size)]

/-- A local access beyond the lane's local bytes (spec/06 R154). -/
def MemOp.beyondLocal (m : MemOp) (e : Env) (l : MLane) : Bool := m.kind.local && decide (e.k.localB < l.addr.toNat + m.size)

/-- A lane's state while the instruction runs. -/
structure LaneRes where
  m   : MLane
  out : Outcome1
  /-- bytes of a store, or the place of an atomic -/
  cells : List SCell := []
  scr : List (Nat × Byte) := []
  tgt : Nat := 0
  /-- its page keeps its data out of the L1 (spec/14 R327) -/
  out1 : Bool := false
  deriving DecidableEq, Repr

/-- The cells of a store's lane. -/
def storeCells (va tgt : Nat) (bs : List Byte) (unc : Bool := false) : List SCell :=
  (bs.zipIdx).map (fun x => ⟨va + x.2, tgt + x.2, x.1, unc⟩)

/-- CCTL on one L1 line: a dirty local line is written back; INV then drops it (spec/06 R181). -/
def State.cctlLine (s : State) (c asid vline : Nat) (inv unresolved : Bool) : State × Outcome1 :=
  match (s.core c).l1Find asid vline with
  | none => (s, .done [])
  | some y =>
    match (if y.kind = .loc then s.writeBack c y unresolved else (s, .done)) with
    | (s, .done) => (if inv then s.modCore c (fun k => k.l1Drop asid vline) else s, .done [])
    | (s, .waits seq) => (s, .wait (.fault seq))

/-- Load the runs of a lane's bytes one after another. -/
def State.loadRuns (s : State) (e : Env) (w : LoadHow) (ps : List (DWord × Nat)) : State × Outcome1 :=
  ps.foldl (fun (x : State × Outcome1) p =>
    match x.2 with
    | .done ds => match x.1.loadBytes e p.1 p.2 w with
      | (s, .done bs) => (s, .done (ds ++ bs))
      | r => r
    | _ => x) (s, .done [])

/-- The places a lane's store reaches, with its bytes, once its pages are checked; in the range of an INVAL in progress it waits for
its end (spec/16 R387). -/
def State.storeRuns (s : State) (e : Env) (acc : Acc) (l : MLane) (bs : List Byte) (ps : List (DWord × Nat)) : State × LaneRes :=
  ps.foldl (fun (x : State × LaneRes) p =>
    if x.2.out ≠ .done [] then x
    else if !canonical p.1 then (x.1, { x.2 with out := .fatal 8 }) else
    match x.1.translate (clusterOf e.core) e.asid p.1 acc with
    | (s, .ok a) =>
      let q := e.req (p.1.toNat % 2 ^ 57) a
      if s.invalHolds q then (s, { x.2 with out := .wait (.held (sliceOf q.asid (blockOf q.va q.blklog)) false) }) else
      (s, { x.2 with cells := x.2.cells ++ storeCells (p.1.toNat % 2 ^ 57) a.tgt ((bs.drop x.2.cells.length).take p.2) (a.cp == 2), tgt := a.tgt,
                     out1 := x.2.out1 || a.cp != 0 })
    | (s, r) => (s, { x.2 with out := r.outcome })) (s, { m := l, out := .done [] })

/-- One lane's access. -/
def MemOp.access (m : MemOp) (s : State) (e : Env) (byp : List Nat) (unres : Bool) (l : MLane) : State × LaneRes :=
  let va := m.vaOf e l
  let res (r : State × Outcome1) : State × LaneRes := (r.1, { m := l, out := r.2 })
  let bs := leBytes m.size l.data
  let cl := clusterOf e.core
  let load (k : LineKind) (bypass : Bool) := res (s.loadRuns e { alloc := some k, bypass := bypass } (m.pieces e l))
  if m.beyondLocal e l then (s, { m := l, out := .fatal 8 }) else
  match m.kind with
  | .load .lds => (s, { m := l, out := s.loadScratch e l.addr.toNat m.size })
  | .load .ldl => load .loc false
  | .load .nc => load .nc false
  | .load .ldc => load .nc false
  | .load .ldg => load .glob false
  | .load .acq => load .glob false
  | .load .ldb => load .glob (byp.contains (va.toNat % 2 ^ 57 / 128))
  | .anch =>
    match s.loadBytes e va m.size { alloc := none, bypass := true, victim := false } with
    | (s, .done d) =>
      let key := match (s.cluster cl).find e.asid (va.toNat % 2 ^ 57) with
        | some t => match s.permit t (va.toNat % 2 ^ 57) .read with
          | .ok x => if x.gen then genKey e.asid (va.toNat % 2 ^ 57 / 128) else lineKey x.peer (x.addr / 128)
          | _ => 0
        | none => 0
      (s.modGroup e.core e.ctx (fun g => { g with monitor := .armed e.asid key }), { m := l, out := .done d })
    | (s, o) => (s, { m := l, out := o })
  | .store => s.storeRuns e .write l bs (m.pieces e l)
  | .stl =>
    -- a local store's line is read when it is not in the L1; its write is checked at the write-back (log 17)
    match (s.core e.core).l1Find e.asid (va.toNat % 2 ^ 57 / 128),
        (m.pieces e l).all (fun p => p.1.toNat % 2 ^ 57 / 128 == va.toNat % 2 ^ 57 / 128) with
    | some y, true =>
      let line := (if y.peer then 2 ^ 60 else 0) + y.pline * 128
      (s, { m := l, out := .done [], cells := (m.pieces e l).zipIdx.flatMap (fun p =>
        storeCells (p.1.1.toNat % 2 ^ 57) (line + p.1.1.toNat % 128) ((bs.drop (4 * p.2)).take p.1.2)) })
    | _, _ =>
      -- on a page that keeps its data out of the L1 it is a write like any other (spec/14 R326, R327)
      match s.storeRuns e .read l bs (m.pieces e l) with
      | (s, r) => if r.out = .done [] ∧ r.out1 = true then s.storeRuns e .write l bs (m.pieces e l) else (s, r)
  | .atomg i =>
    -- a peer's line is asked for first; the atomic is performed when it has answered. One at .G, .W or .C on a page whose CP keeps it
    -- out of the L1 is performed at the home: the model's choice (log 94)
    match s.storeRuns e .write l bs (m.pieces e l) with
    | (s, r) =>
      let r : LaneRes := { r with out1 := r.out1 || decide (3 ≤ i.scope) }
      let held := !r.out1 && ((s.core e.core).l1Find e.asid (va.toNat % 2 ^ 57 / 128)).isSome
      let bad := !held && s.eccBad.contains (lineKey (decide (2 ^ 60 ≤ r.tgt)) (r.tgt % 2 ^ 60 / 128))
      let r : LaneRes := if r.out = .done [] ∧ bad = true then { m := l, out := .fatal 24 } else r
      if r.out = .done [] ∧ 2 ^ 60 ≤ r.tgt then
        match s.peerAsk e.core e.g.uid e.n none true (r.tgt % 2 ^ 60 / 128) (va.toNat % 2 ^ 57) with
        | (s, .line _ _) => (s, r)
        | (s, .wait id) => (s, { m := l, out := .wait (.peer id) })
        | (s, .fail) => (s, { m := l, out := .fatal 25 })
      else (s, r)
  | .sts =>
    match s.window e.g.wg l.addr.toNat m.size with
    | none => (s, { m := l, out := .fatal 8 })
    | some t => (s, { m := l, out := .done [], scr := cellsFrom t bs })
  | .atoms _ =>
    match s.window e.g.wg l.addr.toNat m.size with
    | none => (s, { m := l, out := .fatal 8 })
    | some t => (s, { m := l, out := .done [], cells := [⟨l.addr.toNat, t, 0, false⟩], tgt := t })
  | .cctl inv true =>
    let lines := ((s.core e.core).l1.filter (fun y => y.asid == e.asid)).map (fun y => y.line)
    let r := lines.foldl (fun (x : State × Outcome1) vl =>
      let y := x.1.cctlLine e.core e.asid vl inv unres
      (y.1, match y.2 with | .wait p => .wait p | _ => x.2)) (s, .done [])
    (r.1, { m := l, out := r.2 })
  | .cctl inv false =>
    -- its line is translated as a read is
    match s.translate cl e.asid va .read with
    | (s, .ok _) => res (s.cctlLine e.core e.asid (va.toNat % 2 ^ 57 / 128) inv unres)
    | (s, .page) => (s, { m := l, out := if unres then .fatal 7 else .page })
    | (s, r) => (s, { m := l, out := r.outcome })

/-- A helper lane's faulting load writes 0 and is done (spec/06 R168); its stores make no access. -/
def MemOp.helped (m : MemOp) (e : Env) (r : LaneRes) : LaneRes :=
  if e.isLaunched r.m.lane then r else
  match r.out with
  | .fatal _ => { r with out := .done (leBytes m.size 0) }
  | .page => { r with out := .done (leBytes m.size 0) }
  | _ => r

/-- One lane's part of the instruction: a helper lane stores nothing, and that the destination of its ATOMG or ATOMS keeps its old
value is the model's choice (log 75). The lanes of a replay whose fault is fatal come with its cause. -/
def MemOp.laneRun (m : MemOp) (s : State) (e : Env) (byp : List Nat) (unresolved : List (Nat × Nat)) (l : MLane) : State × LaneRes :=
  let bad := (unresolved.find? (fun x => x.1 == l.lane)).map (fun x => x.2)
  if !e.isLaunched l.lane && m.kind.isStore then (s, { m := l, out := .done [] })
  else if bad.isSome && !m.kind.isCctl then (s, m.helped e { m := l, out := .fatal (bad.getD 7) })
  else
    let r := m.access s e byp bad.isSome l
    (r.1, m.helped e r.2)

/-- The lanes' parts in lane order; one access serves all of LDC's and ANCH's. -/
def MemOp.runLanes (m : MemOp) (s : State) (e : Env) (byp : List Nat) (unresolved : List (Nat × Nat)) : State × List LaneRes :=
  match m.lanes with
  | [] => (s, [])
  | f :: _ =>
    if m.kind.one then
      let r := match unresolved with
        | [] => m.access s e byp false f
        | u :: _ => (s, { m := f, out := .fatal u.2 })
      (r.1, m.lanes.map (fun l => m.helped e { r.2 with m := l }))
    else m.lanes.foldl (fun (x : State × List LaneRes) l => let y := m.laneRun x.1 e byp unresolved l; (y.1, x.2 ++ [y.2])) (s, [])

/-- FADDR of a lane: the virtual address, or the window address or local offset zero-extended (spec/06 R153, R154). -/
def MemOp.faddr (m : MemOp) (e : Env) (l : MLane) : DWord :=
  if m.kind.scratch || m.beyondLocal e l then l.addr else m.vaOf e l

/-- Whether an operation's lane is done. -/
def LaneRes.isDone (r : LaneRes) : Bool := match r.out with | .done _ => true | _ => false
def LaneRes.isFatal (r : LaneRes) : Bool := match r.out with | .fatal _ => true | _ => false

/-- The store-queue entries of the lanes that are done, if they store anything; a local store to a page whose data stays out of the
L1 goes as a global one (spec/14 R327). -/
def MemOp.entries (m : MemOp) (rs : List LaneRes) : List SqWhat :=
  let done := rs.filter LaneRes.isDone
  let alanes := (done.filter (fun r => r.cells != [])).map (fun r =>
    (⟨r.m.lane, (r.cells.head?.map SCell.va).getD 0, r.tgt, r.m.data, r.m.cmp, r.out1⟩ : ALane))
  let cells (p : LaneRes → Bool) : List SCell := (done.filter p).flatMap (fun r => r.cells)
  let bytes (cs : List SCell) : List SqWhat := if cs = [] then [] else [.bytes cs]
  match m.kind with
  | .store => bytes (cells (fun _ => true))
  | .stl => bytes (cells (fun r => r.out1)) ++ (let cs := cells (fun r => !r.out1); if cs = [] then [] else [.loc cs])
  | .sts => let c := done.flatMap (fun r => r.scr); if c = [] then [] else [.scratch c]
  | .atomg a => if alanes = [] then [] else [.atomg a alanes m.dst]
  | .atoms a => if alanes = [] then [] else [.atoms a alanes m.dst]
  | _ => []

/-- Put an entry at the end of the group's store queue. -/
def State.enqueue (s : State) (e : Env) (opId : Option Nat) (w : SqWhat) : State :=
  let q : SqEntry := { id := s.serial, ctx := e.ctx, uid := e.g.uid, asid := e.asid, opId := opId, what := w }
  { s with serial := s.serial + 1 }.modCore e.core (fun k => { k with sq := k.sq ++ [q] })

/-- Distinct 32-byte sectors the lanes touch. -/
def MemOp.sectors (m : MemOp) (e : Env) : Nat := (dedup ((m.lanes.flatMap (m.pieces e)).map (fun p => p.1.toNat / 32))).length

/-- Keep an operation's committed lanes: a load's writes; a store's entry, whose leaving completes it. -/
def State.commitLanes (s : State) (e : Env) (m : MemOp) (id : Nat) (rs : List LaneRes) : State :=
  let ws := (rs.filter LaneRes.isDone).flatMap (fun r => match r.out with
    | .done bs => if m.kind.isLoad then m.writesFor r.m.lane bs else []
    | _ => [])
  let s := s.modCore e.core (fun k => { k with ops := k.ops.map (fun o =>
    if o.id = id then { o with writes := o.writes ++ ws } else o) })
  (m.entries rs).foldl (fun s w => s.enqueue e (some id) w) s

/-- An operation completes, with its sample record. -/
def State.endOp (s : State) (c id : Nat) : State :=
  match s.findOp c id with
  | some o => (s.sampleDone c o).complete c o
  | none => s

/-- A lane waits for a peer's line on its way. -/
def LaneRes.flies (r : LaneRes) : Bool := match r.out with | .wait (.peer _) => true | _ => false

/-- The waits of an instruction of which one lane's access is fatal while peers' lines are on their way for others: it traps once
every lane has its outcome (spec/06 R167). -/
def deadWaits (rs : List LaneRes) : List (Nat × Pend) :=
  rs.map (fun r => (r.m.lane, match r.out with
    | .fatal c => .dead c
    | .wait (.peer id) => .peer id
    | _ => .ready 0))

/-- The pending lanes' waits. A replayable fault writes its record (spec/14 R332). -/
def State.waitFor (s : State) (e : Env) (m : MemOp) (rs : List LaneRes) : State × List (Nat × Pend) :=
  rs.foldl (fun (s, l) r =>
    match r.out with
    | .wait p => (s, l ++ [(r.m.lane, p)])
    | .page =>
      let x := s.raiseFault e.asid (m.vaOf e r.m) (if m.kind.isStore then .write else .read) false e.sl.pc
        (s.stamp e.core e.g e.n false) e.clk
      (x.1, l ++ [(r.m.lane, .fault x.2)])
    | _ => (s, l ++ [(r.m.lane, .ready 0)])) (s, [])

/-- An operation whose lanes are not all done is performed lane by lane, at its issue and at its replays: none of its lanes reads
again (spec/13 R320). -/
def State.byLanes (s : State) (c id : Nat) : State :=
  s.modCore c (fun k => { k with ops := k.ops.map (fun (o : Op) =>
    if o.id = id then { o with what := match o.what with | .load m => .load { m with lanes := [] } | w => w } else o) })

/-- Run a memory instruction's lanes: first issue, or a replay with the operation that keeps its flag (spec/06 R167). An LDB's replayed
lanes read later than its committed ones, as R320 says, and a BCHK may still fall through after them, though R318 gives the LDB one
instant: the model's choice (log 95). -/
def State.runMem (s : State) (e : Env) (m : MemOp) (id stall replays : Nat) (bypassed : Bool)
    (unresolved : List (Nat × Nat)) : State :=
  -- belay lines first, line by line (spec/06 R172)
  let lines := if m.kind = .load .ldb then
    dedup ((m.lanes.filter (fun l => canonical l.addr)).map (fun l => l.addr.toNat % 2 ^ 57 / 128)) else []
  let b := lines.foldl (fun (x : State × List Nat) vl => let r := x.1.belayLine e vl; (r.1, if r.2 then x.2 ++ [vl] else x.2)) (s, [])
  let s := if b.2 = [] ∨ bypassed then b.1 else
    (b.1.modGroup e.core e.ctx (fun g => { g with bypass := if g.bypass = 255 then 255 else g.bypass + 1 })).count e.core 8 1
  let r := m.runLanes s e b.2 unresolved
  let s := r.1.commitLanes e m id r.2
  let pend := r.2.filter (fun x => !x.isDone)
  if pend = [] then
    let s := match m.kind with
      | .load .acq => s.acquire e.core e.ctx (bits m.mfmt.toNat 0 3)
      | .cctl _ _ => s.endOp e.core id
      | _ => s
    let s := if m.kind.isStore && !((s.core e.core).sq.any (fun q => q.opId == some id)) then
        s.endOp e.core id else s
    s.goOn e stall
  else
    let fmask := maskOf (pend.map (fun x => x.m.lane))
    match (if pend.any LaneRes.flies then none else pend.find? LaneRes.isFatal) with
    | some f =>
      let s := match s.findOp e.core id with
        | none => s
        | some o =>
          let s := s.modGroup e.core e.ctx (fun g => g.flagDown o.flag)
          let s := match o.sample with | some x => s.sampleRecord e.core o { x with replays := replays } true | none => s
          let o := { o with flag := none, sample := none, dests := [] }
          if o.writes = [] ∧ !((s.core e.core).sq.any (fun q => q.opId == some id)) then s.dropOp e.core id else s.setOp e.core o
      let cause := match f.out with | .fatal c => c | _ => 7
      s.trapAt e cause fmask (m.faddr e f.m) true
    | none =>
      let s := s.byLanes e.core id
      let w := if pend.any LaneRes.isFatal then (s, deadWaits pend) else s.waitFor e m pend
      -- a lane whose peer's line is on its way has no outcome yet
      let out := if pend.any LaneRes.isFatal then 0 else
        maskOf ((w.2.filter (fun x => match x.2 with | .peer _ => false | _ => true)).map (fun x => x.1))
      let rp : Replay :=
        { op := { m with lanes := m.lanes.filter (fun l => pend.any (fun x => x.m.lane == l.lane)) }, why := w.2,
          opId := some id, count := replays, byp := bypassed || b.2 != [],
          len := e.len, stall := stall, flown := out == 0 }
      (w.1.modGroup e.core e.ctx (fun g => if out = 0 then g else { g with fmask := out })).modSlot e.core e.ctx e.n (fun sl =>
        { sl with wait := .replay, replay := some rp })

/-- The launched lanes' bytes as the watchpoints see them (spec/14 R346). -/
def MemOp.watched (m : MemOp) (e : Env) : List (Nat × Nat) :=
  if m.kind.scratch then [] else
  ((m.lanes.filter (fun l => e.isLaunched l.lane)).flatMap (m.pieces e)).map (fun p => (p.1.toNat, p.2))

/-- A watchpoint's answer before a memory instruction: stop the rope, or report and go on. -/
def State.watchAccess (s : State) (e : Env) (write read : Bool) (ranges : List (Nat × Nat)) : State × Bool :=
  if e.sl.noWatch then (s, false) else
  match s.watchRanges e.asid write read false ranges with
  | none => (s, false)
  | some (a, n) =>
    let cl := clusterOf e.core
    if s.stopsOn cl e.asid && (s.cluster cl).dbgctl.getLsbD 2 then
      match s.ropeOf e.g.wg with
      | none => (s, false)
      | some (r, _) =>
        let idx := match s.wgs.look e.g.wg with | some w => w.wgidx | none => 0
        (s.beginStop r ⟨4, n, idx, e.g.grpid, e.n, e.sl.pc, BitVec.ofNat 64 a, e.clk, false, 0, 0⟩, true)
    else
      (s.report 3 0 e.asid (BitVec.ofNat 64 a) e.sl.pc 0 (if write then 1 else 0) (s.stamp e.core e.g e.n false) e.clk, false)

def State.watchMem (s : State) (e : Env) (m : MemOp) : State × Bool :=
  s.watchAccess e m.kind.isStore m.kind.reads (m.watched e)

/-- The sample an instruction starts, if it is sampled (spec/14 R349): its active lanes, the sectors it touches, whether it returns
data. -/
def State.sampleOf (s : State) (e : Env) (lanes : DWord) (sectors : Nat) (data : Bool) : Option Sample :=
  let x : Sample := ⟨0, false, lanes, e.clk, sectors, 0, data⟩
  match e.sl.psamp with
  | some c => some { x with code := c.toNat, psamp := true }
  | none =>
    let p := s.sampper.toNat
    if p ≠ 0 ∧ ((s.core e.core).memCount + 1) % p = 0 then some x else none

/-- What a memory instruction's operation does: a load, an atomic that returns old values, or a store. -/
def MemKind.what (k : MemKind) (m : MemOp) : What :=
  match k with
  | .atomg a => if a.ret then .fetch else .store
  | .atoms _ => .fetch
  | _ => if k.isLoad then .load m else .store

/-- A memory instruction counts for the samples, and the PSAMP that waits for it is used (spec/14 R349). -/
def State.memCounted (s : State) (e : Env) : State :=
  (s.modCore e.core (fun k => { k with memCount := k.memCount + 1 })).modSlot e.core e.ctx e.n (fun sl => { sl with psamp := none })

/-- The passes of a scratchpad access: the largest number of distinct rows its lanes touch in one of the 96 banks
(spec/07 R195). -/
def State.passes (s : State) (e : Env) (m : MemOp) : Nat :=
  if !m.kind.scratch then 0 else
  let words := dedup ((m.lanes.filter (fun l => e.isLaunched l.lane || m.kind.isLoad)).flatMap (fun l =>
    match s.window e.g.wg l.addr.toNat m.size with
    | some t => (List.range ((m.size + 3) / 4)).map (fun i => t % 2 ^ 20 / 4 + i)
    | none => []))
  words.foldl (fun n w => max n (words.filter (fun x => x % 96 == w % 96)).length) 0

/-- First issue of a memory instruction (spec/06 R167): MISALIGN, the watchpoints, then its lanes. -/
def State.issueMem (s : State) (e : Env) (h : Hdr) (m : MemOp) (fl : Flg := 0) : State :=
  let bad := m.lanes.filter (fun l => l.addr.toNat % m.size != 0)
  match bad with
  | f :: _ => s.trapAt e 9 (maskOf (bad.map (·.lane))) f.addr true
  | [] =>
    match s.watchMem e m with
    | (s, true) => s
    | (s, false) =>
      let o := { e.op s (e.flag h) (m.kind.what m) with sample := s.sampleOf e m.active (m.sectors e) m.dst.isSome, dests := m.dests }
      let s := ({ s with serial := s.serial + 1 }.start e o).count e.core 0 1
      let s := s.count e.core 9 (s.passes e m)
      let s := (s.memCounted e).modGroup e.core e.ctx (fun g => { g with fpsr := Flg.into g.fpsr fl })
      s.runMem e m e.serial h.stall.toNat 0 false []

end Sys2Proof.Machine
end

