-- ==== Sys2Proof/Machine/Queue.lean ====
section
/-! DEFINITION. What leaves a store queue: stores, atomics at the core and at the home, the write-through, and the drain of a core
(spec/06 R160, R164, R166; spec/13 R317; spec/14 R351). -/

namespace Sys2Proof.Machine

/-! Atomics (spec/06 R164, R166) -/

/-- Bytes of a TYPE. -/
def atomBytes (ty : Nat) : Nat := if ty = 2 ∨ ty = 3 then 8 else 4

def addRne (f : FFmt) (a b : Nat) : Nat := (f.write ⟨.rne, false, false, false⟩ (FV.sum .rne [f.decode a, f.decode b])).1

/-- The value an atomic leaves, from the old one, its data and its compare value. -/
def AtomInfo.apply (a : AtomInfo) (old v cmp : Nat) : Nat :=
  let n := 8 * atomBytes a.ty
  let num (x : Nat) : Int := if a.ty = 1 ∨ a.ty = 3 then (if x < 2 ^ (n - 1) then (x : Int) else (x : Int) - 2 ^ n) else x
  match a.op with
  | none => if old = cmp then v else old
  | some .add => (old + v) % 2 ^ n
  | some .min => if num v < num old then v else old
  | some .max => if num old < num v then v else old
  | some .and => old &&& v
  | some .or => old ||| v
  | some .xor => old ^^^ v
  | some .exch => v
  | some .inc => if v ≤ old then 0 else (old + 1) % 2 ^ n
  | some .dec => if old = 0 ∨ v < old then v else old - 1
  | some .fadd =>
    if a.ty = 4 then addRne .fp32 old v
    else addRne .fp16 (old % 65536) (v % 65536) + 65536 * addRne .fp16 (old / 65536) (v / 65536)

/-- The order in which the lanes are performed: picked one after another (log 7). -/
def pickOrder : Nat → Nat → Nat → List ALane → List ALane
  | 0, _, _, _ => []
  | fuel + 1, serial, k, ls =>
    match ls with
    | [] => []
    | l :: r =>
      let i := Config.atomicPick serial k % ls.length
      let x := (ls[i]?).getD l
      x :: pickOrder fuel serial (k + 1) (if i = 0 then r else ls.eraseIdx i)

/-- The writes an old value makes. -/
def oldWrites (a : AtomInfo) (dst : Option Opd) (lane old : Nat) : List RegWrite :=
  if !a.ret then [] else
  wordWrites dst lane ((List.range (atomBytes a.ty / 4)).map (fun i => BitVec.ofNat 32 (old / 2 ^ (32 * i))))

/-! Stores (spec/06 R160, spec/13 R303, R317) -/

/-- Split cells of a store by virtual line, and by physical line. -/
def byLine (cells : List SCell) : List (List SCell) :=
  (dedup (cells.map (fun c => c.va / 128))).map (fun l => cells.filter (fun c => c.va / 128 == l))
def byPlace (cells : List SCell) : List (List SCell) :=
  (dedup (cells.map (fun c => c.tgt / 128))).map (fun l => cells.filter (fun c => c.tgt / 128 == l))

/-- A global store's bytes leave: present L1 lines are updated, and the write-through begins, as one write per physical line. -/
def State.storeThrough (s : State) (c id uid asid : Nat) (cells : List SCell) : State :=
  s.modCore c (fun k =>
    let k := (byLine cells).foldl (fun k ls =>
      match ls with
      | [] => k
      | x :: _ =>
        match k.l1Find asid (x.va / 128) with
        | some l => k.l1Set { l with data := patchLine l.data (ls.map (fun y => (y.va, y.b))) }
        | none => k) k
    { k with wt := k.wt ++ (byPlace cells).map (fun ls => (⟨id, uid, asid, ls⟩ : Wt)) })

/-- The L1 line of a place, allocated from the L2 when absent; none while its place in the L1 is not free. -/
def State.l1Get (s : State) (c asid va tgt : Nat) (kind : LineKind) : State × Option L1Line :=
  match (s.core c).l1Find asid (va / 128) with
  | some l => (s, some l)
  | none =>
    let peer := decide (2 ^ 60 ≤ tgt)
    let pl := tgt % 2 ^ 60 / 128
    let s := s.reachLine (clusterOf c) (lineKey peer pl)
    let d := patchLine (s.cohLine peer pl) ((s.core c).wtBytes asid (va / 128))
    let r := { s with serial := s.serial + 1 }.l1Alloc c
      { asid := asid, line := va / 128, pline := pl, peer := peer, kind := kind, data := d, dirty := 0,
        ver := s.versions.lookD 4095 (lineKey peer pl), fill := s.serial, place := 0 }
    (r.1, if r.2 then (r.1.core c).l1Find asid (va / 128) else none)

/-- Local bytes are written into their L1 lines, which become dirty there (spec/06 R160); bytes whose line finds no place are left. -/
def State.storeLocal (s : State) (c asid : Nat) (cells : List SCell) : State × List SCell :=
  (byLine cells).foldl (fun (s : State × List SCell) ls =>
    match ls with
    | [] => s
    | x :: _ =>
      match s.1.l1Get c asid x.va x.tgt .loc with
      | (t, none) => (t, s.2 ++ ls)
      | (t, some y) =>
        (t.modCore c (fun k => k.l1Set { y with
          kind := .loc, data := patchLine y.data (ls.map (fun z => (z.va, z.b))),
          dirty := ls.foldl (fun d z => d ||| (1 <<< (z.va % 128))) y.dirty }), s.2)) (s, [])

/-- A log record of an ATOMG's old values, while its group logs (spec/14 R351). -/
def State.logAtom (s : State) (c : Nat) (o : Option Op) (on : Bool) (va : Nat) (d : LineData) : State :=
  match o with
  | some o => if on then s.ringPut 3 (leBytes 16 (s.opStamp c o) ++ leBytes 8 (va / 128 * 128) ++ leBytes 8 o.ffirst.toNat ++ leBytes 128 d.toNat) else s
  | none => s

/-- One lane of an ATOMG or REDG: at the home of its line, or in the L1 and written through; its old value, or none while its
line finds no place in the L1 (spec/06 R166). -/
def State.atomLane (s : State) (c : Nat) (q : SqEntry) (a : AtomInfo) (log : Bool) (l : ALane) : State × Option Nat :=
  let n := atomBytes a.ty
  let o := q.opId.bind (s.findOp c)
  if l.home then
    let s := s.flushLine c l.tgt
    let peer := decide (2 ^ 60 ≤ l.tgt)
    let p := l.tgt % 2 ^ 60
    let s := s.reachHome (lineKey peer (p / 128))
    let old := s.numAt peer p n
    let s := s.logAtom c o (log && a.ret) l.va (s.cohLine peer (p / 128))
    ((s.cohWrite peer (cellsFrom p (leBytes n (a.apply old l.data l.cmp)))).modCore c (fun k => k.l1Drop q.asid (l.va / 128)), some old)
  else
    match s.l1Get c q.asid l.va l.tgt .glob with
    | (s, none) => (s, none)
    | (s, some y) =>
      let old := leNat ((List.range n).map (fun i => byteOfLine y.data ((l.va + i) % 128)))
      ((s.logAtom c o (log && a.ret) l.va y.data).storeThrough c q.id q.uid q.asid (storeCells l.va l.tgt (leBytes n (a.apply old l.data l.cmp))),
        some old)

/-- One lane of an ATOMS, in the array of its word. -/
def State.atomsLane (s : State) (a : AtomInfo) (l : ALane) : State × Nat :=
  let n := atomBytes a.ty
  let old := leNat (s.scrBytes l.tgt n)
  (s.scrWrite (cellsFrom l.tgt (leBytes n (a.apply old l.data l.cmp))), old)

/-- An entry's operation completes with its last entry, unless lanes of it are pending (spec/02 R58). -/
def State.storeDone (s : State) (c : Nat) (opId : Option Nat) : State :=
  match opId with
  | none => s
  | some id =>
    match s.findOp c id with
    | none => s
    | some o =>
      let more := (s.core c).sq.any (fun q => q.opId == some id)
      let pending := match s.group? c o.ctx with
        | some g => g.uid == o.uid && ((g.slotOf o.slot).replay.bind (fun r => r.opId)) == some id
        | none => false
      if more || pending then s
      else
        (s.sampleDone c o).complete c o

/-- The writes of an operation grow. -/
def State.addWrites (s : State) (c : Nat) (opId : Option Nat) (ws : List RegWrite) : State :=
  if ws = [] then s else
  s.modCore c (fun k => { k with ops := k.ops.map (fun o => if some o.id = opId then { o with writes := o.writes ++ ws } else o) })

/-- Split what an entry does into its k-th part, which goes first, and the rest: a 16-byte unit of a store, or a lane of an atomic,
whose acquire comes with its last part (spec/13 R304, R321). -/
def SqWhat.split (w : SqWhat) (k : Nat) : Option (SqWhat × SqWhat) :=
  let unit (cells : List SCell) (f : List SCell → SqWhat) : Option (SqWhat × SqWhat) :=
    let us := dedup (cells.map (fun c => c.tgt / 16))
    match us[k]? with
    | none => none
    | some u => if us.length ≤ 1 then none else some (f (cells.filter (fun c => c.tgt / 16 == u)), f (cells.filter (fun c => c.tgt / 16 != u)))
  let lane (ls : List ALane) (acq : Bool) (f : Bool → List ALane → SqWhat) : Option (SqWhat × SqWhat) :=
    match ls[k]? with
    | none => none
    | some l => if ls.length ≤ 1 then none else some (f false [l], f acq (ls.eraseIdx k))
  match w with
  | .bytes cells => unit cells .bytes
  | .loc cells => unit cells .loc
  | .scratch cells =>
    let us := dedup (cells.map (fun c => c.1 / 16))
    match us[k]? with
    | none => none
    | some u => if us.length ≤ 1 then none
      else some (.scratch (cells.filter (fun c => c.1 / 16 == u)), .scratch (cells.filter (fun c => c.1 / 16 != u)))
  | .atomg a ls d => lane ls a.acq (fun x l => .atomg { a with acq := x } l d)
  | .atoms a ls d => lane ls a.acq (fun x l => .atoms { a with acq := x } l d)

/-- Part k of a queued entry becomes an entry of its own, just before the rest. -/
def State.splitSq (s : State) (c id k : Nat) : State :=
  s.modCore c (fun x => { x with sq := x.sq.flatMap (fun q =>
    if q.id = id then match q.what.split k with
      | some (a, b) => [{ q with what := a }, { q with what := b }]
      | none => [q]
    else [q]) })

/-- Take the first entry with this id out of a core's queue, or put back what is left of it in its place. -/
def Core.sqReplace (k : Core) (id : Nat) (w : Option SqWhat) : Core :=
  { k with sq := k.sq.takeWhile (fun x => x.id != id) ++
      (match w, (k.sq.dropWhile (fun x => x.id != id)).head? with
        | some w, some q => [{ q with what := w }]
        | _, _ => []) ++
      (k.sq.dropWhile (fun x => x.id != id)).drop 1 }

/-- The lanes of an atomic are performed one after another, in the order that the device picks; those left find no place. -/
def State.atomLanes (s : State) (f : State → ALane → State × Option Nat) (a : AtomInfo) (dst : Option Opd) (lanes : List ALane) :
    State × List RegWrite × List ALane :=
  (pickOrder lanes.length s.serial 0 lanes).foldl (fun (x : State × List RegWrite × List ALane) l =>
    match f x.1 l with
    | (t, some old) => (t, x.2.1 ++ oldWrites a dst l.lane old, x.2.2)
    | (t, none) => (t, x.2.1, x.2.2 ++ [l])) ({ s with serial := s.serial + 1 }, [], [])

/-- An entry leaves its group's store queue; what of it finds no place in the L1 stays. -/
def State.leaveQueue (s : State) (c : Nat) (q : SqEntry) : State :=
  let log := match s.group? c q.ctx with | some g => g.uid == q.uid && s.logs g | none => false
  let out (s : State) (left : Option SqWhat) : State := (s.modCore c (fun k => k.sqReplace q.id left))
  let atom (a : AtomInfo) (r : State × List RegWrite × List ALane) (w : List ALane → SqWhat) : State :=
    let s := (out r.1 (if r.2.2 = [] then none else some (w r.2.2))).addWrites c q.opId r.2.1
    if r.2.2 = [] then (if a.acq then s.acquire c q.ctx a.scope else s).storeDone c q.opId else s
  match q.what with
  | .bytes cells => (out (s.storeThrough c q.id q.uid q.asid cells) none).storeDone c q.opId
  | .loc cells =>
    let r := s.storeLocal c q.asid cells
    if r.2 = [] then (out r.1 none).storeDone c q.opId else out r.1 (some (.loc r.2))
  | .scratch cells => (out (s.scrWrite cells) none).storeDone c q.opId
  | .atomg a lanes dst => atom a (s.atomLanes (fun s l => s.atomLane c q a log l) a dst lanes) (fun ls => .atomg a ls dst)
  | .atoms a lanes dst => atom a (s.atomLanes (fun s l => let r := s.atomsLane a l; (r.1, some r.2)) a dst lanes) (fun ls => .atoms a ls dst)

/-- Drain every store queue of a core into the L2 (spec/06 R178). -/
def State.drainCore (s : State) (c : Nat) : State :=
  let s := (s.core c).sq.foldl (fun s q => s.leaveQueue c q) s
  let ws := (s.core c).wt
  ws.foldl (fun s w => s.leaveWt c w) (s.modCore c (fun k => { k with wt := [] }))

/-- Drain one group's queue, and what of it is being written through. -/
def State.drainGroup (s : State) (c uid : Nat) : State :=
  let s := ((s.core c).sq.filter (fun q => q.uid == uid)).foldl (fun s q => s.leaveQueue c q) s
  let ws := (s.core c).wt.filter (fun w => w.uid == uid)
  ws.foldl (fun s w => w.cells.foldl (fun s x => s.flushLine c x.tgt) s) s

end Sys2Proof.Machine
end

