-- ==== Sys2Proof/Machine/Flow.lean ====
section
/-! DEFINITION. Fetch, clause headers, transfers of control, the divergence stack and the meeting of a group's halves
(spec/02 R54, R55; spec/03 R65-R71, R82; spec/05 R138-R144; spec/14 R342). -/

namespace Sys2Proof.Machine

/-- A fetched word, or why there is none. -/
inductive FetchRes
  | word (w : Word)
  | fatal (cause : Nat)
  | page
  | wait
  deriving DecidableEq, Repr

/-- Fetch one word of code, read at the coherent caches (spec/03 R82, R83; log 9), and cached under every CP (spec/14 R327). A generator-backed code page is served at
its home as a load is (log 18). -/
def State.fetchWord (s : State) (e : Env) (a : DWord) : State × FetchRes :=
  match s.translate (clusterOf e.core) e.asid a .fetch with
  | (s, .ok x) =>
    let x := { x with cp := 0 }
    let r : State × LineRes := if x.peer then
        match s.peerAsk e.core e.g.uid (e.n + 2) none false (x.addr / 128) (a.toNat % 2 ^ 57) with
        | (s, .line d v) => (s, if s.eccBad.contains (lineKey true (x.addr / 128)) then .no (.fatal 24) else .line d true (x.addr / 128) v)
        | (s, .wait id) => (s, .no (.wait (.peer id)))
        | (s, .fail) => (s, .no (.fatal 25))
      else s.fetchLine e (a.toNat % 2 ^ 57) x
    match r with
    | (s, .line d _ _ _) => (s, .word ((d >>> (8 * (a.toNat % 128))).setWidth 32))
    | (s, .no (.fatal c)) => (s, .fatal c)
    | (s, .no _) => (s, .wait)
  | (s, .page) => (s, .page)
  | (s, .prot walk) => (s, .fatal (if walk then 264 else 8))
  | (s, .genw) => (s, .fatal 8)
  | (s, .peerFault) => (s, .fatal 25)

/-- Wait for the page fault of a fetch or stack access: its record is written, and the slot stays (spec/14 R332). -/
def State.faultWait (s : State) (e : Env) (va : DWord) (acc : Acc) (ffirst : DWord) : State :=
  let x := s.raiseFault e.asid va acc false ffirst (s.stamp e.core e.g e.n false) e.clk
  x.1.modSlot e.core e.ctx e.n (fun sl => { sl with wait := .fetch x.2 })

/-- The same for an access an instruction makes as one lane. -/
def State.laneFault (s : State) (e : Env) (va : DWord) (acc : Acc) : State :=
  let x := s.raiseFault e.asid va acc false e.sl.pc (s.stamp e.core e.g e.n false) e.clk
  x.1.modSlot e.core e.ctx e.n (fun sl => { sl with wait := .pend (.fault x.2) })

/-! Clause headers (spec/03 R66, R67) -/

def hdrRegion (w : Word) : Nat := bits w.toNat 26 2
def hdrJoin (w : Word) : Bool := w.getLsbD 25
def hdrSafe (w : Word) : Bool := w.getLsbD 24
def hdrWait (w : Word) : Nat := bits w.toNat 4 12

def noFlag (n : Nat) : Bool := n == 12 || n == 13 || n == 14

/-- The word passes the checks of a clause header. -/
def headerOk (w : Word) : Bool :=
  bits w.toNat 28 4 == 10 && hdrRegion w != 3 && !noFlag (bits w.toNat 16 4) && !noFlag (bits w.toNat 20 4)

/-- A REGION field is legal where it stands (spec/14 R342). -/
def Env.regionOk (e : Env) (w : Word) (a : DWord) (afterBarwg : Bool) : Bool :=
  if hdrRegion w = 0 then true
  else if e.k.flags.testBit 0 then false
  else if hdrRegion w = 1 then
    !(e.g.slotOf (1 - e.n)).valid && e.g.depth == 0 && (a == codeAddr e.g.kernel e.k.entry || afterBarwg)
  else true

/-- The slot moved to a clause header, arriving there. -/
def Slot.goTo (sl : Slot) (a : DWord) : Slot := { sl with clause := a, pc := a, pos := 0, phase := .arrive }

/-! The divergence stack (spec/02 R55) -/

structure Entry where
  mask   : DWord
  resume : BitVec 32
  reconv : BitVec 32
  deriving DecidableEq, Repr

def Entry.ofNat (x : Nat) : Entry := ⟨BitVec.ofNat 64 x, BitVec.ofNat 32 (x / 2 ^ 64), BitVec.ofNat 32 (x / 2 ^ 96)⟩
def Entry.toNat (x : Entry) : Nat := x.mask.toNat + 2 ^ 64 * x.resume.toNat + 2 ^ 96 * x.reconv.toNat

def Group.entryAddr (g : Group) (n : Nat) : DWord := g.dstkBase + BitVec.ofNat 64 (16 * n)

/-- Why a stack access could not be made: a fatal cause, a page fault, or a wait for generated data. -/
inductive StackRes
  | ok (e : Entry)
  | fatal (cause : Nat)
  | page
  | wait
  deriving DecidableEq, Repr

/-- Read entry n. -/
def State.readEntry (s : State) (e : Env) (n : Nat) : State × StackRes :=
  let a := e.g.entryAddr n
  match s.translate (clusterOf e.core) e.asid a .read with
  | (s, .ok x) =>
    match s.fetchLine e (a.toNat % 2 ^ 57) x with
    | (s, .line d _ _ _) => (s, .ok (Entry.ofNat ((d >>> (8 * (a.toNat % 128))).toNat % 2 ^ 128)))
    | (s, .no (.fatal c)) => (s, .fatal c)
    | (s, .no _) => (s, .wait)
  | (s, r) => (s, match r.outcome with | .fatal c => .fatal c | _ => .page)

/-- Check that entry n may be written; its place. -/
def State.entryPlace (s : State) (e : Env) (n : Nat) : State × Option Xl × StackRes :=
  match s.translate (clusterOf e.core) e.asid (e.g.entryAddr n) .write with
  | (s, .ok x) => (s, some x, .wait)
  | (s, r) => (s, none, match r.outcome with | .fatal c => .fatal c | _ => .page)

/-- Write an entry at its place; a copy of its line in the core's L1 follows. -/
def State.writeEntry (s : State) (e : Env) (n : Nat) (x : Xl) (en : Entry) : State :=
  let bs := leBytes 16 en.toNat
  let va := (e.g.entryAddr n).toNat % 2 ^ 57
  (s.cohWrite x.peer (cellsFrom x.addr bs)).modCore e.core (fun k =>
    match k.l1Find e.asid (va / 128) with
    | some l => k.l1Set { l with data := patchLine l.data (cellsFrom va bs) }
    | none => k)

/-! Arrival (spec/05 R142) -/

/-- A trap taken at the clause header where the slot stands. -/
def State.headerTrap (s : State) (e : Env) (cause : Nat) (faddr : DWord) : State :=
  s.takeTrap e.core e.ctx e.n cause e.sl.mask faddr e.sl.clause true false

/-- A stack access at a header failed: trap, or wait for the fault. -/
def State.headerFault (s : State) (e : Env) (n : Nat) (acc : Acc) (r : StackRes) : State :=
  let a := e.g.entryAddr n
  match r with
  | .fatal c => s.headerTrap e c a
  | .page => if e.sl.fatal then s.headerTrap e 7 a else s.faultWait e a acc e.sl.clause
  | _ => s.hold e

/-- A slot stands at a header: it arrived, and its clause's first instruction has not issued. One whose last instruction still waits,
at a barrier, in YIELD or AWAIT, at the gate, for pending lanes or for an access already made, does not (spec/05 R142). -/
def Slot.stands (sl : Slot) : Bool :=
  sl.valid && sl.phase != .run && sl.kept.isNone &&
    (match sl.wait with
    | .none => true
    | .retry => true
    | .join => true
    | .bwait _ _ _ => true
    | _ => false)

/-- The sibling of a freed slot has no reconvergence address, and leaves a join wait. -/
def Slot.alone (sl : Slot) : Slot :=
  { sl with reconv := 0, wait := if sl.wait = .join then .none else sl.wait, phase := if sl.wait = .join then .arrive else sl.phase }

/-- Free a slot: its sibling's reconvergence becomes none (spec/05 R142). -/
def Group.freeSlot (g : Group) (n : Nat) : Group := (g.setSlot n Slot.free).setSlot (1 - n) (g.slotOf (1 - n)).alone

/-- Fuse both slots into slot 0 (spec/05 R142 step 4). -/
def Group.fuse (g : Group) : Group :=
  let a := g.slot0
  let b := g.slot1
  let x := codeOff g.kernel a.clause
  { g with
    slot0 := { a with mask := a.mask ||| b.mask, reconv := if a.reconv = x then 0 else a.reconv, wait := .none, phase := .header,
                      readyAt := max a.readyAt b.readyAt, hdr := if a.phase = .arrive then b.hdr else a.hdr,
                      passed := max a.passed b.passed },
    slot1 := Slot.free }

/-- The region state after a legal header (spec/14 R342), with the snapshot of S0 to S15. -/
def Group.enterHeader (g : Group) (e : Env) (w : Word) (a : DWord) : Group :=
  match hdrRegion w with
  | 1 => { g with inRegion := true, regionEntry := a,
                  snapshot := (List.range 16).foldl (fun t r => t.putD 0 r (e.sreg r)) [] }
  | 2 => { g with inRegion := false }
  | _ => g

/-- An entry as a swap, merge or pop reads it, once it may be written too, with its place (spec/02 R55). -/
def State.takeEntry (s : State) (e : Env) (n : Nat) : State × Except (Acc × StackRes) (Xl × Entry) :=
  match s.readEntry e n with
  | (s, .ok en) => match s.entryPlace e n with
    | (s, some pl, _) => (s, .ok (pl, en))
    | (s, none, r) => (s, .error (.write, r))
  | (s, r) => (s, .error (.read, r))

/-- One round of R142's steps at the header where the slot stands; true when they are taken again here. After a swap the slot
arrives at another header, where a safe point comes before the steps (spec/03 R71). -/
def State.arriveStep (s : State) (e : Env) (w : Word) : State × Bool :=
  let g := e.g
  let sl := e.sl
  let o := g.slotOf (1 - e.n)
  let x := codeOff g.kernel sl.clause
  let atX := sl.reconv != 0 && sl.reconv == x
  let put (f : Group → Group) (s : State) : State := s.modGroup e.core e.ctx f
  let mine := g.owners.contains e.n
  let free := g.owners = []
  if atX ∧ g.owners.head? = some e.n then
    let top := g.depth - 1
    match s.takeEntry e top with
    | (s, .ok (pl, en)) =>
      if en.resume ≠ x then
        let t := codeAddr g.kernel en.resume
        match s.fetchWord e t with
        | (s, .word w2) =>
          if headerOk w2 && e.regionOk w2 t false then
            (put (fun g => g.setSlot e.n { sl.goTo t with mask := en.mask &&& g.live, reconv := x, fatal := false, wait := .none })
              (s.writeEntry e top pl ⟨sl.mask, x, en.reconv⟩), false)
          else (s.headerTrap e 3 t, false)
        | (s, .page) => (if sl.fatal then s.headerTrap e 7 t else s.faultWait e t .fetch sl.clause, false)
        | (s, .fatal c) => (s.headerTrap e c t, false)
        | (s, .wait) => (s.hold e, false)
      else
        (put (fun g => { g with depth := g.depth - 1, owners := g.owners.drop 1 }.setSlot e.n
          { sl with mask := sl.mask ||| (en.mask &&& g.live), reconv := en.reconv, fatal := false, wait := .none }) s, true)
    | (s, .error r) => (s.headerFault e top r.1 r.2, false)
  else if atX ∧ mine then (s.hold e, false)
  else if o.valid ∧ o.stands ∧ o.clause = sl.clause ∧ o.reconv = sl.reconv ∧ free then
    (put Group.fuse (put (fun g => (g.enterHeader e w sl.clause).setSlot e.n
      { sl with hdr := w, phase := .header, wait := .none, passed := sl.passed + 1, fatal := false }) s), false)
  else if atX ∧ hdrJoin w ∧ o.valid ∧ o.reconv = sl.reconv then
    (put (fun g => g.setSlot e.n { sl with hdr := w, wait := .join }) s, false)
  else
    (put (fun g => (g.enterHeader e w sl.clause).setSlot e.n
      { sl with hdr := w, phase := .header, wait := .none, passed := sl.passed + 1, fatal := false,
                reconv := if atX && !o.valid then 0 else sl.reconv }) s, false)

/-- The steps of R142 until none applies or a swap goes elsewhere: each round merges or ends. A safe point that counts as passed was
legal when the slot reached it (spec/14 R344). -/
def State.arriveLoop : Nat → State → Nat → Nat → Nat → State
  | 0, s, _, _, _ => s
  | fuel + 1, s, c, ctx, n =>
    match s.envAt c ctx n 1 with
    | none => s
    | some e =>
      match s.fetchWord e e.sl.clause with
      | (s, .word w) =>
        if headerOk w && (e.sl.safePast || e.regionOk w e.sl.clause e.sl.afterBarwg) then
          match s.arriveStep e w with
          | (s, true) => State.arriveLoop fuel s c ctx n
          | (s, false) => s
        else s.headerTrap e 3 e.sl.clause
      | (s, .page) => if e.sl.fatal then s.headerTrap e 7 e.sl.clause else s.faultWait e e.sl.clause .fetch e.sl.clause
      | (s, .fatal c) => s.headerTrap e c e.sl.clause
      | (s, .wait) => s.hold e

/-- A slot that stands at a header takes the steps of R142. -/
def State.arrive (s : State) (c ctx n : Nat) : State := State.arriveLoop 140 s c ctx n

/-- The clause's WAIT holds: every flag it names is zero (spec/03 R69). -/
def Group.waitOk (g : Group) (w : Word) : Bool :=
  (List.range 12).all (fun f => !(hdrWait w).testBit f || g.flags.lookD 0 f == 0)

/-! Transfers of control (spec/03 R67, R68) -/

/-- Move the issuing slot to a clause header, with an effect of the instruction's own; a target that is no clause header makes
the transfer a trap that is treated as not executed. A header that cannot be fetched is a fault at the header. -/
def State.jump (s : State) (e : Env) (h : Hdr) (target : DWord) (reg : Bool) (eff : State → State) : State :=
  let bad (s : State) : State := s.trapAt e 3 e.sl.mask target
  let go (s : State) : State := (eff (s.retire e h)).modSlot e.core e.ctx e.n (fun sl => sl.goTo target)
  let trapThere (s : State) (c : Nat) : State :=
    (go s).takeTrap e.core e.ctx e.n c e.sl.mask target target true false
  if reg && target.toNat % 4 != 0 then bad s
  else match s.fetchWord e target with
    | (s, .word w) => if headerOk w && e.regionOk w target false then go s else bad s
    | (s, .page) => if e.sl.fatal then trapThere s 7 else s.faultWait e target .fetch target
    | (s, .fatal c) => trapThere s c
    | (s, .wait) => s.hold e

/-- The target of a 27-bit offset in 4-byte units from the instruction (spec/05 R138). -/
def Env.target (e : Env) (off : BitVec 27) : DWord := e.sl.pc + (off.signExtend 64 <<< 2)

/-- Transfer to an immediate target when taken, else fall through. -/
def State.branch (s : State) (e : Env) (h : Hdr) (taken : Bool) (off : BitVec 27) (eff : State → State) : State :=
  if taken then s.jump e h (e.target off) false eff else eff (s.retire e h)

/-! Slots that empty, and the end of a group (spec/05 R142, R144) -/

/-- ILLEGAL_CLAUSE of the RESUME header a slot would take: the instruction that empties the slot is treated as not executed, FFIRST
is the header of the clause at which that slot arrived, FADDR the RESUME target (spec/03 R67). -/
def State.resumeTrap (s : State) (e : Env) (n : Nat) (t : DWord) : State :=
  s.takeTrap e.core e.ctx e.n 3 e.sl.mask t (e.g.slotOf n).clause false false

/-- The entries that slots left empty would take are read, and their RESUME headers fetched, before the instruction takes effect:
a fault, or a header that is none, is its precise trap, and it has no effect (spec/02 R55, spec/03 R67; log 76). The slots that
would be empty, and the lanes that would be live, come with the entries from the top down. An entry below one of the other slot is
taken later: its header is looked at now too, and anything else that stands in its way is met when it is taken. -/
def State.preRead : Nat → State → Env → List Nat → DWord → List Nat → Bool → State × Option State
  | 0, s, _, _, _, _, _ => (s, none)
  | fuel + 1, s, e, empties, live, owners, buried =>
    match owners with
    | [] => (s, none)
    | n :: rest =>
      if empties = [] then (s, none)
      else if !empties.contains n then State.preRead fuel s e empties live rest true else
      let top := owners.length - 1
      let a := e.g.entryAddr top
      let bad (s : State) (acc : Acc) (r : StackRes) : State :=
        match r with
        | .fatal c => s.trapAt e c e.sl.mask a
        | .page => if e.sl.fatal then s.trapAt e 7 e.sl.mask a else s.faultWait e a acc e.sl.pc
        | _ => s.hold e
      match s.takeEntry e top with
      | (s, .error r) => (s, if buried then none else some (bad s r.1 r.2))
      | (s, .ok (_, en)) =>
        let t := codeAddr e.g.kernel en.resume
        match s.fetchWord e t with
        | (s, .page) =>
          (s, if buried then none else some (if e.sl.fatal then s.trapAt e 7 e.sl.mask t else s.faultWait e t .fetch e.sl.pc))
        | (s, .fatal c) => (s, if buried then none else some (s.trapAt e c e.sl.mask t))
        | (s, .wait) => (s, if buried then none else some (s.hold e))
        | (s, .word w) =>
          if !(headerOk w && e.regionOk w t false) then (s, some (s.resumeTrap e n t)) else
          State.preRead fuel s e (if en.mask &&& live = 0 then empties else empties.filter (fun k => k != n)) live rest buried

/-- A slot whose mask is empty pops its own top entry and goes on there, or becomes free; one whose entries lie below the other
slot's waits (spec/05 R141, R142). A RESUME header that has become none since it was looked at is trapped on where the slot then
stands, with the entry's lanes (spec/03 R67; log 76). -/
def State.settleSlot : Nat → State → Nat → Nat → Nat → State
  | 0, s, _, _, _ => s
  | fuel + 1, s, c, ctx, n =>
    match s.envAt c ctx n 1 with
    | none => s
    | some e =>
      if e.sl.mask ≠ 0 then s
      else if e.g.owners.head? = some n then
        match s.takeEntry e (e.g.depth - 1) with
        | (s, .ok (_, en)) =>
          let t := codeAddr e.g.kernel en.resume
          let s2 := s.modGroup c ctx (fun g => { g with depth := g.depth - 1, owners := g.owners.drop 1 }.setSlot n
            { e.sl.goTo t with mask := en.mask &&& g.live, reconv := en.reconv, wait := .none })
          match s.fetchWord e t with
          | (_, .word w) =>
            if headerOk w && e.regionOk w t false then State.settleSlot fuel s2 c ctx n
            else s2.takeTrap c ctx n 3 (en.mask &&& e.g.live) t e.sl.clause true false
          | _ => State.settleSlot fuel s2 c ctx n
        | (s, .error r) => s.headerFault e (e.g.depth - 1) r.1 r.2
      else if e.g.owners.contains n then s.modSlot c ctx n (fun sl => { sl with wait := .retry, phase := .arrive })
      else s.modGroup c ctx (fun g => g.freeSlot n)

/-- The group has ended when neither slot is valid and the stack is empty (spec/05 R144); its belay entries go at once
(spec/07 R203). -/
def State.endCheck (s : State) (c ctx : Nat) : State :=
  match s.group? c ctx with
  | none => s
  | some g =>
    if g.ended ∨ g.slot0.valid ∨ g.slot1.valid ∨ g.depth ≠ 0 then s
    else (s.modCore c (fun k => k.freeBelay ctx)).modGroup c ctx (fun g => { g with ended := true })

/-- The valid slots whose mask is empty. -/
def Group.emptySlots (g : Group) : List Nat := [0, 1].filter (fun n => (g.slotOf n).valid && (g.slotOf n).mask == 0)

/-- Lanes leave the live set; a quad's helper lanes leave with its last launched lane (spec/02 R42). Those of a quad that a QHELP
still under way has left without one leave when that completes (spec/05 R131). -/
def Group.exitLanes (g : Group) (m : DWord) : Group :=
  let la := g.launched &&& ~~~m
  let quads := maskOf ((List.range 64).filter (fun l =>
    (la >>> (l / 4 * 4)) &&& 15 != 0 || (g.launched >>> (l / 4 * 4)) &&& 15 == 0))
  let he := g.helper &&& quads
  let live := la ||| he
  let cut (sl : Slot) : Slot := { sl with mask := sl.mask &&& live }
  { g with launched := la, helper := he, slot0 := cut g.slot0, slot1 := cut g.slot1 }

end Sys2Proof.Machine
end

