-- ==== Sys2Proof/Machine/Throttle.lean ====
section
/-! DEFINITION. The load throttle of a core (spec/07 R191-R193). -/

namespace Sys2Proof.Machine

/-- The limit after a window (spec/07 R192). -/
def newLimit (limit : Option Nat) (groups hits : Nat) (stalled : Bool) : Option Nat :=
  let m := match limit with | some l => min l groups | none => groups
  let up := match limit with | none => none | some l => if 64 ≤ l + 4 then none else some (l + 4)
  if 128 ≤ hits then some (max 4 (m / 2)) else if 32 ≤ hits ∧ !stalled then limit else up

/-- A window ends: the new limit, and the groups permitted under it. -/
def State.endWindow (s : State) (core : Nat) : State :=
  let k := s.core core
  let t := k.throttle
  let order := s.ordinary core
  let stalled := t.waited && !t.loaded
  let lim := if s.coreIdle core then none else newLimit t.limit order.length t.hits stalled
  let s := if 128 ≤ t.hits then s.count core 5 1 else s
  let n := match lim with | some l => min l order.length | none => 0
  let perm := permitted order t.permitted n
  let back := order.filter (fun x => !perm.contains x)
  -- groups held back in 16 windows in a row are exchanged with those longest permitted
  let held : Tbl Nat := back.foldl (fun (h : Tbl Nat) x => if t.wanted.contains x then h.put x (t.held.lookD 0 x + 1) else h) []
  let join := (back.filter (fun x => decide (16 ≤ Tbl.lookD held 0 x))).take perm.length
  s.modCore core (fun k => { k with throttle :=
    { t with limit := lim, hits := 0, wanted := [], waited := false, loaded := false, window := k.clk,
             permitted := if lim.isSome then perm.drop join.length ++ join else [],
             held := if lim.isSome then held.filter (fun x => !join.contains x.1) else [] } })

/-- A window is over: 2,048 clk since it began. -/
def State.windowOver (s : State) (core : Nat) : Bool :=
  decide ((s.core core).throttle.window + 2048 ≤ (s.core core).clk)

/-- THROTTLE_WINDOW_END; a window that is over ends at the latest as its core's clk advances. -/
def execThrottleWindowEnd (core : Nat) (s : State) : Out :=
  if s.windowOver core then .next (s.endWindow core) else .next s

end Sys2Proof.Machine
end

