-- ==== Sys2Proof/Machine/Barriers.lean ====
section
/-! DEFINITION. Which streams may issue as far as their own state says, the rounds of workgroup and rope barriers, and the quartet gate (spec/07 R186, R187;
spec/10 R271; spec/12 R294; spec/08 R229). -/

namespace Sys2Proof.Machine

/-! Eligible streams -/

/-- The partition whose port a context issues from (spec/07 R185). -/
def partOf (ctx : Nat) : Nat := if ctx = 64 then 0 else ctx / 16

/-- Its clause's WAIT lets the slot issue (spec/03 R69). -/
def Slot.waitOk (sl : Slot) (g : Group) : Bool :=
  match sl.phase with
  | .arrive => false
  | .run => true
  | _ => g.waitOk sl.hdr

/-- The handler runs in the other slot (spec/05 R146). That a slot which a divergent BRA inside the handler splits off waits for TRET
too is the model's choice (log 77). -/
def Group.heldByTrap (g : Group) (n : Nat) : Bool :=
  g.inHandler && (match g.trapCtx with | some t => t.slot != n | none => false)

/-- A slot may issue in this clk, as far as its own state says; what its next instruction would wait for comes beside it, in
Elig.lean (spec/07 R186). -/
def State.eligible (s : State) (c ctx n : Nat) : Bool :=
  match s.group? c ctx with
  | none => false
  | some g =>
    let sl := g.slotOf n
    sl.valid && sl.wait == .none && decide (sl.readyAt ≤ (s.core c).clk) && sl.waitOk g && !g.heldByTrap n && !sl.atStop &&
    !s.stopped g && sl.mask != 0

/-- The streams of a core's partition: context and slot. -/
def State.streams (s : State) (c part : Nat) : List (Nat × Nat) :=
  (s.groups.filter (fun x => x.1 / 65 == c && partOf (x.1 % 65) == part)).flatMap (fun x =>
    (if x.2.slot0.valid then [(x.1 % 65, 0)] else []) ++ (if x.2.slot1.valid then [(x.1 % 65, 1)] else []))

/-- The order of roles in the choice: COPY, MATRIX, VECTOR, GENERAL (spec/07 R187). That a stream of a launch without role mode ranks
beside role-mode streams as COPY does is the model's choice (log 96). -/
def roleRank (k : KHdr) (g : Group) : Nat := if k.flags.testBit 1 then (g.role + 3) % 4 else 0

/-- The key of a stream in the choice: the smallest is chosen; one eligible for 4,096 clk stands at the head (spec/07 R187). -/
def State.choiceKey (s : State) (c ctx n : Nat) : List Nat :=
  match s.group? c ctx with
  | none => []
  | some g =>
    let sl := g.slotOf n
    let due := match sl.eligSince with | some t => decide (t + 4096 ≤ (s.core c).clk) | none => false
    if sl.promoted || due then [0, (sl.eligSince.getD 0), ctx, n]
    else [1, 7 - min 7 g.prio, roleRank (s.khdr g.launch) g, sl.lastIssue, ctx, n]

/-- Lexicographic order. -/
def lexLt : List Nat → List Nat → Bool
  | _, [] => false
  | [], _ => true
  | a :: x, b :: y => decide (a < b) || (a == b && lexLt x y)

/-! Workgroup and rope barriers -/

/-- A slot waits at a workgroup barrier n < 4, or a rope barrier 4 + n. -/
def Slot.atBarrier (sl : Slot) (n : Nat) : Bool :=
  match sl.wait with
  | .barwg k _ => k == n
  | .barrp k => k + 4 == n
  | _ => false

/-- Every live lane of the group has arrived. -/
def Group.hasArrived (g : Group) (n : Nat) : Bool := g.ended || (g.live &&& ~~~(g.arrived.lookD 0 n)) == 0

/-- Every group of a workgroup has arrived: groups that have ended or left count as arrived. -/
def State.wgArrived (s : State) (wg n : Nat) : Bool :=
  (s.groups.filter (fun x => x.2.wg == wg && x.1 % 65 != 64)).all (fun x => x.2.hasArrived n)

/-- A waiting slot acquires at its scope and goes on; its operation completes. -/
def State.leaveBarrier (s : State) (c ctx n : Nat) (sl : Slot) : State :=
  let scope := match sl.wait with | .barwg _ x => x | _ => 3
  let s := (s.acquire c ctx scope).modSlot c ctx n (fun sl => { sl with wait := .none })
  let s := s.modGroup c ctx (fun g => { g with save := if g.save = .done then .none else g.save })
  match (s.core c).ops.find? (fun o => o.ctx == ctx && o.slot == n && o.what == .barrier) with
  | some o => s.complete c o
  | none => s

/-- Release every slot of some workgroups that waits at barrier n, and begin its next round. -/
def State.openBarrier (s : State) (inWg : Nat → Bool) (n : Nat) : State :=
  (s.groups.filter (fun x => inWg x.2.wg)).foldl (fun s x =>
    let c := x.1 / 65
    let ctx := x.1 % 65
    let s := if x.2.slot0.atBarrier n then s.leaveBarrier c ctx 0 x.2.slot0 else s
    let s := if x.2.slot1.atBarrier n then s.leaveBarrier c ctx 1 x.2.slot1 else s
    s.modGroup c ctx (fun g => { g with arrived := g.arrived.putD 0 n 0 })) s

/-- Some slot of these workgroups waits at barrier n. -/
def State.anyAt (s : State) (inWg : Nat → Bool) (n : Nat) : Bool :=
  s.groups.any (fun x => inWg x.2.wg && (x.2.slot0.atBarrier n || x.2.slot1.atBarrier n))

/-- Complete the round of workgroup barrier n if every group has arrived. -/
def State.wgBarrier (s : State) (wg n : Nat) : State :=
  if s.anyAt (fun w => w == wg) n && s.wgArrived wg n then
    (s.openBarrier (fun w => w == wg) n).modWg wg (fun w => { w with rounds := w.rounds.put n ((w.rounds.lookD 0 n + 1) % 2 ^ 32) })
  else s

/-- Complete the round of rope barrier n if every workgroup of the rope has arrived; none completes while one is saved
(spec/14 R341). -/
def State.ropeBarrier (s : State) (wg n : Nat) : State :=
  match s.ropeOf wg with
  | none => s
  | some (r, x) =>
    let inRope (w : Nat) : Bool := x.wgs.any (fun y => y.2 == w)
    if x.real && s.anyAt inRope (n + 4) && x.wgs.all (fun y => (s.wgs.look y.2).isSome && s.wgArrived y.2 (n + 4)) then
      (s.openBarrier inRope (n + 4)).modRope r (fun x => { x with pcount := x.pcount.put n ((x.pcount.lookD 0 n + 1) % 2 ^ 32) })
    else s

/-- Look at every barrier of a workgroup: lanes have arrived, or exited. -/
def State.checkBarriers (s : State) (wg : Nat) : State :=
  let s := (List.range 4).foldl (fun s n => s.wgBarrier wg n) s
  (List.range 4).foldl (fun s n => s.ropeBarrier wg n) s

/-! The quartet gate -/

/-- A member stands at the gate. -/
def State.atGate (s : State) (c wg quart : Nat) : Bool := (s.core c).gates.any (fun a => a.wg == wg && a.quart == quart)

/-- Arrivals of the round to be decided next, in member order. -/
def State.gateRound (s : State) (c wg quart : Nat) : List GateArrival :=
  let as := (s.core c).gates.filter (fun a => a.wg == wg && a.quart == quart)
  (List.range 4).filterMap (fun g => as.find? (fun a => a.g == g))

/-- The slot's instruction leaves the gate: two words, past which the slot goes on. -/
def State.gateEnv (s : State) (c : Nat) (a : GateArrival) : Option Env := s.envAt c a.ctx a.slot 2

def State.leaveGate (s : State) (c : Nat) (a : GateArrival) : State :=
  s.modCore c (fun k => { k with gates := k.gates.filter (fun b => !(b.ctx == a.ctx && b.slot == a.slot)) })

/-- A member goes on; a skip completes. -/
def State.gatePass (s : State) (c : Nat) (a : GateArrival) : State :=
  let s := s.leaveGate c a
  let s := if a.op.isSome then s else match a.opId.bind (s.findOp c) with
    | some o => s.complete c o
    | none => s
  match s.gateEnv c a with
  | none => s
  | some e => s.goOn e a.stall

/-- A member takes QUARTET, withdrawn from its flag; a skip completes. -/
def State.gateTrap (s : State) (c : Nat) (a : GateArrival) : State :=
  let s := s.leaveGate c a
  match s.gateEnv c a with
  | none => s
  | some e =>
    let s := match a.opId.bind (s.findOp c) with
      | some o => (s.dropOp c o.id).modGroup c a.ctx (fun g => g.flagDown o.flag)
      | none => s
    s.trapSlot c a.ctx a.slot 16 2 e.sl.mask e.sl.pc e.sl.pc

/-- The members agree: opcode, format block words 0 and 3, EXP of the B quarters, and their BLEN for MMAF (spec/09 R250). -/
def MatOp.agrees (a b : MatOp) : Bool :=
  a.opc == b.opc && a.fb[0]? == b.fb[0]? && a.fb[3]? == b.fb[3]? && a.expB == b.expB && (a.opc != 0x17B || a.blenB == b.blenB)

/-- The gate opens: every member's operation computes with all four quarters, and every slot goes on. -/
def State.gateOpen (s : State) (c : Nat) (as : List GateArrival) : State :=
  let qs := as.filterMap (fun a => a.op.map (fun x => (a.ctx, x.1)))
  let r := s.serial
  { s with serial := s.serial + 1 } |> as.foldl (fun s a =>
    let s := match a.opId.bind (s.findOp c), a.op with
      | some o, some x => s.setOp c { o with what := .matrix r x.1 x.2 qs }
      | _, _ => s
    s.gatePass c a)

/-- Decide the next round of a quartet, if it can be decided (spec/08 R229). -/
def State.decideGate (s : State) (c wg quart : Nat) : State :=
  let as := s.gateRound c wg quart
  let here (g : Nat) : Bool := s.groups.any (fun x => x.2.wg == wg && x.1 % 65 != 64 && x.2.grpid == 4 * quart + g && !x.2.ended)
  let ops := as.filterMap (fun a => a.op)
  if as = [] then s
  else if !((List.range 4).all here) then as.foldl (fun s a => s.gateTrap c a) s
  else if as.length < 4 then s
  else if ops = [] then as.foldl (fun s a => s.gatePass c a) s
  else if ops.length = 4 ∧ ops.all (fun x => ops.all (fun y => x.1.agrees y.1)) then s.gateOpen c as
  else as.foldl (fun s a => if a.op.isSome then s.gateTrap c a else s.gatePass c a) s

/-- Decide rounds as long as one can be decided: a member has at most two slots at the gate. -/
def State.decideGates (s : State) (c wg quart : Nat) : State :=
  ((s.decideGate c wg quart).decideGate c wg quart).decideGate c wg quart

/-- After lanes of a group have left: barriers that its lanes no longer hold up, and the gate of its quartet if the group has
ended. -/
def State.afterExit (s : State) (c ctx : Nat) : State :=
  match s.group? c ctx with
  | none => s
  | some g =>
    let s := s.checkBarriers g.wg
    match s.group? c ctx with
    | none => s
    | some g => if g.ended then (s.fixThrottle c).decideGates c g.wg (g.grpid / 4) else s

end Sys2Proof.Machine
end

