-- ==== Sys2Proof/Machine/Control.lean ====
section
/-! DEFINITION. Transfers of control, EXIT, YIELD, traps by instruction, MARK, and QHELP (spec/05 R131, R138-R148). -/

namespace Sys2Proof.Machine

/-- Write S registers at t + 4, in one operation. -/
def State.sWrite (s : State) (e : Env) (h : Hdr) (ws : List (Nat × Word)) : State :=
  s.start e { e.op s (e.flag h) .fixed with due := some (e.clk + 4), writes := ws.map (fun x => ⟨.s, x.1, 0, x.2⟩) }

/-- The checks of a transfer of control: it is the last of its clause, and its S register exists. -/
def ctrlChk (e : Env) (l : Option (BitVec 6)) (bob : Bool) : Chk :=
  { ill := !e.last, opd := match l with | some n => decide (e.g.sAlloc ≤ n.toNat) | none => false, bob := bob,
    reads := match l with | some n => [(.s, n.toNat)] | none => [] }

/-- The link value: offset in bytes of the next clause from the kernel header. -/
def Env.link (e : Env) : Word := (e.sl.pc + BitVec.ofNat 64 (4 * e.len) - e.g.kernel).setWidth 32

/-- A register target: a signed byte offset from the kernel header. -/
def Env.regTarget (e : Env) (w : Word) : DWord := e.g.kernel + w.signExtend 64

/-- A register-target operand: an S register or constant. -/
def Env.badBrx (e : Env) (a : Opd) : Bool :=
  match a with
  | .s _ => e.badSrc false a
  | .k _ => false
  | _ => true

def execBra (h : Hdr) (any : Bool) (off : BitVec 27) (s : State) : Out :=
  issue h (fun e => ctrlChk e none false) (fun e s =>
    let lanes := lanesOf e.sl.mask
    s.branch e h (if any then lanes.any (e.guard h) else lanes.all (e.guard h)) off id) s

/-- The reconvergence address a divergent BRA names, as an offset (spec/05 R138, R140). -/
def Env.rcOff (e : Env) (rc : BitVec 23) : BitVec 32 := codeOff e.g.kernel (e.sl.pc + (rc.signExtend 64 <<< 2))

/-- The divergent BRA splits its slot into the free one, or pushes the lanes that fall through (spec/05 R140). -/
def State.diverge (s : State) (e : Env) (h : Hdr) (t : DWord) (off : BitVec 27) (rc : BitVec 32) : State :=
  let n := e.sl.mask &&& ~~~t
  let f := e.sl.pc + BitVec.ofNat 64 (4 * e.len)
  let put (f : Group → Group) (s : State) : State := s.modGroup e.core e.ctx f
  if !(e.g.slotOf (1 - e.n)).valid ∧ e.sl.reconv = 0 then
    s.jump e h (e.target off) false (put (fun g =>
      let sl := g.slotOf e.n
      let fresh : Slot := Slot.free
      (g.setSlot e.n { sl with mask := t, reconv := rc }).setSlot (1 - e.n)
        { fresh with valid := true, clause := f, pc := f, mask := n, reconv := rc, readyAt := sl.readyAt, passed := sl.passed }))
  else if e.k.dstk ≤ e.g.depth then s.trapAt e 17 e.sl.mask (e.g.entryAddr e.g.depth)
  else
    let a := e.g.entryAddr e.g.depth
    match s.entryPlace e e.g.depth with
    | (s, some x, _) =>
      let en : Entry := ⟨n, codeOff e.g.kernel f, e.sl.reconv⟩
      s.jump e h (e.target off) false (fun s =>
        put (fun g => { g with depth := g.depth + 1, owners := e.n :: g.owners }.setSlot e.n
          { g.slotOf e.n with mask := t, reconv := rc }) (s.writeEntry e e.g.depth x en))
    | (s, none, .fatal c) => s.trapAt e c e.sl.mask a
    | (s, none, _) => if e.sl.fatal then s.trapAt e 7 e.sl.mask a else s.faultWait e a .write e.sl.pc

/-- The checks of execBraDivergent. -/
def chkBraDivergent (rc : BitVec 23) (e : Env) : Chk :=
  { ctrlChk e none false with ill := !e.last || e.rcOff rc == 0 }

def execBraDivergent (h : Hdr) (off : BitVec 27) (rc : BitVec 23) (s : State) : Out :=
  issue h (chkBraDivergent rc) (fun e s =>
    let t := maskOf ((lanesOf e.sl.mask).filter (e.guard h))
    if t = 0 then s.retire e h
    else if t = e.sl.mask then s.jump e h (e.target off) false id
    else s.diverge e h t off (e.rcOff rc)) s

def execBrau (h : Hdr) (off : BitVec 27) (s : State) : Out :=
  issue h (fun e => ctrlChk e none true) (fun e s => s.branch e h (e.lead h) off id) s

/-- The checks of execBrx. -/
def chkBrx (a : Opd) (e : Env) : Chk :=
  { ctrlChk e none false with opd := e.badBrx a, reads := a.regs false }

def execBrx (h : Hdr) (a : Opd) (s : State) : Out :=
  issue h (chkBrx a) (fun e s =>
    if e.lead h then s.jump e h (e.regTarget (e.word a 0)) true id else s.retire e h) s

/-- The checks of execCall. -/
def chkCall (l : BitVec 6) (e : Env) : Chk :=
  { ctrlChk e (some l) false with reads := [], writes := [(.s, l.toNat)] }

def execCall (h : Hdr) (l : BitVec 6) (off : BitVec 27) (s : State) : Out :=
  issue h (chkCall l) (fun e s =>
    if e.lead h then s.jump e h (e.target off) false (fun s => s.sWrite e h [(l.toNat, e.link)]) else s.retire e h) s

/-- The checks of execCallx. -/
def chkCallx (l : BitVec 6) (a : Opd) (e : Env) : Chk :=
  { ctrlChk e (some l) false with
      opd := (ctrlChk e (some l) false).opd || e.badBrx a, reads := a.regs false, writes := [(.s, l.toNat)] }

def execCallx (h : Hdr) (l : BitVec 6) (a : Opd) (s : State) : Out :=
  issue h (chkCallx l a) (fun e s =>
    if e.lead h then s.jump e h (e.regTarget (e.word a 0)) true (fun s => s.sWrite e h [(l.toNat, e.link)])
    else s.retire e h) s

/-- The checks of execRet. -/
def chkRet (l : BitVec 6) (e : Env) : Chk :=
  ctrlChk e (some l) false

def execRet (h : Hdr) (l : BitVec 6) (s : State) : Out :=
  issue h (chkRet l) (fun e s =>
    if e.lead h then s.jump e h (e.regTarget (e.sreg l.toNat)) true id else s.retire e h) s

def execJoin (h : Hdr) (s : State) : Out :=
  issue h (fun e => ctrlChk e none false) (fun e s =>
    if e.lead h && e.sl.reconv != 0 then s.jump e h (codeAddr e.g.kernel e.sl.reconv) false id else s.retire e h) s

/-- The checks of execLoop. -/
def chkLoop (c : BitVec 6) (e : Env) : Chk :=
  { ctrlChk e (some c) true with writes := [(.s, c.toNat)] }

def execLoop (h : Hdr) (c : BitVec 6) (off : BitVec 27) (s : State) : Out :=
  issue h (chkLoop c) (fun e s =>
    let v := e.sreg c.toNat - 1
    if e.lead h then s.branch e h (v != 0) off (fun s => s.sWrite e h [(c.toNat, v)]) else s.retire e h) s

/-- What follows when lanes have left a slot's mask: an emptied handler slot ends its handler, emptied slots pop or become free,
and barriers and gates are looked at (spec/05 R142, R144, R148). -/
def State.afterLeave (s : State) (c ctx n : Nat) : State :=
  let s := s.modGroup c ctx (fun g =>
    if g.inHandler && (match g.trapCtx with | some t => (g.slotOf t.slot).mask == 0 | none => false) then
      { g with inHandler := false, trapCtx := none } else g)
  let s := s.settleSlot 130 c ctx n |>.settleSlot 130 c ctx (1 - n)
  (s.endCheck c ctx).afterExit c ctx

def execExit (h : Hdr) (s : State) : Out :=
  issue h (fun _ => {}) (fun e s =>
    let m := maskOf (e.active h)
    if m = 0 then s.retire e h else
    let g := e.g.exitLanes m
    match s.preRead 65 e g.emptySlots g.live e.g.owners false with
    | (_, some t) => t
    | (s, none) => ((s.retire e h).modGroup e.core e.ctx (fun g => g.exitLanes m)).afterLeave e.core e.ctx e.n) s

def execNop (h : Hdr) (s : State) : Out := issue h (fun _ => {}) (fun e s => s.retire e h) s

/-- YIELD: until every other stream eligible now, as its choice found them, has issued, or 16 clk (spec/05 R145). That it does nothing
without an active lane, as R77 says of an instruction whose description does not name an effect of its own, is the model's choice
(log 90). -/
def execYield (h : Hdr) (s : State) : Out :=
  issue h (fun _ => {}) (fun e s =>
    let others := s.cur.others
    let s' := s.retire e h
    if (e.active h).isEmpty ∨ others = [] then s' else s'.hold e (.yield (e.clk + 16) others)) s

def execTrap (h : Hdr) (code : BitVec 8) (s : State) : Out :=
  issue h (fun _ => {}) (fun e s =>
    if e.lead h then s.trapAt e 22 e.sl.mask (code.setWidth 64) else s.retire e h) s

/-- The index of a group's workgroup in its rope. -/
def State.wgIndex (s : State) (wg : Nat) : Nat := match s.wgs.look wg with | some w => w.wgidx | none => 0

/-- Begin a stop of the group's rope at this instruction. -/
def State.stopRope (s : State) (e : Env) (cause code : Nat) : State :=
  match s.ropeOf e.g.wg with
  | none => s
  | some (r, _) => s.beginStop r ⟨cause, code, s.wgIndex e.g.wg, e.g.grpid, 2, e.sl.pc, 0, e.clk, false, 0, 0⟩

/-- BKPT traps, or, where a debug session has enabled it, retires and stops the rope (spec/05 R147, spec/12 R297). -/
def execBkpt (h : Hdr) (code : BitVec 8) (s : State) : Out :=
  issue h (fun _ => {}) (fun e s =>
    let cl := clusterOf e.core
    if !e.lead h then s.retire e h
    else if s.stopsOn cl e.asid && (s.cluster cl).dbgctl.getLsbD 1 then (s.retire e h).stopRope e 3 code.toNat
    else s.trapAt e 21 e.sl.mask (code.setWidth 64)) s

/-- TRET ends a save routine, or resumes the trap context (spec/05 R148, spec/14 R341, R344). -/
def State.tret (s : State) (e : Env) (h : Hdr) (skip : Bool) : State :=
  let s := s.retire e h
  if e.g.save = .saving then
    s.modGroup e.core e.ctx (fun g => { g with save := .saved }.setSlot e.n { g.slotOf e.n with atStop := true })
  else s.trapReturn e.core e.ctx skip |>.settleSlot 130 e.core e.ctx e.n

def tretChk (h : Hdr) (e : Env) : Chk := { ctrlChk e none false with ill := !e.last || (e.lead h && !e.g.inHandler) }

def execTret (h : Hdr) (s : State) : Out :=
  issue h (tretChk h) (fun e s => if e.lead h then s.tret e h false else s.retire e h) s

def execTretSkip (h : Hdr) (s : State) : Out :=
  issue h (tretChk h) (fun e s => if e.lead h then s.tret e h true else s.retire e h) s

/-- A trace record of a MARK while the context's TRACE flag is set (spec/14 R350). -/
def State.mark (s : State) (e : Env) (h : Hdr) (code : BitVec 8) (imm : Word) : State :=
  let on := match s.launches.look e.g.launch with | some l => l.trace | none => false
  let s' := s.retire e h
  if e.lead h && on then
    s'.ringPut 2 (leBytes 16 (s.stamp e.core e.g e.n false) ++ leBytes 1 code.toNat ++ leBytes 3 0 ++ leBytes 4 imm.toNat
      ++ leBytes 8 e.clk)
  else s'

def execMark (h : Hdr) (code : BitVec 8) (s : State) : Out := issue h (fun _ => {}) (fun e s => s.mark e h code 0) s

def execMarkImm (h : Hdr) (code : BitVec 8) (imm : Word) (s : State) : Out :=
  issue h (fun _ => {}) (fun e s => s.mark e h code imm) s

/-- The lanes of a mask in quads that QHELP leaves without a launched lane (spec/05 R131). -/
def Group.emptyQuads (mask launched : DWord) : DWord :=
  maskOf ((lanesOf mask).filter (fun l => (launched >>> (l / 4 * 4)) &&& 15 == 0))

/-- Helper lanes leave the live set, wherever they stand. -/
def Group.dropHelpers (g : Group) (lanes : DWord) : Group :=
  let cut (sl : Slot) : Slot := { sl with mask := sl.mask &&& ~~~lanes }
  { g with helper := g.helper &&& ~~~lanes, slot0 := cut g.slot0, slot1 := cut g.slot1 }

/-- Lanes become helper lanes. -/
def Group.toHelpers (g : Group) (turn : DWord) : Group := { g with launched := g.launched &&& ~~~turn, helper := g.helper ||| turn }

/-- The lanes of turn become helper lanes, and those of gone are to leave their slot with D's write, unless a slot so left empty
cannot go on (spec/05 R131). -/
def State.turnHelp (s : State) (e : Env) (h : Hdr) (f : AluForm) (act : List Nat) (turn gone : DWord) : State :=
  match s.preRead 65 e ((e.g.toHelpers turn).dropHelpers gone).emptySlots ((e.g.toHelpers turn).dropHelpers gone).live e.g.owners
    false with
  | (_, some t) => t
  | (s, none) =>
    ((s.startAlu e h f (some (e.clk + 4)) (.help e.n gone)
      (act.map (fun l => (l, LaneOut.w32 (if (e.g.toHelpers turn).launched.getLsbD l then 1 else 0))))).modGroup e.core e.ctx
        (fun g => g.toHelpers turn)).retire e h

/-- QHELP: the named lanes become helper lanes at once; D is written, and empty quads leave, with the helper lanes of theirs that the
other slot or the stack holds (spec/02 R42; log 91), at t + 4. -/
def execQhelp (h : Hdr) (o : DA) (s : State) : Out :=
  let f : AluForm := { o.form .raw with pOk := true, pOnly := true }
  issue h (f.chk false) (fun e s =>
    let act := e.active h
    let turn := maskOf (act.filter (fun l => e.isLaunched l && (e.word o.a l).getLsbD 0))
    let gone := if turn = 0 then 0 else Group.emptyQuads e.g.live (e.g.launched &&& ~~~turn)
    if act.isEmpty then s.retire e h else s.turnHelp e h f act turn gone) s

/-- What QHELP's completion does beside its writes: the emptied quads leave the live set, and the mask of the slot that holds them
now. -/
def State.helpDone (s : State) (c ctx n : Nat) (lanes : DWord) : State :=
  if lanes = 0 then s else
  (s.modGroup c ctx (fun g => g.dropHelpers lanes)).afterLeave c ctx n

end Sys2Proof.Machine
end

