-- ==== Sys2Proof/Machine/Uniform.lean ====
section
/-! DEFINITION. The uniform unit, and the special registers it reads and writes (spec/05 R135-R137; spec/02 R59-R62;
spec/01 R25, R34-R36). -/

namespace Sys2Proof.Machine

/-- An S register, constant or immediate; nothing else is a source of the uniform unit (spec/05 R135). -/
def Env.badU (e : Env) (wide : Bool) (b : SrcB) : Bool :=
  match b with
  | .opd (.s n) => e.badSrc wide (.s n)
  | .opd (.k _) => false
  | .opd _ => true
  | _ => false

/-- Operands of a uniform instruction: the S destination, and the sources with their kinds. -/
structure UForm where
  dst  : Opd
  wide : Bool := false
  srcs : List (SrcB × OKind)
  deriving DecidableEq, Repr

def UForm.chk (f : UForm) (e : Env) : Chk :=
  { opd := e.badS (if f.wide then 2 else 1) f.dst || f.srcs.any (fun x => e.badU x.2.wide x.1), bob := true,
    reads := f.srcs.flatMap (fun x => x.1.regs x.2.wide), writes := f.dst.regs f.wide }

/-- The inputs of the one computation; S operands read the same in every lane. -/
def UForm.inp (f : UForm) (e : Env) : LaneIn :=
  { lane := 0, launched := true, fpcr := e.g.fpcr, prng := 0, xs := f.srcs.map (fun x => e.operand x.2 x.1 0) }

/-- The writes of an S destination. -/
def sWrites (dst : Opd) (wide : Bool) (d : DWord) : List RegWrite :=
  match dst with
  | .s n => ⟨.s, n.val, 0, lo32 d⟩ :: (if wide then [⟨.s, n.val + 1, 0, hi32 d⟩] else [])
  | _ => []

/-- Start a fixed-latency operation of the uniform unit with these writes. -/
def State.uniWrite (s : State) (e : Env) (h : Hdr) (ws : List RegWrite) : State :=
  s.start e { e.op s (e.flag h) .fixed with due := some (e.clk + 4), writes := ws }

/-- One computation per issue, given an active lane (spec/05 R135). -/
def uni (h : Hdr) (f : UForm) (g : LaneIn → DWord) : State → Out :=
  issue h f.chk (fun e s =>
    if (e.active h).isEmpty then s.retire e h
    else (s.uniWrite e h (sWrites f.dst f.wide (g (f.inp e)))).retire e h)

def uni32 (h : Hdr) (f : UForm) (g : LaneIn → Word) : State → Out := uni h f (fun i => (g i).setWidth 64)

end Sys2Proof.Machine

namespace Sys2Proof
open Machine

def DA.uform (o : DA) : UForm := { dst := o.d, srcs := [(.opd o.a, .i32)] }
def DAB.uform (o : DAB) : UForm := { dst := o.d, srcs := [(.opd o.a, .i32), (o.b, .i32)] }
def DABC.uform (o : DABC) : UForm := { dst := o.d, srcs := [(.opd o.a, .i32), (o.b, .i32), (.opd o.c, .i32)] }

end Sys2Proof

namespace Sys2Proof.Machine

/-! Special registers (spec/02 R59-R62) -/

/-- The width code of R42. -/
def wcode (w : Nat) : Nat := Nat.log2 (w / 8)

/-- A special register that reads per lane. -/
def srPerLane (n : Nat) : Bool := n == 0 || n == 1

/-- A reserved number; one SWRSR may write. -/
def srReserved (n : Nat) : Bool := decide (0x1C ≤ n)
def srWritable (n : Nat) : Bool := n == 0x0D || n == 0x0E || n == 0x0F || n == 0x10 || n == 0x18

/-- Workgroup coordinates from the linear number x + WGX × (y + WGY × z). -/
def State.wgid (s : State) (g : Group) (d : Nat) : Nat :=
  match s.launches.look g.launch, s.wgs.look g.wg with
  | some l, some w =>
    match d with
    | 0 => w.linear % l.gx
    | 1 => w.linear / l.gx % l.gy
    | _ => w.linear / l.gx / l.gy
  | _, _ => 0

def State.ropeId (s : State) (g : Group) : Nat :=
  match s.ropeOf g.wg with
  | some (_, r) => if r.real then r.ropeId else 0xFFFFFFFF
  | none => 0xFFFFFFFF

def State.ropePos (s : State) (g : Group) : Nat :=
  match s.ropeOf g.wg, s.wgs.look g.wg with
  | some (_, r), some w => if r.real then 1024 * w.cy + 256 * w.cx + w.wgidx else 0
  | _, _ => 0

/-- BELAYST (spec/02 R61, spec/06 R174); a group that lost entries to a pre-emption is struck (spec/06 R177). -/
def State.belayst (s : State) (e : Env) : Nat :=
  let k := s.core e.core
  65536 * e.g.bypass.toNat + (if k.belayPending e.ctx then 128 else 0) + (if k.belayStruck e.ctx || e.g.lostStruck then 64 else 0) +
    k.belayCount e.ctx

/-- The value a special register reads as in a lane. -/
def State.srRead (s : State) (e : Env) (n lane lowest : Nat) : Word :=
  let g := e.g
  match n with
  | 0x00 => BitVec.ofNat 32 lane
  | 0x01 => BitVec.ofNat 32 (lane / 4)
  | 0x02 => BitVec.ofNat 32 g.grpid
  | 0x03 => BitVec.ofNat 32 (256 * g.nlaunch + wcode g.width)
  | 0x04 => BitVec.ofNat 32 (s.wgid g 0)
  | 0x05 => BitVec.ofNat 32 (s.wgid g 1)
  | 0x06 => BitVec.ofNat 32 (s.wgid g 2)
  | 0x07 => BitVec.ofNat 32 (s.ropeId g)
  | 0x08 => BitVec.ofNat 32 (s.ropePos g)
  | 0x09 => BitVec.ofNat 32 e.core
  | 0x0A => BitVec.ofNat 32 (clusterOf e.core)
  | 0x0B => BitVec.ofNat 32 e.clk
  | 0x0C => (match e.g.clkCap.look e.n with | some c => hi32 c | none => hi32 (BitVec.ofNat 64 e.clk))
  | 0x0D => g.fpcr
  | 0x0E => g.fpsr
  | 0x0F => lo32 g.fmask
  | 0x10 => hi32 g.fmask
  | 0x11 => lo32 g.ffirst
  | 0x12 => hi32 g.ffirst
  | 0x13 => lo32 g.faddr
  | 0x14 => hi32 g.faddr
  | 0x15 => g.trapCause
  | 0x16 => lo32 g.dstkBase
  | 0x17 => hi32 g.dstkBase
  | 0x18 => g.prng.lookD 0 lowest
  | 0x19 => BitVec.ofNat 32 (16 * g.prio + (if g.fillTask then 4 else 0) + g.level)
  | 0x1A => BitVec.ofNat 32 (s.belayst e)
  | _ => BitVec.ofNat 32 e.asid

/-- PRNG's launch value of a lane; SWRSR exclusive-ors it in, and never leaves 0 (spec/01 R25). -/
def prngSeed (lane : Nat) : Word := BitVec.ofNat 32 (0x9E3779B9 * (lane + 1))
def prngSet (v : Word) : Tbl Word :=
  (List.range 64).map (fun l => (l, let x := v ^^^ prngSeed l; if x = 0 then 1 else x))

/-- A write to a special register: reserved bits are ignored. -/
def Group.srWrite (g : Group) (n : Nat) (w : Word) : Group :=
  match n with
  | 0x0D => { g with fpcr := w &&& 0x1F }
  | 0x0E => { g with fpsr := w &&& 0x3F }
  | 0x0F => { g with fmask := (g.fmask &&& 0xFFFFFFFF00000000) ||| w.setWidth 64 }
  | 0x10 => { g with fmask := (g.fmask &&& 0xFFFFFFFF) ||| (w.setWidth 64 <<< 32) }
  | 0x18 => { g with prng := prngSet w }
  | _ => g

/-- An earlier instruction of the group has yet to raise its FPSR flags (spec/01 R36). -/
def Env.fpsrBusy (e : Env) : Bool := e.ops.any (fun o => o.fpsr)

section
variable (h : Hdr)

def execSadd (m : SatU) (o : DAB) : State → Out := uni32 h o.uform (fun i => iaddW m i.a i.b)
def execSsub (m : SatU) (o : DAB) : State → Out := uni32 h o.uform (fun i => isubW m i.a i.b)
def execSadd64 (o : DAB) : State → Out :=
  uni h { dst := o.d, wide := true, srcs := [(.opd o.a, .i64), (o.b, .i64)] } (fun i => i.a64 + i.b64)
def execSmul (o : DAB) : State → Out := uni32 h o.uform (fun i => i.a * i.b)
def execSmad (o : DABC) : State → Out := uni32 h o.uform (fun i => i.a * i.b + i.c)
def execSmin (u : Bool) (o : DAB) : State → Out := uni32 h o.uform (fun i => iminW u i.a i.b)
def execSmax (u : Bool) (o : DAB) : State → Out := uni32 h o.uform (fun i => imaxW u i.a i.b)
def execSshl (o : DAB) : State → Out := uni32 h o.uform (fun i => shlW i.a i.b)
def execSshr (o : DAB) : State → Out := uni32 h o.uform (fun i => shrW i.a i.b)
def execSshra (o : DAB) : State → Out := uni32 h o.uform (fun i => shraW i.a i.b)
def execSlogt (o : DABC) (lut : BitVec 8) : State → Out := uni32 h o.uform (fun i => logt lut i.a i.b i.c)
def execSpopc (o : DA) : State → Out := uni32 h o.uform (fun i => BitVec.ofNat 32 (popc i.a))
def execSclz (o : DA) : State → Out := uni32 h o.uform (fun i => BitVec.ofNat 32 (clz i.a))
def execSbfe (u : Bool) (o : DAB) : State → Out := uni32 h o.uform (fun i => if u then bfeU i.a i.b else bfeS i.a i.b)
def execSbfi (o : DABC) : State → Out := uni32 h o.uform (fun i => bfi i.a i.b i.c)
def execSset (cc : BitVec 4) (u : Bool) (o : DAB) : State → Out :=
  uni32 h o.uform (fun i => ones32 (icmp cc (numOf u i.a) (numOf u i.b)))
def execSmov (o : DA) : State → Out := uni32 h o.uform (fun i => i.a)
def execSmovi (d : Opd) (imm : Word) : State → Out := uni32 h { dst := d, srcs := [(.imm32 imm, .i32)] } (fun i => i.a)
def execSlea (u : Bool) (sh : BitVec 5) (o : DAB) : State → Out :=
  uni h { dst := o.d, wide := true, srcs := [(.opd o.a, .i64), (o.b, .i32)] }
    (fun i => i.a64 + ((if u then i.b.setWidth 64 else i.b.signExtend 64) <<< sh.toNat))

/-- The checks of execS2v. -/
def chkS2v (o : DA) (e : Env) : Chk :=
  { opd := (match o.d with | .v _ => e.badV 1 o.d | .p _ => e.badP o.d | _ => true) || e.badU false (.opd o.a), bob := true,
      reads := o.a.regs false, writes := o.d.regs false }

/-- S2V: every active lane receives A, or its bit 0 in a P register. -/
def execS2v (o : DA) : State → Out :=
  issue h (chkS2v o) (fun e s =>
    let w := e.word o.a 0
    let ws := (e.active h).flatMap (fun l => match o.d with
      | .v n => [(⟨.v, n.val, l, w⟩ : RegWrite)]
      | .p n => [⟨.p, n.val, l, w⟩]
      | _ => [])
    if (e.active h).isEmpty then s.retire e h else (s.uniWrite e h ws).retire e h)

/-- The checks of execV2s. -/
def chkV2s (o : DA) (e : Env) : Chk :=
  { opd := e.badS 1 o.d || (match o.a with | .v _ => e.badSrc false o.a | .p _ => e.badSrc false o.a | _ => true), bob := true,
      reads := o.a.regs false, writes := o.d.regs false }

/-- V2S: the value of the lowest-numbered active lane. -/
def execV2s (o : DA) : State → Out :=
  issue h (chkV2s o) (fun e s =>
    match e.active h with
    | [] => s.retire e h
    | l :: _ => (s.uniWrite e h (sWrites o.d false ((e.word o.a l).setWidth 64))).retire e h)

/-- The checks of execSrdsr. -/
def chkSrdsr (n : Nat) (d : Opd) (e : Env) : Chk :=
  { opd := srReserved n || (match d with
        | .v _ => e.badV 1 d
        | .s _ => e.badS 1 d || srPerLane n
        | _ => true), bob := true, hold := n == 0x0E && e.fpsrBusy && !(e.active h).isEmpty, writes := d.regs false }

/-- SRDSR; a read of FPSR waits for the flags of every earlier instruction (spec/01 R36), and CLK.LO captures the count. -/
def execSrdsr (sr : BitVec 8) (d : Opd) : State → Out :=
  let n := sr.toNat
  issue h (chkSrdsr h n d) (fun e s =>
    match e.active h with
    | [] => s.retire e h
    | l :: ls =>
      let ws := match d with
        | .v r => (l :: ls).map (fun x => (⟨.v, r.val, x, s.srRead e n x l⟩ : RegWrite))
        | .s r => [⟨.s, r.val, 0, s.srRead e n l l⟩]
        | _ => []
      let s := (s.uniWrite e h ws).retire e h
      if n = 0x0B then s.modGroup e.core e.ctx (fun g => { g with clkCap := g.clkCap.put e.n (BitVec.ofNat 64 e.clk) }) else s)

/-- The checks of execSwrsr. -/
def chkSwrsr (n : Nat) (b : SrcB) (e : Env) : Chk :=
  { opd := !srWritable n || e.badB false b, bob := true, hold := n == 0x0E && e.fpsrBusy && !(e.active h).isEmpty,
      reads := b.regs false }

/-- SWRSR takes effect for instructions issued after it; a V or P source gives its lowest active lane (spec/05 R137). -/
def execSwrsr (sr : BitVec 8) (b : SrcB) : State → Out :=
  let n := sr.toNat
  issue h (chkSwrsr h n b) (fun e s =>
    match e.active h with
    | [] => s.retire e h
    | l :: _ =>
      let w := lo32 (e.operand .i32 b l)
      ((s.uniWrite e h []).modGroup e.core e.ctx (fun g => g.srWrite n w)).retire e h)
end

end Sys2Proof.Machine
end

