-- ==== Sys2Proof/Machine/Memory.lean ====
section
/-! DEFINITION. The memory instructions (spec/06): loads, stores, atomics, belay checks, fences, acquires, monitors, prefetch and
cache control. -/

namespace Sys2Proof.Machine

/-! Addresses (spec/06 R150) -/

/-- Which bases a space takes. -/
inductive Space | global | const | short
  deriving DecidableEq, Repr

def Space.wide (x : Space) : Bool := x != .short

/-- A base or index of a class the space does not take. -/
def Env.badBase (e : Env) (x : Space) (o : Opd) : Bool :=
  match o with
  | .p _ => true
  | .v n => x == .const || e.badSrc x.wide (.v n)
  | o => e.badSrc x.wide o
def Env.badIndex (e : Env) (b : SrcB) : Bool :=
  match b with
  | .opd (.v n) => e.badSrc false (.v n)
  | .opd (.s n) => e.badSrc false (.s n)
  | .opd _ => true
  | _ => false

def Env.badAddr (e : Env) (x : Space) (a : Addr) : Bool := e.badBase x a.base || e.badIndex a.idx

/-- The address in a lane. -/
def Env.addrOf (e : Env) (x : Space) (a : Addr) (lane : Nat) : DWord :=
  let base := if x.wide then e.wide .i64 a.base lane else (e.word a.base lane).setWidth 64
  let idx := match a.idx with
    | .opd o => (e.word o lane).signExtend 64 <<< a.scale.toNat
    | .imm9 i => i.signExtend 64
    | .imm32 w => w.signExtend 64
  let sum := base + idx + (match a.off with | some o => o.signExtend 64 | none => 0)
  if x.wide then sum else (sum.setWidth 32).setWidth 64

/-- The registers an address reads. -/
def addrRegs (x : Space) (a : Addr) : List (RegCls × Nat) := a.base.regs x.wide ++ a.idx.regs false

/-! Waits before an access -/

def overlaps (a n b m : Nat) : Bool := decide (a < b + m) && decide (b < a + n)

/-- A lane's load touches bytes an earlier atomic of the group, still in its queue, writes (spec/06 R166). -/
def State.overAtomic (s : State) (e : Env) (m : MemOp) (l : MLane) : Bool :=
  (s.core e.core).sq.any (fun q => q.ctx == e.ctx && q.uid == e.g.uid && (match q.what with
    | .atomg a ls _ => !m.kind.scratch &&
        ls.any (fun x => overlaps ((m.vaOf e l).toNat % 2 ^ 57) m.size x.va (atomBytes a.ty))
    | .atoms a ls _ => m.kind.scratch && (match s.window e.g.wg l.addr.toNat m.size with
        | some t => ls.any (fun x => overlaps t m.size x.tgt (atomBytes a.ty))
        | none => false)
    | _ => false))

def MemKind.logged : MemKind → Bool
  | .load .lds => false
  | .load .ldl => false
  | .load _ => true
  | _ => false

/-- Loads the throttle holds back (spec/07 R191, R193): LDG, LDG.NC, LDACQ, LDB, LDL and LDC. -/
def MemKind.throttled : MemKind → Bool
  | .load .lds => false
  | .load _ => true
  | _ => false

def State.heldBack (s : State) (e : Env) : Bool :=
  let t := (s.core e.core).throttle
  t.limit.isSome && e.ctx != 64 && !e.g.fillTask && !t.permitted.contains e.ctx

/-- A lane's line is one that the group's own queued stores write: an LDB, which certifies what it reads, waits for them
(spec/13 R318). -/
def State.ownStore (s : State) (e : Env) (l : MLane) : Bool :=
  ((s.core e.core).sqBytes e.ctx e.g.uid).any (fun c => c.1 / 128 == l.addr.toNat % 2 ^ 57 / 128)

/-- Issue a memory instruction, unless something makes it wait first. -/
def State.memGo (s : State) (e : Env) (h : Hdr) (m : MemOp) (fl : Flg) : State :=
  if m.lanes.isEmpty then s.retire e h
  else if (s.core e.core).acqPending e.ctx e.g.uid || e.siblingPends then s.hold e
  else if m.kind = .load .lds ∧ m.lanes.any (fun l => s.scratchWaits e l.addr.toNat m.size) then s.hold e
  else if m.kind = .load .ldb ∧ m.lanes.any (fun l => s.ownStore e l) then s.hold e
  else if m.kind.isLoad && m.lanes.any (fun l => s.overAtomic e m l) then s.hold e
  else if m.kind.logged && s.logFull e.g then s.hold e
  else if m.kind.throttled && s.heldBack e then
    (s.modCore e.core (fun k => { k with throttle := { k.throttle with
      wanted := if k.throttle.wanted.contains e.ctx then k.throttle.wanted else k.throttle.wanted ++ [e.ctx], waited := true } })).hold e
  else
    let s := if m.kind.throttled && (s.core e.core).throttle.permitted.contains e.ctx then
      s.modCore e.core (fun k => { k with throttle := { k.throttle with loaded := true } }) else s
    s.issueMem e h m fl

/-- The same after a release at a scope (spec/06 R162, R176). -/
def State.memRelease (s : State) (e : Env) (h : Hdr) (m : MemOp) (scope : Nat) : State :=
  if m.lanes.isEmpty || m.lanes.any (fun l => l.addr.toNat % m.size != 0) then s.memGo e h m 0
  else match s.release e scope true with
    | .wait => s.hold e
    | .trap c a => s.trapAt e c m.active (a.getD e.sl.pc) true
    | .go => s.memGo e h m 0

/-! Loads and stores (spec/06 R156-R160) -/

/-- A reserved format code, of a converted access or a raw one (spec/01 R10). -/
def mfmtBad (m : MemMods) : Bool := (Fmt.ofCode m.mfmt).isNone

def loadChk (x : Space) (nreg : Nat) (sOk badFmt bob : Bool) (d : Opd) (a : Addr) (e : Env) : Chk :=
  { opd := e.badAddr x a || (match d with | .s _ => !sOk || e.badS nreg d | _ => e.badV nreg d), fmt := badFmt, bob := bob,
    reads := addrRegs x a }

def dataRegs (nreg : Nat) : Opd → List (RegCls × Nat)
  | .v n => (List.range nreg).map (fun i => (.v, n.val + i))
  | _ => []

def storeChk (x : Space) (nreg : Nat) (badFmt : Bool) (d : Opd) (a : Addr) (e : Env) : Chk :=
  { opd := e.badAddr x a || e.badV nreg d, fmt := badFmt, reads := addrRegs x a ++ dataRegs nreg d }

/-- A load of the active lanes; LDC's all have the address of the lowest (spec/06 R158). -/
def Env.loadOp (e : Env) (h : Hdr) (k : LoadKind) (x : Space) (m : MemMods) (d : Opd) (a : Addr) : MemOp :=
  let act := e.active h
  let n := vszRegs m.vsz
  let at_ (l : Nat) : Nat := match k with | .ldc => act.headD l | _ => l
  { kind := .load k, size := accessBytes m.cv m.mfmt n, nreg := n, mfmt := m.mfmt, cv := m.cv, dst := some d, active := maskOf act,
    lanes := act.map (fun l => ⟨l, e.addrOf x a (at_ l), 0, 0⟩) }

/-- The bytes a lane stores, as a number, and the flags of the conversion (spec/06 R157). -/
def Env.storeData (e : Env) (m : MemMods) (d : Opd) (lane : Nat) : Nat × Flg :=
  match d with
  | .v r =>
    (List.range (vszRegs m.vsz)).foldl (fun (x : Nat × Flg) i =>
      let w := e.vreg (r.val + i) lane
      if m.cv then
        let f := (Fmt.ofCode m.mfmt).getD .fp32
        let y := regToElem f e.g.fpcr w
        (x.1 + 2 ^ (f.bits * i) * y.1, x.2 ||| y.2)
      else (x.1 + 2 ^ (32 * i) * w.toNat, x.2)) (0, 0)
  | _ => (0, 0)

/-- A store of the active lanes, with the flags the launched ones raise. -/
def Env.storeOp (e : Env) (h : Hdr) (k : MemKind) (x : Space) (m : MemMods) (d : Opd) (a : Addr) : MemOp × Flg :=
  let act := e.active h
  let n := vszRegs m.vsz
  ({ kind := k, size := accessBytes m.cv m.mfmt n, nreg := n, mfmt := m.mfmt, cv := m.cv, dst := none, active := maskOf act,
     lanes := act.map (fun l => ⟨l, e.addrOf x a l, (e.storeData m d l).1, 0⟩) },
   Flg.all ((act.filter e.isLaunched).map (fun l => (e.storeData m d l).2)))

def rawMods (vsz : BitVec 3) : MemMods := ⟨vsz, 5, false⟩

section
variable (h : Hdr)

def execLdg (m : MemMods) (d : Opd) (a : Addr) : State → Out :=
  issue h (loadChk .global (vszRegs m.vsz) false (mfmtBad m) true d a) (fun e s => s.memGo e h (e.loadOp h .ldg .global m d a) 0)
def execLdgNc (m : MemMods) (d : Opd) (a : Addr) : State → Out :=
  issue h (loadChk .global (vszRegs m.vsz) false (mfmtBad m) true d a) (fun e s => s.memGo e h (e.loadOp h .nc .global m d a) 0)
/-- LDG with an acquire at SCOPE, which stands in the low bits of the captured MFMT. -/
def execLdacq (vsz sc : BitVec 3) (d : Opd) (a : Addr) : State → Out :=
  issue h (loadChk .global (vszRegs vsz) false false false d a) (fun e s =>
    s.memGo e h { e.loadOp h .acq .global (rawMods vsz) d a with mfmt := sc.setWidth 5 } 0)
def execLdb (m : MemMods) (d : Opd) (a : Addr) : State → Out :=
  issue h (loadChk .global (vszRegs m.vsz) false (mfmtBad m) false d a) (fun e s => s.memGo e h (e.loadOp h .ldb .global m d a) 0)
def execStg (m : MemMods) (d : Opd) (a : Addr) : State → Out :=
  issue h (storeChk .global (vszRegs m.vsz) (mfmtBad m) d a) (fun e s =>
    let x := e.storeOp h .store .global m d a
    s.memGo e h x.1 x.2)
def execStrel (vsz sc : BitVec 3) (d : Opd) (a : Addr) : State → Out :=
  issue h (storeChk .global (vszRegs vsz) false d a) (fun e s =>
    s.memRelease e h (e.storeOp h .store .global (rawMods vsz) d a).1 sc.toNat)
def execLds (m : MemMods) (d : Opd) (a : Addr) : State → Out :=
  issue h (loadChk .short (vszRegs m.vsz) false (mfmtBad m) true d a) (fun e s => s.memGo e h (e.loadOp h .lds .short m d a) 0)
/-- The address goes through the swizzle first (spec/06 R159); alignment is that of the logical address, whose low bits the
swizzle keeps. -/
def execLdsX (vsz : BitVec 3) (swz : BitVec 2) (d : Opd) (a : Addr) : State → Out :=
  issue h (loadChk .short (vszRegs vsz) false false false d a) (fun e s =>
    let m := e.loadOp h .lds .short (rawMods vsz) d a
    s.memGo e h { m with lanes := m.lanes.map (fun l =>
      if l.addr.toNat % m.size = 0 then { l with addr := BitVec.ofNat 64 (swizzle swz.toNat l.addr.toNat) } else l) } 0)
def execSts (m : MemMods) (d : Opd) (a : Addr) : State → Out :=
  issue h (storeChk .short (vszRegs m.vsz) (mfmtBad m) d a) (fun e s =>
    let x := e.storeOp h .sts .short m d a
    s.memGo e h x.1 x.2)
def execLdc (m : MemMods) (d : Opd) (a : Addr) : State → Out :=
  issue h (loadChk .const (vszRegs m.vsz) true (mfmtBad m) true d a) (fun e s => s.memGo e h (e.loadOp h .ldc .const m d a) 0)
def execLdl (m : MemMods) (d : Opd) (a : Addr) : State → Out :=
  issue h (loadChk .short (vszRegs m.vsz) false (mfmtBad m) false d a) (fun e s => s.memGo e h (e.loadOp h .ldl .short m d a) 0)
def execStl (m : MemMods) (d : Opd) (a : Addr) : State → Out :=
  issue h (storeChk .short (vszRegs m.vsz) (mfmtBad m) d a) (fun e s =>
    let x := e.storeOp h .stl .short m d a
    s.memGo e h x.1 x.2)
end

/-! Atomics (spec/06 R164-R166) -/

/-- How data of a TYPE is read. -/
def atomKind (ty : BitVec 3) : OKind :=
  match ty.toNat with
  | 2 => .i64
  | 3 => .i64
  | 4 => .f32
  | 5 => .fh2
  | _ => .i32

/-- The operands of an atomic, both forms: address, data, compare value, destination. -/
structure AtomForm where
  adr  : Addr
  data : SrcB
  cmp  : Option SrcB
  dst  : Option Opd
  deriving DecidableEq, Repr

end Sys2Proof.Machine

namespace Sys2Proof
open Machine

def AtomArg.adr : AtomArg → Addr
  | .short b _ => ⟨b, .imm9 0, 0, none⟩
  | .long a _ => a
def AtomArg.dataB : AtomArg → SrcB
  | .short _ d => d
  | .long _ d => .opd d
def AtomArg.atomForm (x : AtomArg) (d : Option Opd) : AtomForm := { adr := x.adr, data := x.dataB, cmp := none, dst := d }

end Sys2Proof

namespace Sys2Proof.Machine

def AtomForm.chk (f : AtomForm) (x : Space) (m : AtomMods) (e : Env) : Chk :=
  let k := atomKind m.ty
  { opd := e.badAddr x f.adr || e.badB k.wide f.data || (match f.cmp with | some c => e.badB k.wide c | none => false) ||
      (match f.dst with | some d => e.badV (if k.wide then 2 else 1) d | none => false),
    reads := addrRegs x f.adr ++ f.data.regs k.wide ++ (match f.cmp with | some c => c.regs k.wide | none => []) }

/-- The captured atomic. -/
def AtomForm.op (f : AtomForm) (e : Env) (h : Hdr) (scr : Bool) (op : Option AtomOp) (m : AtomMods) : MemOp :=
  let act := e.active h
  let k := atomKind m.ty
  let i : AtomInfo := ⟨op, m.ty.toNat, m.scope.toNat, f.dst.isSome, m.order.getLsbD 0⟩
  let n := atomBytes m.ty.toNat
  { kind := if scr then .atoms i else .atomg i, size := n, nreg := n / 4, mfmt := 0, cv := false, dst := f.dst, active := maskOf act,
    lanes := act.map (fun l => ⟨l, e.addrOf (if scr then .short else .global) f.adr l, (e.operand k f.data l).toNat % 2 ^ (8 * n),
      match f.cmp with | some c => (e.operand k c l).toNat % 2 ^ (8 * n) | none => 0⟩) }

/-- An atomic in its ORDER (spec/06 R166). -/
def atomic (h : Hdr) (scr : Bool) (op : Option AtomOp) (m : AtomMods) (f : AtomForm) : State → Out :=
  issue h (f.chk (if scr then .short else .global) m) (fun e s =>
    let x := f.op e h scr op m
    if m.order.getLsbD 1 then s.memRelease e h x m.scope.toNat else s.memGo e h x 0)

section
variable (h : Hdr)

def execAtomg (op : AtomOp) (m : AtomMods) (d : Opd) (x : AtomArg) : State → Out := atomic h false (some op) m (x.atomForm (some d))
def execAtomgCas (m : AtomMods) (d base : Opd) (cmp : SrcB) (new : Opd) (off : BitVec 23) : State → Out :=
  atomic h false none m ⟨⟨base, .imm9 0, 0, some off⟩, .opd new, some cmp, some d⟩
def execAtoms (op : AtomOp) (m : AtomMods) (d : Opd) (x : AtomArg) : State → Out := atomic h true (some op) m (x.atomForm (some d))
def execAtomsCas (m : AtomMods) (d base : Opd) (cmp : SrcB) (new : Opd) (off : BitVec 23) : State → Out :=
  atomic h true none m ⟨⟨base, .imm9 0, 0, some off⟩, .opd new, some cmp, some d⟩
def execRedg (op : AtomOp) (m : AtomMods) (x : AtomArg) : State → Out := atomic h false (some op) m (x.atomForm none)

/-! Belay checks, fences, remote acquires (spec/06 R163, R174, R175, R178) -/

/-- Every entry of the group is freed, BYPASS and the struck mark of R177 cleared; the read copies are forgotten at BCHK. -/
def State.clearBelay (s : State) (e : Env) : State :=
  (s.modCore e.core (fun k => k.freeBelay e.ctx)).modGroup e.core e.ctx (fun g => { g with bypass := 0, lostStruck := false })

def execBchk (off : BitVec 27) : State → Out :=
  issue h (fun e => ctrlChk e none false) (fun e s =>
    let k := s.core e.core
    if !e.lead h then s.retire e h
    else if k.belayPending e.ctx then s.hold e
    else s.branch e h (k.belayStruck e.ctx || e.g.lostStruck) off (fun s => (s.clearBelay e).emptyLog e))

def execBclr : State → Out :=
  issue h (fun _ => {}) (fun e s => if e.lead h then (s.retire e h).clearBelay e else s.retire e h)

/-- The group's atomics that return a value have not all been performed. -/
def Core.atomPending (k : Core) (ctx uid : Nat) : Bool :=
  k.sq.any (fun q => q.ctx == ctx && q.uid == uid && (match q.what with
    | .atomg a _ _ => a.ret
    | .atoms a _ _ => a.ret
    | _ => false))

def execFence (ord : BitVec 2) (sc : BitVec 3) : State → Out :=
  issue h (fun _ => {}) (fun e s =>
    let rel := ord.getLsbD 1
    let acq := ord.getLsbD 0
    if !e.lead h then s.retire e h
    else match (if rel then s.release e sc.toNat true else if e.siblingPends then .wait else .go) with
      | .wait => s.hold e
      | .trap c a => s.trapAt e c (maskOf (e.active h)) (a.getD e.sl.pc)
      | .go =>
        if acq && (s.core e.core).atomPending e.ctx e.g.uid then s.hold e
        else (if acq then s.acquire e.core e.ctx sc.toNat else s).retire e h)

/-- The checks of execAcqr: with a false guard it does nothing, and the core number, which is a value, is not looked at
(spec/06 R178, spec/15 R354; log 41). -/
def chkAcqr (h : Hdr) (b : SrcB) (e : Env) : Chk :=
  { opd := e.badU false b || (e.lead h && decide (191 < (lo32 (e.operand .i32 b 0)).toNat)), reads := b.regs false }

def execAcqr (sc : BitVec 3) (b : SrcB) : State → Out :=
  issue h (chkAcqr h b)
    (fun e s =>
    if !e.lead h then s.retire e h
    else if e.siblingPends then s.hold e else
    let t := (lo32 (e.operand .i32 b 0)).toNat
    ((((s.drainCore t).dropClean t).acquire e.core e.ctx sc.toNat).retire e h))

/-! Waiting on a line (spec/06 R179) -/

/-- The checks of execAnch. -/
def chkAnch (d : Opd) (a : Addr) (e : Env) : Chk :=
  { opd := e.badAddr .global a || e.badV 1 d, reads := addrRegs .global a }

def execAnch (d : Opd) (a : Addr) : State → Out :=
  issue h (chkAnch d a) (fun e s =>
    let act := e.active h
    s.memGo e h { kind := .anch, size := 4, nreg := 1, mfmt := 5, cv := false, dst := some d, active := maskOf act,
                  lanes := act.map (fun l => ⟨l, e.addrOf .global a (act.headD l), 0, 0⟩) } 0)

def execAwait : State → Out :=
  issue h (fun _ => {}) (fun e s =>
    let s' := s.retire e h
    if !e.lead h then s' else
    match e.g.monitor with
    | .armed _ _ => s'.hold e (.await e.clk)
    | _ => s'.modGroup e.core e.ctx (fun g => { g with monitor := .idle }))

/-! Prefetch and cache control (spec/06 R181; spec/16 R386) -/

/-- The checks of prefetch. -/
def prefetchChk (a : Addr) (e : Env) : Chk :=
  { opd := e.badAddr .global a, reads := addrRegs .global a }

/-- A memory instruction that starts no operation has issued: it counts, and is sampled, as others are (spec/14 R349). -/
def State.memDone (s : State) (e : Env) (lanes : List (Nat × DWord)) : State :=
  let x := s.sampleOf e (maskOf (lanes.map (fun l => l.1))) (dedup (lanes.map (fun l => l.2.toNat / 32))).length false
  let s := s.memCounted e
  match x with
  | some x => s.sampleRecord e.core (e.op s none .data) x false
  | none => s

/-- PREF.L2 of a translated line: a generator-backed one that its home has comes into the cluster's L2, one that it does not have is
left; of an uncached page or a peer no L2 holds lines (spec/06 R181, spec/14 R327, spec/19 R427). -/
def State.prefL2 (s : State) (r : Req) (x : Xl) : State :=
  if x.gen && !(s.genValid r.asid (r.va / 128) && !s.invalHolds r) then s
  else if x.peer || x.cp == 2 then s
  else (s.fetchReq r x).1

/-- A prefetch of each active lane's line: nothing it meets is a fault, and nothing parks. -/
def prefetch (a : Addr) (f : Env → Nat → Xl → State → State) : State → Out :=
  issue h (prefetchChk a) (fun e s =>
    let lanes := (e.active h).map (fun l => (l, e.addrOf .global a l))
    let t := lanes.foldl (fun s l =>
      let r := s.translate (clusterOf e.core) e.asid l.2 .read
      let s' := { r.1 with stuck := s.stuck }
      match r.2 with
      | .ok x => if !x.peer && !x.gen && s.hole x.addr then s' else f e (l.2.toNat % 2 ^ 57) x s'
      | _ => s') s
    (if lanes = [] then t else t.memDone e lanes).retire e h)

def execPrefL2 (a : Addr) : State → Out :=
  prefetch h a (fun e va x s => s.prefL2 (e.req va x) x)
def execPrefLlc (a : Addr) : State → Out :=
  prefetch h a (fun _ _ x s => if x.gen || x.peer then s else s.reachHome (lineKey false (x.addr / 128)))
def execGpref (a : Addr) : State → Out :=
  prefetch h a (fun e va x s => if x.gen then s.homePref (e.req va x) else s)

/-- The checks of cctl. -/
def cctlChk (all : Bool) (a : Addr) (e : Env) : Chk :=
  { opd := !all && e.badAddr .global a, reads := if all then [] else addrRegs .global a }

def cctl (inv all : Bool) (a : Addr) : State → Out :=
  issue h (cctlChk all a) (fun e s =>
    let act := e.active h
    s.memGo e h { kind := .cctl inv all, size := 1, nreg := 0, mfmt := 0, cv := false, dst := none, active := maskOf act,
                  lanes := (if all then act.take 1 else act).map (fun l => ⟨l, if all then 0 else e.addrOf .global a l, 0, 0⟩) } 0)

def execCctlWb (all : Bool) (a : Addr) : State → Out := cctl h false all a
def execCctlInv (all : Bool) (a : Addr) : State → Out := cctl h true all a
end

end Sys2Proof.Machine
end

