-- ==== Sys2Proof/Machine/QTable.lean ====
section
/-! DEFINITION. Queue descriptors (spec/17 R390, R391) and the reads and writes an instruction or engine makes as one lane. -/

namespace Sys2Proof.Machine

/-- A queue descriptor. -/
structure QDesc where
  base : Nat
  size : Nat
  asid : Nat
  pubn : Nat
  prio : Nat
  range : Bool
  enable : Bool
  aborted : Bool
  widx : Nat
  ridx : Nat
  qdone : Nat
  deriving DecidableEq, Repr

/-- Physical address of descriptor q. -/
def State.qAddr (s : State) (q : Nat) : Nat := s.qtabbase.toNat + 128 * q

/-- Descriptor q; fields that break R390 count as ENABLE 0, and so does a QTABBASE that is not a multiple of 128 KiB. That non-zero
reserved bytes break R390, where R7 lets reserved fields of memory records be ignored, is the model's choice (log 79). -/
def State.qdesc (s : State) (q : Nat) : QDesc :=
  let d := s.numAt false (s.qAddr q) 128
  let size := bits d 64 32
  let ok := s.qtabbase.toNat % 131072 == 0 && bits d 0 12 == 0 && (List.range 13).any (fun k => size == 16 * 2 ^ k) &&
    decide (1 ≤ bits d 112 8) && decide (bits d 112 8 ≤ 64) && bits d 126 2 == 0 && bits d 320 704 == 0
  { base := bits d 0 64, size := size, asid := bits d 96 16, pubn := bits d 112 8, prio := bits d 120 3, range := d.testBit 123,
    enable := d.testBit 124 && ok, aborted := d.testBit 125, widx := bits d 128 64, ridx := bits d 192 64, qdone := bits d 256 64 }

/-- The virtual address of packet i (spec/17 R391). -/
def QDesc.slotVa (d : QDesc) (i : Nat) : DWord := BitVec.ofNat 64 (d.base + 64 * (i % d.size))

/-- The queue has work for the processor (spec/17 R404). -/
def State.markWork (s : State) (q : Nat) : State :=
  let x := s.queues.lookD QState.reset q
  if x.work then s else { s with queues := s.queues.put q { x with work := true, since := s.serial }, serial := s.serial + 1 }

/-- An instruction's one access waits: FMASK holds its lanes, and its flag, or token, keeps its increment (spec/06 R167,
spec/02 R56). -/
def State.keepFlag (s : State) (e : Env) (f : Option Nat) : State :=
  s.modGroup e.core e.ctx (fun g =>
    ({ g.flagUp f with fmask := e.sl.mask }).setSlot e.n { g.slotOf e.n with kept := f })

/-- The outcome of an access an instruction makes as one lane, with its flag (spec/06 R167): go on, trap, wait for the page fault,
or wait for generated data. -/
def State.oneLane (s : State) (e : Env) (f : Option Nat) (o : Outcome1) (va : DWord) (acc : Acc) (go : State → List Byte → State) :
    State :=
  match o with
  | .done bs => go s bs
  | .fatal c => s.trapAt e c e.sl.mask va true
  | .page => if e.sl.fatal then s.trapAt e 7 e.sl.mask va true else (s.laneFault e va acc).keepFlag e f
  | .wait p => (s.hold e (.pend p)).keepFlag e f

/-- Where a group's write of one lane goes. -/
def State.writePlace (s : State) (e : Env) (va : DWord) : State × Option Xl × Outcome1 :=
  match s.translate (clusterOf e.core) e.asid va .write with
  | (s, .ok x) => (s, some x, .done [])
  | (s, r) => (s, none, r.outcome)

/-- Bytes within a line read through the L2, after what the core has stored there has been performed (spec/10 R259,
spec/13 R317). -/
def State.l2Read (s : State) (e : Env) (va : DWord) (n : Nat) : State × Outcome1 :=
  match s.translate (clusterOf e.core) e.asid va .read with
  | (s, .ok x) =>
    let v := va.toNat % 2 ^ 57
    match (s.flushVa e.core e.asid (v / 128)).laneLine e true v x with
    | (s, .no o) => (s, o)
    | (s, .line d _ _ _) =>
      (s, .done ((List.range n).map (fun i => byteOfLine d ((v + i) % 128))))
  | (s, r) => (s, r.outcome)

end Sys2Proof.Machine
end

