-- ==== Sys2Proof/Machine/Sync.lean ====
section
/-! DEFINITION. Barrier objects, workgroup and rope barriers, and the enqueue instructions (spec/10 R255, R268-R271; spec/12 R294;
spec/17 R396-R399). -/

namespace Sys2Proof.Machine

/-! Barrier objects (spec/10 R268, R269) -/

structure BarObj where
  expArr : Nat
  parr   : Nat
  pbytes : Nat
  poison : Bool
  phase  : Bool
  pcount : Nat
  deriving DecidableEq, Repr

/-- The object at a place of an array. -/
def State.obj (s : State) (t : Nat) : BarObj :=
  let x := leNat (s.scrBytes t 16)
  { expArr := bits x 0 16, parr := bits x 16 16, pbytes := bits x 32 28, poison := x.testBit 61, phase := x.testBit 63, pcount := bits x 64 32 }

/-- Write an object's words 0 to 2; the reserved bits of words 1 and 3 keep what they hold. -/
def State.setObj (s : State) (t : Nat) (o : BarObj) : State :=
  let x := leNat (s.scrBytes t 16)
  let y := o.expArr + 2 ^ 16 * o.parr + 2 ^ 32 * o.pbytes + 2 ^ 60 * bits x 60 1 + (if o.poison then 2 ^ 61 else 0)
    + 2 ^ 62 * bits x 62 1 + (if o.phase then 2 ^ 63 else 0) + 2 ^ 64 * o.pcount + 2 ^ 96 * bits x 96 32
  s.scrWrite (cellsFrom t (leBytes 16 y))

inductive BarEvent
  | init (e : Nat)
  | arrive (n : Nat)
  | expect (m : Nat)
  | credit (m : Nat)
  | inval
  deriving DecidableEq, Repr

/-- A phase completes when nothing is pending. -/
def BarObj.settled (o : BarObj) : BarObj :=
  if o.parr = 0 ∧ o.pbytes = 0 then { o with pcount := (o.pcount + 1) % 2 ^ 32, phase := o.pcount % 2 == 0, parr := o.expArr } else o

/-- The transitions of R269 on an object in use; a poisoned one ignores them. -/
def BarObj.after (o : BarObj) (v : BarEvent) : BarObj :=
  match v with
  | .init e => ⟨e, e, 0, false, false, 0⟩
  | .inval => ⟨0, 0, 0, o.poison, false, 0⟩
  | .arrive n => if o.poison then o else if n ≤ o.parr then { o with parr := o.parr - n }.settled else { o with poison := true }
  | .expect m => if o.poison then o else if o.pbytes + m < 2 ^ 28 then { o with pbytes := o.pbytes + m } else { o with poison := true }
  | .credit m => if o.poison then o else if m ≤ o.pbytes then { o with pbytes := o.pbytes - m }.settled else { o with poison := true }

/-- A slot that waits before a BWAIT on this object. -/
def Slot.waitsOn (sl : Slot) (t : Nat) : Option Nat :=
  match sl.wait with
  | .bwait u a _ => if u = t then some a else none
  | _ => none

/-- Waiters on a poisoned or invalidated object take BAR_BYTES; a completed phase wakes them, and they pass it when they issue next
(spec/10 R269, R270). -/
def State.wakeObj (s : State) (t : Nat) (bad : Bool) : State :=
  s.groups.foldl (fun s x =>
    [0, 1].foldl (fun s n =>
      let sl := x.2.slotOf n
      match sl.waitsOn t with
      | none => s
      | some a =>
        if bad then s.trapSlot (x.1 / 65) (x.1 % 65) n 19 2 sl.mask (BitVec.ofNat 64 a) sl.pc
        else s.modSlot (x.1 / 65) (x.1 % 65) n (fun sl => { sl with wait := .none, bpast := true })) s) s

/-- Perform an event on an object. BINIT and BINVAL write all its words. Its waiters are told of a completed phase, of poison and of
BINVAL, and of nothing else. -/
def State.objEvent (s : State) (t : Nat) (v : BarEvent) : State :=
  let o := s.obj t
  let o' := o.after v
  match v with
  | .init _ => (s.scrWrite (cellsFrom t (leBytes 16 0))).setObj t o'
  | .inval => ((s.scrWrite (cellsFrom t (leBytes 16 0))).setObj t o').wakeObj t true
  | _ =>
    if o' = o then s
    else if o'.poison || o'.pcount != o.pcount then (s.setObj t o').wakeObj t o'.poison
    else s.setObj t o'

/-! Shared operand rules (spec/10 R255, R270) -/

/-- An S register or constant. -/
def Env.badS1 (e : Env) (o : Opd) : Bool := e.badU false (.opd o)

/-- The slot holds a launched lane. -/
def Env.hasLaunched (e : Env) : Bool := e.sl.mask &&& e.g.launched != 0

/-- The place of a barrier object, or the trap its address takes. -/
def State.objPlace (s : State) (e : Env) (a : Nat) : Nat ⊕ Nat :=
  if a % 16 ≠ 0 then .inr 9 else match s.window e.g.wg a 16 with | some t => .inl t | none => .inr 8

/-- The checks of onObject. -/
def onObjectChk (a : Opd) (chk : Env → Chk) (e : Env) : Chk :=
  { chk e with opd := (chk e).opd || e.badS1 a, reads := (chk e).reads ++ a.regs false }

/-- An instruction on the object whose window address A holds: its guard, its address checks, its turn after earlier scratchpad
accesses of the group to that array, and after an acquire that is pending (spec/12 R293, spec/06 R162, spec/13 R320). -/
def onObject (h : Hdr) (a : Opd) (mem : Bool) (chk : Env → Chk) (eff : Env → Nat → State → State) : State → Out :=
  issue h (onObjectChk a chk) (fun e s =>
    if !e.lead h || (mem && !e.hasLaunched) then s.retire e h else
    let adr := (e.word a 0).toNat
    match s.objPlace e adr with
    | .inr c => s.trapAt e c e.sl.mask (BitVec.ofNat 64 adr)
    | .inl t => if s.scratchWaits e adr 16 || e.siblingPends then s.hold e else eff e t s)

/-- A 32-bit value from an S operand or immediate. -/
def Env.sval (e : Env) (b : SrcB) : Nat := (lo32 (e.operand .i32 b 0)).toNat

/-- Register writes of an operation whose result is known, and which completes at some later time. -/
def State.dataWrite (s : State) (e : Env) (h : Hdr) (ws : List RegWrite) : State :=
  s.start e { e.op s (e.flag h) .data with writes := ws }

section
variable (h : Hdr)

/-- The checks of execBinit. -/
def chkBinit (b : SrcB) (e : Env) : Chk :=
  { opd := e.badU false b || (e.lead h && e.hasLaunched && decide (65535 < e.sval b)), reads := b.regs false }

def execBinit (a : Opd) (b : SrcB) : State → Out :=
  onObject h a true (chkBinit h b) (fun e t s =>
    (s.objEvent t (.init (e.sval b))).retire e h)

/-- The checks of execBarv. -/
def chkBarv (rd : Bool) (d : Opd) (b : SrcB) (e : Env) : Chk :=
  { opd := e.badU false b || (rd && e.badS 1 d), reads := b.regs false }

/-- Release, then the arrival; RD reads PCOUNT just before it. -/
def execBarv (rd : Bool) (sc : BitVec 3) (d a : Opd) (b : SrcB) : State → Out :=
  onObject h a true (chkBarv rd d b) (fun e t s =>
    match s.release e sc.toNat (decide (3 ≤ sc.toNat)) with
    | .wait => s.hold e
    | .trap c x => s.trapAt e c (maskOf (e.active h)) (x.getD e.sl.pc)
    | .go =>
      let n := e.sval b
      let ws := match d with
        | .s r => if rd then [(⟨.s, r.val, 0, BitVec.ofNat 32 (s.obj t).pcount⟩ : RegWrite)] else []
        | _ => []
      let s := if ws = [] then s else s.dataWrite e h ws
      (if n = 0 then s else s.objEvent t (.arrive n)).retire e h)

/-- The checks of execBexp. -/
def chkBexp (b : SrcB) (e : Env) : Chk :=
  { opd := e.badU false b, reads := b.regs false }

def execBexp (a : Opd) (b : SrcB) : State → Out :=
  onObject h a true (chkBexp b) (fun e t s =>
    (s.objEvent t (.expect (e.sval b))).retire e h)

/-- The checks of execBtry. -/
def chkBtry (d b : Opd) (e : Env) : Chk :=
  { opd := e.badP d || e.badS1 b, reads := b.regs false }

def execBtry (sc : BitVec 3) (d a b : Opd) : State → Out :=
  onObject h a false (chkBtry d b) (fun e t s =>
    let o := s.obj t
    if o.poison then s.trapAt e 19 e.sl.mask ((e.word a 0).setWidth 64) else
    let r := o.pcount != (e.word b 0).toNat
    let ws := (e.active h).flatMap (fun l => match d with
      | .p n => [(⟨.p, n.val, l, if r then 1 else 0⟩ : RegWrite)]
      | _ => [])
    let s := s.dataWrite e h ws
    (if r then s.acquire e.core e.ctx sc.toNat else s).retire e h)

/-- The checks of execBwait. -/
def chkBwait (b : Opd) (e : Env) : Chk :=
  { opd := e.badS1 b, reads := b.regs false }

def execBwait (sc : BitVec 3) (a b : Opd) : State → Out :=
  onObject h a false (chkBwait b) (fun e t s =>
    let o := s.obj t
    if e.sl.bpast then (s.acquire e.core e.ctx sc.toNat).retire e h
    else if o.poison then s.trapAt e 19 e.sl.mask ((e.word a 0).setWidth 64)
    else if o.pcount = (e.word b 0).toNat then s.hold e (.bwait t (e.word a 0).toNat (e.word b 0).toNat)
    else (s.acquire e.core e.ctx sc.toNat).retire e h)

def execBinval (a : Opd) : State → Out :=
  onObject h a true (fun _ => {}) (fun e t s => (s.objEvent t .inval).retire e h)

/-! Workgroup and rope barriers (spec/10 R271, spec/12 R294) -/

/-- Release, arrive, and wait at barrier key k (0-3 workgroup, 4-7 rope). -/
def State.arriveBarrier (s : State) (e : Env) (k scope : Nat) (belay : Bool) (w : Wait) : State :=
  if !e.lead h then s.retire e h
  else match s.release e scope belay with
    | .wait => s.hold e
    | .trap c a => s.trapAt e c (maskOf (e.active h)) (a.getD e.sl.pc)
    | .go =>
      let s := (s.start e (e.op s (e.flag h) .barrier)).retire e h
      let s := s.modGroup e.core e.ctx (fun g => { g with arrived := g.arrived.putD 0 k (g.arrived.lookD 0 k ||| e.sl.mask) })
      let s := s.modSlot e.core e.ctx e.n (fun sl => { sl with wait := w, afterBarwg := decide (k < 4) })
      s.checkBarriers e.g.wg

def execBarwg (n : BitVec 2) (sc : BitVec 3) : State → Out :=
  issue h (fun _ => {}) (fun e s =>
    s.arriveBarrier h e n.toNat sc.toNat (decide (3 ≤ sc.toNat)) (.barwg n.toNat sc.toNat))

/-- The checks of execBarrp. -/
def chkBarrp (e : Env) : Chk :=
  { ill := e.k.rw == 0 && e.k.rh == 0 && e.k.rk == 0 }

def execBarrp (n : BitVec 2) : State → Out :=
  issue h chkBarrp (fun e s =>
    s.arriveBarrier h e (4 + n.toNat) 3 true (.barrp n.toNat))

/-! Enqueue instructions (spec/17 R397, R398) -/

/-- A queue the group may not use takes PROT_FAULT, with its number. -/
def State.queueBad (s : State) (e : Env) (q : Nat) : Bool :=
  decide (1023 < q) || !(s.qdesc q).enable || (s.qdesc q).asid != e.asid

def pairChk (e : Env) (o : Opd) : Bool := match o with | .s n => e.badSrc true (.s n) | _ => true

/-- The checks of execQresv. -/
def chkQresv (pd : BitVec 7) (d a : Opd) (b : SrcB) (e : Env) : Chk :=
  { opd := e.badS1 a || e.badU false b || e.badS 2 d || (pd != 127 && decide (e.g.pAlloc ≤ pd.toNat)) ||
        (e.lead h && (e.sval b == 0 || decide (64 < e.sval b))),
      reads := a.regs false ++ b.regs false }

def execQresv (pd : BitVec 7) (d a : Opd) (b : SrcB) : State → Out :=
  issue h (chkQresv h pd d a b) (fun e s =>
    let q := (e.word a 0).toNat
    if !e.lead h then s.retire e h
    else if s.queueBad e q then s.trapAt e 8 e.sl.mask (BitVec.ofNat 64 q) true
    else if e.siblingPends then s.hold e
    else
      let x := s.qdesc q
      let n := e.sval b
      let ok := decide ((x.widx + n + 2 ^ 64 - x.ridx) % 2 ^ 64 ≤ x.size)
      let s := if ok then s.cohWrite false (cellsFrom (s.qAddr q + 16) (leBytes 8 (x.widx + n))) else s
      let ws := sWrites d true (BitVec.ofNat 64 x.widx) ++ (if pd = 127 then [] else
        (e.active h).map (fun l => (⟨.p, pd.toNat, l, if ok then 1 else 0⟩ : RegWrite)))
      (s.dataWrite e h ws).retire e h)

/-- The checks of execQput. -/
def chkQput (a b c : Opd) (e : Env) : Chk :=
  { opd := e.badS1 a || pairChk e b || pairChk e c, reads := a.regs false ++ b.regs true ++ c.regs true }

def execQput (a b c : Opd) : State → Out :=
  issue h (chkQput a b c) (fun e s =>
    let q := (e.word a 0).toNat
    let img := e.wide .i64 c 0
    if !e.lead h then s.retire e h
    else if s.queueBad e q then s.trapAt e 8 e.sl.mask (BitVec.ofNat 64 q) true
    else if img.toNat % 64 ≠ 0 then s.trapAt e 9 e.sl.mask img true
    else if (s.core e.core).acqPending e.ctx e.g.uid || e.siblingPends then s.hold e
    else
      let r := s.loadBytes e (img + 4) 60 { alloc := some .glob, victim := false }
      r.1.oneLane e (e.flag h) r.2 (img + 4) .read (fun s bs =>
        let va := (s.qdesc q).slotVa (e.wide .i64 b 0).toNat + 4
        let w := s.writePlace e va
        w.1.oneLane e (e.flag h) w.2.2 va .write (fun s _ =>
          match w.2.1 with
          | some x =>
            let o := e.op s (e.flag h) .store
            ((s.start e o).enqueue e (some o.id) (.bytes (storeCells (va.toNat % 2 ^ 57) x.tgt bs (x.cp == 2)))).retire e h
          | none => s)))

/-- Perform bytes at the coherent caches at once; the core's own copy of their line goes. -/
def State.homeStore (s : State) (e : Env) (va : DWord) (x : Xl) (bs : List Byte) : State :=
  ((s.flushLine e.core x.tgt).cohWrite x.peer (cellsFrom x.addr bs)).modCore e.core (fun k => k.l1Drop e.asid (va.toNat % 2 ^ 57 / 128))

/-- The checks of execQcommit. -/
def chkQcommit (a b d : Opd) (e : Env) : Chk :=
    let hd := (e.word d 0).toNat
    { opd := e.badS1 a || pairChk e b || e.badS1 d || (e.lead h && (hd % 256 == 0 || decide (8 < hd))),
      reads := a.regs false ++ b.regs true ++ d.regs false }

def execQcommit (sc : BitVec 3) (a b d : Opd) : State → Out :=
  issue h (chkQcommit h a b d) (fun e s =>
    let q := (e.word a 0).toNat
    if !e.lead h then s.retire e h
    else if s.queueBad e q then s.trapAt e 8 e.sl.mask (BitVec.ofNat 64 q) true
    else match s.release e sc.toNat true with
      | .wait => s.hold e
      | .trap c x => s.trapAt e c (maskOf (e.active h)) (x.getD e.sl.pc) true
      | .go =>
        let va := (s.qdesc q).slotVa (e.wide .i64 b 0).toNat
        let w := s.writePlace e va
        w.1.oneLane e (e.flag h) w.2.2 va .write (fun s _ =>
          match w.2.1 with
          | some x => ((s.homeStore e va x (leBytes 4 (e.word d 0).toNat)).markWork q).retire e h
          | none => s))

/-- The checks of execQsig. -/
def chkQsig (a c : Opd) (e : Env) : Chk :=
  { opd := pairChk e a || e.badU true (.opd c), reads := a.regs true ++ c.regs true }

def execQsig (store : Bool) (sc : BitVec 3) (a c : Opd) : State → Out :=
  issue h (chkQsig a c) (fun e s =>
    let va := e.wide .i64 a 0
    if !e.lead h then s.retire e h
    else if va.toNat % 8 ≠ 0 then s.trapAt e 9 e.sl.mask va true
    else match s.release e sc.toNat true with
      | .wait => s.hold e
      | .trap k x => s.trapAt e k (maskOf (e.active h)) (x.getD e.sl.pc) true
      | .go =>
        let w := s.writePlace e va
        w.1.oneLane e (e.flag h) w.2.2 va .write (fun s _ =>
          match w.2.1 with
          | some x =>
            let s := s.flushLine e.core x.tgt
            let old := s.numAt x.peer x.addr 8
            let v := (e.wide .i64 c 0).toNat
            (s.homeStore e va x (leBytes 8 (if store then v else old + v))).retire e h
          | none => s))
end

end Sys2Proof.Machine
end

