-- ==== Sys2Proof/Machine/Gen.lean ====
section
/-! DEFINITION. The fill instructions (spec/16 R374-R380). -/

namespace Sys2Proof.Machine

/-- The tracker of a fill task's block while it is undecided or its commit is on its way (spec/16 R374). -/
def State.taskTracker (s : State) (l : Nat) : Option (Nat × Tracker) :=
  match (s.launches.look l).bind (fun x => x.fill) with
  | none => none
  | some k => match s.trackers.look k with
    | some t => if t.launch = some l then some (k, t) else none
    | none => none

/-- FILLC, FILLA and FILLV are for a fill task whose block is undecided (spec/16 R375). -/
def State.mayFill (s : State) (e : Env) : Bool :=
  e.g.fillTask && (match s.taskTracker e.g.launch with | some (_, t) => !t.decided | none => false)

/-- The checks of execFillc. -/
def chkFillc (h : Hdr) (a : Opd) (s : State) (e : Env) : Chk :=
  { ill := e.lead h && !s.mayFill e, opd := e.badS1 a, reads := a.regs false }

/-- FILLC: its address is checked and its block decided at issue; the commit follows the group's earlier scratchpad accesses. -/
def execFillc (h : Hdr) (a : Opd) (s : State) : Out :=
  issue h (chkFillc h a s) (fun e s =>
    if !e.lead h then s.retire e h else
    match s.taskTracker e.g.launch, s.wgs.look e.g.wg with
    | some (k, t), some w =>
      let adr := (e.word a 0).toNat
      let n := 2 ^ t.blklog
      if adr % 128 ≠ 0 then s.trapAt e 9 e.sl.mask (BitVec.ofNat 64 adr)
      else if wgBytes w < adr + n then s.trapAt e 8 e.sl.mask (BitVec.ofNat 64 adr)
      else if e.siblingPends then s.hold e
      else
        let s := s.modTracker k (fun t => { t with decided := true })
        (s.start e (e.op s (e.flag h) (.fillc k (w.core * 2 ^ 20 + w.base * 384 + adr)))).retire e h
    | _, _ => s.retire e h) s

/-- The commit of a FILLC: the block's bytes are read from the scratchpad, those captured before as they were then, and its pending
lines become VALID. -/
def State.fillcDone (s : State) (c : Nat) (o : Op) (k place : Nat) : State :=
  match s.trackers.look k with
  | some t => (s.decideBlock k (some (s.opBytes o.parts place (2 ^ t.blklog)))).complete c o
  | none => s.complete c o

/-- The checks of execFilla. -/
def chkFilla (h : Hdr) (s : State) (e : Env) : Chk :=
  { ill := e.lead h && !s.mayFill e }

/-- FILLA poisons the block's pending lines, once the group's earlier stores have been performed (spec/16 R377, spec/13 R311). -/
def execFilla (h : Hdr) (s : State) : Out :=
  issue h (chkFilla h s) (fun e s =>
    if !e.lead h then s.retire e h else
    match s.taskTracker e.g.launch with
    | some (k, _) => if !e.siblingPends && s.drained e 3 then ((s.dataWrite e h []).decideBlock k none).retire e h else s.hold e
    | none => s.retire e h) s

/-- The writes of one value to an S register, or to a V register in every active lane. -/
def wideWrites (d : Opd) (act : List Nat) (w : Word) : List RegWrite :=
  match d with
  | .v n => act.map (fun l => (⟨.v, n.val, l, w⟩ : RegWrite))
  | .s n => [⟨.s, n.val, 0, w⟩]
  | _ => []

/-- A destination in an S or V register. -/
def Env.badSV (e : Env) (d : Opd) : Bool := match d with | .s _ => e.badS 1 d | _ => e.badV 1 d

/-- The word FILLQ reports for a line (spec/16 R380). -/
def State.lineState (s : State) (asid va blklog : Nat) : Nat :=
  match s.genLine? asid (va / 128) with
  | some l => if l.poison then 5 else 4
  | none =>
    match s.trackerOf asid (blockOf va blklog) with
    | some (_, t) => (if t.launch.isSome then 3 else 2) + 256 * t.level + 65536 * t.prio
    | none => if (s.vsFind asid (va / 128)).isSome then 1 else 0

/-- The checks of execFillq. -/
def chkFillq (d : Opd) (adr : Addr) (e : Env) : Chk :=
  { opd := e.badAddr .global adr || e.badSV d, reads := addrRegs .global adr }

/-- FILLQ reads the state of the line the lowest active lane addresses, and changes nothing. -/
def execFillq (h : Hdr) (d : Opd) (adr : Addr) (s : State) : Out :=
  issue h (chkFillq d adr) (fun e s =>
    let act := e.active h
    match act with
    | [] => s.retire e h
    | l :: _ =>
      if !e.lead h then s.retire e h else
      let va := e.addrOf .global adr l
      let r := match (s.translate (clusterOf e.core) e.asid va .read).2 with
        | .ok x => if x.gen then s.lineState e.asid (va.toNat % 2 ^ 57) x.blklog else 255
        | _ => 255
      (s.dataWrite e h (wideWrites d act (BitVec.ofNat 32 r))).retire e h) s

/-- What FTINFO reads (spec/16 R379). Once the block is decided nothing is parked on it or pending. -/
def State.ftinfo (s : State) (e : Env) (which b : Nat) : Nat :=
  let t := s.taskTracker e.g.launch
  match which with
  | 0 => e.g.prio
  | 1 => e.g.level
  | 2 => match t with
    | some (_, t) => (dedup ((t.parks.filter (fun p => decide (p.slot < 2))).map (fun p => gkey p.core p.ctx))).length
    | none => 0
  | 3 => match t with
    | some (_, t) =>
      ((List.range 32).map (fun i =>
        if (s.pendingLines t).contains (t.block / 128 + 32 * (b % 32) + i) then 2 ^ i else 0)).sum
    | none => 0
  | _ => match (s.launches.look e.g.launch).bind (fun x => x.fill) with
    | some k => 65536 * (k / 64) + k % 64
    | none => 0

/-- The checks of execFtinfo. -/
def chkFtinfo (h : Hdr) (which : BitVec 3) (d : Opd) (b : SrcB) (e : Env) : Chk :=
  { ill := decide (4 < which.toNat) || (e.lead h && !e.g.fillTask), opd := e.badSV d || (which == 3 && e.badU false b),
      reads := if which = 3 then b.regs false else [] }

def execFtinfo (h : Hdr) (which : BitVec 3) (d : Opd) (b : SrcB) (s : State) : Out :=
  issue h (chkFtinfo h which d b) (fun e s =>
    if !e.lead h then s.retire e h else
    let v := if which = 3 then e.sval b else 0
    (s.dataWrite e h (wideWrites d (e.active h) (BitVec.ofNat 32 (s.ftinfo e which.toNat v)))).retire e h) s

/-- The checks of execFillv. -/
def chkFillv (h : Hdr) (b : SrcB) (s : State) (e : Env) : Chk :=
  { ill := e.lead h && !s.mayFill e, opd := e.badU false b, reads := b.regs false }

/-- FILLV sets, or withdraws, the policy with which FILLC marks the block's lines (spec/16 R378). -/
def execFillv (h : Hdr) (b : SrcB) (s : State) : Out :=
  issue h (chkFillv h b s) (fun e s =>
    if !e.lead h then s.retire e h else
    match s.taskTracker e.g.launch with
    | some (k, _) => (s.modTracker k (fun t => { t with fillv := e.sval b % 4 })).retire e h
    | none => s.retire e h) s

end Sys2Proof.Machine
end

