-- ==== Sys2Proof/Machine/Engine.lean ====
section
/-! DEFINITION. Engine threads: their reads and writes of global memory, their faults, their fork edge (spec/10 R256, R257;
spec/14 R346). -/

namespace Sys2Proof.Machine

/-- The issuer of an operation, as its engine sees it. -/
def State.who (s : State) (c : Nat) (o : Op) : EngWho :=
  let g := s.opGroup c o
  { core := c, ctx := o.ctx, uid := o.uid, slot := o.slot, asid := o.asid,
    level := (match g with | some g => g.level | none => 0), prio := (match g with | some g => g.prio | none => 0),
    ffirst := o.ffirst, stamp := o.stamp, key := some (opKey o.id) }

/-- The issuing group, while it has not exited. -/
def State.issuer (s : State) (w : EngWho) : Option Group :=
  match s.group? w.core w.ctx with
  | some g => if g.uid = w.uid ∧ !g.ended then some g else none
  | none => none

/-- The queue processor, or the device itself, reaching memory under an ASID; it goes through cluster 0 (log 21). -/
def procWho (asid : Nat) : EngWho := ⟨0, 64, procUid, 2, asid, 0, 0, 0, 0, none⟩

/-- The stamp of an engine's record (spec/12 R301). -/
def State.engStamp (s : State) (w : EngWho) : Nat :=
  if w.uid = procUid then 0 else
  match s.issuer w with
  | some g => s.stamp w.core g w.slot false
  | none => w.stamp / 2 * 2 + 1

/-- The outcome of an engine's accesses: a result, a fatal fault, a replayable fault, or a wait for generated data. -/
inductive EngRes (α : Type)
  | ok (x : α)
  | fatal (cause va : Nat) (write : Bool)
  | page (va : Nat) (write : Bool)
  | wait
  deriving DecidableEq, Repr

/-- The first byte named in each line, in order. -/
def firstOfLines : List Nat → List Nat
  | [] => []
  | a :: r => a :: (firstOfLines r).filter (fun b => b / 128 != a / 128)

/-- A virtual address of 64 bits as an access names it. -/
def va64 (a : Nat) : DWord := BitVec.ofNat 64 a

/-- Read one line through the L2, at the coherent caches (spec/10 R256, spec/13 R306). -/
def State.engLine (s : State) (w : EngWho) (va : Nat) : State × EngRes LineData :=
  match s.translate (clusterOf w.core) w.asid (va64 va) .read with
  | (s, .ok x) =>
    let v := va % 2 ^ 57
    let r : Req := { core := w.core, ctx := w.ctx, slot := 2, asid := w.asid, va := v, genidx := x.genidx, vpol := x.vpol,
                     blklog := x.blklog, level := w.level, prio := w.prio }
    if x.peer && w.key.isSome then
      match s.peerAsk w.core w.uid 2 w.key false (x.addr / 128) v with
      | (s, .line d _) => (s, if s.eccBad.contains (lineKey true (x.addr / 128)) then .fatal 24 va false else .ok d)
      | (s, .wait _) => (s, .wait)
      | (s, .fail) => (s, .fatal 25 va false)
    else
    match s.fetchReq r x with
    | (s, .line d _ _ _) => (s, .ok d)
    | (s, .no (.fatal c)) => (s, .fatal c va false)
    | (s, .no _) => (s, .wait)
  | (s, r) => (s, match r.outcome with | .fatal c => .fatal c va false | _ => .page va false)

/-- Read the lines of some bytes. -/
def State.engLines : List Nat → State → EngWho → List (Nat × LineData) → State × EngRes (List (Nat × LineData))
  | [], s, _, acc => (s, .ok acc)
  | va :: r, s, w, acc =>
    match s.engLine w va with
    | (s, .ok d) => State.engLines r s w (acc ++ [(va / 128, d)])
    | (s, .fatal c a wr) => (s, .fatal c a wr)
    | (s, .page a wr) => (s, .page a wr)
    | (s, .wait) => (s, .wait)

/-- Bytes of lines that have been read. -/
def bytesOf (ls : List (Nat × LineData)) (va n : Nat) : List Byte :=
  (List.range n).map (fun i =>
    match ls.find? (fun l => l.1 == (va + i) / 128) with
    | some l => byteOfLine l.2 ((va + i) % 128)
    | none => 0)

/-- Read n bytes from an address on. -/
def State.engRead (s : State) (w : EngWho) (va n : Nat) : State × EngRes (List Byte) :=
  match State.engLines (firstOfLines ((List.range n).map (fun i => va + i))) s w [] with
  | (s, .ok ls) => (s, .ok (bytesOf ls va n))
  | (s, .fatal c a wr) => (s, .fatal c a wr)
  | (s, .page a wr) => (s, .page a wr)
  | (s, .wait) => (s, .wait)

/-- The places of the lines of bytes to be written: virtual line, place of its first byte, with 2^62 added for an uncached page. -/
def State.engPlaces : List Nat → State → EngWho → List (Nat × Nat) → State × EngRes (List (Nat × Nat))
  | [], s, _, acc => (s, .ok acc)
  | va :: r, s, w, acc =>
    match s.translate (clusterOf w.core) w.asid (va64 va) .write with
    | (s, .ok x) => State.engPlaces r s w (acc ++ [(va / 128, x.tgt - va % 128 + (if x.cp = 2 then 2 ^ 62 else 0))])
    | (s, r) => (s, match r.outcome with | .fatal c => .fatal c va true | _ => .page va true)

/-- The place of a byte among the places of its lines. -/
def placeOf (ps : List (Nat × Nat)) (va : Nat) : Nat :=
  match ps.find? (fun p => p.1 == va / 128) with
  | some p => p.2 % 2 ^ 62 + va % 128
  | none => 0

/-- It lies on an uncached page (spec/14 R327). -/
def placeUnc (ps : List (Nat × Nat)) (va : Nat) : Bool := ps.any (fun p => p.1 == va / 128 && decide (2 ^ 62 ≤ p.2))

/-- The byte a place holds at the coherent caches; a peer's memory lies 2^60 above. -/
def State.tgtByte (s : State) (t : Nat) : Byte := s.byteAt (decide (2 ^ 60 ≤ t)) (t % 2 ^ 60)
def State.tgtNum (s : State) (t n : Nat) : Nat := s.numAt (decide (2 ^ 60 ≤ t)) (t % 2 ^ 60) n

/-- Write one line's bytes: a peer's line by a request of the engine's, which its home performs and acknowledges (spec/19 R435). -/
def State.engWriteLine (s : State) (w : EngWho) (cells : List SCell) (sent : Bool) : State :=
  match cells.head?, w.key with
  | some x, some _ =>
    if x.tgt < 2 ^ 60 then s.performWt w.core ⟨0, w.uid, w.asid, cells⟩
    else match s.routeOf x.tgt with
      | some p => s.sendWrite w.core w.uid w.key p x.va (cells.map (fun c => (c.tgt % 2 ^ 60, c.b))) sent
      | none => s
  | _, _ => s.performWt w.core ⟨0, w.uid, w.asid, cells⟩

/-- Write bytes at their places, line by line. -/
def State.engWrite (s : State) (w : EngWho) (ps : List (Nat × Nat)) (cells : List (Nat × Byte)) : State :=
  let cs := cells.map (fun c => (⟨c.1, placeOf ps c.1, c.2, placeUnc ps c.1⟩ : SCell))
  (dedup (cs.map (fun c => c.tgt / 128))).foldl (fun s k => s.engWriteLine w (cs.filter (fun c => c.tgt / 128 == k)) true) s

/-- An engine's writes to peers are not all acknowledged; the address of one that has failed (spec/19 R435, R436). -/
def State.engUnacked (s : State) (key : Nat) : Bool := s.peerReqs.any (fun r => r.op == some key && r.read.isNone && !r.bad)
def State.engLost (s : State) (key : Nat) : Option Nat := (s.peerReqs.find? (fun r => r.op == some key && r.bad)).map (fun r => r.va)

/-- Capture 16-byte units of what an engine reads, of a kind, that are not captured yet. -/
def State.capture (kind : Nat) : List Nat → State → EngWho → List (Nat × List Byte) → State × EngRes (List (Nat × List Byte))
  | [], s, _, ps => (s, .ok ps)
  | u :: r, s, w, ps =>
    if (partAt ps (3 * u + kind)).isSome then State.capture kind r s w ps else
    match s.engRead w (16 * u) 16 with
    | (s, .ok bs) => State.capture kind r s w (ps ++ [(3 * u + kind, bs)])
    | (s, .fatal c a wr) => (s, .fatal c a wr)
    | (s, .page a wr) => (s, .page a wr)
    | (s, .wait) => (s, .wait)

/-- The units of some bytes. -/
def unitsOf (as : List Nat) : List Nat := dedup (as.map (fun a => a / 16))

/-- The marks of units of a destination that are done. -/
def doneParts (us : List Nat) : List (Nat × List Byte) := us.map (fun u => (3 * u + 1, []))

/-- Watchpoints on an engine's accesses: a report, and a stop of the issuer's rope after them (spec/14 R346). -/
def State.watchEngine (s : State) (w : EngWho) (reads writes : List (Nat × Nat)) : State :=
  let a := s.watchRanges w.asid false true true reads
  let b := s.watchRanges w.asid true false true writes
  let hit : Option (Nat × Nat × Bool) := match a, b with
    | none, none => none
    | some x, none => some (x.1, x.2, false)
    | none, some y => some (y.1, y.2, true)
    | some x, some y => if x.1 < y.1 then some (x.1, x.2, false) else some (y.1, y.2, true)
  match hit with
  | none => s
  | some (va, n, wr) =>
    let clk := (s.core w.core).clk
    let s := s.report 3 0 w.asid (va64 va) w.ffirst 0 (4 + (if wr then 1 else 0)) (s.engStamp w) clk
    match s.issuer w with
    | none => s
    | some g =>
      let cl := clusterOf w.core
      if s.stopsOn cl w.asid && (s.cluster cl).dbgctl.getLsbD 2 then
        match s.ropeOf g.wg with
        | none => s
        | some (r, _) => s.beginStop r ⟨4, n, s.wgIndex g.wg, g.grpid, 2, w.ffirst, va64 va, clk, false, 0, 0⟩
      else s

/-- A fatal fault of an operation ends its launch (spec/10 R257); its flags in the report are WRITE, ENGINE and WALK. -/
def State.engineFault (s : State) (c : Nat) (o : Op) (cause va : Nat) (write : Bool) : State :=
  let s' := (s.dropOp c o.id).countNest (cause % 256)
  match s.wgs.look o.wg with
  | none => s'
  | some w =>
    let flags := 4 + (if write then 1 else 0) + (if 256 ≤ cause then 8 else 0)
    s'.endLaunch w.launch 9 (cause % 256) (va64 va) o.ffirst flags (s.engStamp (s.who c o)) (s.core c).clk

/-- An operation's accesses came to this: go on, wait for the page fault, wait, or end the launch. -/
def State.engDone {α : Type} (s : State) (c : Nat) (o : Op) (r : EngRes α) (go : State → α → State) : State :=
  match r with
  | .ok x => go s x
  | .fatal cause va wr => s.engineFault c o cause va wr
  | .page va wr =>
    let w := s.who c o
    let x := s.raiseFault o.asid (va64 va) (if wr then .write else .read) true o.ffirst (s.engStamp w) (s.core c).clk
    x.1.setOp c { o with held := some (x.2, va) }
  | .wait => s

/-- The fork edge: every store, atomic and scratchpad store of the group from before the operation has left its queue, into the L2
if it is a global one, and so have the core's that left their queues before them (spec/10 R256, spec/13 R305, R311). -/
def State.forked (s : State) (c : Nat) (o : Op) : Bool :=
  !((s.core c).sq.any (fun q => q.uid == o.uid && decide (q.id < o.id))) && !((s.core c).wt.any (fun w => decide (w.id < o.id)))

/-- An operation may go on: no page fault holds it, and its fork edge is past. -/
def State.engReady (s : State) (c : Nat) (o : Op) : Bool := o.held.isNone && s.forked c o

/-- Operations of an engine are served one at a time in issue order, and those of one clk in ascending partition order
(spec/09 R247, spec/10 R277): the oldest of its kind, once the clk of its issue is past. -/
def State.oldestOp (s : State) (c : Nat) (p : What → Bool) : Option Op :=
  ((s.core c).ops.filter (fun o => p o.what && decide (o.clk < (s.core c).clk))).foldl (fun b o =>
    match b with
    | none => some o
    | some x => if o.clk < x.clk ∨ (o.clk = x.clk ∧ partOf o.ctx < partOf x.ctx) then some o else b) none

/-- The launched lanes of the slot allow an engine instruction to have its effect (spec/10 R255). -/
def Env.leads (e : Env) (h : Hdr) : Bool := e.lead h && e.hasLaunched

end Sys2Proof.Machine
end

