-- ==== Sys2Proof/Machine/Copy.lean ====
section
/-! DEFINITION. Tensor layout records and the tensor copies (spec/10 R258-R264). -/

namespace Sys2Proof.Machine

/-! Layout records (spec/10 R258, R259) -/

def u32At (x off : Nat) : Nat := bits x (8 * off) 32

/-- The fields of a record, from its 64 bytes as a number. -/
def Layout.ofNat (x : Nat) : Layout :=
  { base := bits x 0 64, fmt := bits x 64 8, rank := bits x 72 8, fill := bits x 80 8, swz := bits x 88 8, index := x.testBit 96,
    dims := (List.range 5).map (fun i => u32At x (0x10 + 4 * i)), strides := (List.range 4).map (fun i => u32At x (0x28 + 4 * i)),
    fillv := u32At x 0x38 }

def Layout.format (r : Layout) : Fmt := (Fmt.ofCode (BitVec.ofNat 5 r.fmt)).getD .int8

/-- A format that has no NaN (spec/10 R259). -/
def Fmt.noNan (f : Fmt) : Bool :=
  f.intRange?.isSome || f == .e2m1 || f == .e3m2 || f == .e2m3 || f == .cb16

/-- The first check of R259 a record fails. -/
def recordCause (x : Nat) : Option Nat :=
  let r := Layout.ofNat x
  if 0x16 ≤ r.fmt ∧ r.fmt < 0x20 then some 5
  else if 0x20 ≤ r.fmt ∨ r.fmt = 0x11 ∨ r.rank = 0 ∨ 5 < r.rank ∨ 2 < r.fill ∨ (r.fill = 1 ∧ r.format.noNan) ∨ 3 < r.swz
    ∨ bits x 97 31 ≠ 0 ∨ r.base % 16 ≠ 0 then some 4
  else none

/-- Nibbles of an element. -/
def Layout.ebn (r : Layout) : Nat := r.format.bits / 4

/-- The nibble address of the element with these coordinates, modulo 2^64 bytes. -/
def Layout.place (r : Layout) (x : List Int) : Nat :=
  let far : Int := ((x.drop 1).zip (r.strides.take (r.rank - 1))).foldl (fun a y => a + y.1 * y.2) 0
  (((2 * r.base + 32 * far + r.ebn * x.headD 0 : Int)) % (2 ^ 65 : Int)).toNat

/-- The coordinates lie inside the tensor. -/
def Layout.inside (r : Layout) (x : List Int) : Bool :=
  ((x.zip r.dims).take r.rank).all (fun y => decide (0 ≤ y.1) && decide (y.1 < y.2))

/-- The pattern of an element outside the tensor. -/
def Layout.fillValue (r : Layout) : Nat :=
  match r.fill with
  | 0 => 0
  | 1 => match r.format with
    | .e8m0 => 0xFF
    | .c16 => FFmt.fp16.nanCode * 65537
    | .cbf => FFmt.bf16.nanCode * 65537
    | .c32 => FFmt.fp32.nanCode * (2 ^ 32 + 1)
    | f => match f.ffmt? with | some g => g.nanCode | none => 0
  | _ => r.fillv % 2 ^ r.format.bits

/-- An element as the device writes it: the top two bits of a 6-bit element's byte are zero (spec/01 R11). -/
def Layout.stored (r : Layout) (v : Nat) : Nat := if r.format = .e3m2 ∨ r.format = .e2m3 then v % 64 else v

/-- A unit of a record as it was read first, or as it stands. -/
def Slot.unitRead (sl : Slot) (u now : Nat) : Nat := ((sl.got.find? (fun x => x.1 == u)).map (fun x => x.2)).getD now

/-- The four units of a record at va, and the record they make, from the bytes that stand there now. -/
def Slot.recordUnits (sl : Slot) (va : DWord) (bs : List Byte) : List (Nat × Nat) :=
  (List.range 4).map (fun i => (va.toNat / 16 + i, sl.unitRead (va.toNat / 16 + i) (leNat ((bs.drop (16 * i)).take 16))))

def Slot.recordNum (sl : Slot) (va : DWord) (bs : List Byte) : Nat := (sl.recordUnits va bs).foldr (fun y a => y.2 + 2 ^ 128 * a) 0

/-- This attempt reads one unit of the record at va, and no more. -/
def Slot.readFirst (sl : Slot) (va : DWord) : Bool :=
  match sl.readNext with
  | none => false
  | some u => u / 4 == va.toNat / 64

/-- The unit that was to be read is kept, and the instruction tries again for the rest. -/
def State.keepUnit (s : State) (e : Env) (units : List (Nat × Nat)) : State :=
  (s.hold e).modSlot e.core e.ctx e.n (fun sl =>
    { sl with readNext := none, got := sl.got ++ units.filter (fun x => sl.readNext == some x.1 && !sl.got.any (fun y => y.1 == x.1)) })

/-- Read and check a record at issue, as one lane, after the group's earlier stores have been performed at the L2. Any aligned unit of
16 bytes may be read in an attempt before the one that reads the rest (spec/13 R304; log 42). -/
def State.getRecord (s : State) (e : Env) (f : Option Nat) (va : DWord) (go : State → Layout → State) : State :=
  if !s.drained e 3 then s.hold e else
  let r := s.l2Read e va 64
  r.1.oneLane e f r.2 va .read (fun s bs =>
    if e.sl.readFirst va then s.keepUnit e (e.sl.recordUnits va bs) else
    let x := e.sl.recordNum va bs
    match recordCause x with
    | some c => s.trapAt e c e.sl.mask e.sl.pc true
    | none => go s (Layout.ofNat x))

/-! Boxes (spec/10 R260, R261) -/

/-- The eight words of a box descriptor. -/
def Env.boxWords (e : Env) (n : Nat) : List Word := (List.range 8).map (fun i => e.sreg (n + i))

def boxCoords (ws : List Word) : List Int := (ws.take 5).map BitVec.toInt
def boxExtents (ws : List Word) : List Nat :=
  ((ws.drop 5).flatMap (fun w => [w.toNat % 65536, w.toNat / 65536])).take 5

/-- Elements of a box. -/
def boxCount (box : List Nat) : Nat := box.foldl (· * ·) 1

/-- The extents break a rule of R260 for a record. -/
def boxBad (r : Layout) (ws : List Word) : Bool :=
  let box := boxExtents ws
  ((ws[7]?).getD 0).toNat / 65536 != 0 || (box.headD 0 * r.ebn) % 32 != 0 ||
  (box.zipIdx).any (fun x => if x.2 < r.rank then x.1 == 0 || decide (256 < x.1) else x.1 != 1)

/-- The coordinates of a box, dimension 0 fastest. -/
def boxElems : List Nat → List (List Nat)
  | [] => [[]]
  | n :: r => (boxElems r).flatMap (fun t => (List.range n).map (fun i => i :: t))

/-- Bytes of one box. -/
def CopyOp.boxBytes (k : CopyOp) : Nat := boxCount k.box * k.data.ebn / 2

/-- Entries: one, or the E of a TCOPYX. -/
def CopyOp.entries (k : CopyOp) : Nat := if k.kind = 2 then ((k.coord[1]?).getD 0).toNat else 1

/-- Bytes of the whole copy, which are its credit. -/
def CopyOp.size (k : CopyOp) : Nat := k.entries * k.boxBytes

/-! Issue (spec/10 R262-R264) -/

/-- R264's conditions on the two records and the descriptor. -/
def indirectBad (i d : Layout) (ws : List Word) : Bool :=
  let c := boxCoords ws
  let n := c.getD 1 0
  !i.index || i.fmt != 4 || i.rank != 2 || i.dims.headD 0 != d.rank || d.index || decide (n < 1) || decide (256 < n)
    || (c.drop 2).any (· != 0)

/-- The formats TCOPYR adds in. -/
def Layout.adds (r : Layout) : Bool := [8, 9, 10, 4, 5].contains r.fmt

/-- The checks that follow the records, and the copy's operation. That the barrier object's address is checked after the record, the
box and dst is the model's choice (log 81). -/
def State.startCopy (s : State) (e : Env) (h : Hdr) (tok : Nat) (k : CopyOp) (ws : List Word) (barA : Option Nat) : State :=
  let bad := boxBad k.data ws || (k.data.ebn == 1 && k.kind != 2 && (k.coord.headD 0) % 2 != 0) ||
    (k.kind == 3 && !k.data.adds) || (match k.index with | some i => indirectBad i k.data ws | none => false)
  let at' (c : Nat) (a : Nat) : State := s.trapAt e c e.sl.mask (BitVec.ofNat 64 a) true
  if bad then s.trapAt e 4 e.sl.mask e.sl.pc true
  else if k.dst % (if k.data.swz = 0 then 16 else 128) ≠ 0 then at' 9 k.dst
  else if (s.window e.g.wg k.dst k.size).isNone then at' 8 k.dst
  else
    let go (bar : Option Nat) : State :=
      (s.start e { e.op s (some (4 + tok)) (.copy { k with bar := bar }) with sample := none }).retire e h
    match barA with
    | none => go none
    | some a => match s.objPlace e a with
      | .inr c => at' c a
      | .inl t => go (some t)

def isCopy : What → Bool
  | .copy _ => true
  | _ => false

/-- The checks of tensorCopy. -/
def tensorCopyChk (tok : BitVec 3) (bar : Bool) (d a b c : Opd) (e : Env) : Chk :=
  { opd := e.badS1 d || e.badU true (.opd a) || (bar && e.badS1 c) ||
        (match b with | .s n => n.val % 8 != 0 || decide (e.g.sAlloc < n.val + 8) | _ => true),
      ninth := if e.k.flags.testBit 1 ∧ (e.g.role = 2 ∨ e.g.role = 3) then some 15 else none,
      tok := some (4 + tok.toNat),
      reads := d.regs false ++ a.regs true ++ (if bar then c.regs false else []) ++
        (match b with | .s n => (List.range 8).map (fun i => (.s, n.val + i)) | _ => []) }

/-- A tensor copy: kind 0 TCOPY, 1 TCOPYS, 2 TCOPYX, 3 TCOPYR. -/
def tensorCopy (kind : Nat) (h : Hdr) (tok : BitVec 3) (bar : Bool) (d a b c : Opd) (off : BitVec 23) : State → Out :=
  issue h (tensorCopyChk tok bar d a b c) (fun e s =>
    if !e.leads h then s.retire e h
    else if e.siblingPends || decide (32 ≤ ((s.core e.core).ops.filter (fun o => isCopy o.what)).length) then s.hold e
    else
      let va := e.wide .i64 a 0
      let ws := match b with | .s n => e.boxWords n.val | _ => []
      let dst := (e.word d 0 + off.signExtend 32).toNat
      let barA := if bar then some (e.word c 0).toNat else none
      let k (r : Layout) (i : Option Layout) : CopyOp := ⟨kind, r, i, boxExtents ws, boxCoords ws, dst, none⟩
      if va.toNat % 64 ≠ 0 then s.trapAt e 9 e.sl.mask va true
      else s.getRecord e (some (4 + tok.toNat)) va (fun s r =>
        if kind = 2 then s.getRecord e (some (4 + tok.toNat)) (va + 64) (fun s r2 => s.startCopy e h tok.toNat (k r2 (some r)) ws barA)
        else s.startCopy e h tok.toNat (k r none) ws barA))

def execTcopy (h : Hdr) (tok : BitVec 3) (bar : Bool) (d a b c : Opd) (off : BitVec 23) : State → Out :=
  tensorCopy 0 h tok bar d a b c off
def execTcopys (h : Hdr) (tok : BitVec 3) (bar : Bool) (d a b c : Opd) (off : BitVec 23) : State → Out :=
  tensorCopy 1 h tok bar d a b c off
def execTcopyx (h : Hdr) (tok : BitVec 3) (bar : Bool) (d a b c : Opd) (off : BitVec 23) : State → Out :=
  tensorCopy 2 h tok bar d a b c off
def execTcopyr (h : Hdr) (tok : BitVec 3) (bar : Bool) (d a b c : Opd) (off : BitVec 23) : State → Out :=
  tensorCopy 3 h tok bar d a b c off

/-! Completion (spec/10 R263, R264) -/

/-- Two nibbles of one byte make the byte; a nibble alone keeps the other one of the byte as it stands. -/
def nibCells (old : Nat → Byte) : List (Nat × Nat) → List (Nat × Byte)
  | [] => []
  | [x] => [(x.1 / 2, half old x)]
  | x :: y :: r =>
    if x.1 % 2 = 0 ∧ y.1 = x.1 + 1 then (x.1 / 2, BitVec.ofNat 8 (x.2 % 16 + 16 * y.2)) :: nibCells old r
    else (x.1 / 2, half old x) :: nibCells old (y :: r)
where
  half (old : Nat → Byte) (x : Nat × Nat) : Byte :=
    let b := (old (x.1 / 2)).toNat
    BitVec.ofNat 8 (if x.1 % 2 = 0 then b / 16 * 16 + x.2 % 16 else b % 16 + 16 * x.2)

/-- Elements at nibble addresses as byte cells. -/
def Layout.cells (r : Layout) (old : Nat → Byte) (es : List (Nat × Nat)) : List (Nat × Byte) :=
  if r.ebn = 1 then nibCells old es else es.flatMap (fun x => cellsFrom (x.1 / 2) (leBytes (r.ebn / 2) x.2))

/-- An element from bytes. -/
def Layout.elem (r : Layout) (byte : Nat → Byte) (nib : Nat) : Nat :=
  if r.ebn = 1 then (byte (nib / 2)).toNat / (if nib % 2 = 0 then 1 else 16) % 16
  else leNat ((List.range (r.ebn / 2)).map (fun i => byte (nib / 2 + i)))

/-- The scratchpad place, as a nibble address of an array, of element k of a copy whose box begins at array byte t. -/
def CopyOp.scratchNib (k : CopyOp) (t n : Nat) : Nat :=
  let a := k.dst + n * k.data.ebn / 2
  2 * (t + swizzle k.data.swz a - k.dst) + (if k.data.ebn = 1 then n % 2 else 0)

/-- Every element of a copy with its number and, when it is inside, its global nibble address. -/
def CopyOp.elems (k : CopyOp) (starts : List (Option (List Int))) : List (Nat × Option Nat) :=
  let es := boxElems k.box
  ((starts.flatMap (fun st => es.map (fun b =>
    match st with
    | none => none
    | some st =>
      let x := (st.zip b).map (fun y => y.1 + (y.2 : Int))
      if k.data.inside x then some (k.data.place x) else none))).zipIdx).map (fun x => (x.2, x.1))

/-- The rows of the index tensor a TCOPYX reads. -/
def CopyOp.rows (k : CopyOp) : List Int := (List.range k.entries).map (fun (j : Nat) => k.coord.headD 0 + (j : Int))

/-- The row lies inside the index tensor. -/
def Layout.hasRow (i : Layout) (row : Int) : Bool := decide (0 ≤ row) && decide (row < (((i.dims[1]?).getD 0 : Nat) : Int))

/-- The address of element d of a row of the index tensor. -/
def Layout.rowAt (i : Layout) (row : Int) (d : Nat) : Nat := i.place [(d : Int), row] / 2

/-- The 16-byte units of the index rows a copy reads. -/
def CopyOp.indexUnits (k : CopyOp) (i : Layout) : List Nat :=
  unitsOf ((k.rows.filter i.hasRow).flatMap (fun row => (List.range k.data.rank).map (i.rowAt row)))

/-- The start coordinates of each entry: the descriptor's, or the rows of the index tensor, read as data; with what is captured then. -/
def State.copyStarts (s : State) (w : EngWho) (ps : List (Nat × List Byte)) (k : CopyOp) :
    State × EngRes (List (Nat × List Byte) × List (Option (List Int))) :=
  match k.index with
  | none => (s, .ok (ps, [some k.coord]))
  | some i =>
    match State.capture 2 (k.indexUnits i) s w ps with
    | (s, .ok ps) =>
      let coord (row : Int) (d : Nat) : Int :=
        if d < k.data.rank then (BitVec.ofNat 32 (leNat ((List.range 4).map (fun b => partByte ps 2 (i.rowAt row d + b))))).toInt else 0
      (s, .ok (ps, k.rows.map (fun row => if i.hasRow row then some ((List.range 5).map (coord row)) else none)))
    | (s, .fatal c a wr) => (s, .fatal c a wr)
    | (s, .page a wr) => (s, .page a wr)
    | (s, .wait) => (s, .wait)

/-- TCOPYR's add at the home (spec/10 R263). -/
def Layout.addElem (r : Layout) (a b : Nat) : Nat :=
  match r.format.ffmt? with
  | some f => addRne f a b
  | none => (a + b) % 2 ^ 32

/-- The part of a copy an element goes with: the 16-byte unit of its destination, or, of TCOPYR, its own number; an element that goes
nowhere has none (spec/10 R263). -/
def CopyOp.unit (k : CopyOp) (t : Nat) (y : Nat × Option Nat) : Option Nat :=
  match k.kind with
  | 0 => some (k.scratchNib t y.1 / 32)
  | 1 => y.2.map (fun p => p / 32)
  | 2 => some (k.scratchNib t y.1 / 32)
  | _ => y.2.map (fun _ => y.1)

/-- The global bytes of a copy's elements that lie inside: address and length. -/
def CopyOp.ranges (k : CopyOp) (starts : List (Option (List Int))) : List (Nat × Nat) :=
  (k.elems starts).filterMap (fun x => x.2.map (fun p => (p / 2, (k.data.ebn + 1) / 2)))

/-- Move the parts of a copy that are picked and not yet done: global to scratchpad, or back. -/
def State.moveCopy (s : State) (c : Nat) (o : Op) (k : CopyOp) (t : Nat) (starts : List (Option (List Int)))
    (ps : List (Nat × List Byte)) (pick : Nat → Bool) (fin : State → Op → State) : State :=
  let w := s.who c o
  let r := k.data
  let es := (k.elems starts).filter (fun y => match k.unit t y with
    | some d => pick d && (partAt ps (3 * d + 1)).isNone
    | none => false)
  let marks := doneParts (dedup (es.filterMap (k.unit t)))
  let inside := es.filterMap (fun x => x.2.map (fun p => (x.1, p)))
  if k.kind = 0 ∨ k.kind = 2 then
    let x := State.capture 0 (unitsOf (inside.map (fun x => x.2 / 2))) s w ps
    x.1.engDone c o x.2 (fun s ps =>
      let vals := es.map (fun y => (k.scratchNib t y.1, r.stored (match y.2 with
        | some p => r.elem (partByte ps 0) p
        | none => r.fillValue)))
      fin (s.scrWrite (r.cells s.scrByte vals)) { o with parts := ps ++ marks })
  else
    let ps := (unitsOf (inside.map (fun x => k.scratchNib t x.1 / 2))).foldl (fun ps u => s.takePart ps u) ps
    let vals := inside.map (fun y => (y.2, r.stored (r.elem (partByte ps 0) (k.scratchNib t y.1))))
    let x := State.engPlaces (firstOfLines (inside.map (fun x => x.2 / 2))) s w []
    x.1.engDone c o x.2 (fun s pl =>
      let s := if k.kind = 1 then s.engWrite w pl (r.cells (fun a => s.tgtByte (placeOf pl a)) vals)
        else vals.foldl (fun s y =>
          let p := placeOf pl (y.1 / 2)
          let v := r.addElem (s.tgtNum p (r.ebn / 2)) y.2
          let cs := (cellsFrom p (leBytes (r.ebn / 2) v)).map (fun b => (⟨b.1, b.1, b.2, placeUnc pl (y.1 / 2)⟩ : SCell))
          let s := s.performWt c ⟨0, w.uid, w.asid, cs⟩
          if p < 2 ^ 60 then s else s.engWriteLine w cs false) s
      fin s { o with parts := ps ++ marks })

/-- Run a copy's picked parts. -/
def State.copyRun (s : State) (c : Nat) (o : Op) (k : CopyOp) (pick : Nat → Bool)
    (fin : State → Op → List (Option (List Int)) → State) : State :=
  if !s.engReady c o then s else
  match s.engLost (opKey o.id) with
  | some va => s.engineFault c o 25 va (k.kind == 1 || k.kind == 3)
  | none =>
  match s.window o.wg k.dst k.size with
  | none => s.dropOp c o.id
  | some t =>
    let x := s.copyStarts (s.who c o) o.parts k
    x.1.engDone c o x.2 (fun s y => s.moveCopy c o k t y.2 y.1 pick (fun s o => fin s o y.2))

/-- COPY_COMPLETE: the copy moves the rest of its box, and, once peers have acknowledged its writes to them, credits its barrier object
and releases its token. -/
def State.copyComplete (s : State) (c : Nat) (o : Op) (k : CopyOp) : State :=
  s.copyRun c o k (fun _ => true) (fun s o starts =>
    if s.engUnacked (opKey o.id) then s.setOp c o else
    let w := s.who c o
    let s := if k.kind = 0 ∨ k.kind = 2 then s.watchEngine w (k.ranges starts) [] else s.watchEngine w [] (k.ranges starts)
    let s := match k.bar with | some b => s.objEvent b (.credit k.size) | none => s
    s.complete c o)

/-- A part of a copy goes first: a unit of its index or its source is read, or a unit of its destination moved (spec/13 R304). -/
def State.copyPart (s : State) (c : Nat) (o : Op) (k : CopyOp) (p : Nat) : State :=
  if p % 3 = 1 then s.copyRun c o k (fun d => d == p / 3) (fun s o _ => s.setOp c o)
  else if p % 3 = 2 then
    match k.index with
    | none => s
    | some i =>
      if !s.engReady c o || !(k.indexUnits i).contains (p / 3) then s else
      let x := State.capture 2 [p / 3] s (s.who c o) o.parts
      x.1.engDone c o x.2 (fun s ps => s.setOp c { o with parts := ps })
  else s.copyRun c o k (fun _ => false) (fun s o starts =>
    match s.window o.wg k.dst k.size with
    | none => s
    | some t =>
      let es := k.elems starts
      if k.kind = 0 ∨ k.kind = 2 then
        if es.any (fun y => match y.2 with | some a => a / 32 == p / 3 | none => false) then
          let x := State.capture 0 [p / 3] s (s.who c o) o.parts
          x.1.engDone c o x.2 (fun s ps => s.setOp c { o with parts := ps })
        else s
      else if es.any (fun y => k.scratchNib t y.1 / 32 == p / 3) then s.setOp c { o with parts := s.takePart o.parts (p / 3) }
      else s)

def execCopyComplete (core id : Nat) (s : State) : Out :=
  match s.findOp core id with
  | some o => match o.what with
    | .copy k => finish (s.copyComplete core o k)
    | _ => .next s
  | none => .next s

end Sys2Proof.Machine
end

