-- ==== Sys2Proof/Machine/Async.lean ====
section
/-! DEFINITION. Bulk channels, stream decode, top-k, the bobbin program and its queues (spec/10 R265-R267, R272-R277;
spec/07 R204). -/

namespace Sys2Proof.Machine

section
variable (h : Hdr)

/-! Bulk channels -/

/-- The checks of execChain. -/
def chkChain (tok : BitVec 3) (a : Opd) (e : Env) : Chk :=
  { opd := e.badU true (.opd a), tok := some (4 + tok.toNat), reads := a.regs true }

def execChain (tok : BitVec 3) (ch : BitVec 4) (a : Opd) : State → Out :=
  issue h (chkChain tok a) (fun e s =>
    if !e.leads h then s.retire e h
    else if e.siblingPends then s.hold e
    else (s.start e (e.op s (some (4 + tok.toNat)) (.chain ch.toNat (e.wide .i64 a 0).toNat))).retire e h)

def State.chan (s : State) (ch : Nat) : Chan := s.chans.lookD Chan.reset ch
def State.setChan (s : State) (ch : Nat) (k : Chan) : State := { s with chans := s.chans.put ch k }

/-- The checks of execChstat. -/
def chkChstat (d : Opd) (e : Env) : Chk :=
  { opd := e.badS 1 d }

def execChstat (ch : BitVec 4) (d : Opd) : State → Out :=
  issue h (chkChstat d) (fun e s =>
    if !e.lead h then s.retire e h else
    let k := s.chan ch.toNat
    let v := (if k.running then 1 else 0) + (if k.err then 2 else 0) + 256 * k.cause
    (s.dataWrite e h (sWrites d false (BitVec.ofNat 64 v))).retire e h)

/-! Stream decode (spec/10 R272, R273) -/

/-- Registers a block takes. -/
def regsPerBlock (width : Nat) : Nat := 64 / width

/-- The checks of decodeIssue. -/
def decodeIssueChk (tok : BitVec 3) (d a c : Opd) (nb : BitVec 4) (e : Env) : Chk :=
  { opd := e.badS1 a || e.badS 1 c || (match d with
        | .v r => decide (e.g.vAlloc < r.val + (nb.toNat + 1) * regsPerBlock e.g.width)
        | _ => true),
      bob := true, tok := some (4 + tok.toNat), reads := a.regs false ++ c.regs false }

def decodeIssue (form : Nat) (tok : BitVec 3) (sg : Bool) (d a c : Opd) (nb : BitVec 4) : State → Out :=
  issue h (decodeIssueChk tok d a c nb) (fun e s =>
    if !e.lead h then s.retire e h
    else if e.siblingPends then s.hold e else
    let dst := match d with | .v r => r.val | _ => 0
    let cr := match c with | .s r => r.val | _ => 0
    let o0 := e.op s (some (4 + tok.toNat))
      (.decode form sg (nb.toNat + 1) (e.word a 0).toNat (e.word c 0).toNat dst cr e.sl.mask h.stall.toNat)
    let regs := (List.range ((nb.toNat + 1) * regsPerBlock e.g.width)).map (fun i => ((.v, dst + i, e.sl.mask) : RegCls × Nat × DWord))
    let o := { o0 with fpsr := form == 2, dests := regs ++ [(.s, cr, e.sl.mask)] }
    (({ s with serial := s.serial + 1 }.start e o).count e.core 0 1).hold e (.decode o.id))

def execDecwBit (tok : BitVec 3) (sg : Bool) (d a c : Opd) (nb : BitVec 4) : State → Out := decodeIssue h 0 tok sg d a c nb
def execDecwDlt (tok : BitVec 3) (sg : Bool) (d a c : Opd) (nb : BitVec 4) : State → Out := decodeIssue h 1 tok sg d a c nb
def execDecwRle (tok : BitVec 3) (sg : Bool) (d a c : Opd) (nb : BitVec 4) : State → Out := decodeIssue h 2 tok sg d a c nb
end

/-- A stream being read: the next bit, or the window address that failed. -/
structure Stream where
  pos : Nat
  bad : Option Nat
  deriving DecidableEq, Repr

/-- Read n bits of a workgroup's scratchpad stream, of which some units may have been captured before. -/
def State.streamBits (s : State) (ps : List (Nat × List Byte)) (wg addr n : Nat) (t : Stream) : Nat × Stream :=
  (List.range n).foldl (fun (x : Nat × Stream) i =>
    let a := addr + (t.pos + i) / 8
    match s.window wg a 1 with
    | none => (x.1, { x.2 with bad := some (x.2.bad.getD a), pos := x.2.pos + 1 })
    | some p => (x.1 + (if (s.opByte ps p).getLsbD ((t.pos + i) % 8) then 2 ^ i else 0), { x.2 with pos := x.2.pos + 1 })) (0, t)

/-- A w-bit value of a stream, extended. -/
def extend (sg : Bool) (w x : Nat) : Word :=
  if sg ∧ 0 < w ∧ 2 ^ (w - 1) ≤ x then BitVec.ofInt 32 ((x : Int) - 2 ^ w) else BitVec.ofNat 32 x

/-- n values of w bits. -/
def State.streamValues (s : State) (ps : List (Nat × List Byte)) (wg addr w : Nat) : Nat → Stream → List Nat × Stream
  | 0, t => ([], t)
  | n + 1, t =>
    let x := s.streamBits ps wg addr w t
    let r := s.streamValues ps wg addr w n x.2
    (x.1 :: r.1, r.2)

/-- Run-length pairs until 64 values; true when a pair was cut. -/
def State.streamRuns (s : State) (ps : List (Nat × List Byte)) (wg addr w : Nat) (sg : Bool) : Nat → List Word → Stream → List Word × Bool × Stream
  | 0, vs, t => (vs, false, t)
  | fuel + 1, vs, t =>
    if 64 ≤ vs.length then (vs.take 64, decide (64 < vs.length), t) else
    let n := s.streamBits ps wg addr 6 t
    let v := s.streamBits ps wg addr w n.2
    s.streamRuns ps wg addr w sg fuel (vs ++ List.replicate (n.1 + 1) (extend sg w v.1)) v.2

def unzig (z : Nat) : Word := BitVec.ofNat 32 (z / 2) ^^^ (if z % 2 = 1 then 0xFFFFFFFF else 0)

/-- Running sums from a first value. -/
def sums : Word → List Nat → List Word
  | v, [] => [v]
  | v, z :: r => v :: sums (v + unzig z) r

/-- One block: its 64 values, whether a pair was cut, and the stream after it. -/
def State.streamBlock (s : State) (ps : List (Nat × List Byte)) (wg addr form : Nat) (sg : Bool) (t : Stream) : List Word × Bool × Stream :=
  match form with
  | 0 =>
    let w := s.streamBits ps wg addr 5 t
    let v := s.streamValues ps wg addr w.1 64 w.2
    (v.1.map (extend sg w.1), false, v.2)
  | 1 =>
    let v0 := s.streamBits ps wg addr 32 t
    let w := s.streamBits ps wg addr 5 v0.2
    let v := s.streamValues ps wg addr w.1 63 w.2
    (sums (BitVec.ofNat 32 v0.1) v.1, false, v.2)
  | _ =>
    let w := s.streamBits ps wg addr 5 t
    s.streamRuns ps wg addr w.1 sg 65 [] w.2

/-- Blocks one after another. -/
def State.streamBlocks (s : State) (ps : List (Nat × List Byte)) (wg addr form : Nat) (sg : Bool) : Nat → Stream → List (List Word) × Bool × Stream
  | 0, t => ([], false, t)
  | n + 1, t =>
    let b := s.streamBlock ps wg addr form sg t
    let r := s.streamBlocks ps wg addr form sg n b.2.2
    (b.1 :: r.1, b.2.1 || r.2.1, r.2.2)

/-- Register writes of decoded blocks, in the lanes of the slot's mask. -/
def decodeWrites (width dst : Nat) (lanes : DWord) (blocks : List (List Word)) : List RegWrite :=
  (blocks.zipIdx).flatMap (fun b => (b.1.zipIdx).filterMap (fun v =>
    let lane := v.2 % width
    if lanes.getLsbD lane then some ⟨.v, dst + b.2 * regsPerBlock width + v.2 / width, lane, v.1⟩ else none))

/-- DECODE_COMPLETE: the decoder reads the oldest operation's stream. Its slot goes on, or takes PROT_FAULT; the registers are
written at any later time. -/
def State.decodeComplete (s : State) (c : Nat) (o : Op) : State :=
  if !s.engReady c o then s else
  match o.what, s.opGroup c o with
  | .decode form sg nb addr bit dst cr lanes stall, some g =>
    let r := s.streamBlocks o.parts g.wg addr form sg nb ⟨bit, none⟩
    match r.2.2.bad with
    | some a =>
      ((s.dropOp c o.id).modGroup c o.ctx (fun g => g.flagDown o.flag)).trapSlot c o.ctx o.slot 8 3 lanes (va64 a) o.ffirst
    | none =>
      let ws := decodeWrites g.width dst lanes r.1 ++ [⟨.s, cr, 0, BitVec.ofNat 32 r.2.2.pos⟩]
      let s := s.setOp c { o with what := .data, writes := ws, fl := if r.2.1 then Flg.fmt else 0, dests := [] }
      match s.envAt c o.ctx o.slot 3 with
      | none => s
      | some e => s.goOn e stall
  | _, _ => s.dropOp c o.id

def isDecode : What → Bool
  | .decode _ _ _ _ _ _ _ _ _ => true
  | _ => false

def execDecodeComplete (core : Nat) (s : State) : Out :=
  match s.oldestOp core isDecode with
  | some o => finish (s.decodeComplete core o)
  | none => .next s

/-! Top-k (spec/10 R274) -/

section
variable (h : Hdr)

/-- A window range at issue: MISALIGN, then PROT_FAULT. -/
def State.rangeCause (s : State) (e : Env) (a n align : Nat) : Option Nat :=
  if a % align ≠ 0 then some 9 else if (s.window e.g.wg a n).isNone then some 8 else none

/-- The checks of execTopk. -/
def chkTopk (tok : BitVec 3) (n : BitVec 4) (a : Opd) (b : SrcB) (c : Opd) (e : Env) : Chk :=
    let k := e.sval b
    { opd := e.badS1 a || e.badU false b || e.badS1 c || (e.leads h && (k == 0 || decide (64 * (n.toNat + 1) < k))),
      tok := some (4 + tok.toNat), reads := a.regs false ++ b.regs false ++ c.regs false }

/-- TOPK: that its input's address is checked before its output's is the model's choice (log 83). -/
def execTopk (tok : BitVec 3) (n : BitVec 4) (slot : BitVec 2) (res : Bool) (a : Opd) (b : SrcB) (c : Opd) : State → Out :=
  issue h (chkTopk h tok n a b c) (fun e s =>
    if !e.leads h then s.retire e h else
    let m := 64 * (n.toNat + 1)
    let inp := (e.word a 0).toNat
    let out := (e.word c 0).toNat
    match s.rangeCause e inp (4 * m) 8, s.rangeCause e out (8 * e.sval b) 8 with
    | some x, _ => s.trapAt e x e.sl.mask (va64 inp)
    | none, some x => s.trapAt e x e.sl.mask (va64 out)
    | none, none =>
      if e.siblingPends then s.hold e else
      (s.start e (e.op s (some (4 + tok.toNat)) (.topk inp (e.sval b) m slot.toNat res out))).retire e h)

/-- The checks of execResid. -/
def chkResid (tok : BitVec 3) (a : Opd) (b : SrcB) (e : Env) : Chk :=
    let n := e.sval b
    { opd := e.badS1 a || e.badU false b || (e.leads h && (n % 64 != 0 || n == 0 || decide (1024 < n))),
      tok := some (4 + tok.toNat), reads := a.regs false ++ b.regs false }

def execResid (tok : BitVec 3) (flush : Bool) (slot : BitVec 2) (a : Opd) (b : SrcB) : State → Out :=
  issue h (chkResid h tok a b) (fun e s =>
    if !e.leads h then s.retire e h else
    let adr := (e.word a 0).toNat
    match s.rangeCause e adr (4 * e.sval b) 4 with
    | some x => s.trapAt e x e.sl.mask (va64 adr)
    | none =>
      if e.siblingPends then s.hold e else
      (s.start e (e.op s (some (4 + tok.toNat)) (.resid adr (e.sval b) slot.toNat flush))).retire e h)
end

/-- A group of this ASID is resident on the core. -/
def State.asidOn (s : State) (c asid : Nat) : Bool := s.groups.any (fun x => x.1 / 65 == c && s.asid x.2.launch == asid)

/-- The magnitude by which entries rank: a NaN above every number. -/
def rankKey (w : Word) : Nat :=
  let m := w.toNat % 2 ^ 31
  if FFmt.fp32.infCode < m then 2 ^ 31 else m

/-- Insert by descending rank; equal ones keep their order. -/
def rankInsert (x : Nat × Word) : List (Nat × Word) → List (Nat × Word)
  | [] => [x]
  | y :: r => if rankKey y.2 < rankKey x.2 then x :: y :: r else y :: rankInsert x r

def ranked (xs : List (Nat × Word)) : List (Nat × Word) := xs.foldl (fun l x => rankInsert x l) []

def Core.resid (k : Core) (asid slot i : Nat) : Word :=
  if k.residAsid.lookD 0 slot = asid then k.resids.lookD 0 (slot * 1024 + i) else 0

/-- Zero a residual slot and take it over. -/
def Core.takeResid (k : Core) (asid slot : Nat) : Core :=
  if k.residAsid.lookD 0 slot = asid then k else
  { k with resids := k.resids.filter (fun x => x.1 / 1024 != slot), residAsid := k.residAsid.putD 0 slot asid }

/-- A slot of another ASID may be taken over once no group of it is resident (spec/07 R206). -/
def State.residFree (s : State) (c asid slot : Nat) : Bool :=
  let a := (s.core c).residAsid.lookD 0 slot
  a == asid || !s.asidOn c a

/-- The entries a TOPK ranks: index and value, its input as read, with the residual. -/
def State.topkIn (s : State) (c : Nat) (o : Op) (ti n slot : Nat) (res : Bool) : List (Nat × Word) :=
  (List.range n).map (fun i =>
    let w : Word := BitVec.ofNat 32 (leNat (s.opBytes o.parts (ti + 4 * i) 4))
    (i, if res then BitVec.ofNat 32 (addRne .fp32 w.toNat ((s.core c).resid o.asid slot i).toNat) else w))

/-- The bytes a TOPK writes. -/
def topkOut (kept : List (Nat × Word)) (tout : Nat) : List (Nat × Byte) :=
  (kept.zipIdx).flatMap (fun x => cellsFrom (tout + 8 * x.2) (leBytes 4 x.1.1 ++ leBytes 4 x.1.2.toNat))

/-- The cells of a transfer's destination in units not done before. -/
def restCells (ps : List (Nat × List Byte)) (cs : List (Nat × Byte)) : List (Nat × Byte) :=
  cs.filter (fun x => (partAt ps (3 * (x.1 / 16) + 1)).isNone)

def State.topk (s : State) (c : Nat) (o : Op) (inp k n slot : Nat) (res : Bool) (out : Nat) : State :=
  match s.window o.wg inp (4 * n), s.window o.wg out (8 * k) with
  | some ti, some tout =>
    if !s.residFree c o.asid slot then s else
    let s := s.modCore c (fun x => x.takeResid o.asid slot)
    let xs := s.topkIn c o ti n slot res
    let kept := (ranked xs).take k
    let s := s.scrWrite (restCells o.parts (topkOut kept tout))
    (s.modCore c (fun y => { y with resids := xs.foldl (fun t x =>
      t.putD 0 (slot * 1024 + x.1) (if kept.any (fun z => z.1 == x.1) then 0 else x.2)) y.resids })).complete c o
  | _, _ => s.dropOp c o.id

/-- The bytes a RESID writes. -/
def State.residCells (s : State) (c : Nat) (o : Op) (t n slot : Nat) : List (Nat × Byte) :=
  (List.range n).flatMap (fun i => cellsFrom (t + 4 * i) (leBytes 4 ((s.core c).resid o.asid slot i).toNat))

def State.residOut (s : State) (c : Nat) (o : Op) (a n slot : Nat) (flush : Bool) : State :=
  match s.window o.wg a (4 * n) with
  | none => s.dropOp c o.id
  | some t =>
    if flush && !s.residFree c o.asid slot then s else
    let s := if flush then s.modCore c (fun x => x.takeResid o.asid slot) else s
    let s := s.scrWrite (restCells o.parts (s.residCells c o t n slot))
    let s := if flush then s.modCore c (fun y => { y with resids := (List.range n).foldl (fun r i => r.del (slot * 1024 + i)) y.resids })
      else s
    s.complete c o

/-- A part of the oldest TOPK or RESID goes first: a unit of its input is read, or, once all of it has been, a unit of its output
written (spec/13 R304). -/
def State.topkPart (s : State) (c : Nat) (o : Op) (p : Nat) : State :=
  let put (s : State) (o : Op) (cs : List (Nat × Byte)) : State :=
    let cs := (restCells o.parts cs).filter (fun x => x.1 / 16 == p / 3)
    if cs = [] then s else (s.scrWrite cs).setOp c { o with parts := o.parts ++ doneParts [p / 3] }
  if !s.engReady c o then s else
  match o.what with
  | .topk inp k n slot res out =>
    match s.window o.wg inp (4 * n), s.window o.wg out (8 * k) with
    | some ti, some tout =>
      let us := unitsOf ((List.range n).map (fun i => ti + 4 * i))
      if p % 3 = 0 ∧ us.contains (p / 3) = true then s.setOp c { o with parts := s.takePart o.parts (p / 3) }
      else if p % 3 = 1 ∧ s.residFree c o.asid slot = true then
        let o := { o with parts := us.foldl (fun ps u => s.takePart ps u) o.parts }
        let s := (s.modCore c (fun x => x.takeResid o.asid slot)).setOp c o
        put s o (topkOut ((ranked (s.topkIn c o ti n slot res)).take k) tout)
      else s
    | _, _ => s
  | .resid a n slot flush =>
    match s.window o.wg a (4 * n) with
    | none => s
    | some t => if p % 3 = 1 ∧ (!flush || s.residFree c o.asid slot) = true then put s o (s.residCells c o t n slot) else s
  | _ => s

def isTopk : What → Bool
  | .topk _ _ _ _ _ _ => true
  | .resid _ _ _ _ => true
  | _ => false

def execTopkComplete (core : Nat) (s : State) : Out :=
  match s.oldestOp core isTopk with
  | none => .next s
  | some o =>
    if !s.engReady core o then .next s else
    match o.what with
    | .topk inp k n slot res out => finish (s.topk core o inp k n slot res out)
    | .resid a n slot flush => finish (s.residOut core o a n slot flush)
    | _ => .next s

/-! CHAIN_RECORD (spec/10 R266, R267) -/

/-- The oldest CHAIN that waits for a channel: its core and operation. -/
def State.chainOp (s : State) (ch : Nat) : Option (Nat × Op) :=
  (s.cores.flatMap (fun x => (x.2.ops.filter (fun o => match o.what with
    | .chain n _ => n == ch && s.forked x.1 o
    | _ => false)).map (fun o => (x.1, o)))).foldl (fun b x =>
      match b with
      | none => some x
      | some y => if x.2.id < y.2.id then some x else some y) none

/-- An idle channel accepts the pointer of the oldest CHAIN. -/
def State.acceptChain (s : State) (ch : Nat) : State :=
  if (s.chan ch).running then s else
  match s.chainOp ch with
  | none => s
  | some (c, o) =>
    match o.what with
    | .chain _ head =>
      let k : Chan := ⟨true, false, 0, { s.who c o with key := some (chanKey ch) }, head, none, none, 0, [], none, 0⟩
      (s.setChan ch k).complete c o
    | _ => s

/-- A channel stops, IDLE or in ERR; a COPY packet whose walk it was has its status: OK, or ENGINE_FAULT (spec/17 R400). -/
def State.stopChan (s : State) (ch : Nat) (err : Option Nat) : State :=
  let k := s.chan ch
  let st := if err.isSome then 9 else 0
  let idle : Chan := { k with running := false, err := err.isSome, cause := err.getD 0, held := none, byPacket := none, stage := 0,
                              parts := [], dead := none, idleAt := s.dieClk }
  { (s.forgetOp (chanKey ch)).setChan ch idle with
    packets := s.packets.map (fun p => if some (p.q, p.idx) = k.byPacket then { p with status := some st } else p) }

/-- A page fault holds a channel. -/
def State.chanPage (s : State) (ch va : Nat) (wr : Bool) : State :=
  let w := (s.chan ch).who
  let x := s.raiseFault w.asid (va64 va) (if wr then .write else .read) true w.ffirst (s.engStamp w) (s.core w.core).clk
  x.1.setChan ch { s.chan ch with held := some x.2 }

/-- A channel stops in ERR with a cause, and stores −1 to its record's signal, where there is one that can be written; a page fault of
that store holds the channel until it is answered (spec/10 R257, R266). -/
def State.chanFatal (s : State) (ch cause : Nat) (sig : Option Nat) : State :=
  let k := s.chan ch
  match sig with
  | none => s.stopChan ch (some (cause % 256))
  | some a =>
    if a % 8 ≠ 0 then s.stopChan ch (some (cause % 256)) else
    match State.engPlaces [a] s k.who [] with
    | (s, .ok ps) => (s.engWrite k.who ps (cellsFrom a (leBytes 8 (2 ^ 64 - 1)))).stopChan ch (some (cause % 256))
    | (s, .page va wr) => (s.setChan ch { k with dead := some (cause, a) }).chanPage ch va wr
    | (s, _) => s.stopChan ch (some (cause % 256))

/-- A channel's access came to this. An error stores −1 to the record's signal, where it can be written. -/
def State.chanDone {α : Type} (s : State) (ch : Nat) (sig : Option Nat) (r : EngRes α) (go : State → α → State) : State :=
  match r with
  | .ok x => go s x
  | .wait => s
  | .page va wr => s.chanPage ch va wr
  | .fatal cause _ _ => s.chanFatal ch cause sig

/-- A channel's record, read once: the fields that say what it does. -/
structure ChanRec where
  src  : Nat
  dst  : Nat
  len  : Nat
  done : Nat
  sig  : Nat
  next : Nat
  own  : Bool
  deriving DecidableEq, Repr

/-- The fields of a transfer record, from its 64 bytes as a number (spec/10 R265). -/
def ChanRec.ofNat (x : Nat) : ChanRec :=
  ⟨bits x 0 64, bits x 64 64, bits x 128 64, bits x 192 2, bits x 256 64, bits x 320 64, x.testBit 384⟩

/-- The signal an error stores −1 to. -/
def ChanRec.onError (r : ChanRec) : Option Nat := if r.done = 0 then none else some r.sig

/-- Read the record of a running channel, and go on with it unless it stops the channel (spec/10 R266). -/
def State.readRecord (s : State) (ch : Nat) (go : State → ChanRec → State) : State :=
  let k := s.chan ch
  if k.recA % 64 ≠ 0 then s.stopChan ch (some 9) else
  let x := State.capture 2 ((List.range 4).map (fun i => k.recA / 16 + i)) s k.who k.parts
  x.1.chanDone ch none x.2 (fun s ps =>
    let r := ChanRec.ofNat (leNat ((List.range 64).map (fun i => partByte ps 2 (k.recA + i))))
    let s := s.setChan ch { s.chan ch with parts := ps }
    if !r.own then s.stopChan ch none
    else if r.done = 3 then s.stopChan ch (some 4)
    else go s r)

/-- Copy the picked units of a record that are not yet copied. That a LEN above 2^40 copies LEN bytes too is the model's choice
(log 97). -/
def State.copyUnits (s : State) (ch : Nat) (r : ChanRec) (pick : Nat → Bool) (go : State → State) : State :=
  let k := s.chan ch
  let w := k.who
  let is := (List.range r.len).filter (fun i => pick ((r.dst + i) / 16) && (partAt k.parts (3 * ((r.dst + i) / 16) + 1)).isNone)
  let x := State.capture 0 (unitsOf (is.map (fun i => r.src + i))) s w k.parts
  x.1.chanDone ch r.onError x.2 (fun s ps =>
    let pl := State.engPlaces (firstOfLines (is.map (fun i => r.dst + i))) s w []
    pl.1.chanDone ch r.onError pl.2 (fun s pl =>
      let s := s.engWrite w pl (is.map (fun i => (r.dst + i, partByte ps 0 (r.src + i))))
      go (s.setChan ch { s.chan ch with parts := ps ++ doneParts (unitsOf (is.map (fun i => r.dst + i))) })))

/-- A record's next stage: its bytes are copied; then its signal is decremented; then OWN is cleared and the channel goes to the next
record (spec/10 R266). A fault leaves the stages before it done. -/
def State.chanStage (s : State) (ch : Nat) (r : ChanRec) : State :=
  let k := s.chan ch
  let w := k.who
  match k.stage with
  | 0 => s.copyUnits ch r (fun _ => true) (fun s =>
      if s.engUnacked (chanKey ch) then s else
      (s.watchEngine w [(r.src, r.len)] [(r.dst, r.len)]).setChan ch { s.chan ch with stage := 1 })
  | 1 =>
    if r.done = 1 then
      let x : State × EngRes (List (Nat × Nat)) :=
        if r.sig % 8 ≠ 0 then (s, .fatal 9 r.sig true) else State.engPlaces [r.sig] s w []
      x.1.chanDone ch r.onError x.2 (fun s pl =>
        let s := s.engWrite w pl (cellsFrom r.sig (leBytes 8 ((s.tgtNum (placeOf pl r.sig) 8 + 2 ^ 64 - 1) % 2 ^ 64)))
        s.setChan ch { s.chan ch with stage := 2 })
    else s.setChan ch { k with stage := 2 }
  | _ =>
    if s.engUnacked (chanKey ch) then s else
    let own := k.recA + 0x30
    let x := State.engPlaces [own] s w []
    x.1.chanDone ch r.onError x.2 (fun s pl =>
      ((s.forgetOp (chanKey ch)).engWrite w pl (cellsFrom own (leBytes 8 0))).setChan ch { s.chan ch with recA := r.next, stage := 0, parts := [] })

/-- The channel may work on its record: it runs, and no page fault holds it. -/
def State.chanGo (s : State) (ch : Nat) : Bool := (s.chan ch).running && (s.chan ch).held.isNone

/-- The next n stages of a record, as far as nothing holds or stops the channel. -/
def State.chanStages : Nat → State → Nat → State
  | 0, s, _ => s
  | n + 1, s, ch =>
    if s.chanGo ch then
      let k := s.chan ch
      match k.dead, s.engLost (chanKey ch) with
      | some (c, a), _ => s.chanFatal ch c (some a)
      | none, some _ => s.readRecord ch (fun s r => s.chanFatal ch 25 r.onError)
      | none, none =>
      let t := s.readRecord ch (fun s r => s.chanStage ch r)
      if (t.chan ch).stage = k.stage then t else State.chanStages n t ch
    else s

/-- Part p of a record goes first: a unit of the record or of its source is read, or a unit of its destination copied
(spec/13 R304). -/
def State.chanPart (s : State) (ch p : Nat) : State :=
  if !s.chanGo ch || (s.chan ch).stage != 0 || (s.chan ch).dead.isSome then s else
  let k := s.chan ch
  if p % 3 = 2 then
    -- a unit of the record itself, which is read in ascending order
    if k.recA % 64 = 0 ∧ k.recA / 16 ≤ p / 3 ∧ p / 3 < k.recA / 16 + 4 then
      let x := State.capture 2 [p / 3] s k.who k.parts
      x.1.chanDone ch none x.2 (fun s ps => s.setChan ch { s.chan ch with parts := ps })
    else s
  else
  s.readRecord ch (fun s r =>
    if p % 3 = 1 then s.copyUnits ch r (fun d => d == p / 3) id
    else if p % 3 = 0 ∧ r.src / 16 ≤ p / 3 ∧ 16 * (p / 3) < r.src + r.len then
      let x := State.capture 0 [p / 3] s (s.chan ch).who (s.chan ch).parts
      x.1.chanDone ch r.onError x.2 (fun s ps => s.setChan ch { s.chan ch with parts := ps })
    else s)

/-- CHAIN_RECORD: phase 0 accepts a waiting CHAIN; phase 2 takes one stage of a record; any other what is left of one record. -/
def execChainRecord (ch phase : Nat) (s : State) : Out :=
  if phase = 0 then .next (s.acceptChain ch)
  else finish (State.chanStages (if phase = 2 then 1 else 3 - (s.chan ch).stage) s ch)

/-! The bobbin program (spec/10 R275-R277) -/

/-- Full-width registers a group takes (spec/02 R45). -/
def Group.fullRegs (g : Group) : Nat := (g.vAlloc * g.width + 63) / 64

/-- Full-width registers free on a partition. -/
def State.freeRegs (s : State) (c part : Nat) : Nat :=
  384 - ((s.groups.filter (fun x => x.1 / 65 == c && partOf (x.1 % 65) == part)).map (fun x => x.2.fullRegs)).sum

/-- Lanes below n. -/
def firstLanes (n : Nat) : DWord := BitVec.ofNat 64 (2 ^ n - 1)

/-- A group at its first instruction (spec/02 R48, R54; spec/01 R25, R34). -/
def Group.fresh (uid launch wg grpid width n prio : Nat) (kernel entry : DWord) (args : List Word) : Group :=
  let sl0 : Slot := Slot.free
  { uid := uid, launch := launch, wg := wg, grpid := grpid, role := 0, width := width, nlaunch := n, kernel := kernel,
    vAlloc := 0, sAlloc := 0, pAlloc := 0, tAlloc := 0, aAlloc := 0, v := [],
    s := (args.zipIdx).foldl (fun t x => t.putD 0 x.2 x.1) [], p := [],
    prng := (List.range 64).map (fun l => (l, prngSeed l)), launched := firstLanes n,
    helper := firstLanes (4 * ((n + 3) / 4)) &&& ~~~firstLanes n,
    slot0 := { sl0 with valid := true, clause := entry, pc := entry, mask := firstLanes (4 * ((n + 3) / 4)) }, slot1 := Slot.free, depth := 0,
    owners := [], flags := [], fpcr := 0, fpsr := 0, fmask := 0, ffirst := 0, faddr := 0, trapCause := 0, dstkBase := 0, lbase := 0,
    prio := prio, fillTask := false, level := 0, bypass := 0, lostStruck := false, monitor := .idle, inHandler := false,
    trapCtx := none, tiles := [], tags := [], bitmaps := [], accs := [], atags := [], inRegion := false, regionEntry := 0,
    snapshot := [], arrived := [], logSet := [], save := .none, startedAt := 0, ended := false, peerFail := none, clkCap := [],
    starter := none }

def State.bobbin? (s : State) (c : Nat) : Option Group := s.group? c 64

section
variable (h : Hdr)

/-- The checks of execBstart. -/
def chkBstart (d a b : Opd) (e : Env) : Chk :=
  { opd := e.badP d || e.badS1 a || (match b with | .s n => n.val % 8 != 0 || decide (e.g.sAlloc < n.val + 8) | _ => true),
      reads := a.regs false ++ (match b with | .s n => (List.range 8).map (fun i => (.s, n.val + i)) | _ => []) }

def execBstart (d a b : Opd) : State → Out :=
  issue h (chkBstart d a b) (fun e s =>
    if !e.lead h then s.retire e h else
    let free := (s.bobbin? e.core).isNone && decide (32 ≤ s.freeRegs e.core 0)
    let ws := (e.active h).flatMap (fun l => match d with
      | .p n => [(⟨.p, n.val, l, if free then 1 else 0⟩ : RegWrite)]
      | _ => [])
    let s1 := (s.dataWrite e h ws).retire e h
    if !free then s1 else
    let given := match s.launches.look e.g.launch with | some l => l.args.drop 8 | none => []
    let args := (match b with | .s n => e.boxWords n.val | _ => []) ++ given
    let g0 := Group.fresh s1.serial e.g.launch e.g.wg e.g.grpid 64 64 e.g.prio e.g.kernel (codeAddr e.g.kernel (e.word a 0)) args
    let g : Group := { g0 with vAlloc := 32, sAlloc := 16, pAlloc := 16, startedAt := e.clk, starter := some e.ctx,
                               fillTask := e.g.fillTask, level := e.g.level }
    { s1 with groups := s1.groups.put (gkey e.core 64) g, serial := s1.serial + 1 }.modCore e.core (fun k =>
      { k with bobLaunch := some e.g.launch }))

/-- The checks of execBpush. -/
def chkBpush (a : Opd) (e : Env) : Chk :=
  { ill := e.ctx != 64, opd := e.badV 1 a, bob := true, reads := a.regs false, every := true }

def execBpush (q : BitVec 2) (a : Opd) : State → Out :=
  issue h (chkBpush a) (fun e s =>
    if !e.lead h then s.retire e h else
    let l := (s.core e.core).queues.lookD [] q.toNat
    if 16 ≤ l.length then s.hold e
    else (s.modCore e.core (fun k => { k with queues := k.queues.put q.toNat (l ++ [(List.range 64).map (e.word a)]) })).retire e h)

/-- The checks of execBpop. -/
def chkBpop (d : Opd) (e : Env) : Chk :=
  { opd := e.badV (64 / e.g.width) d }

def execBpop (q : BitVec 2) (d : Opd) : State → Out :=
  issue h (chkBpop d) (fun e s =>
    if !e.lead h then s.retire e h else
    let dst := match d with | .v r => r.val | _ => 0
    let regs := (List.range (64 / e.g.width)).map (fun r => ((.v, dst + r, e.sl.mask) : RegCls × Nat × DWord))
    (s.start e { e.op s (e.flag h) (.bpop q.toNat dst e.sl.mask) with dests := regs }).retire e h)

/-- The checks of execBstop. -/
def chkBstop (_ : Env) : Chk :=
  { bob := true }

def execBstop : State → Out :=
  issue h chkBstop (fun e s =>
    let s' := s.retire e h
    if !e.lead h then s' else
    match s.bobbin? e.core with
    | none => s'
    | some b => if e.ctx = 64 ∨ b.launch = e.g.launch then s'.removeGroup e.core 64 else s')
end

/-- The oldest BPOP of a core takes its queue's oldest entry; zeros when the queue is empty and no bobbin program runs. -/
def State.bpopDone (s : State) (c : Nat) (o : Op) (q dst : Nat) (lanes : DWord) : State :=
  let isPop (w : What) : Bool := match w with | .bpop _ _ _ => true | _ => false
  if (s.oldestOp c isPop).map (·.id) ≠ some o.id then s else
  let w := match s.opGroup c o with | some g => g.width | none => 64
  let l := (s.core c).queues.lookD [] q
  let fin (s : State) (en : List Word) : State :=
    let ws := (lanesOf lanes).flatMap (fun ln => (List.range (64 / w)).map (fun r =>
      (⟨.v, dst + r, ln, (en[r * w + ln]?).getD 0⟩ : RegWrite)))
    s.complete c { o with writes := ws }
  match l with
  | en :: r => fin (s.modCore c (fun k => { k with queues := k.queues.put q r })) en
  | [] => if (s.bobbin? c).isSome then s else fin s []

end Sys2Proof.Machine
end

