-- ==== Sys2Proof/Machine/Tile.lean ====
section
/-! DEFINITION. Tiles and accumulators: tags, loads and stores, moves, bitmaps, accumulator reads and writes, ACCOUT, CBLD
(spec/08 R208-R222, R233-R236). -/

namespace Sys2Proof.Machine

/-! Tags (spec/08 R210, R212) -/

def int8Of (x : Nat) : Int := if x < 128 then (x : Int) else (x : Int) - 256

/-- The fields of a tile's or an accumulator's tag. -/
structure Tag where
  fmt   : Nat
  dom   : Nat
  blen  : Nat
  exp   : Int
  bmv   : Bool
  imag  : Bool
  fresh : Bool
  deriving DecidableEq, Repr

def Tag.ofTile (t : BitVec 128) : Tag :=
  let x := t.toNat
  ⟨bits x 0 5, bits x 8 2, bits x 10 3, int8Of (bits x 13 8), x.testBit 21, false, false⟩
def Tag.tile (t : Tag) : BitVec 128 :=
  BitVec.ofNat 128 (t.fmt + 2 ^ 8 * t.dom + 2 ^ 10 * t.blen + 2 ^ 13 * (t.exp % 256).toNat + (if t.bmv then 2 ^ 21 else 0))

def Tag.ofAcc (t : BitVec 64) : Tag :=
  let x := t.toNat
  ⟨0, bits x 6 2, bits x 8 3, int8Of (bits x 11 8), false, x.testBit 19, x.testBit 0⟩
def Tag.acc (t : Tag) : BitVec 64 :=
  BitVec.ofNat 64 ((if t.fresh then 1 else 0) + 2 ^ 6 * t.dom + 2 ^ 8 * t.blen + 2 ^ 11 * (t.exp % 256).toNat
    + (if t.imag then 2 ^ 19 else 0))

/-- A spatial tile of a format, exponent 0, without a bitmap. -/
def Tag.plain (fmt : Nat) : Tag := ⟨fmt, 0, 0, 0, false, false, false⟩

def resetTag : BitVec 128 := 0x20000A
def freshTag : BitVec 64 := 1

/-- The checks of a tag that is not a tile format, or has a reserved field (spec/08 R211, R222): none, FORMAT or DOMAIN. -/
def tagCause (t : BitVec 128) : Option Nat :=
  let x := t.toNat
  let f : BitVec 5 := t.setWidth 5
  if (Fmt.ofCode f).isNone then some 5
  else if !tileFmt f || decide (2 ≤ bits x 8 2) || bits x 10 3 == 7 || bits x 5 3 != 0 || bits x 22 106 != 0 then some 13
  else none

def accTagBad (w : Word) : Bool :=
  let x := w.toNat
  decide (2 ≤ bits x 6 2) || bits x 8 3 == 7 || bits x 1 5 != 0 || bits x 20 12 != 0

def Group.tagOf (g : Group) (t : Nat) : BitVec 128 := g.tags.lookD resetTag t
def Group.tag (g : Group) (t : Nat) : Tag := Tag.ofTile (g.tagOf t)
def Group.atagOf (g : Group) (n : Nat) : BitVec 64 := g.atags.lookD freshTag n
def Group.atag (g : Group) (n : Nat) : Tag := Tag.ofAcc (g.atagOf n)

/-- The 8,192 bytes of a tile. -/
def Group.tileData (g : Group) (t : Nat) : List Byte := g.tiles.range 0 (t * 8192) 8192
/-- The 4,096 elements of an accumulator; a fresh one reads as zeros. -/
def Group.accData (g : Group) (n : Nat) : List Word :=
  if (g.atag n).fresh then List.replicate 4096 0 else g.accs.range 0 (n * 4096) 4096

/-- Write a tile's data and tag. -/
def Group.setTile (g : Group) (t : Nat) (bs : List Byte) (tag : BitVec 128) : Group :=
  { g with tiles := g.tiles.setRange 0 (t * 8192) bs, tags := g.tags.putD resetTag t tag }
/-- Write an accumulator's elements and tag. -/
def Group.setAcc (g : Group) (n : Nat) (ws : List Word) (tag : Tag) : Group :=
  { g with accs := g.accs.setRange 0 (n * 4096) ws, atags := g.atags.putD freshTag n tag.acc }

/-! What every TILE-class instruction shares (spec/08 R213-R216) -/

def readT (n : Nat) : TileUse := ⟨false, n, false⟩
def writeT (n : Nat) : TileUse := ⟨false, n, true⟩
def readA (n : Nat) : TileUse := ⟨true, n, false⟩
def writeA (n : Nat) : TileUse := ⟨true, n, true⟩

/-- An earlier operation of the group holds one of these tiles or accumulators (spec/08 R214). -/
def Env.tileBusy (e : Env) (us : List TileUse) : Bool :=
  e.ops.any (fun o => o.uses.any (fun x => us.any (fun y => x.acc == y.acc && x.n == y.n && (x.writes || y.writes))))

/-- The ROLE trap of TILE-class instructions but CBLD (spec/05 R149). -/
def Env.tileRole (e : Env) : Option Nat := if e.k.flags.testBit 1 ∧ (e.g.role = 1 ∨ e.g.role = 3) then some 15 else none

def Env.badAcc (e : Env) (n : Nat) : Bool := decide (e.g.aAlloc ≤ n)

/-- The checks of a group-wise TILE instruction with the tiles and accumulators it uses. -/
def tileChk (h : Hdr) (us : List TileUse) (e : Env) : Chk :=
  { ninth := e.tileRole, hold := e.lead h && e.tileBusy us,
    opd := us.any (fun u => if u.acc then decide (e.g.aAlloc ≤ u.n) else decide (e.g.tAlloc ≤ u.n)) }

/-- DOMAIN, FBLOCK and the other precise traps of step 9, with FFIRST in FADDR. -/
def State.trapHere (s : State) (e : Env) (cause : Nat) : State := s.trapAt e cause e.sl.mask e.sl.pc

/-- Start an operation with the tiles and accumulators it uses. -/
def State.startTile (s : State) (e : Env) (h : Hdr) (us : List TileUse) (w : What) : State :=
  s.start e { e.op s (e.flag h) w with uses := us }

def State.modEnvGroup (s : State) (e : Env) (f : Group → Group) : State := s.modGroup e.core e.ctx f

/-! Loads and stores (spec/08 R216-R219) -/

/-- Bytes of an element, for the formats TLD.X accepts. -/
def tileEb (fmt : BitVec 5) : Nat := ((Fmt.ofCode fmt).getD .int8).bits / 8

/-- Chunks of a memory row that lie within one line (global) or one 16-byte unit (scratchpad). -/
def rowChunks (unit : Nat) : Nat → Nat → Nat → List (Nat × Nat)
  | 0, _, _ => []
  | fuel + 1, a, n => if n = 0 then [] else
      let k := min n (unit - a % unit)
      (a, k) :: rowChunks unit fuel (a + k) (n - k)

/-- The memory rows of a tile access: their addresses and length. -/
structure TileRows where
  sp    : Bool
  data  : Nat
  strd  : Nat
  count : Nat
  len   : Nat
  deriving DecidableEq, Repr

def TileRows.wrap (r : TileRows) (a : Nat) : Nat := a % (if r.sp then 2 ^ 32 else 2 ^ 64)
def TileRows.chunks (r : TileRows) : List (Nat × Nat) :=
  (List.range r.count).flatMap (fun i => (rowChunks (if r.sp then 16 else 128) 10 (r.wrap (r.data + i * r.strd)) r.len))

/-- What some chunks read, in order, or the outcome of the lowest address that has none. -/
structure Gather where
  bytes : List Byte
  bad   : Option (Nat × Outcome1)
  deriving DecidableEq, Repr

def Gather.add (g : Gather) (a : Nat) (o : Outcome1) : Gather :=
  match o with
  | .done bs => { g with bytes := g.bytes ++ bs }
  | .wait p => { g with bad := match g.bad with | some b => some b | none => some (2 ^ 64, .wait p) }
  | o => { g with bad := match g.bad with | some b => if b.1 ≤ a then some b else some (a, o) | none => some (a, o) }

/-- Read chunks as the group's loads do; peers' lines are waited for (fly), or were before. -/
def State.gather (s : State) (e : Env) (sp fly : Bool) (cs : List (Nat × Nat)) : State × Gather :=
  cs.foldl (fun (x : State × Gather) c =>
    if sp then (x.1, x.2.add c.1 (x.1.loadScratch e c.1 c.2))
    else
      let r := x.1.loadBytes e (va64 c.1) c.2 { alloc := some .glob, fly := fly, victim := false }
      (r.1, x.2.add c.1 r.2)) (s, ⟨[], none⟩)

/-- Some atomic of the group stands in its queue: loads and stores of a tile wait for it (spec/06 R162, R166). -/
def Core.atomsQueued (k : Core) (ctx uid : Nat) : Bool :=
  k.sq.any (fun q => q.ctx == ctx && q.uid == uid && (match q.what with
    | .atomg _ _ _ => true
    | .atoms _ _ _ => true
    | _ => false))

/-- The sample a tile access starts, if it is sampled (spec/14 R349). -/
def State.tileSample (s : State) (e : Env) (h : Hdr) (cs : List (Nat × Nat)) (data : Bool) : Option Sample :=
  s.sampleOf e (maskOf (e.active h)) (dedup (cs.flatMap (fun c => (rowChunks 32 10 c.1 c.2).map (fun x => x.1 / 32)))).length data

/-- Before a tile access: its watchpoints (spec/08 R218, spec/14 R346). -/
def State.tileWatch (s : State) (e : Env) (write sp : Bool) (cs : List (Nat × Nat)) (go : State → State) : State :=
  match (if sp then (s, false) else s.watchAccess e write (!write) cs) with
  | (s, true) => s
  | (s, false) => go s

/-- A tile access that traps after its issue has counted; a sampled one has its record (spec/14 R349). -/
def State.tileTrapped (s : State) (e : Env) (h : Hdr) (write : Bool) (cs : List (Nat × Nat)) : State :=
  let x := s.tileSample e h cs (!write)
  let s := s.memCounted e
  match x with
  | some x => s.sampleRecord e.core (e.op s none .data) x true
  | none => s

/-- Go on with a tile access, as one lane, unless some byte of it has another outcome. -/
def State.tileLane (s : State) (e : Env) (h : Hdr) (write : Bool) (cs : List (Nat × Nat)) (bad : Option (Nat × Outcome1))
    (go : State → State) : State :=
  match bad with
  | some (a, o) =>
    let s := match o with
      | .fatal _ => s.tileTrapped e h write cs
      | _ => s
    s.oneLane e (e.flag h) o (va64 a) (if write then .write else .read) (fun s _ => s)
  | none => go s

/-- The bytes of a tile from its memory rows, TLD.X transposing elements of eb bytes. -/
def fromRows (x : Bool) (eb : Nat) (bs : List Byte) : List Byte :=
  if !x then bs else
  let a := bs.toArray
  (List.range 8192).map (fun o =>
    let r := o / 128
    let c := o % 128 / eb
    (a[c * (64 * eb) + r * eb + o % eb]?).getD 0)

/-- The memory rows of a tile, TST.X transposing. -/
def toRows (x : Bool) (eb : Nat) (bs : List Byte) : List Byte :=
  if !x then bs else
  let a := bs.toArray
  (List.range 8192).map (fun o =>
    let c := o / (64 * eb)
    let r := o % (64 * eb) / eb
    (a[r * 128 + c * eb + o % eb]?).getD 0)

/-- The rows an access takes, after its header when it has one. -/
def tileRows (x sp hdr : Bool) (fmt : BitVec 5) (adr stride : Nat) : TileRows :=
  let eb := tileEb fmt
  ⟨sp, adr + (if hdr then 16 else 0), stride, if x then 128 / eb else 64, if x then 64 * eb else 128⟩

/-- Base, stride and format of a tile access. -/
structure TileArg where
  fmt : BitVec 5
  hdr : Bool
  sp  : Bool
  t   : BitVec 4
  a   : Opd
  b   : SrcB
  off : Option (BitVec 23)
  x   : Bool
  deriving DecidableEq, Repr

def TileArg.adr (r : TileArg) (e : Env) : Nat :=
  let o : DWord := match r.off with | some o => o.signExtend 64 | none => 0
  if r.sp then ((e.word r.a 0).setWidth 64 + o).toNat % 2 ^ 32 else (e.wide .i64 r.a 0 + o).toNat
def TileArg.stride (r : TileArg) (e : Env) : Nat := e.sval r.b

def TileArg.chk (r : TileArg) (h : Hdr) (u : TileUse) (e : Env) : Chk :=
  let c := tileChk h [u] e
  { c with opd := c.opd || e.badU (!r.sp) (.opd r.a) || e.badU false r.b, fmt := !r.hdr && (Fmt.ofCode r.fmt).isNone,
           reads := r.a.regs (!r.sp) ++ r.b.regs false }

/-- MISALIGN of the address or of the stride. -/
def TileArg.misaligned (r : TileArg) (e : Env) (store : Bool) : Option Nat :=
  let row := (tileRows r.x r.sp r.hdr r.fmt 0 0).len
  if r.adr e % 16 ≠ 0 then some (r.adr e)
  else if r.stride e % 16 ≠ 0 then some (r.stride e)
  else if store ∧ r.stride e < row then some (r.stride e)
  else none

def tileLoad (h : Hdr) (r : TileArg) : State → Out :=
  issue h (r.chk h (writeT r.t.toNat)) (fun e s =>
    if !e.lead h then s.retire e h else
    match r.misaligned e false with
    | some a => s.trapAt e 9 e.sl.mask (va64 a) true
    | none =>
      let rows := (tileRows r.x r.sp r.hdr r.fmt (r.adr e) (r.stride e)).chunks
      let head := if r.hdr then [(r.adr e, 16)] else []
      let cs := head ++ rows
      if (s.core e.core).atomsQueued e.ctx e.g.uid || e.siblingPends || (!r.sp && s.logFull e.g) ||
        (r.sp && cs.any (fun c => s.scratchWaits e c.1 c.2)) then s.hold e else
      s.tileWatch e false r.sp cs (fun s =>
        let y := s.gather e r.sp true head
        y.1.tileLane e h false cs y.2.bad (fun s =>
          let tag : BitVec 128 := if r.hdr then BitVec.ofNat 128 (leNat y.2.bytes) else (Tag.plain r.fmt.toNat).tile
          match (if r.hdr then tagCause tag else none) with
          | some c => (s.tileTrapped e h false cs).trapHere e c
          | none =>
            let x := s.gather e r.sp true rows
            x.1.tileLane e h false cs x.2.bad (fun s =>
              let data := fromRows r.x (tileEb r.fmt) x.2.bytes
              let tag' := { Tag.ofTile tag with bmv := false }.tile
              let src : TileSrc := ⟨r.sp, rows, r.hdr, if r.x then some (tileEb r.fmt) else none⟩
              let o := { e.op s (e.flag h) (.tile r.t.toNat data tag' (some src)) with
                uses := [writeT r.t.toNat], sample := s.tileSample e h cs true }
              ((s.start e o).memCounted e).retire e h))))

/-- Read a unit of a tile load again before its completion (spec/13 R304): the row bytes with those of 16-byte piece k replaced. -/
def State.tileAgain (s : State) (e : Env) (x : TileSrc) (bytes : List Byte) (k : Nat) : State × Option (List Byte) :=
  let rows := toRows x.x.isSome (x.x.getD 1) bytes
  let ps := x.chunks.flatMap (fun c => rowChunks 16 10 c.1 c.2)
  match ps[k]? with
  | none => (s, none)
  | some p =>
    let off := ((ps.take k).map (fun q => q.2)).sum
    let r := s.gather e x.sp false [p]
    match r.2.bad with
    | some _ => (s, none)
    | none => (r.1, some (fromRows x.x.isSome (x.x.getD 1) (rows.take off ++ r.2.bytes ++ rows.drop (off + p.2))))

/-- The pages of a store's chunks: the places, with 2^62 added on an uncached page (spec/14 R327), or the outcome of the lowest address that may not be written. -/
def State.gatherPlaces (s : State) (e : Env) (sp : Bool) (cs : List (Nat × Nat)) : State × List (Nat × Nat) × Option (Nat × Outcome1) :=
  cs.foldl (fun (x : State × List (Nat × Nat) × Option (Nat × Outcome1)) c =>
    let lower (o : Outcome1) := match x.2.2 with | some b => if b.1 ≤ c.1 then some b else some (c.1, o) | none => some (c.1, o)
    if sp then
      match x.1.window e.g.wg c.1 c.2 with
      | some t => (x.1, x.2.1 ++ [(c.1, t)], x.2.2)
      | none => (x.1, x.2.1, lower (.fatal 8))
    else
      match x.1.translate (clusterOf e.core) e.asid (va64 c.1) .write with
      | (s, .ok y) => (s, x.2.1 ++ [(c.1, y.tgt + if y.cp = 2 then 2 ^ 62 else 0)], x.2.2)
      | (s, y) => (s, x.2.1, lower y.outcome)) (s, [], none)

/-- The store-queue entry of chunks with their places. -/
def chunkCells : List (Nat × Nat) → List (Nat × Nat) → List Byte → List SCell
  | (a, n) :: cs, (_, t) :: ps, bs => storeCells a (t % 2 ^ 62) (bs.take n) (decide (2 ^ 62 ≤ t)) ++ chunkCells cs ps (bs.drop n)
  | _, _, _ => []

def tileStore (h : Hdr) (r : TileArg) : State → Out :=
  issue h (r.chk h (readT r.t.toNat)) (fun e s =>
    if !e.lead h then s.retire e h
    else if !r.hdr ∧ (e.g.tag r.t.toNat).fmt ≠ r.fmt.toNat then s.trapHere e 13 else
    match r.misaligned e true with
    | some a => s.trapAt e 9 e.sl.mask (va64 a) true
    | none =>
      if (s.core e.core).acqPending e.ctx e.g.uid || e.siblingPends then s.hold e else
      let cs := (if r.hdr then [(r.adr e, 16)] else []) ++ (tileRows r.x r.sp r.hdr r.fmt (r.adr e) (r.stride e)).chunks
      s.tileWatch e true r.sp cs (fun s =>
        let x := s.gatherPlaces e r.sp cs
        x.1.tileLane e h true cs x.2.2 (fun s =>
          let tag := { e.g.tag r.t.toNat with bmv := false }.tile
          let bs := (if r.hdr then leBytes 16 tag.toNat else []) ++ toRows r.x (tileEb r.fmt) (e.g.tileData r.t.toNat)
          let cells := chunkCells cs x.2.1 bs
          let o := { e.op s (e.flag h) .store with uses := [readT r.t.toNat], sample := s.tileSample e h cs false }
          (((s.start e o).enqueue e (some o.id) (if r.sp then .scratch (cells.map (fun c => (c.tgt, c.b))) else .bytes
            (cells.map (fun c => { c with va := c.va % 2 ^ 57 })))).memCounted e).retire e h)))

section
variable (h : Hdr)

def execTld (fmt : BitVec 5) (hdr sp : Bool) (t : BitVec 4) (a : Opd) (b : SrcB) (off : Option (BitVec 23)) : State → Out :=
  tileLoad h ⟨fmt, hdr, sp, t, a, b, off, false⟩
def execTldX (fmt : BitVec 5) (hdr sp : Bool) (t : BitVec 4) (a : Opd) (b : SrcB) (off : Option (BitVec 23)) : State → Out :=
  tileLoad h ⟨fmt, hdr, sp, t, a, b, off, true⟩
def execTst (fmt : BitVec 5) (hdr sp : Bool) (t : BitVec 4) (a : Opd) (b : SrcB) (off : Option (BitVec 23)) : State → Out :=
  tileStore h ⟨fmt, hdr, sp, t, a, b, off, false⟩
def execTstX (fmt : BitVec 5) (hdr sp : Bool) (t : BitVec 4) (a : Opd) (b : SrcB) (off : Option (BitVec 23)) : State → Out :=
  tileStore h ⟨fmt, hdr, sp, t, a, b, off, true⟩

/-! Moves, marks and tags (spec/08 R220-R222): written at issue -/

/-- A group-wise TILE instruction that is done at issue, after its check for DOMAIN. -/
def tileNow (us : List TileUse) (bad : Env → Bool) (f : Group → Group) : State → Out :=
  issue h (tileChk h us) (fun e s =>
    if !e.lead h then s.retire e h
    else if bad e then s.trapHere e 13
    else (s.retire e h).modEnvGroup e f)

def execTzeroTile (t : BitVec 4) : State → Out :=
  tileNow h [writeT t.toNat] (fun _ => false) (fun g =>
    { g.setTile t.toNat (List.replicate 8192 0) resetTag with bitmaps := g.bitmaps.del t.toNat })

def execTzeroAcc (n : BitVec 3) : State → Out :=
  tileNow h [writeA n.toNat] (fun _ => false) (fun g => g.setAcc n.toNat (List.replicate 4096 0) (Tag.ofAcc freshTag))

def execTmov (td ts : BitVec 4) : State → Out :=
  tileNow h [writeT td.toNat, readT ts.toNat] (fun _ => false) (fun g =>
    { g.setTile td.toNat (g.tileData ts.toNat) (g.tagOf ts.toNat) with
      bitmaps := g.bitmaps.putD 0 td.toNat (g.bitmaps.lookD 0 ts.toNat) })

def execTtrn (td ts : BitVec 4) : State → Out :=
  tileNow h [writeT td.toNat, readT ts.toNat]
    (fun e => let t := e.g.tag ts.toNat; !((t.fmt == 9 || t.fmt == 10) && t.dom == 0)) (fun g =>
      let a := (g.tileData ts.toNat).toArray
      let bs := (List.range 8192).map (fun o =>
        let r := o / 128
        let c := o % 128 / 2
        (a[128 * c + 2 * r + o % 2]?).getD 0)
      g.setTile td.toNat bs { g.tag ts.toNat with bmv := false }.tile)

/-- Elements of a tile row, and element k of row m of a tile's bytes (spec/08 R208). -/
def rowElems (fmt : Nat) : Nat :=
  match (Fmt.ofCode (BitVec.ofNat 5 fmt)).getD .int8 with
  | .cb16 => 512
  | f => 1024 / f.bits

def tileCode (f : Fmt) (a : Array Byte) (m k : Nat) : Nat :=
  let byte (i : Nat) : Nat := ((a[128 * m + i]?).getD 0).toNat
  match f.bits with
  | 4 => byte (k / 2) / (if k % 2 = 0 then 1 else 16) % 16
  | 8 => byte k % (if f = .e3m2 ∨ f = .e2m3 then 64 else 256)
  | 16 => byte (2 * k) + 256 * byte (2 * k + 1)
  | _ => byte (4 * k) + 2 ^ 8 * byte (4 * k + 1) + 2 ^ 16 * byte (4 * k + 2) + 2 ^ 24 * byte (4 * k + 3)

/-- An element whose code decodes to ±0. A complex element is zero when both its parts are (spec/08 R221). -/
def codeZero (f : Fmt) (x : Nat) : Bool :=
  match f with
  | .cb16 => false
  | .c16 => x % 32768 == 0 && x / 65536 % 32768 == 0
  | .cbf => x % 32768 == 0 && x / 65536 % 32768 == 0
  | _ => match f.ffmt? with
    | some g => x % 2 ^ g.signPos == 0
    | none => x == 0

def bitmapOf (fmt : Nat) (bs : List Byte) : Nat :=
  let f := (Fmt.ofCode (BitVec.ofNat 5 fmt)).getD .int8
  let a := bs.toArray
  (List.range 64).foldl (fun n m => n + 2 ^ (512 * m) * (List.range (rowElems fmt)).foldl (fun x k =>
    if f = .cb16 ∨ !codeZero f (tileCode f a m k) then x + 2 ^ k else x) 0) 0

def execTbmp (t : BitVec 4) : State → Out :=
  tileNow h [writeT t.toNat] (fun e => (e.g.tag t.toNat).dom == 1) (fun g =>
    let k := g.tag t.toNat
    let k' : Tag := { k with bmv := true }
    { g with bitmaps := g.bitmaps.putD 0 t.toNat (bitmapOf k.fmt (g.tileData t.toNat)),
             tags := g.tags.putD resetTag t.toNat k'.tile })

/-- The checks of execTtagWr. -/
def chkTtagWr (u : TileUse) (a : Opd) (e : Env) : Chk :=
  let c := tileChk h [u] e
  { c with opd := c.opd || e.badS1 a, reads := a.regs false }

def execTtagWr (acc : Bool) (n : BitVec 4) (a : Opd) : State → Out :=
  let u : TileUse := ⟨acc, n.toNat, true⟩
  issue h (chkTtagWr h u a) (fun e s =>
    let w := e.word a 0
    if !e.lead h then s.retire e h
    else if acc then
      if accTagBad w then s.trapHere e 13
      else (s.retire e h).modEnvGroup e (fun g =>
        let t : Tag := { Tag.ofAcc (w.setWidth 64) with fresh := (g.atag n.toNat).fresh }
        { g with atags := g.atags.putD freshTag n.toNat t.acc })
    else match tagCause (w.setWidth 128) with
      | some c => s.trapHere e c
      | none => (s.retire e h).modEnvGroup e (fun g =>
          let t : Tag := { Tag.ofTile (w.setWidth 128) with bmv := false }
          { g with tags := g.tags.putD resetTag n.toNat t.tile }))

/-- The checks of execTtagRd. -/
def chkTtagRd (u : TileUse) (d : Opd) (e : Env) : Chk :=
  let c := tileChk h [u] e
  { c with opd := c.opd || (match d with | .v _ => e.badV 1 d | .s _ => e.badS 1 d | _ => true) }

def execTtagRd (acc : Bool) (n : BitVec 4) (d : Opd) : State → Out :=
  let u : TileUse := ⟨acc, n.toNat, false⟩
  issue h (chkTtagRd h u d) (fun e s =>
    if !e.lead h then s.retire e h else
    let w : Word := if acc then (e.g.atagOf n.toNat).setWidth 32 else (e.g.tagOf n.toNat).setWidth 32
    let ws : List RegWrite := match d with
      | .v r => (e.active h).map (fun l => ⟨.v, r.val, l, w⟩)
      | .s r => [⟨.s, r.val, 0, w⟩]
      | _ => []
    (s.start e { e.op s (e.flag h) .data with writes := ws, uses := [u] }).retire e h)

/-! Accumulators (spec/08 R233, R234) -/

/-- The row and first column of a segment. -/
def segment (e : Env) (colb : BitVec 3) (b : SrcB) : Nat × Nat := (e.sval b % 64, e.g.width * colb.toNat)

/-- The checks of execAccrd. -/
def chkAccrd (colb n : BitVec 3) (d : Opd) (b : SrcB) (e : Env) : Chk :=
  { ill := decide (64 ≤ e.g.width * colb.toNat), opd := e.badV 1 d || e.badU false b || e.badAcc n.toNat, ninth := e.tileRole,
      hold := !(e.active h).isEmpty && e.tileBusy [readA n.toNat], reads := b.regs false }

def execAccrd (colb n : BitVec 3) (d : Opd) (b : SrcB) : State → Out :=
  issue h (chkAccrd h colb n d b) (fun e s =>
    let act := e.active h
    if act.isEmpty then s.retire e h else
    let x := segment e colb b
    let fresh := (e.g.atag n.toNat).fresh
    let ws : List RegWrite := act.flatMap (fun l => match d with
      | .v r => [⟨.v, r.val, l, if fresh then 0 else e.g.accs.lookD 0 (n.toNat * 4096 + 64 * x.1 + x.2 + l)⟩]
      | _ => [])
    (s.start e { e.op s (e.flag h) .data with writes := ws, uses := [readA n.toNat] }).retire e h)

/-- The checks of execAccwr. -/
def chkAccwr (colb n : BitVec 3) (a : Opd) (b : SrcB) (e : Env) : Chk :=
  { ill := decide (64 ≤ e.g.width * colb.toNat), opd := e.badV 1 a || e.badU false b || e.badAcc n.toNat, ninth := e.tileRole,
      hold := !(e.active h).isEmpty && e.tileBusy [writeA n.toNat], reads := a.regs false ++ b.regs false }

def execAccwr (colb n : BitVec 3) (a : Opd) (b : SrcB) : State → Out :=
  issue h (chkAccwr h colb n a b) (fun e s =>
    let act := e.active h
    if act.isEmpty then s.retire e h else
    let x := segment e colb b
    let t := e.g.atag n.toNat
    (s.retire e h).modEnvGroup e (fun g =>
      let t' : Tag := { t with fresh := false }
      let base := if t.fresh then g.accs.setRange 0 (n.toNat * 4096) (List.replicate 4096 0) else g.accs
      { g with accs := act.foldl (fun m l => m.putD 0 (n.toNat * 4096 + 64 * x.1 + x.2 + l) (e.word a l)) base,
               atags := g.atags.putD freshTag n.toNat t'.acc }))

/-- Where tile element (m, k) of an ACCOUT comes from: the accumulator's offset from the first, and its column. -/
def accoutSource (c : Nat) (hh k : Nat) (wide : Bool) : Nat × Nat :=
  if wide then (0, 32 * hh + k) else if c = 1 then (0, k) else (k / 64, k % 64)

/-- A converted element's code. -/
def accoutCode (f : Fmt) (ctl : Word) (w : Word) : Nat :=
  let v : FEnv := ⟨roundingOf (BitVec.ofNat 3 (ctl.toNat % 4 + 1)) 0, ctl.getLsbD 2, false, false⟩
  if f = .fp32 then w.toNat else (f.convert v (FFmt.fp32.decode w.toNat)).1

/-- The bytes of a tile of one format from its element codes, row by row. -/
def packTile (f : Fmt) (code : Nat → Nat → Nat) : List Byte :=
  let n := 1024 / f.bits
  (List.range 64).flatMap (fun m =>
    leBytes 128 ((List.range n).foldl (fun x k => x + 2 ^ (f.bits * k) * code m k) 0))

/-- The checks of execAccout. -/
def chkAccout (us : List TileUse) (fmt : BitVec 5) (a : Opd) (e : Env) : Chk :=
  let k := tileChk h us e
  { k with opd := k.opd || e.badS1 a, fmt := (Fmt.ofCode fmt).isNone, reads := a.regs false }

def execAccout (fmt : BitVec 5) (n : BitVec 3) (td : BitVec 4) (a : Opd) : State → Out :=
  let c := accoutCount fmt
  let as := (List.range c).map (fun i => n.toNat + i)
  let us := writeT td.toNat :: as.map readA
  issue h (chkAccout h us fmt a) (fun e s =>
    if !e.lead h then s.retire e h else
    let f := (Fmt.ofCode fmt).getD .fp32
    let cplx := f == .c16 || f == .cbf
    let ts := (as.map e.g.atag).filter (fun t => !t.fresh)
    let agree := ts.all (fun t => ts.all (fun u => t.dom == u.dom && t.blen == u.blen && t.exp == u.exp))
    let dom := match ts with | t :: _ => t.dom | [] => 0
    let plane (i : Nat) (im : Bool) : Bool := let t := e.g.atag (n.toNat + i); t.fresh || t.imag == im
    let ok := agree && (dom != 1 || (cplx && plane 0 false && plane 1 true))
    if !ok then s.trapHere e 13 else
    let ctl := e.word a 0
    let hh := if ctl.getLsbD 3 then 1 else 0
    let data := (as.map (fun i => (e.g.accData i).toArray)).toArray
    let el (i m col : Nat) : Word := (((data[i]?).getD #[])[64 * m + col]?).getD 0
    let code (m k : Nat) : Nat :=
      let x := accoutSource c hh k (f == .fp32 || cplx)
      if cplx then
        let part := if f = .c16 then Fmt.fp16 else .bf16
        accoutCode part ctl (el 0 m x.2) + 65536 * accoutCode part ctl (el 1 m x.2)
      else accoutCode f ctl (el x.1 m x.2)
    let tag : Tag := match ts with
      | t :: _ => ⟨fmt.toNat, t.dom, t.blen, t.exp, false, false, false⟩
      | [] => Tag.plain fmt.toNat
    (s.startTile e h us (.tile td.toNat (packTile f code) tag.tile none)).retire e h)

/-! Codebooks (spec/08 R235, spec/07 R206) -/

/-- The checks of execCbld. -/
def chkCbld (a : Opd) (b : SrcB) (e : Env) : Chk :=
  { opd := e.badS1 a || e.badU false b, reads := a.regs false ++ b.regs false }

/-- CBLD. That a range which lies only partly outside the windows has its start address in FADDR is the model's choice (log 82). -/
def execCbld (slot : BitVec 2) (a : Opd) (b : SrcB) : State → Out :=
  issue h (chkCbld a b) (fun e s =>
    if !e.lead h then s.retire e h else
    let adr := ((e.word a 0).toNat + e.sval b) % 2 ^ 32
    if adr % 4 ≠ 0 then s.trapAt e 9 e.sl.mask (va64 adr) true else
    match s.window e.g.wg adr 768 with
    | none => s.trapAt e 8 e.sl.mask (va64 adr) true
    | some _ =>
      if s.scratchWaits e adr 768 || e.siblingPends then s.hold e else
      match s.loadScratch e adr 768 with
      | .done bs =>
        let x := leNat bs
        let book := (List.range 256).map (fun j => bits x (24 * j) 24)
        (s.start e (e.op s (e.flag h) (.cbld slot.toNat book adr))).retire e h
      | _ => s)
end

/-- Zero a codebook slot and take it over. -/
def Core.takeBook (k : Core) (asid slot : Nat) : Core :=
  { k with books := k.books.filter (fun x => x.1 / 256 != slot), bookAsid := k.bookAsid.putD 0 slot asid }

/-- CBLD_TAKEOVER: the slot passes to the CBLD's ASID once no group of its own is resident. -/
def execCbldTakeover (core id : Nat) (s : State) : Out :=
  match s.findOp core id with
  | some o => match o.what with
    | .cbld slot _ _ =>
      let a := (s.core core).bookAsid.lookD 0 slot
      if a = o.asid ∨ s.asidOn core a then .next s else .next (s.modCore core (fun k => k.takeBook o.asid slot))
    | _ => .next s
  | none => .next s

/-- A CBLD whose slot is its ASID's writes its entries and completes. -/
def State.cbldDone (s : State) (c : Nat) (o : Op) (slot : Nat) (book : List Nat) : State :=
  if (s.core c).bookAsid.lookD 0 slot ≠ o.asid then s else
  (s.modCore c (fun k => { k with books := (book.zipIdx).foldl (fun t x =>
    if (partAt o.parts (3 * x.2 + 1)).isSome then t else t.putD 0 (slot * 256 + x.2) x.1) k.books })).complete c o

/-- Unit u of a CBLD's source is read again, while none of its entries is written (spec/08 R235, spec/13 R304). -/
def State.cbldAgain (s : State) (c : Nat) (o : Op) (slot : Nat) (book : List Nat) (src u : Nat) : State :=
  let mine (i : Nat) : Bool := (src + i) / 16 == src / 16 + u
  if (List.range 768).any (fun i => mine i && (partAt o.parts (3 * (i / 3) + 1)).isSome) then s else
  match s.window o.wg src 768 with
  | none => s
  | some t =>
    let now := s.scrBytes t 768
    let byte (i : Nat) : Nat := if mine i then ((now[i]?).getD 0).toNat else ((book[i / 3]?).getD 0) / 2 ^ (8 * (i % 3)) % 256
    s.setOp c { o with what := .cbld slot ((List.range 256).map (fun j => byte (3 * j) + 256 * byte (3 * j + 1) + 65536 * byte (3 * j + 2))) src }

/-- Entry i of a CBLD is written before the rest: which of two loads an entry keeps is open (spec/07 R206). -/
def State.cbldPart (s : State) (c : Nat) (o : Op) (slot : Nat) (book : List Nat) (i : Nat) : State :=
  if (s.core c).bookAsid.lookD 0 slot ≠ o.asid ∨ (partAt o.parts (3 * i + 1)).isSome then s else
  match book[i]? with
  | none => s
  | some w => (s.modCore c (fun k => { k with books := k.books.putD 0 (slot * 256 + i) w })).setOp c
      { o with parts := o.parts ++ doneParts [i] }

end Sys2Proof.Machine
end

