-- ==== Sys2Proof/Machine/CoreEvents.lean ====
section
/-! DEFINITION. The steps of a core beside its instructions: the clock, releases from waits, completions, store queues, replays,
belay answers and self-invalidation, local write-backs (spec/95 and the rules it names). -/

namespace Sys2Proof.Machine

/-! The clock (spec/02 R62, spec/03 R73, spec/07 R187) -/

/-- Complete the fixed-latency operations that are due, in issue order. -/
def State.commitDue (s : State) (c : Nat) : State :=
  let clk := (s.core c).clk
  let due := (s.core c).ops.filter (fun o => match o.due with | some d => decide (d ≤ clk) | none => false)
  due.foldl (fun s o =>
    match s.findOp c o.id with
    | none => s
    | some o =>
      let s := s.complete c o
      match o.what with
      | .help n lanes => s.helpDone c o.ctx n lanes
      | _ => s) s

/-- A YIELD's wait is over: 16 clk have passed, or every stream it waits for has issued or gone (spec/05 R145). -/
def State.yieldOver (s : State) (core : Nat) (sl : Slot) : Bool :=
  match sl.wait with
  | .yield t others =>
    decide (t ≤ (s.core core).clk) || others.all (fun x => match s.group? core (x / 2) with
      | none => true
      | some o => !(o.slotOf (x % 2)).valid || decide (sl.lastIssue < (o.slotOf (x % 2)).lastIssue))
  | _ => false

/-- A slot at the next clk: one that looks again does so; one before a BWAIT does once the PCOUNT has changed, or the object is
poisoned (spec/10 R269, R270); a YIELD that is over ends. -/
def Slot.look (sl : Slot) (s : State) (core : Nat) : Slot :=
  match sl.wait with
  | .retry => { sl with wait := .none }
  | .bwait tgt _ t => if (s.obj tgt).pcount = t ∧ (s.obj tgt).poison = false then sl else { sl with wait := .none }
  | .yield _ _ => if s.yieldOver core sl then { sl with wait := .none } else sl
  | _ => sl

/-! Releases -/

/-- CLAUSE_WAIT_RELEASE: every flag the header's WAIT names is zero (spec/03 R69). -/
def execClauseWaitRelease (core ctx slot : Nat) (s : State) : Out :=
  match s.group? core ctx with
  | none => .next s
  | some g =>
    let sl := g.slotOf slot
    if sl.valid && sl.phase == .header && sl.wait == .none && g.waitOk sl.hdr then
      .next (s.modSlot core ctx slot (fun sl => { sl with phase := .released }))
    else .next s

/-- YIELD_EXPIRY: the other streams have issued, or 16 clk have passed (spec/05 R145). -/
def execYieldExpiry (core ctx slot : Nat) (s : State) : Out :=
  match s.group? core ctx with
  | none => .next s
  | some g =>
    if s.yieldOver core (g.slotOf slot) then .next (s.modSlot core ctx slot (fun sl => { sl with wait := .none }))
    else .next s

/-- AWAIT_TIMEOUT: the monitor fires 1,048,576 clk after the AWAIT issued (spec/06 R180). -/
def execAwaitTimeout (core ctx : Nat) (s : State) : Out :=
  match s.group? core ctx with
  | none => .next s
  | some g =>
    let late (sl : Slot) : Bool := match sl.wait with | .await t => decide (t + 1048576 ≤ (s.core core).clk) | _ => false
    if late g.slot0 || late g.slot1 then .next (s.modGroup core ctx Group.fire) else .next s

/-- STARVATION_PROMOTE: eligible for 4,096 clk without issuing (spec/07 R187). -/
def execStarvationPromote (core ctx slot : Nat) (s : State) : Out :=
  match s.group? core ctx with
  | none => .next s
  | some g =>
    match (g.slotOf slot).eligSince with
    | none => .next s
    | some t =>
      if s.eligible core ctx slot && decide (t + 4096 ≤ (s.core core).clk) then
        .next (s.modSlot core ctx slot (fun sl => { sl with promoted := true }))
      else .next s

/-! Completions (spec/02 R58) -/

/-- SFU_COMPLETE: the oldest operation of a partition's unit (spec/04 R116). -/
def execSfuComplete (core part : Nat) (s : State) : Out :=
  match (s.core core).ops.find? (fun o => o.what == .sfu part) with
  | some o => .next (s.complete core o)
  | none => .next s

/-- Lanes of the operation are still pending in its slot. -/
def State.opPending (s : State) (c : Nat) (o : Op) : Bool :=
  match s.opGroup c o with
  | some g => ((g.slotOf o.slot).replay.bind (fun r => r.opId)) == some o.id
  | none => false

/-- The stream of an operation that may read again: its group has issued nothing since, and logs no reads. An access is performed at
any time between its issue and its completion (spec/13 R304, R314). -/
def State.again (s : State) (c : Nat) (o : Op) : Option Env :=
  match s.envAt c o.ctx o.slot 1 with
  | none => none
  | some e =>
    if e.g.slot0.lastIssue ≤ o.serial + 1 ∧ e.g.slot1.lastIssue ≤ o.serial + 1 ∧ e.g.uid = o.uid ∧ s.logs e.g = false then some e
    else none

/-- A core with no victim tags, as a reading that has been counted meets it. -/
def State.untagged (s : State) (c : Nat) : State := s.modCore c (fun k => { k with throttle := { k.throttle with tags := [] } })

/-- A state after reading again: the first reading has been counted, and the tags of the lines this one evicted are kept. -/
def State.uncounted (t s : State) (c : Nat) : State :=
  { t with counters := s.counters }.modCore c (fun k =>
    { k with throttle := { (s.core c).throttle with tags := lastTags ((s.core c).throttle.tags ++ k.throttle.tags) } })

/-- Loads that may be read again. -/
def MemKind.plain : MemKind → Bool
  | .load .acq => false
  | .load .ldb => false
  | .load _ => true
  | _ => false

/-- Read picked lanes of a load again, as far as all of them can be read. -/
def State.lateRead (s : State) (c : Nat) (o : Op) (m : MemOp) (pick : Nat → Bool) : State × Op :=
  match s.again c o with
  | none => (s, o)
  | some e =>
    let ls := m.lanes.filter (fun l => (m.kind.one || pick l.lane) && (m.kind.one || o.writes.any (fun w => w.lane == l.lane)))
    if !m.kind.plain || ls.isEmpty then (s, o) else
    let r := { m with lanes := ls }.runLanes (s.untagged c) e [] []
    if r.2.all LaneRes.isDone then
      let kept := o.writes.filter (fun w => !m.kind.one && !ls.any (fun l => l.lane == w.lane))
      let new := r.2.flatMap (fun x => match x.out with | .done bs => m.writesFor x.m.lane bs | _ => [])
      (r.1.uncounted s c, { o with writes := kept ++ new })
    else (s, o)

/-- Part k of an operation's transfer goes before the rest of it (spec/13 R304; spec/10 R263; spec/16 R376): a unit of a copy, of a
FILLC's or a stream's source, of a top-k's input or output, an entry of a CBLD; a unit of a CBLD's source, a piece of a tile load, or a lane of a load, is
read again. -/
def State.movePart (s : State) (c id k : Nat) : State :=
  match s.findOp c id with
  | none => s
  | some o =>
    let take := s.setOp c { o with parts := s.takePart o.parts (k / 3) }
    match o.what with
    | .copy q => s.copyPart c o q k
    | .fillc _ _ => if s.forked c o then take else s
    | .decode _ _ _ _ _ _ _ _ _ => if s.engReady c o ∧ (s.oldestOp c isDecode).map (fun x => x.id) = some id then take else s
    | .topk _ _ _ _ _ _ => if (s.oldestOp c isTopk).map (fun x => x.id) = some id then s.topkPart c o k else s
    | .resid _ _ _ _ => if (s.oldestOp c isTopk).map (fun x => x.id) = some id then s.topkPart c o k else s
    | .cbld slot book src => if k < 256 then s.cbldPart c o slot book k else s.cbldAgain c o slot book src (k - 256)
    | .tile t bytes tag (some x) =>
      match s.again c o with
      | none => s
      | some e => match (s.untagged c).tileAgain e x bytes k with
        | (r, some bs) => (r.uncounted s c).setOp c { o with what := .tile t bs tag (some x) }
        | (_, none) => s
    | .load m => let r := s.lateRead c o m (fun l => l == k); r.1.setOp c r.2
    | _ => s

/-- LOAD_COMPLETE: a long-latency operation writes its results and lowers its flag. -/
def execLoadComplete (core id : Nat) (late : Bool) (s : State) : Out :=
  match s.findOp core id with
  | none => .next s
  | some o =>
    match o.what with
    | .load m =>
      if s.opPending core o then .next s else
      let r := if late then s.lateRead core o m (fun _ => true) else (s, o)
      finish ((r.1.sampleDone core r.2).complete core r.2)
    | .data => .next (s.complete core o)
    | .bpop q dst lanes => .next (s.bpopDone core o q dst lanes)
    | .tile t bytes tag _ =>
      .next (((s.modGroup core o.ctx (fun g => if g.uid = o.uid then g.setTile t bytes tag else g)).sampleDone core o).complete core o)
    | .cbld slot book _ => .next (s.cbldDone core o slot book)
    | .fillc k place => if s.forked core o then finish (s.fillcDone core o k place) else .next s
    | .logfl => if (s.rings.lookD Ring.reset 3).wait = [] then .next (s.complete core o) else .next s
    | _ => .next s

/-! Store queues (spec/06 R160, spec/13 R317) -/

/-- An atomic that returns old values waits in its queue while its group's log has no room (spec/14 R351). -/
def State.leaveBlocked (s : State) (core : Nat) (q : SqEntry) : Bool :=
  match q.what, s.group? core q.ctx with
  | .atomg a _ _, some g => a.ret && g.uid == q.uid && s.logFull g
  | _, _ => false

/-- STORE_QUEUE_LEAVE: which 0, the oldest entry of a context leaves its queue; which 1, the write-through at a place in the core's
list is performed, unless an earlier one writes the same line. -/
def execStoreQueueLeave (core which arg : Nat) (s : State) : Out :=
  let k := s.core core
  if which = 0 then
    match k.sq.find? (fun q => q.ctx == arg) with
    | none => .next s
    | some q =>
      if s.leaveBlocked core q then .next s else finish (s.leaveQueue core q)
  else
    match k.wt[arg]? with
    | none => .next s
    | some w =>
      let clash := (k.wt.take arg).any (fun v => v.cells.any (fun x => w.cells.any (fun y => x.tgt / 128 == y.tgt / 128)))
      if clash then .next s
      else finish ((s.modCore core (fun k => { k with wt := k.wt.eraseIdx arg })).leaveWt core w)

/-! Replays (spec/06 R167-R169; spec/16 R369) -/

/-- Every lane's wait has ended; the latest wake among them. -/
def Replay.ready (r : Replay) : Option Nat :=
  r.why.foldl (fun b x =>
    match b, x.2 with
    | some n, .ready m => some (max n m)
    | some n, .fatal => some n
    | some n, .peerFail => some n
    | some n, .dead _ => some n
    | _, _ => none) (some 0)

/-- The lanes whose fault was declared unresolved, whose peer did not answer, or whose access was fatal before, with the cause. -/
def Replay.unresolved (r : Replay) : List (Nat × Nat) :=
  r.why.filterMap (fun x => match x.2 with
    | .fatal => some (x.1, 7)
    | .peerFail => some (x.1, 25)
    | .dead c => some (x.1, c)
    | _ => none)

/-- A peer has answered an atomic of a slot. -/
def State.atomBack (s : State) (uid n : Nat) : Bool :=
  s.peerReqs.any (fun r => r.uid == uid && r.back && r.atom && r.read.any (fun x => x.1 == n))

/-- A peer's answer to a slot's atomics has been used: those of peer lines are performed at once, after what its queue holds. -/
def State.peerUsed (s : State) (c uid : Nat) (back : Bool) : State :=
  if !back then s else
  if (s.core c).sq.any (fun q => q.uid == uid && (match q.what with
      | .atomg _ ls _ => ls.any (fun l => decide (2 ^ 60 ≤ l.tgt))
      | _ => false)) then s.drainGroup c uid else s

/-- The replays counted after this one, which does not count when a peer's line was all it waited for (spec/14 R349). -/
def Replay.next (r : Replay) : Nat :=
  if r.flown then r.count else r.count + 1

/-- Slots of the same partition that were woken before. -/
def State.earlierWoken (s : State) (c ctx n : Nat) : Bool :=
  (s.streams c (partOf ctx)).any (fun x =>
    match s.group? c x.1 with
    | none => false
    | some g => match (g.slotOf x.2).replay.bind Replay.ready with
      | some m => m != 0 && decide (m < n)
      | none => false)

/-- Run the pending lanes of a slot again: the watchpoints first (spec/06 R169). -/
def State.replay (s : State) (c ctx n : Nat) (r : Replay) : State :=
  match s.envAt c ctx n r.len with
  | none => s
  | some e =>
    let cur := s.cur
    let s := { s with cur := ⟨c, ctx, n, r.len, []⟩ }
    -- a load on its way in the fabric passed its watchpoints at issue
    let t := match (if r.flown then (s, false) else s.watchMem e r.op) with
      | (s, true) => s
      | (s, false) =>
        let s := (s.modSlot c ctx n (fun sl => { sl with wait := .none, replay := none, noWatch := false })).modCore c (fun k =>
          { k with ops := k.ops.map (fun (o : Op) =>
            if some o.id = r.opId then { o with sample := o.sample.map (fun (x : Sample) => { x with replays := r.next }) } else o) })
        match r.opId with
        | some id => s.runMem { e with sl := { e.sl with wait := .none, replay := none } } r.op id r.stall r.next r.byp r.unresolved |>.peerUsed c e.g.uid (s.atomBack e.g.uid n)
        | none => s
    { t with cur := cur }

/-- MEMORY_REPLAY: after its faults are resolved and its blocks decided, a waiting instruction re-executes its pending lanes. -/
def execMemoryReplay (core ctx slot : Nat) (s : State) : Out :=
  match s.group? core ctx with
  | none => .next s
  | some g =>
    let sl := g.slotOf slot
    match sl.replay with
    | none => .next s
    | some r =>
      match r.ready with
      | none => .next s
      | some n =>
        if sl.wait != .replay || (s.stopped g && !r.flown) || g.heldByTrap slot || (n != 0 && s.earlierWoken core ctx n) then .next s
        else finish (s.replay core ctx slot r)

/-! Belay (spec/06 R170-R173) -/

/-- A request sent at this time may travel to a peer's place now: its port is UP, and nothing sent to that device before is still on its
way by the other port (spec/19 R426, R433). -/
def State.travels (s : State) (id port tgt : Nat) : Bool :=
  let same (t : Nat) : Bool := t / 2 ^ 35 == tgt / 2 ^ 35 && (!s.fabcfg.getLsbD 6 || t / 128 % 2 == tgt / 128 % 2)
  (s.ports.lookD Port.reset port).state == 2 &&
  !s.peerReqs.any (fun r => !r.back && !r.bad && decide (r.id < id) && r.port != port && same r.tgt) &&
  !s.cores.any (fun k => k.2.vals.any (fun v => v.answer.isNone && decide (v.id < id) && v.port.any (fun p => p != port) && same (128 * v.pline)))

def State.valTravels (s : State) (v : Validation) : Bool :=
  match v.port with
  | some p => s.travels v.id p (128 * v.pline)
  | none => true

/-- HOME_VALIDATE: the home confirms a validation whose version is current, unless it strikes it falsely; a peer's once it has travelled
there (spec/19 R431). -/
def execHomeValidate (core id : Nat) (falseStrike : Bool) (s : State) : Out :=
  match (s.core core).vals.find? (fun v => v.id == id && v.answer.isNone && s.valTravels v) with
  | none => .next s
  | some v =>
    -- what the core itself has stored to the line goes before its validation (spec/13 R318)
    let s := s.flushLine core ((if v.peer then 2 ^ 60 else 0) + 128 * v.pline)
    let cur := s.versions.look (lineKey v.peer v.pline)
    let ok := !falseStrike && decide (v.ver < 4095) && cur == some v.ver
    -- a peer's home counts its own (spec/19 R431)
    let s := if v.peer then s else s.count (204 + Config.homeSlice 0 v.pline % 64) (if ok then 4 else 5) 1
    finish (s.modCore core (fun k => { k with vals := k.vals.map (fun w => if w.id = id then { w with answer := some ok } else w) }))

/-- An entry after an answer (spec/06 R173). -/
def Belay.answered (b : Belay) (ok : Bool) : Belay :=
  let n := b.count - 1
  let bit := b.sbit || !ok
  { b with count := n, sbit := bit, state := if n ≠ 0 then 1 else if bit then 3 else 2 }

/-- BELAY_ANSWER: an answer reaches its entry; one to a freed or struck entry changes nothing. -/
def execBelayAnswer (core id : Nat) (s : State) : Out :=
  match (s.core core).vals.find? (fun v => v.id == id) with
  | none => .next s
  | some v =>
    match v.answer with
    | none => .next s
    | some ok =>
      let s := s.modCore core (fun k => { k with vals := k.vals.filter (fun w => w.id != id) })
      match (s.core core).belay.look v.index with
      | none => .next s
      | some b =>
        if b.genr = v.genr ∧ b.state = 1 then
          let s := if ok then s else s.count core 7 1
          .next (s.modCore core (fun k => { k with belay := k.belay.put v.index (b.answered ok) }))
        else .next s

/-- BELAY_ROUND_SELF_INVALIDATE: a core that has not invalidated in this round does so. -/
def execBelayRoundSelfInvalidate (core : Nat) (s : State) : Out :=
  if s.roundSeen.contains core then .next s else .next (s.dropAllClean core)

/-! Local lines (spec/07 R438) -/

/-- LOCAL_WRITEBACK: a dirty local line is written back, or waits for the page fault. -/
def execLocalWriteback (core asid line : Nat) (s : State) : Out := finish (s.tryBack core asid line)

/-- A line leaves a cluster's L2: monitors of its groups on the line fire (spec/06 R180). -/
def State.evictL2 (s : State) (cluster asid line : Nat) : State :=
  let t : State := { s with groups := s.groups.mapAll (fun k g =>
    if clusterOf (k / 65) = cluster ∧ g.monitor = .armed asid line then g.fire else g) }
  t.modCluster cluster (fun k => { k with l2 := k.l2.filter (fun x => x != line) })

/-- The TLB of a cluster drops the page that holds an address. -/
def State.evictTlb (s : State) (cluster asid va : Nat) : State :=
  s.modCluster cluster (fun k => { k with tlb := k.tlb.filter (fun t =>
    !(t.asid == asid && decide (t.page ≤ va) && decide (va < t.page + t.size))) })

/-- An ordinary line leaves the last-level cache (spec/06 R170, R180). -/
def State.evictLlc (s : State) (key : Nat) : State := s.leaveLine key

end Sys2Proof.Machine
end

