-- ==== Sys2Proof/Machine/Header.lean ====
section
/-! DEFINITION. Kernel headers as the dispatcher and the fill launcher read and check them (spec/14 R336, R337; spec/02 R46, R47;
spec/07 R196; spec/12 R286). -/

namespace Sys2Proof.Machine

def KHdr.width (k : KHdr) : Nat := 8 * 2 ^ k.wcode
def roundUp (n g : Nat) : Nat := (n + g - 1) / g * g
def KHdr.vAlloc (k : KHdr) : Nat := roundUp k.vcnt 8
def KHdr.sAlloc (k : KHdr) : Nat := roundUp k.scnt 8
def KHdr.pAlloc (k : KHdr) : Nat := roundUp k.pcnt 16
/-- Full-width registers a group costs (spec/02 R46). -/
def KHdr.full (k : KHdr) : Nat := k.vAlloc * k.width / 64
/-- Granules of a workgroup's carve-out (spec/07 R196). -/
def KHdr.gran (k : KHdr) : Nat := roundUp k.scratch 12288 / 12288
/-- The kernel declares a rope. -/
def KHdr.rope (k : KHdr) : Bool := k.rw != 0 || k.rh != 0 || k.rk != 0
/-- Workgroups per core. -/
def KHdr.perCore (k : KHdr) : Nat := if k.rope then k.rk else 1
def KHdr.ropeN (k : KHdr) : Nat := if k.rope then k.rw * k.rh * k.rk else 1

/-- The safe-point entry of a clause: SAVE, RESTORE, BYTES. -/
def KHdr.safeAt (k : KHdr) (off : BitVec 32) : Option (BitVec 32 × BitVec 32 × Nat) :=
  (k.sptab.find? (fun x => x.1 == off)).map (fun x => x.2)

/-- The fields of a header's 128 bytes that pass the checks on the header alone, with the place and length of its safe-point
table. -/
def KHdr.parse (x : Nat) : Option (KHdr × BitVec 32 × Nat) :=
  let f (byte size : Nat) : Nat := bits x (8 * byte) (8 * size)
  let shape := f 0x0C 4
  let groups := bits shape 2 5
  let k : KHdr :=
    { flags := f 0x06 2, entry := BitVec.ofNat 32 (f 0x08 4), wcode := bits shape 0 2, groups := groups, rw := bits shape 7 3,
      rh := bits shape 10 3, rk := bits shape 13 5, vcnt := f 0x10 2, scnt := f 0x12 1, pcnt := f 0x13 1, tcnt := f 0x14 1,
      acnt := f 0x15 1, scratch := f 0x18 4, localB := f 0x1C 4, sptab := [], spgap := f 0x28 4, dstk := f 0x2C 4,
      roles := f 0x30 4, handler := BitVec.ofNat 32 (f 0x38 4) }
  let ok := f 0x00 4 == 0x4B4C5952 && f 0x04 2 == 1 && f 0x06 2 / 16 == 0 && bits shape 18 14 == 0 && decide (1 ≤ groups) &&
    decide (groups ≤ 16) && f 0x16 2 == 0 && f 0x34 4 == 0 && f 0x3C 68 == 0 && decide (1 ≤ k.spgap) && decide (k.spgap ≤ 4096) &&
    decide (k.dstk ≤ 64) && k.roles / 2 ^ (2 * groups) == 0 && (f 0x24 4 == 0 || decide (2 ≤ k.scnt))
  if ok then some (k, BitVec.ofNat 32 (f 0x20 4), f 0x24 4) else none

/-- The entries of a safe-point table, if they obey R337. -/
def KHdr.withTable (k : KHdr) (n : Nat) (bs : List Byte) : Option KHdr :=
  let x := leNat bs
  let es := (List.range n).map (fun i =>
    (BitVec.ofNat 32 (bits x (128 * i) 32), BitVec.ofNat 32 (bits x (128 * i + 32) 32), BitVec.ofNat 32 (bits x (128 * i + 64) 32),
     bits x (128 * i + 96) 32))
  let rising := (es.zip (es.drop 1)).all (fun p => decide (p.1.1.toInt < p.2.1.toInt))
  if rising && es.all (fun e => (e.2.1 == 0) == (e.2.2.1 == 0)) then some { k with sptab := es } else none

/-- A page with GEN set holds this address. -/
def State.onGen (s : State) (w : EngWho) (va : Nat) : Bool :=
  match (s.translate (clusterOf w.core) w.asid (va64 va) .read).2 with
  | .ok x => x.gen
  | _ => false

/-- Read a kernel header: none when R336 rejects it; a page fault or a wait holds its reader. -/
def State.readHeader (s : State) (w : EngWho) (va : Nat) : State × EngRes (Option KHdr) :=
  if va % 256 ≠ 0 ∨ s.onGen w va then (s, .ok none) else
  match s.engRead w va 128 with
  | (s, .ok bs) =>
    match KHdr.parse (leNat bs) with
    | none => (s, .ok none)
    | some (k, off, n) =>
      match s.engRead w (va64 va + (off.signExtend 64 <<< 2)).toNat (16 * n) with
      | (s, .ok t) => (s, .ok (k.withTable n t))
      | (s, .fatal _ _ _) => (s, .ok none)
      | (s, .page a wr) => (s, .page a wr)
      | (s, .wait) => (s, .wait)
  | (s, .fatal _ _ _) => (s, .ok none)
  | (s, .page a wr) => (s, .page a wr)
  | (s, .wait) => (s, .wait)

/-- Groups of a workgroup on a partition (spec/00 R3). -/
def groupsOn (groups part : Nat) : Nat := (groups + 3 - part) / 4

/-- RES_LIMIT: the per-group limits, or what one partition would hold at one time (spec/02 R47). -/
def KHdr.overLimit (k : KHdr) : Bool :=
  let n := k.perCore * groupsOn k.groups 0
  decide (320 < k.vcnt) || decide (64 < k.scnt) || decide (96 < k.pcnt) || decide (16 < k.tcnt) || decide (8 < k.acnt) ||
  decide (16 < n) || decide (384 < n * k.full) || decide (16 < n * k.tcnt) || decide (8 < n * k.acnt)

/-- CARVE_TOO_BIG: above 336 KiB (spec/07 R196). -/
def KHdr.tooBig (k : KHdr) : Bool := decide (344064 < k.scratch)

/-- ROPE_SHAPE (spec/12 R286). -/
def KHdr.badRope (k : KHdr) : Bool :=
  k.rope && !(decide (1 ≤ k.rw) && decide (k.rw ≤ 4) && decide (1 ≤ k.rh) && decide (k.rh ≤ 4) && decide (1 ≤ k.rk) &&
    decide (k.rk ≤ 24) && decide (k.rw * k.rh * k.rk ≤ 24))

end Sys2Proof.Machine
end

