-- ==== Sys2Proof/Machine/Place.lean ====
section
/-! DEFINITION. Placement of workgroups, ropes and fill tasks, and the end of workgroups and launches (spec/14 R334, R335;
spec/07 R196-R199; spec/12 R287-R290, R295; spec/16 R363, R372-R374; spec/02 R48, R49). -/

namespace Sys2Proof.Machine

/-! What a core has free -/

/-- Contexts, full-width registers, tiles and accumulators of a partition. -/
structure Room where
  ctx   : Nat
  regs  : Nat
  tiles : Nat
  accs  : Nat
  deriving DecidableEq, Repr

/-- What a partition's groups hold; the bobbin program holds registers of partition 0 (spec/07 R185). -/
def State.held (s : State) (c p : Nat) : Room :=
  let gs := (s.groups.filter (fun x => x.1 / 65 == c && partOf (x.1 % 65) == p)).map (fun x => (x.1 % 65, x.2))
  { ctx := (gs.filter (fun x => x.1 != 64)).length, regs := (gs.map (fun x => x.2.fullRegs)).sum,
    tiles := (gs.map (fun x => x.2.tAlloc)).sum, accs := (gs.map (fun x => x.2.aAlloc)).sum }

/-- Granules of a core in use: base granule and length. -/
def State.runs (s : State) (c : Nat) : List (Nat × Nat) :=
  (s.wgs.filter (fun w => w.2.core == c && w.2.gran != 0)).map (fun w => (w.2.base / 32, w.2.gran))

def runFree (rs : List (Nat × Nat)) (b n : Nat) : Bool :=
  decide (b + n ≤ 28) && rs.all (fun r => decide (r.1 + r.2 ≤ b) || decide (b + n ≤ r.1))

/-- The lowest free run of n granules (spec/07 R196). -/
def lowestRun (rs : List (Nat × Nat)) (n : Nat) : Option Nat :=
  if n = 0 then some 0 else (List.range 28).find? (fun b => runFree rs b n)

/-- Runs for k carve-outs of n granules, and the runs then in use. -/
def placeRuns : Nat → List (Nat × Nat) → Nat → Option (List Nat × List (Nat × Nat))
  | 0, rs, _ => some ([], rs)
  | k + 1, rs, n =>
    match lowestRun rs n with
    | none => none
    | some b => (placeRuns k (if n = 0 then rs else (b, n) :: rs) n).map (fun x => (b :: x.1, x.2))

/-! Fill reserves (spec/12 R295) -/

/-- What a fill reserve keeps free: each partition's room, and granules. -/
def reserveOf (r : DWord) : Option (Room × Nat) :=
  let x := r.toNat
  if x.testBit 0 then some (⟨bits x 27 5, bits x 32 9, bits x 22 5, bits x 18 4⟩, bits x 13 5) else none

/-- The reserve work of a level must leave whole on a core; core (3, 2) is number 11 of its cluster, core (3, 3) number 15. -/
def State.reserveFor (s : State) (c level : Nat) : Option (Room × Nat) :=
  let k := s.cluster (clusterOf c)
  if c % 16 = 11 ∧ level = 0 then reserveOf k.frsva
  else if c % 16 = 15 ∧ level ≤ 1 then reserveOf k.frsvb
  else none

/-- The base granules n workgroups of a kernel would take on a core, if they fit there beside what is resident and a reserve. -/
def fitsRoom (held : Nat → Room) (runs : List (Nat × Nat)) (k : KHdr) (n : Nat) (keep : Option (Room × Nat)) : Option (List Nat) :=
  let r : Room := match keep with | some x => x.1 | none => ⟨0, 0, 0, 0⟩
  let part (p : Nat) : Bool :=
    let h := held p
    let m := n * groupsOn k.groups p
    decide (h.ctx + m + r.ctx ≤ 16) && decide (h.regs + m * k.full + r.regs ≤ 384) && decide (h.tiles + m * k.tcnt + r.tiles ≤ 16) &&
    decide (h.accs + m * k.acnt + r.accs ≤ 8)
  if (List.range 4).all part then
    match placeRuns n runs k.gran with
    | none => none
    | some (bs, rs) =>
      match keep with
      | some (_, g) => if (lowestRun rs g).isSome then some bs else none
      | none => some bs
  else none

/-- Cores on which work may be placed: cluster 0 alone in base camp (spec/17 R411). -/
def State.coreOn (s : State) (c : Nat) : Bool := if s.baseCamp then decide (c < 16) else decide (c < 192)

/-- The core lies in a rectangle kept for a waiting rope of this priority or higher (spec/12 R289). -/
def State.keptFrom (s : State) (l prio c : Nat) : Bool :=
  s.launches.any (fun x => x.1 != l && x.2.status.isNone && decide (prio ≤ x.2.prio) && (match x.2.rect with
    | some (cl, px, py) => c / 16 == cl && decide (px ≤ c % 4) && decide (c % 4 < px + x.2.hdr.rw) && decide (py ≤ c / 4 % 4) &&
        decide (c / 4 % 4 < py + x.2.hdr.rh)
    | none => false))

/-- The base granules of n workgroups of a launch on a core. -/
def State.fits (s : State) (l : Nat) (x : Launch) (n c : Nat) : Option (List Nat) :=
  if !s.coreOn c || s.keptFrom l x.prio c then none else fitsRoom (s.held c) (s.runs c) x.hdr n (s.reserveFor c 0)

/-- The cores of a w × h rectangle from a column and row, in the order of R287. -/
def rectCores (cl x y w h : Nat) : List Nat :=
  (List.range h).flatMap (fun j => (List.range w).map (fun i => 16 * cl + 4 * (y + j) + (x + i)))

/-- Ropes a cluster's rope manager holds (spec/12 R288). -/
def State.ropeCount (s : State) (cl : Nat) : Nat := (s.ropes.filter (fun r => r.2.real && r.2.cluster == cl && r.2.wgs != [])).length

/-- The bases of a whole rope on a rectangle: per core, its workgroups'. -/
def State.ropeFits (s : State) (l : Nat) (x : Launch) (cl px py : Nat) : Option (List (Nat × List Nat)) :=
  let k := x.hdr
  if k.rw + px > 4 ∨ k.rh + py > 4 ∨ 16 ≤ s.ropeCount cl then none else
  let cs := (rectCores cl px py k.rw k.rh).map (fun c => (c, s.fits l x k.rk c))
  if cs.all (fun c => c.2.isSome) then some (cs.map (fun c => (c.1, c.2.getD []))) else none

/-- A rectangle of a cluster could hold a rope, were its cores idle, under the reserves in force (spec/12 R289). -/
def State.rectCould (s : State) (k : KHdr) (cl px py : Nat) : Bool :=
  decide (cl < if s.baseCamp then 1 else 12) && decide (px + k.rw ≤ 4) && decide (py + k.rh ≤ 4) &&
    (rectCores cl px py k.rw k.rh).all (fun c => (fitsRoom (fun _ => ⟨0, 0, 0, 0⟩) [] k k.rk (s.reserveFor c 0)).isSome)

/-- ROPE_NOFIT: no rectangle of an idle cluster could hold the rope under the reserves in force (spec/12 R289). -/
def State.ropeNever (s : State) (k : KHdr) : Bool :=
  k.rope && !((List.range 12).any (fun cl => (List.range 4).any (fun px => (List.range 4).any (fun py => s.rectCould k cl px py))))

/-- A core of a rectangle is kept for another rope of the same priority: each would keep the other out for good. -/
def State.rectClash (s : State) (l : Nat) (x : Launch) (cl px py : Nat) : Bool :=
  s.launches.any (fun y => y.1 != l && y.2.status.isNone && y.2.prio == x.prio && (match y.2.rect with
    | some (k, qx, qy) => (rectCores cl px py x.hdr.rw x.hdr.rh).any (fun c => (rectCores k qx qy y.2.hdr.rw y.2.hdr.rh).contains c)
    | none => false))

/-! The next placement of a launch -/

def Launch.total (x : Launch) : Nat := x.gx * x.gy * x.gz
def Launch.wgAt (x : Launch) (i : Nat) : WgInfo := x.wgs.lookD ⟨.fresh, [], []⟩ i

/-- The lowest linear number of a workgroup that waits; a pre-empted one comes back through a resumption. -/
def Launch.next (x : Launch) : Option Nat :=
  (List.range x.total).find? (fun i => match (x.wgAt i).rest with
    | .fresh => true
    | .saved => true
    | .discarded _ => true
    | _ => false)

/-- Its next workgroup has run before. -/
def Launch.resumes (x : Launch) : Bool :=
  match x.next with
  | some i => (x.wgAt i).rest != .fresh
  | none => false

/-- The launch waits for a placement. -/
def Launch.waits (x : Launch) : Bool := x.status.isNone && x.placeable && x.fill.isNone && x.next.isSome

/-- Its next workgroup or rope fits somewhere. -/
def State.fitsSomewhere (s : State) (l : Nat) (x : Launch) : Bool :=
  if x.hdr.rope then (List.range 12).any (fun cl => (List.range 4).any (fun px => (List.range 4).any (fun py =>
    (s.ropeFits l x cl px py).isSome)))
  else (List.range 192).any (fun c => (s.fits l x 1 c).isSome)

def Launch.effPrio (x : Launch) : Nat := if x.aged then 7 else x.prio

/-- The dispatcher's choice: highest priority, and in turn, in order of acceptance, within one (spec/14 R335). -/
def State.dispatchChoice (s : State) : Option Nat :=
  let cs := s.launches.filter (fun x => x.2.waits && s.fitsSomewhere x.1 x.2)
  let top := cs.foldl (fun m x => max m x.2.effPrio) 0
  let cs := cs.filter (fun x => x.2.effPrio == top)
  let last := (s.launches.filter (fun x => x.2.effPrio == top && x.2.fill.isNone)).foldl
    (fun (b : Nat × Nat) x => if b.1 < x.2.turns then (x.2.turns, x.2.accepted) else b) (0, 0)
  let least (l : List (Nat × Launch)) : Option Nat :=
    (l.foldl (fun (b : Option (Nat × Nat)) x => match b with
      | none => some (x.2.accepted, x.1)
      | some y => if x.2.accepted < y.1 then some (x.2.accepted, x.1) else some y) none).map (·.2)
  match least (cs.filter (fun x => last.1 != 0 && decide (last.2 < x.2.accepted))) with
  | some l => some l
  | none => least cs

/-! Putting a workgroup on a core -/

/-- The lowest free context of a partition. -/
def State.freeCtx (s : State) (c p : Nat) : Nat :=
  16 * p + ((List.range 16).find? (fun i => (s.group? c (16 * p + i)).isNone)).getD 0

/-- Clear the L1's rows below a new boundary: dirty local lines are written back, and once none waits for that the lines go, their
bytes staying in the array (spec/07 R197); true when they have gone. While it waits, the L1 allocates nothing there. -/
def State.clearRows (s : State) (c top : Nat) : State × Bool :=
  let mine (l : L1Line) : Bool := decide (l.place < 3 * top)
  let s := (((s.core c).l1.filter mine).map (fun l => (l.asid, l.line))).foldl (fun s x => s.tryBack c x.1 x.2) s
  if (s.core c).l1.any (fun l => mine l && l.dirty != 0) then (s.modCore c (fun k => { k with taking := max k.taking top }), false)
  else (s.modCore c (fun k => { k.l1Keep (fun l => !mine l) with taking := 0 }), true)

/-- Clear the rows of carve-outs of a kernel at base granules of some cores; true when all have gone. -/
def State.clearAll (s : State) (gran : Nat) (bases : List (Nat × List Nat)) : State × Bool :=
  bases.foldl (fun (x : State × Bool) b =>
    let r := x.1.clearRows b.1 (b.2.foldl (fun m y => max m (32 * (y + gran))) 0)
    (r.1, x.2 && r.2)) (s, true)

/-- The ASID that used third i of a row last. -/
def RowUse.third (u : RowUse) (i : Nat) : Nat := match i with | 0 => u.a | 1 => u.b | _ => u.c

/-- The array rows of a new carve-out (spec/07 R199): a row last used under another ASID is zeroed; a word of any other is zero, or
what it held when it was last part of a carve-out or an L1 line of this ASID (log 20). -/
def State.readyRows (s : State) (c asid base gran : Nat) : State :=
  let k := s.core c
  let rows := (List.range (32 * gran)).map (fun i => base + i)
  let bytes : List Byte := rows.flatMap (fun r =>
    let u := k.rowUse.lookD RowUse.none r
    if u.last ≠ asid then List.replicate 384 0 else (List.range 384).map (fun i =>
      let a := 384 * r + i
      if u.third (i / 128) = asid ∧ Config.residueKept s.serial (a / 4) = true then k.array.lookD 0 a else 0))
  { s with serial := s.serial + 1 }.modCore c (fun k =>
    { k with array := k.array.setRange 0 (384 * base) bytes,
             rowUse := rows.foldl (fun t r => t.put r ⟨asid, asid, asid, asid⟩) k.rowUse,
             boundary := max k.boundary (base + 32 * gran) })

/-- A group at its first instruction, as its launch and header give it (spec/02 R48, spec/17 R394). -/
def Launch.group (x : Launch) (l uid wg linear g clk : Nat) : Group :=
  let k := x.hdr
  let i := linear * k.groups + g
  let b := Group.fresh uid l wg g k.width x.nlaunch x.prio x.kernel (codeAddr x.kernel k.entry) x.args
  { b with
    role := if k.flags.testBit 1 then bits k.roles (2 * g) 2 else 0, vAlloc := k.vAlloc, sAlloc := k.sAlloc, pAlloc := k.pAlloc, tAlloc := k.tcnt, aAlloc := k.acnt,
    dstkBase := x.dstkA + BitVec.ofNat 64 (1024 * i),
    lbase := x.localA + BitVec.ofNat 64 (i * (4 * k.width) * ((k.localB + 3) / 4)), startedAt := clk }

/-- A DISPATCH invalidates its ASID's clean global lines on each core before its first group there issues (spec/17 R400). -/
def State.cleanCore (s : State) (l c : Nat) : State :=
  match s.launches.look l with
  | none => s
  | some x =>
    if x.cleaned.contains c ∨ x.fill.isSome then s else
    (s.modCore c (fun k => k.l1Keep (fun y => y.asid != x.asid || y.kind == .loc))).modLaunch l
      (fun x => { x with cleaned := x.cleaned ++ [c] })

/-- Put a workgroup with given groups on a core at a base granule; its number. -/
def State.putWg (s : State) (l linear c b : Nat) (wgidx cx cy : Nat) (rope : Nat) (rounds : Tbl Nat)
    (mk : Launch → Nat → Nat → Option Group) : State × Nat :=
  match s.launches.look l with
  | none => (s, 0)
  | some x =>
    let k := x.hdr
    let s := (s.cleanCore l c).readyRows c x.asid (32 * b) k.gran
    let id := s.serial
    let gs : List (Nat × Group) := (List.range k.groups).filterMap (fun g => (mk x id g).map (fun y => (g, y)))
    let w : Wg := { launch := l, linear := linear, core := c, base := 32 * b, gran := k.gran, rope := some rope, wgidx := wgidx,
                    cx := cx, cy := cy, present := gs.foldl (fun m g => m ||| (1 <<< g.1)) 0, rounds := rounds }
    let s := { s with wgs := s.wgs.put id w, serial := s.serial + 1 }
    let s := gs.foldl (fun (s : State) g =>
      let g' : Group := { g.2 with uid := s.serial }
      { s with groups := s.groups.put (gkey c (s.freeCtx c (g.1 % 4))) g', serial := s.serial + 1 }) s
    ((s.modLaunch l (fun x =>
      let i : WgInfo := { x.wgAt linear with rest := .placed }
      { x with wgs := x.wgs.put linear i })).fixThrottle c, id)

/-- A placement takes its launch's turn. -/
def State.tookTurn (s : State) (l : Nat) : State :=
  { s with serial := s.serial + 1 }.modLaunch l (fun x =>
    { x with turns := s.serial + 1, aged := false, rect := none, waitFrom := s.dieClk, fitted := 0 })

/-- The place of workgroup index v of a rope of w columns and k workgroups a core: column and row (spec/12 R287). -/
def ropeCell (w k v : Nat) : Nat × Nat := (v / k % w, v / k / w)

/-- Put one workgroup of a launch without ropes; for stops it is a rope of its own (spec/12 R296). -/
def State.putOne (s : State) (l linear c b : Nat) (rounds : Tbl Nat) (mk : Launch → Nat → Nat → Option Group) : State × Nat :=
  let r := s.serial
  let x := { s with serial := r + 1 }.putWg l linear c b 0 0 0 r rounds mk
  let rp : Rope := { launch := l, ropeId := 0xFFFFFFFF, cluster := clusterOf c, origin := c % 16, w := 1, h := 1, k := 1,
                     wgs := [(0, x.2)], real := false, pcount := [], stop := none, pend := 0 }
  ({ x.1 with ropes := x.1.ropes.put r rp }, x.2)

/-- Put a whole rope at a rectangle whose bases are given: the workgroups from a linear number on, in a rope that is new or was
saved. -/
def State.putRope (s : State) (l first cl px py : Nat) (bases : List (Nat × List Nat)) (rounds : Nat → Tbl Nat)
    (mk : Nat → Launch → Nat → Nat → Option Group) : State :=
  match s.launches.look l with
  | none => s
  | some x =>
    let k := x.hdr
    let id := first / k.ropeN
    let old := s.ropes.find? (fun r => r.2.launch == l && r.2.ropeId == id && r.2.real)
    let key := match old with | some r => r.1 | none => s.serial
    let rp : Rope := { launch := l, ropeId := id, cluster := cl, origin := 4 * py + px, w := k.rw, h := k.rh, k := k.rk, wgs := [],
                       real := true, pcount := match old with | some r => r.2.pcount | none => [], stop := none, pend := 0 }
    let s := { s with ropes := s.ropes.put key rp, serial := s.serial + 1 }
    let n := min k.ropeN (x.total - first)
    let live := (List.range n).filter (fun v => (x.wgAt (first + v)).rest != .ended)
    live.foldl (fun s v =>
      let cell := ropeCell k.rw k.rk v
      let core := 16 * cl + 4 * (py + cell.2) + (px + cell.1)
      let b := (((bases.find? (fun y => y.1 == core)).map (fun y => y.2)).getD [])[v % k.rk]?.getD 0
      let y := s.putWg l (first + v) core b v cell.1 cell.2 key (rounds (first + v)) (mk (first + v))
      y.1.modRope key (fun r => { r with wgs := r.wgs.put v y.2 })) s

/-! Fill tasks (spec/16 R363, R372, R373) -/

/-- A generator record as the fill launcher reads it. -/
structure GenRecord where
  kernel : Nat
  blklog : Nat
  prio   : Nat
  vpol   : Nat
  args   : List Word
  deriving DecidableEq, Repr

/-- The record's fields, unless R363 refuses them for a block of this size. -/
def GenRecord.parse (x blklog : Nat) : Option GenRecord :=
  let r : GenRecord := { kernel := bits x 0 64, blklog := bits x 64 8, prio := bits x 72 8, vpol := bits x 80 8,
                         args := (List.range 8).map (fun i => BitVec.ofNat 32 (bits x (256 + 32 * i) 32)) }
  if bits x 88 8 = 1 ∧ bits x 96 160 = 0 ∧ r.blklog = blklog ∧ 9 ≤ r.blklog ∧ r.blklog ≤ 17 ∧ r.prio ≤ 7 ∧ 1 ≤ r.vpol ∧ r.vpol ≤ 3
  then some r else none

/-- An address lies on a generated line that neither its slice nor the victim store holds. -/
def State.absentGen (s : State) (w : EngWho) (va : Nat) : Bool :=
  s.onGen w va && (s.genLine? w.asid (va % 2 ^ 57 / 128)).isNone && (s.vsFind w.asid (va % 2 ^ 57 / 128)).isNone

/-- What the launcher finds for a tracker: the record and header, or a refusal. A read that waits for generated data counts as one
that faults (log 72). -/
def State.fillPlan (s : State) (t : Tracker) : State × Option (GenRecord × KHdr) :=
  let w := procWho t.asid
  if t.count ≤ t.genidx ∨ s.absentGen w t.record = true then (s, none) else
  match s.engRead w t.record 64 with
  | (s, .ok bs) =>
    match GenRecord.parse (leNat bs) t.blklog with
    | none => (s, none)
    | some r =>
      match s.readHeader w r.kernel with
      | (s, .ok (some k)) =>
        if k.flags.testBit 2 && !k.rope && k.dstk == 0 && k.localB == 0 && decide (2 ^ t.blklog ≤ k.scratch) && !k.overLimit &&
            !k.tooBig then (s, some (r, k)) else (s, none)
      | (s, _) => (s, none)
  | (s, _) => (s, none)

/-- The base granule of a fill's workgroup on a core: in ordinary capacity, or in a reserve that admits its level. -/
def State.fillFits (s : State) (k : KHdr) (level c : Nat) (reserve : Bool) : Option Nat :=
  if !s.coreOn c then none else
  -- ordinary capacity leaves the reserves whole
  let keep := if reserve then s.reserveFor c level else s.reserveFor c 0
  (fitsRoom (s.held c) (s.runs c) k 1 keep).bind (fun bs => bs.head?)

def State.fillSomewhere (s : State) (k : KHdr) (level : Nat) (reserve : Bool) : Bool :=
  (List.range 192).any (fun c => (s.fillFits k level c reserve).isSome)

/-- The fill request to be taken next among those that fit or are refused: highest priority, then higher level, then oldest. -/
def State.nextFill (s : State) : Option Nat :=
  let ready := s.trackers.filter (fun t => t.2.launch.isNone && (match (s.fillPlan t.2).2 with
    | none => true
    | some (_, k) => s.fillSomewhere k t.2.level true))
  (ready.foldl (fun (b : Option (Nat × Tracker)) t => match b with
    | none => some t
    | some u => if lexLt [7 - min 7 t.2.prio, 2 - t.2.level, t.2.posted] [7 - min 7 u.2.prio, 2 - u.2.level, u.2.posted] then some t
      else some u) none).map (fun t => t.1)

/-- The cluster of the first group parked on a block. -/
def Tracker.cluster (t : Tracker) : Option Nat := (t.parks.find? (fun p => decide (p.slot < 2))).map (fun p => clusterOf p.core)

/-- Ordinary capacity of the cluster of a block's first parked group fits, and the core lies in another (spec/16 R372). -/
def State.notPreferred (s : State) (k : KHdr) (t : Tracker) (core : Nat) : Bool :=
  match t.cluster with
  | none => false
  | some cl => clusterOf core != cl && (List.range 16).any (fun i => (s.fillFits k t.level (16 * cl + i) false).isSome)

/-- FILL_LAUNCH: the launcher takes the next fill request: a refused one is treated as FILLA; any other is placed on the core, in a
reserve only when no ordinary capacity fits, of the first parked group's cluster if that has some. The record's PRIO counts for
the tracker (spec/16 R371). -/
def execFillLaunch (tracker core : Nat) (s : State) : Out :=
  if s.nextFill ≠ some tracker then .next s else
  match s.trackers.look tracker with
  | none => .next s
  | some t =>
    match s.fillPlan t with
    | (s, none) => finish (s.decideBlock tracker none)
    | (s, some (r, k)) =>
      let ordinary := (s.fillFits k t.level core false).isSome
      if (!ordinary && s.fillSomewhere k t.level false) || s.notPreferred k t core then .next s else
      match s.fillFits k t.level core true with
      | none => .next s
      | some b =>
        match s.clearAll k.gran [(core, [b])] with
        | (s, false) => finish s
        | (s, true) =>
        let l := s.serial
        let va := (lineVa (t.block / 128)).toNat
        let prio := max t.prio r.prio
        let args := [BitVec.ofNat 32 va, BitVec.ofNat 32 (va / 2 ^ 32), BitVec.ofNat 32 t.record,
          BitVec.ofNat 32 (t.record / 2 ^ 32), BitVec.ofNat 32 (2 ^ t.blklog), BitVec.ofNat 32 t.genidx,
          BitVec.ofNat 32 (65536 * (tracker / 64) + tracker % 64), 0] ++ r.args
        let x : Launch :=
          { asid := t.asid, kernel := va64 r.kernel, hdr := k, prio := prio, args := args, localA := 0, dstkA := 0, saveA := 0,
            gx := 1, gy := 1, gz := 1, nlaunch := k.width, wgs := [], status := none, queue := none,
            stallchk := k.flags.testBit 3 || s.ctxFlags t.asid % 4 / 2 == 1, log := false, trace := false, placeable := false,
            preempting := false, aged := false, accepted := s.serial, turns := 0, fill := some tracker, cleaned := [], rect := none,
            waitFrom := 0, fitted := 0 }
        let x := { x with log := (s.ctxFlags t.asid).testBit 2, trace := (s.ctxFlags t.asid).testBit 3 }
        let s := { s with launches := s.launches.put l x, serial := s.serial + 1 }
        let s := s.modTracker tracker (fun t => { t with launch := some l, recPol := r.vpol, prio := prio })
        let s := s.count 268 1 1
        let s := if ordinary then s else s.count (192 + clusterOf core) 5 1
        finish (s.putOne l 0 core b [] (fun x id g =>
          let y := x.group l 0 id 0 g (s.core core).clk
          some { y with fillTask := true, level := t.level })).1

/-! Placements of the dispatcher (spec/14 R335) -/

def State.newGroup (s : State) (l linear core : Nat) (x : Launch) (id g : Nat) : Option Group :=
  some (x.group l 0 id linear g (s.core core).clk)

/-- WORKGROUP_PLACE: the dispatcher's next workgroup goes to a core where it fits. -/
def execWorkgroupPlace (launch core : Nat) (s : State) : Out :=
  if s.nextFill.isSome ∨ s.dispatchChoice ≠ some launch then .next s else
  match s.launches.look launch with
  | none => .next s
  | some x =>
    match x.next, s.fits launch x 1 core with
    | some i, some bs =>
      if x.hdr.rope || x.resumes then .next s else
      match s.clearAll x.hdr.gran [(core, bs)] with
      | (s, false) => finish s
      | (s, true) => finish ((s.putOne launch i core (bs.headD 0) [] (s.newGroup launch i core)).1.tookTurn launch)
    | _, _ => .next s

/-- ROPE_PLACE: the dispatcher's next rope goes as a whole to a rectangle where it fits (spec/12 R287, R288). -/
def execRopePlace (launch cluster x y : Nat) (s : State) : Out :=
  if s.nextFill.isSome ∨ s.dispatchChoice ≠ some launch then .next s else
  match s.launches.look launch with
  | none => .next s
  | some l =>
    match l.next, s.ropeFits launch l cluster x y with
    | some i, some bs =>
      if !l.hdr.rope || l.resumes then .next s else
      let core (v : Nat) : Nat := let c := ropeCell l.hdr.rw l.hdr.rk v; 16 * cluster + 4 * (y + c.2) + (x + c.1)
      match s.clearAll l.hdr.gran bs with
      | (s, false) => finish s
      | (s, true) => finish (((s.putRope launch i cluster x y bs (fun _ => []) (fun j => s.newGroup launch j (core (j - i)))).count
        (192 + cluster) 4 1).tookTurn launch)
    | _, _ => .next s

/-- ROPE_WAIT_RESERVE: a rope that has waited 65,536 clk has a rectangle kept for it, one that could hold it once the work there has
ended, and that no rope of its priority keeps (spec/12 R289). -/
def execRopeWaitReserve (launch cluster x y : Nat) (s : State) : Out :=
  match s.launches.look launch with
  | none => .next s
  | some l =>
    if l.waits && l.hdr.rope && l.rect.isNone && decide (l.waitFrom + 65536 ≤ s.dieClk) && !s.fitsSomewhere launch l &&
        s.rectCould l.hdr cluster x y && !s.rectClash launch l cluster x y then
      .next (s.modLaunch launch (fun l => { l with rect := some (cluster, x, y) }))
    else .next s

/-- LAUNCH_AGING: a launch whose next workgroup has fitted for 4,194,304 clk counts as priority 7 once (spec/14 R335). -/
def execLaunchAging (launch : Nat) (s : State) : Out :=
  match s.launches.look launch with
  | none => .next s
  | some l =>
    if l.waits && !l.aged && decide (4194304 ≤ l.fitted) then
      .next (s.modLaunch launch (fun l => { l with aged := true }))
    else .next s

/-! The end of groups, workgroups and launches (spec/02 R49, spec/07 R198, spec/12 R290, spec/14 R334) -/

/-- A workgroup has no group left and no operation on its way. -/
def State.wgIdle (s : State) (wg : Nat) : Bool := !s.wgBusy wg && !s.groups.any (fun g => g.2.wg == wg && g.1 % 65 != 64)

/-- A workgroup, and the rope that holds its rows, has ended. -/
def State.wgOver (s : State) (wg : Nat) (w : Wg) : Bool :=
  match w.rope.bind s.ropes.look with
  | some r => r.wgs.all (fun x => (s.wgs.look x.2).isSome && s.wgIdle x.2)
  | none => s.wgIdle wg

/-- Mark a placed workgroup as ended; the launch whose every workgroup has ended ends with OK. -/
def State.wgEnded (s : State) (w : Wg) : State :=
  let s := s.modLaunch w.launch (fun x =>
    let i := x.wgAt w.linear
    let j : WgInfo := { i with rest := if i.rest = .placed then .ended else i.rest, groups := [] }
    if i.rest = .placed then { x with wgs := x.wgs.put w.linear j } else x)
  match s.launches.look w.launch with
  | some x =>
    if x.status.isNone ∧ (List.range x.total).all (fun i => (x.wgAt i).rest == .ended) then s.endLaunch w.launch 0 0 0 0 0 0 0 else s
  | none => s

/-- Workgroups that are over go, with their rows and ropes. -/
def State.reap (s : State) : State :=
  let gone := s.wgs.filter (fun w => s.wgOver w.1 w.2)
  if gone = [] then s else
  let s := s.removeWgs (fun i _ => gone.any (fun w => w.1 == i))
  let s := { s with ropes := s.ropes.filter (fun r => !(r.2.wgs.any (fun x => gone.any (fun w => w.1 == x.2)))) }
  gone.foldl (fun s w => s.wgEnded w.2) s

/-- ALLOTMENT_RELEASE: an ended group leaves its context once its operations that write registers, or read or write tiles and
accumulators, are done (spec/02 R49, spec/08 R236). -/
def execAllotmentRelease (core ctx : Nat) (s : State) : Out :=
  match s.group? core ctx with
  | none => .next s
  | some g =>
    if g.ended && !(s.core core).ops.any (fun o => o.ctx == ctx && o.uid == g.uid && (!o.what.toMemory || o.uses != [])) then
      .next (s.removeGroup core ctx).reap
    else .next s

/-- Whether pre-emption of an ASID still has work: a workgroup of it, a fill task, an engine operation or chain, or a launch that
cannot be saved (spec/14 R344, spec/17 R394). -/
def State.preemptBusy (s : State) (asid : Nat) : Bool :=
  s.wgs.any (fun w => s.asid w.2.launch == asid) || s.cores.any (fun k => k.2.ops.any (fun o => o.asid == asid)) ||
  s.chans.any (fun k => k.2.running && k.2.who.asid == asid) ||
  s.launches.any (fun l => l.2.status.isNone && l.2.asid == asid && (l.2.fill.isSome || l.2.saveA == 0))

/-- BUSY falls (spec/14 R344). -/
def State.settlePreempt (s : State) : State :=
  if s.preempt.getLsbD 19 && !s.preemptBusy (bits s.preempt.toNat 0 16) then { s with preempt := s.preempt &&& 0xFFFF } else s

/-- One clk of the die: a launch whose next workgroup or rope fits somewhere has fitted for one more (spec/14 R335). -/
def State.ageLaunches (s : State) : State :=
  { s with launches := s.launches.mapAll (fun l x => if x.waits && s.fitsSomewhere l x then { x with fitted := x.fitted + 1 } else x) }

/-- What is due at a die's clk: launches age, and priorities that rose 200 clk ago have reached their fill tasks (spec/16 R371). -/
def State.dieTick (s : State) : State :=
  (s.ageLaunches.trackers.filter (fun t => decide (t.2.risen + 200 ≤ s.dieClk))).foldl (fun s t => s.passPrio t.1) s.ageLaunches

/-- CLK_ADVANCE: the count advances, a throttle window that is over ends, fixed-latency results due are written, and slots that look
again at each clk do so. -/
def execClkAdvance (core : Nat) (s : State) : Out :=
  let t := s.modCore core (fun k => { k with clk := k.clk + 1 })
  let s := if s.dieClk < t.dieClk then t.dieTick else t
  let s := if s.windowOver core then s.endWindow core else s
  let s := (s.commitDue core).reap.settlePreempt
  finish { s with groups := s.groups.mapAll (fun k g => if k / 65 = core ∧ g.save ≠ SaveMode.done then
    { g with slot0 := g.slot0.look s core, slot1 := g.slot1.look s core } else g) }

end Sys2Proof.Machine
end

