-- ==== Sys2Proof/Machine/Faults.lean ====
section
/-! DEFINITION. Answers to page faults, page walks, ring records and the counter sweep; generated lines' own steps
(spec/14 R324-R332, R347; spec/16 R360, R370, R374, R382-R384). -/

namespace Sys2Proof.Machine

/-! FLTRESP (spec/14 R332) -/

/-- A slot whose fetch or stack access waited for the fault goes on; its lanes that waited replay. -/
def Slot.answered (sl : Slot) (seq : Nat) (bad : Bool) : Slot :=
  let sl := if sl.wait = .fetch seq ∨ sl.wait = .pend (.fault seq) then { sl with wait := .none, fatal := bad } else sl
  { sl with replay := sl.replay.map (fun r => { r with why := r.why.map (fun x =>
      if x.2 = .fault seq then (x.1, if bad then .fatal else .ready 0) else x) }) }

/-- The fault with this SEQ is answered: it is outstanding no more, and its groups' waits end. -/
def State.answer (s : State) (seq : Nat) (bad : Bool) : State :=
  { s with faults := s.faults.filter (fun f => f.seq != seq),
           packets := s.packets.map (fun p => if p.held = some seq then { p with held := none, fatal := bad } else p),
           queues := s.queues.mapAll (fun _ x =>
             let y := if x.held = some seq then { x with held := none, fatal := bad, work := true } else x
             if y.doneHeld = some seq then { y with doneHeld := none, doneFatal := bad, work := true } else y),
           groups := s.groups.mapAll (fun _ g => { g with slot0 := g.slot0.answered seq bad, slot1 := g.slot1.answered seq bad }) }

/-- FLTRESP_RETRY: every waiter's walk is made again; a write-back that waited writes its line, or waits anew (spec/07 R438). -/
def execFltrespRetry (seq : Nat) (s : State) : Out :=
  if !s.faults.any (fun f => f.seq == seq) then .next s else
  let s := s.answer seq false
  let isIt (h : Option (Nat × Nat)) : Bool := h.any (fun x => x.1 == seq)
  let wb := s.wbHeld.filter (fun w => w.2.2.2 == seq)
  let s := { s with
    cores := s.cores.mapAll (fun _ k => { k with ops := k.ops.map (fun o => if isIt o.held then { o with held := none } else o) }),
    chans := s.chans.mapAll (fun _ k => if k.held = some seq then { k with held := none } else k),
    wbHeld := s.wbHeld.filter (fun w => w.2.2.2 != seq), devHeld := s.devHeld.filter (fun d => d.1 != seq) }
  finish (wb.foldl (fun s w => s.tryBack w.1 w.2.1 w.2.2.1) s)

/-- A channel whose fault was declared unresolved stops in ERR, storing −1 to its record's signal where the record has been read and
that can be written; a channel whose fault was that store's own stops with the cause it failed with. -/
def State.failChan (s : State) (ch : Nat) : State :=
  let k := s.chan ch
  match k.dead with
  | some (c, _) => s.stopChan ch (some (c % 256))
  | none =>
    if ((List.range 4).all fun i => (partAt k.parts (3 * (k.recA / 16 + i) + 2)).isSome) then
      let r := ChanRec.ofNat (leNat ((List.range 64).map (fun i => partByte k.parts 2 (k.recA + i))))
      s.chanFatal ch 7 (if r.done = 1 ∨ r.done = 2 then some r.sig else none)
    else s.stopChan ch (some 7)

/-- FLTRESP_UNRESOLVED: every waiter's fault is fatal with cause PAGE_FAULT: groups trap at their replay, engine operations end
their launch, as do the device's own accesses to a save area, channels stop, a write-back's data is lost. -/
def execFltrespUnresolved (seq : Nat) (s : State) : Out :=
  match s.faults.find? (fun f => f.seq == seq) with
  | none => .next s
  | some f =>
    let s := s.answer seq true
    let ops := s.cores.flatMap (fun k => (k.2.ops.filter (fun o => o.held.any (fun x => x.1 == seq))).map (fun o => (k.1, o)))
    let s := ops.foldl (fun s x => s.engineFault x.1 x.2 7 ((x.2.held.map (fun y => y.2)).getD 0) (f.kind == 1)) s
    let s := (s.chans.filter (fun k => k.2.held == some seq)).foldl (fun s k =>
      (s.setChan k.1 { k.2 with held := none }).failChan k.1) s
    let dev := s.devHeld.filter (fun d => d.1 == seq)
    let s := dev.foldl (fun s d =>
      if d.2.2 then s.modRope d.2.1 (fun r => { r with stop := r.stop.map (fun t => { t with dumped := true }) })
      else s.endLaunch d.2.1 9 7 (va64 (f.page * 4096)) 0 (4 + (if f.kind = 1 then 1 else 0)) 0 s.dieClk)
      { s with devHeld := s.devHeld.filter (fun d => d.1 != seq) }
    let wb := s.wbHeld.filter (fun w => w.2.2.2 == seq)
    let s := { s with wbHeld := s.wbHeld.filter (fun w => w.2.2.2 != seq) }
    finish (wb.foldl (fun s w => match (s.core w.1).l1Find w.2.1 w.2.2.1 with
      | some l => if l.dirty = 0 then s else s.loseBack w.1 l 7
      | none => s) s)

/-- PAGE_WALK: a cluster's translation unit walks for an address, sets A and fills its TLB (spec/14 R326, R328). -/
def execPageWalk (cluster asid va : Nat) (s : State) : Out := finish (s.translate cluster asid (va64 va) .read).1

/-! Rings (spec/14 R330) -/

def ringBytes (k : Nat) : Nat := match k with | 2 => 32 | 3 => 160 | _ => 64

/-- A word of the MSI-X table as nothing has written it: PCI Express masks every vector at reset (log 89). -/
def msixReset (i : Nat) : Word := if i % 4 = 3 then 1 else 0

/-- Word i of the MSI-X table, four to a vector (spec/17 R409). -/
def State.msixWord (s : State) (i : Nat) : Word := s.msix.lookD (msixReset i) i

/-- Raise an MSI-X vector: sent, or pending while its table entry is masked; a part with host option N sends it over the fabric
with its number modulo 128 to the device of FABCFG.MSIDEV; with no route the message is lost: the model's choice (spec/17 R409, R415;
log 98). -/
def State.raiseMsi (s : State) (vec : Nat) : State :=
  if s.life.optN then
    let dev := bits s.fabcfg.toNat 27 2
    match s.peerRoute dev 0 with
    | some p => s.send p none (.msi dev (vec % 128))
    | none => s
  else if (s.msixWord (4 * vec + 3)).getLsbD 0 then
    { s with msiPend := if s.msiPend.contains vec then s.msiPend else s.msiPend ++ [vec] }
  else { s with msiSent := s.msiSent ++ [vec] }

/-- The records that wait for a ring that is off are dropped, sample and trace records counted; report records stay (spec/14 R330). -/
def State.ringIdle (s : State) (k : Nat) : State :=
  let r := s.rings.lookD Ring.reset k
  if k = 0 ∨ r.on ∨ r.wait = [] then s else
  let t := { s with rings := s.rings.put k { r with wait := [] } }
  if k = 3 then t else t.count 268 4 r.wait.length

/-- A ring turns off: sample and trace records that wait are dropped and counted, log records dropped, report records held. -/
def State.ringOff (s : State) (k : Nat) : State :=
  { s with rings := s.rings.put k { s.rings.lookD Ring.reset k with off := true } }.ringIdle k

/-- RING_RECORD_WRITE: the oldest record waiting goes to its place in ASID 0, HEAD advances, the vector is raised. -/
def execRingRecordWrite (ring : Nat) (s : State) : Out :=
  let r := s.rings.lookD Ring.reset ring
  match r.wait with
  | [] => .next s
  | rec_ :: rest =>
    if !r.on then .next (s.ringIdle ring)
    else if r.size.toNat ≤ (r.head - r.tail).toNat then
      if ring = 1 ∨ ring = 2 then .next ({ s with rings := s.rings.put ring { r with wait := rest } }.count 268 4 1) else .next s
    else
      let a := r.base.toNat + ringBytes ring * (r.head.toNat % r.size.toNat)
      let w := procWho 0
      match State.engPlaces (firstOfLines ((List.range (ringBytes ring)).map (fun i => a + i))) s w [] with
      | (s, .ok ps) =>
        let s := s.engWrite w ps (cellsFrom a rec_)
        finish ({ s with rings := s.rings.put ring { r with wait := rest, head := r.head + 1 } }.raiseMsi (r.vec.toNat % 2048))
      | (s, _) => finish (s.ringOff ring)

/-- COUNTER_SWEEP: each counter's change since the last sweep is added to its total (spec/14 R347; log 23). -/
def execCounterSweep (s : State) : Out :=
  if s.cntbase = 0 then .next s else
  let s := s.counters.foldl (fun s x =>
    let d := (x.2 - s.swept.lookD 0 x.1).toNat
    if d = 0 then s else
    let a := s.cntbase.toNat + 8 * x.1
    s.cohWrite false (cellsFrom a (leBytes 8 ((s.numAt false a 8 + d) % 2 ^ 64)))) s
  finish { s with swept := s.counters }

/-! Misses sent again (spec/16 R365, R370) -/

/-- What a held lane's new arrival at its home comes to. -/
def State.resend (s : State) (e : Env) (va : DWord) : State × Pend :=
  match s.translate (clusterOf e.core) e.asid va .read with
  | (s, .ok x) =>
    if !x.gen then (s, .ready 0) else
    match s.homeMiss (e.req (va.toNat % 2 ^ 57) x) with
    | (s, .parked b) => (s, .parked e.asid b)
    | (s, .held k) => (s, .held k false)
    | (s, _) => (s, .ready 0)
  | (s, _) => (s, .ready 0)

/-- A slot's lanes held for these slices send their misses again, once a fill of the slice has ended. -/
def State.resendSlot (s : State) (c ctx n : Nat) (p : Nat → Bool) : State :=
  match s.envAt c ctx n 1 with
  | none => s
  | some e =>
    match e.sl.replay with
    | none => s
    | some r =>
      let x := r.why.foldl (fun (x : State × List (Nat × Pend)) w =>
        match w.2 with
        | .held k true =>
          if p k then
            match r.op.lanes.find? (fun l => l.lane == w.1) with
            | some l => let y := x.1.resend e (r.op.vaOf e l); (y.1, x.2 ++ [(w.1, y.2)])
            | none => (x.1, x.2 ++ [(w.1, .ready 0)])
          else (x.1, x.2 ++ [w])
        | _ => (x.1, x.2 ++ [w])) (s, [])
      x.1.modSlot c ctx n (fun sl => { sl with replay := sl.replay.map (fun r => { r with why := x.2 }) })

/-- HOME_MISS: one held requester's misses arrive at their homes again; a first miss arrives within its load's own step. -/
def execHomeMiss (core ctx slot : Nat) (s : State) : Out := finish (s.resendSlot core ctx slot (fun _ => true))

/-- HELD_REQUESTER_RESEND: every held requester of a slice sends its miss again. -/
def execHeldRequesterResend (slice : Nat) (s : State) : Out :=
  finish (s.groups.foldl (fun s x =>
    (s.resendSlot (x.1 / 65) (x.1 % 65) 0 (fun k => k == slice)).resendSlot (x.1 / 65) (x.1 % 65) 1 (fun k => k == slice)) s)

/-- IMPLICIT_FILLA: a fill task that ended with its block undecided (spec/16 R374). -/
def execImplicitFilla (launch : Nat) (s : State) : Out :=
  match s.launches.look launch, s.taskTracker launch with
  | some x, some (k, t) => if x.status.isSome ∧ !t.decided then .next (s.decideBlock k none) else .next s
  | _, _ => .next s

/-- LLC_EVICTION: a slice gives up a generated line that is not marked PIN (spec/16 R384). -/
def execLlcEviction (asid line : Nat) (s : State) : Out :=
  match s.genLine? asid line with
  | some l => if l.pol = 3 ∧ !l.poison then .next s else .next (s.leaveGen asid line)
  | none => .next s

/-- Generated lines leave the last-level cache, and every victim entry is dropped (spec/16 R382, R384). -/
def State.dropStore (s : State) : State :=
  let s := (s.genLines.filter (fun l => !l.poison)).foldl (fun s l => s.leaveGen l.asid l.line) s
  if s.vsSteps = 0 then s else s.vsClear

/-- VSBASE_WRITE: the old store's entries are dropped; the new one begins empty. -/
def execVsbaseWrite (v : Nat) (s : State) : Out :=
  let s := { s.dropStore with vsbase := BitVec.ofNat 64 (bits v 26 26 * 2 ^ 26) }
  .next (if s.vsSteps = 0 then s else s.vsClear)

/-- VSSIZE_WRITE: at most 384 steps are stored. -/
def execVssizeWrite (v : Nat) (s : State) : Out :=
  let s := { s.dropStore with vssize := BitVec.ofNat 64 (min 384 (bits v 0 9)) }
  .next (if s.vsSteps = 0 then s else s.vsClear)

end Sys2Proof.Machine
end

