-- ==== Sys2Proof/Machine/Save.lean ====
section
/-! DEFINITION. The save area of a group, as the device writes and reads it (spec/02 R63, R64; spec/14 R339). -/

namespace Sys2Proof.Machine

def pad64 (bs : List Byte) : List Byte := bs ++ List.replicate (roundUp bs.length 64 - bs.length) 0

/-- The fields of a group header. -/
structure SaveHdr where
  pc0   : BitVec 32
  rcv0  : BitVec 32
  pc1   : BitVec 32
  rcv1  : BitVec 32
  mask0 : DWord
  mask1 : DWord
  fcnt  : List Nat
  fpcr  : Word
  fpsr  : Word
  state : Nat
  dstk  : DWord
  deriving DecidableEq, Repr

def SaveHdr.bytes (h : SaveHdr) : List Byte :=
  leBytes 4 h.pc0.toNat ++ leBytes 4 h.rcv0.toNat ++ leBytes 4 h.pc1.toNat ++ leBytes 4 h.rcv1.toNat ++ leBytes 8 h.mask0.toNat ++
  leBytes 8 h.mask1.toNat ++ h.fcnt.flatMap (fun n => leBytes 1 n) ++ leBytes 4 h.fpcr.toNat ++ leBytes 4 h.fpsr.toNat ++
  leBytes 4 h.state ++ leBytes 8 h.dstk.toNat

/-- The fields of a header's 64 bytes; the reserved bits of FPCR and FPSR are not taken (spec/01 R34). -/
def SaveHdr.parse (x : Nat) : SaveHdr :=
  { pc0 := BitVec.ofNat 32 (bits x 0 32), rcv0 := BitVec.ofNat 32 (bits x 32 32), pc1 := BitVec.ofNat 32 (bits x 64 32),
    rcv1 := BitVec.ofNat 32 (bits x 96 32), mask0 := BitVec.ofNat 64 (bits x 128 64), mask1 := BitVec.ofNat 64 (bits x 192 64),
    fcnt := (List.range 12).map (fun n => bits x (256 + 8 * n) 6), fpcr := BitVec.ofNat 32 (bits x 352 5),
    fpsr := BitVec.ofNat 32 (bits x 384 6), state := bits x 416 32, dstk := BitVec.ofNat 64 (bits x 448 64) }

/-- STATE: ROLE, the JOIN waits, SLOT1V, DEPTH. -/
def Group.saveState (g : Group) : Nat :=
  g.depth + (if g.slot1.valid then 2 ^ 8 else 0) + (if g.slot0.wait = .join then 2 ^ 9 else 0)
    + (if g.slot1.wait = .join then 2 ^ 10 else 0) + 2 ^ 12 * g.role

/-- The header of a group as it stands. That PC0 and RCV0 are zero when slot 0 is empty is the model's choice (log 80). -/
def Group.saveHdr (g : Group) : SaveHdr :=
  let off (sl : Slot) : BitVec 32 := if sl.valid then codeOff g.kernel sl.clause else 0
  let rcv (sl : Slot) : BitVec 32 := if sl.valid then sl.reconv else 0
  let mask (sl : Slot) : DWord := if sl.valid then sl.mask else 0
  { pc0 := off g.slot0, rcv0 := rcv g.slot0, pc1 := off g.slot1, rcv1 := rcv g.slot1, mask0 := mask g.slot0, mask1 := mask g.slot1,
    fcnt := (List.range 12).map (fun n => (g.flags.lookD 0 n).toNat), fpcr := g.fpcr, fpsr := g.fpsr, state := g.saveState,
    dstk := g.dstkBase }

/-- The sections after the header. -/
def Group.sections (g : Group) : List Byte :=
  let lanes := List.range g.width
  pad64 ((List.range g.vAlloc).flatMap (fun r => lanes.flatMap (fun l => leBytes 4 (g.v.lookD 0 (r * 64 + l)).toNat))) ++
  pad64 ((List.range g.sAlloc).flatMap (fun r => leBytes 4 (g.s.lookD 0 r).toNat)) ++
  pad64 ((List.range g.pAlloc).flatMap (fun r => leBytes 8 (g.p.lookD 0 r).toNat)) ++
  pad64 ((List.range g.tAlloc).flatMap (fun t => g.tileData t ++ leBytes 16 (g.tagOf t).toNat)) ++
  pad64 ((List.range g.aAlloc).flatMap (fun a => (g.accData a).flatMap (fun w => leBytes 4 w.toNat) ++ leBytes 8 (g.atagOf a).toNat))

/-- The whole save area. -/
def Group.saveArea (g : Group) : List Byte := g.saveHdr.bytes ++ g.sections

/-- Words of n bytes each. -/
def chunks (n : Nat) : Nat → List Byte → List Nat
  | 0, _ => []
  | k + 1, bs => leNat (bs.take n) :: chunks n k (bs.drop n)

/-- A table of the values of a list that differ from the default. -/
def tblOf {α : Type} [DecidableEq α] (d : α) (l : List (Nat × α)) : Tbl α := l.filter (fun x => x.2 ≠ d)

/-- Load the sections of a save area; reserved bits of tags are not taken (spec/00 R7). -/
def Group.loadSections (g : Group) (bs : List Byte) : Group :=
  let nv := g.vAlloc * g.width
  let ov := 0
  let os := roundUp (4 * nv) 64
  let op := os + roundUp (4 * g.sAlloc) 64
  let ot := op + roundUp (8 * g.pAlloc) 64
  let oa := ot + roundUp (8208 * g.tAlloc) 64
  let words := (chunks 4 nv (bs.drop ov)).map (fun x => BitVec.ofNat 32 x)
  let g1 : Group :=
    { g with
      v := tblOf 0 ((words.zipIdx).map (fun x => (x.2 / g.width * 64 + x.2 % g.width, x.1))),
      s := tblOf 0 ((((chunks 4 g.sAlloc (bs.drop os)).map (fun x => BitVec.ofNat 32 x)).zipIdx).map (fun x => (x.2, x.1))),
      p := tblOf 0 ((((chunks 8 g.pAlloc (bs.drop op)).map (fun x => BitVec.ofNat 64 x)).zipIdx).map (fun x => (x.2, x.1))) }
  let g2 := (List.range g.tAlloc).foldl (fun (g : Group) t =>
    let b := bs.drop (ot + 8208 * t)
    g.setTile t (b.take 8192) (BitVec.ofNat 128 (leNat ((b.drop 8192).take 16)) &&& 0x3FFF1F)) g1
  (List.range g.aAlloc).foldl (fun (g : Group) a =>
    let b := bs.drop (oa + 16392 * a)
    let t : BitVec 64 := BitVec.ofNat 64 (leNat ((b.drop 16384).take 8)) &&& 0xFFFC1
    { g with accs := g.accs.setRange 0 (a * 4096) (if t.getLsbD 0 then List.replicate 4096 0
        else (chunks 4 4096 b).map (fun x => BitVec.ofNat 32 x)),
             atags := g.atags.putD freshTag a t }) g2

/-- Bytes of the full save area of a kernel's group. -/
def KHdr.areaSize (k : KHdr) : Nat :=
  64 + roundUp (4 * k.vAlloc * k.width) 64 + roundUp (4 * k.sAlloc) 64 + roundUp (8 * k.pAlloc) 64 + roundUp (8208 * k.tcnt) 64
    + roundUp (16392 * k.acnt) 64

/-- SLOTSZ and WGSZ (spec/14 R339). -/
def KHdr.slotSize (k : KHdr) : Nat := roundUp (max k.areaSize (128 + k.sptab.foldl (fun m e => max m e.2.2.2) 0)) 64
def KHdr.blockSize (k : KHdr) : Nat := 12288 * k.gran + k.groups * k.slotSize

/-- The address of a workgroup's block, and of a group's slot in it. -/
def Launch.blockAt (x : Launch) (linear : Nat) : Nat := x.saveA.toNat + linear * x.hdr.blockSize
def Launch.slotAt (x : Launch) (linear g : Nat) : Nat := x.blockAt linear + 12288 * x.hdr.gran + g * x.hdr.slotSize

/-- The device's access for a launch or a rope's dump waits for a page fault; its record has FLAGS.ENGINE set. -/
def State.devHold (s : State) (c asid va : Nat) (write : Bool) (key : Nat × Bool) : State :=
  let x := s.raiseFault asid (va64 va) (if write then .write else .read) true 0 0 (s.core c).clk
  { x.1 with devHeld := if x.1.devHeld.contains (x.2, key) then x.1.devHeld else x.1.devHeld ++ [(x.2, key)] }

/-- The device writes bytes under an ASID, from a core; a page fault holds it. -/
def State.devWrite (s : State) (c asid va : Nat) (bs : List Byte) (key : Nat × Bool) (go : State → State) (bad : State → State) :
    State :=
  let w := { procWho asid with core := c }
  match State.engPlaces (firstOfLines ((List.range bs.length).map (fun i => va + i))) s w [] with
  | (s, .ok ps) => go (s.engWrite w ps (cellsFrom va bs))
  | (s, .page a wr) => s.devHold c asid a wr key
  | (s, .wait) => s
  | (s, .fatal _ _ _) => bad s

/-- Bytes of a core's array from a place on. -/
def State.arrayBytes (s : State) (c a n : Nat) : List Byte := (s.core c).array.range 0 a n

end Sys2Proof.Machine
end

