-- ==== Sys2Proof/Machine/Preempt.lean ====
section
/-! DEFINITION. Pre-emption: requests, stops, saves, discards and resumption (spec/14 R338-R344; spec/08 R237; spec/06 R177). -/

namespace Sys2Proof.Machine

/-- Workgroups that are saved or discarded together: a rope's, or one. -/
def State.unitOf (s : State) (wg : Nat) : List Nat :=
  match s.ropeOf wg with
  | some (_, r) => r.wgs.map (fun x => x.2)
  | none => [wg]

def State.groupsOf (s : State) (wg : Nat) : List (Nat × Group) := s.groups.filter (fun x => x.2.wg == wg && x.1 % 65 != 64)

/-! Discards (spec/14 R343) -/

/-- A group is in a region, outside its handler, and not being saved. -/
def Group.mayDiscard (g : Group) (k : KHdr) : Bool :=
  (g.inRegion || k.flags.testBit 0) && !g.inHandler && g.save == .none && !g.ended

/-- A workgroup qualifies: every one of its groups is present and may be discarded. -/
def State.wgDiscards (s : State) (wg : Nat) : Bool :=
  match s.wgs.look wg with
  | none => false
  | some w =>
    let k := s.khdr w.launch
    let gs := s.groupsOf wg
    gs.length == k.groups && gs.all (fun x => x.2.mayDiscard k && !s.stopped x.2)

/-- Operations a discard drops, though their destination is no register: copies into scratchpad and top-k. -/
def What.dropped : What → Bool
  | .copy c => c.kind == 0 || c.kind == 2
  | .topk _ _ _ _ _ _ => true
  | .resid _ _ _ _ => true
  | _ => false

/-- Discard a workgroup: its stores are performed, its operations dropped but those to global memory, its groups recorded. -/
def State.discardWg (s : State) (wg : Nat) : State :=
  match s.wgs.look wg with
  | none => s
  | some w =>
    let k := s.khdr w.launch
    let gs := s.groupsOf wg
    let s := gs.foldl (fun s x => s.drainGroup (x.1 / 65) x.2.uid) s
    let args := match s.launches.look w.launch with | some x => x.args | none => []
    let recs := gs.map (fun x => if k.flags.testBit 0 then (x.2.grpid, codeAddr x.2.kernel k.entry, (args.zipIdx).map (fun a => (a.2, a.1)))
      else (x.2.grpid, x.2.regionEntry, x.2.snapshot))
    let struck := gs.map (fun x => (x.2.grpid, decide (0 < (s.core (x.1 / 65)).belayCount (x.1 % 65)) || x.2.lostStruck))
    let saved : List SavedGroup := gs.map (fun x =>
      { grpid := x.2.grpid, routine := false, ended := false, launched := x.2.launched, helper := x.2.helper, slot0 := x.2.slot0,
        slot1 := x.2.slot1, owners := [], clause := 0, arrived := [],
        hadBelay := struck.any (fun t => t.1 == x.2.grpid && t.2), fmask := x.2.fmask, ffirst := x.2.ffirst, faddr := x.2.faddr,
        trapCause := x.2.trapCause, inRegion := false, regionEntry := 0, snapshot := [], barFlags := [], clkCap := [] })
    let s := s.modCore w.core (fun c => { c with ops := c.ops.filter (fun o => !(o.wg == wg && o.what.dropped)) })
    let s := gs.foldl (fun s x => s.removeGroup (x.1 / 65) (x.1 % 65)) s
    s.modLaunch w.launch (fun x =>
      let i : WgInfo := { rest := .discarded recs, groups := saved, rounds := [] }
      { x with wgs := x.wgs.put w.linear i })

/-- Discard the workgroup, or whole rope, if all of it qualifies. -/
def State.tryDiscard (s : State) (wg : Nat) : State × Bool :=
  let u := s.unitOf wg
  if u != [] && u.all (fun i => s.wgDiscards i) then ((u.foldl (fun s i => s.discardWg i) s).reap, true) else (s, false)

/-! Requests (spec/14 R338) -/

/-- The request to a launch: it stops being placed, its slots count clauses, its monitors fire. -/
def State.askLaunch (s : State) (l : Nat) : State :=
  let s := s.modLaunch l (fun x => { x with preempting := true, placeable := false })
  { s with groups := s.groups.mapAll (fun _ g => if g.launch = l then
      { g.fire with slot0 := { g.fire.slot0 with passed := 0 }, slot1 := { g.fire.slot1 with passed := 0 } } else g) }

/-- PREEMPT_PRE: pre-empt every launch of an ASID that has a save region; ignored while BUSY. -/
def execPreemptPre (asid : Nat) (s : State) : Out :=
  if s.preempt.getLsbD 19 then .next s else
  let s := { s with preempt := BitVec.ofNat 64 (asid % 65536) ||| 0x80000 }
  let ls := (s.launches.filter (fun x => x.2.status.isNone && x.2.fill.isNone && x.2.asid == asid && x.2.saveA != 0)).map (·.1)
  let s := ls.foldl State.askLaunch s
  let ws := (s.wgs.filter (fun w => ls.contains w.2.launch)).map (·.1)
  finish (ws.foldl (fun s w => (s.tryDiscard w).1) s).settlePreempt

/-- PREEMPT_RES: the pre-empted launches of an ASID may be placed again. -/
def execPreemptRes (asid : Nat) (s : State) : Out :=
  if s.preempt.getLsbD 19 then .next s else
  .next { s with preempt := BitVec.ofNat 64 (asid % 65536), launches := s.launches.mapAll (fun _ x =>
    if x.status.isNone ∧ x.asid = asid ∧ x.preempting then { x with preempting := false, placeable := true, waitFrom := s.dieClk, fitted := 0 } else x) }

/-- PREEMPT_KILL: every launch of an ASID ends with KILLED. -/
def execPreemptKill (asid : Nat) (s : State) : Out :=
  if s.preempt.getLsbD 19 then .next s else
  let ls := (s.launches.filter (fun x => x.2.status.isNone && x.2.fill.isNone && x.2.asid == asid)).map (·.1)
  .next (ls.foldl (fun s l => s.endLaunch l 10 0 0 0 0 0 s.dieClk) { s with preempt := BitVec.ofNat 64 (asid % 65536) })

/-! Stops (spec/14 R340) -/

def Slot.atWait (sl : Slot) : Bool :=
  match sl.wait with
  | .barwg _ _ => true
  | .barrp _ => true
  | .bwait _ _ _ => true
  | .join => true
  | _ => false

def Slot.atStopPoint (sl : Slot) : Bool := !sl.valid || sl.atStop || sl.atWait

/-- A slot that arrives at a safe point while its launch is being pre-empted stops there, unless a member of its quartet waits at
the gate (spec/08 R237), once its header has passed the checks of every header (spec/03 R67, spec/14 R342); any other arrival takes
the steps of R142. -/
def State.stopOrArrive (s : State) (c ctx n : Nat) : State :=
  match s.envAt c ctx n 1 with
  | none => s
  | some e =>
    let asked := (match s.launches.look e.g.launch with | some x => x.preempting && x.status.isNone | none => false) &&
      e.g.save == .none && !e.g.inHandler && !e.sl.safePast && e.ctx != 64 && !s.atGate c e.g.wg (e.g.grpid / 4)
    if !asked || (e.k.safeAt (codeOff e.g.kernel e.sl.clause)).isNone then s.arrive c ctx n else
    match s.fetchWord e e.sl.clause with
    | (t, .word w) =>
      if headerOk w && e.regionOk w e.sl.clause e.sl.afterBarwg && hdrSafe w then t.modSlot c ctx n (fun sl => { sl with atStop := true, fatal := false }) else s.arrive c ctx n
    | _ => s.arrive c ctx n

/-- PREEMPT_OVERRUN: a slot has passed SPGAP clause headers without a stop: one TYPE 4 report for its group. -/
def execPreemptOverrun (core ctx slot : Nat) (s : State) : Out :=
  match s.group? core ctx with
  | none => .next s
  | some g =>
    let sl := g.slotOf slot
    match s.launches.look g.launch with
    | none => .next s
    | some x =>
      let far (n : Nat) : Bool := decide (x.hdr.spgap ≤ n)
      if x.preempting && sl.valid && !sl.atStopPoint && far sl.passed && decide (g.slot0.passed < 2 ^ 40) &&
          decide (g.slot1.passed < 2 ^ 40) then
        .next ((s.report 4 0 x.asid 0 sl.pc 0 0 (s.stamp core g slot false) (s.core core).clk).modGroup core ctx (fun g =>
          { g with slot0 := { g.slot0 with passed := 2 ^ 40 }, slot1 := { g.slot1 with passed := 2 ^ 40 } }))
      else .next s

/-! Saves (spec/14 R341) -/

/-- Start the save routine of a slot at a safe point: handler state, and the routine area's address in the last S pair. -/
def State.startSave (s : State) (c ctx n : Nat) (save : BitVec 32) (area : Nat) : State :=
  s.modGroup c ctx (fun g =>
    let sl := g.slotOf n
    let t : TrapCtx := { slot := n, clause := sl.clause, pos := 0, pc := sl.clause, hdr := 0, mask := sl.mask, reconv := sl.reconv,
                         atHeader := true, isMem := false, other := false, len := 1, regs := none }
    let g1 : Group := { g with inHandler := true, trapCtx := some t, save := .saving,
                               s := (g.s.putD 0 (g.sAlloc - 2) (BitVec.ofNat 32 area)).putD 0 (g.sAlloc - 1) (BitVec.ofNat 32 (area / 2 ^ 32)) }
    g1.setSlot n { sl.goTo (codeAddr g.kernel save) with atStop := false, reconv := 0, wait := .none })

/-- The header of a group whose save routine has ended: FCNT zero, slot 0 at the safe clause. -/
def Group.routineHdr (g : Group) : SaveHdr :=
  match g.trapCtx with
  | none => g.saveHdr
  | some t =>
    { g.saveHdr with
      pc0 := codeOff g.kernel t.clause, rcv0 := t.reconv, pc1 := 0, rcv1 := 0, mask0 := t.mask &&& g.live, mask1 := 0,
      fcnt := List.replicate 12 0, state := g.depth + 2 ^ 12 * g.role }

/-- No operation of the group whose destination is one of its registers is left; barriers it waits at are not counted. -/
def State.groupQuiet (s : State) (c : Nat) (g : Group) : Bool :=
  !(s.core c).ops.any (fun o => o.uid == g.uid && !o.what.toMemory && o.what != .barrier)

/-- What the device keeps of a group beside its save area. -/
def State.keep (s : State) (c ctx : Nat) (g : Group) : SavedGroup :=
  { grpid := g.grpid, routine := g.trapCtx.isSome, ended := g.ended, launched := g.launched, helper := g.helper, slot0 := g.slot0,
    slot1 := g.slot1, owners := g.owners, clause := 0, arrived := g.arrived,
    hadBelay := decide (0 < (s.core c).belayCount ctx) || g.lostStruck, clkCap := g.clkCap, fmask := g.fmask, ffirst := g.ffirst, faddr := g.faddr,
    trapCause := g.trapCause, inRegion := g.inRegion, regionEntry := g.regionEntry, snapshot := g.snapshot,
    barFlags := ((s.core c).ops.filter (fun o => o.uid == g.uid && o.what == .barrier)).filterMap (fun o =>
      o.flag.map (fun f => (o.slot, f))) }

/-- Every group of a workgroup is saved, or has ended. -/
def State.wgStopped (s : State) (wg : Nat) : Bool := (s.groupsOf wg).all (fun x => x.2.save == .done || x.2.ended)

/-- Nothing of a workgroup is on its way. -/
def State.wgQuiet (s : State) (wg : Nat) : Bool := !s.cores.any (fun k => k.2.ops.any (fun o => o.wg == wg && o.what != .barrier))

/-- Record a saved workgroup and remove it. -/
def State.takeOff (s : State) (wg : Nat) : State :=
  match s.wgs.look wg with
  | none => s
  | some w =>
    let gs := s.groupsOf wg
    let saved := gs.map (fun x => s.keep (x.1 / 65) (x.1 % 65) x.2)
    let s := gs.foldl (fun s x => s.removeGroup (x.1 / 65) (x.1 % 65)) s
    let s := s.removeWgs (fun i _ => i == wg)
    s.modLaunch w.launch (fun x =>
      let i : WgInfo := { rest := .saved, groups := saved, rounds := (List.range 4).map (fun n => w.rounds.lookD 0 n) }
      { x with wgs := x.wgs.put w.linear i })

/-- Finish a workgroup all of whose groups are saved, and whose stores have drained at .D: the carve-out is copied into its block, the
resources are freed. A page fault on the block holds it. -/
def State.finishWg (s : State) (wg : Nat) : State :=
  match s.wgs.look wg with
  | none => s
  | some w =>
    match s.launches.look w.launch with
    | none => s
    | some x =>
      s.devWrite w.core x.asid (x.blockAt w.linear) (s.arrayBytes w.core (384 * w.base) (12288 * w.gran)) (w.launch, false)
        (fun s => s.takeOff wg)
        (fun s => s.endLaunch w.launch 9 8 (va64 (x.blockAt w.linear)) 0 5 0 (s.core w.core).clk)

/-- Finish the saved workgroups of a unit, once every one of them is saved and nothing of them is on its way: the carve-outs of a rope
are reached by all of it (spec/12 R290; log 53). Once all of a rope's have gone, its barrier counts stay with the device. -/
def State.tryFinish (s : State) (wg : Nat) : State :=
  let u := s.unitOf wg
  let rope := s.ropeOf wg
  if !u.all (fun i => s.wgStopped i) then s else
  let s := u.foldl (fun s i => (s.groupsOf i).foldl (fun s x => s.drainGroup (x.1 / 65) x.2.uid) s) s
  if !u.all (fun i => s.wgQuiet i) then s else
  let t := u.foldl State.finishWg s
  if u.any (fun i => (t.wgs.look i).isSome) then t else
  (match rope with
  | some (r, x) => if x.real then t.modRope r (fun x => { x with wgs := [] }) else { t with ropes := t.ropes.del r }
  | none => t).settlePreempt

/-- GROUP_SAVE: a group whose slots all stand at stops is discarded with its workgroup, or saved by its routine or in full. -/
def execGroupSave (core ctx : Nat) (s : State) : Out :=
  match s.group? core ctx with
  | none => .next s
  | some g =>
    match s.launches.look g.launch, s.wgs.look g.wg with
    | some x, some w =>
      if !x.preempting || x.status.isSome || ctx == 64 || s.stopped g then .next s else
      let slot := x.slotAt w.linear g.grpid
      let fail (s : State) : State := s.endLaunch g.launch 9 8 (va64 slot) 0 5 0 (s.core core).clk
      let wrote (s : State) : State := (s.modGroup core ctx (fun g => { g with save := .done })).tryFinish g.wg
      match g.save with
      | .saved =>
        if s.groupQuiet core g then finish (s.devWrite core x.asid slot g.routineHdr.bytes (g.launch, false) wrote fail) else .next s
      | .done => finish (s.tryFinish g.wg)
      | .none =>
        if g.ended then finish (s.tryFinish g.wg)
        else if g.inHandler || !g.slot0.atStopPoint || !g.slot1.atStopPoint then .next s
        else
          match s.tryDiscard g.wg with
          | (s, true) => finish s.settlePreempt
          | (_, false) =>
            let n := if g.slot0.valid then 0 else 1
            let sl := g.slotOf n
            let one := !(g.slotOf (1 - n)).valid
            match (if one && sl.atStop then x.hdr.safeAt (codeOff g.kernel sl.clause) else none) with
            | some (save, _, _) =>
              if save ≠ 0 then .next (s.startSave core ctx n save (slot + 128))
              else if s.groupQuiet core g then finish (s.devWrite core x.asid slot g.saveArea (g.launch, false) wrote fail)
              else .next s
            | none =>
              if s.groupQuiet core g then finish (s.devWrite core x.asid slot g.saveArea (g.launch, false) wrote fail) else .next s
      | _ => .next s
    | _, _ => .next s

/-! Resumption (spec/14 R344) -/

/-- A resumed slot starts its spacing and its counts anew, and looks at its barrier object again; a safe point at which it stood counts as passed. -/
def Slot.resumed (sl : Slot) (clk : Nat) : Slot :=
  { sl with wait := (match sl.wait with | .bwait _ _ _ => .none | w => w), readyAt := clk, lastIssue := 0, eligSince := none, promoted := false, atStop := false, passed := 0,
            safePast := sl.atStop || sl.safePast, bpast := false, readNext := none, got := [] }

/-- What every resumed group keeps: R25's launch state, R177's struck mark, R180's fired monitor. -/
def SavedGroup.common (g : SavedGroup) (b : Group) : Group :=
  { b with launched := g.launched, helper := g.helper, clkCap := g.clkCap, lostStruck := g.hadBelay, monitor := .fired, fmask := g.fmask,
           ffirst := g.ffirst, faddr := g.faddr, trapCause := g.trapCause }

/-- A group as its saved slot gives it. -/
def SavedGroup.restore (g : SavedGroup) (b : Group) (k : KHdr) (area slot : Nat) (bs : List Byte) (clk : Nat) : Group :=
  let h := SaveHdr.parse (leNat (bs.take 64))
  let c : Group := { g.common b with arrived := g.arrived, inRegion := g.inRegion, regionEntry := g.regionEntry, snapshot := g.snapshot }
  if g.routine then
    let pc := codeAddr b.kernel h.pc0
    let restore : BitVec 32 := match k.safeAt h.pc0 with | some (_, r, _) => r | none => 0
    let t : TrapCtx := { slot := 0, clause := pc, pos := 0, pc := pc, hdr := 0, mask := h.mask0, reconv := h.rcv0, atHeader := true,
                         isMem := false, other := false, len := 1,
                         regs := some (h.fpcr, h.fpsr, (g.owners.take (h.state % 128)).map (fun _ => 0)) }
    { c with
      s := (c.s.putD 0 (c.sAlloc - 2) (BitVec.ofNat 32 area)).putD 0 (c.sAlloc - 1) (BitVec.ofNat 32 (area / 2 ^ 32)),
      slot0 := { Slot.free.goTo (codeAddr b.kernel restore) with valid := true, mask := h.mask0, readyAt := clk },
      slot1 := Slot.free, inHandler := true, trapCtx := some t, save := .restoring }
  else
    let d := c.loadSections ((bs.drop 64).take (slot - 64))
    { d with fpcr := h.fpcr, fpsr := h.fpsr, depth := h.state % 128, owners := g.owners,
             slot0 := { g.slot0.resumed clk with mask := h.mask0 }, slot1 := { g.slot1.resumed clk with mask := h.mask1 } }

/-- The group of a workgroup that waits to be resumed, from its record and its block's bytes. -/
def Launch.resumeGroup (x : Launch) (l linear : Nat) (block : List Byte) (clk : Nat) (id g : Nat) : Option Group :=
  let i := x.wgAt linear
  let b := x.group l 0 id linear g clk
  match i.rest with
  | .discarded recs =>
    match recs.find? (fun r => r.1 == g), i.groups.find? (fun y => y.grpid == g) with
    | some (_, entry, snap), some y =>
      let c := { y.common b with launched := b.launched, helper := b.helper }
      let sl := { b.slot0 with clause := entry, pc := entry, afterBarwg := true }
      some { c with s := tblOf 0 (snap.filter (fun z => decide (z.1 < 16))), slot0 := sl }
    | _, _ => some b
  | .saved =>
    match i.groups.find? (fun y => y.grpid == g) with
    | some y =>
      if y.ended then none else
      let k := x.hdr
      some (y.restore b k (x.slotAt linear g + 128) k.slotSize (block.drop (12288 * k.gran + g * k.slotSize)) clk)
    | none => none
  | _ => some b

/-- Read the blocks of some workgroups; those of discarded ones are not read. -/
def State.readBlocks (x : Launch) (core : Nat) : List Nat → State → List (Nat × List Byte) → State × EngRes (List (Nat × List Byte))
  | [], s, acc => (s, .ok acc)
  | i :: r, s, acc =>
    match (x.wgAt i).rest with
    | .saved =>
      match s.engRead { procWho x.asid with core := core } (x.blockAt i) x.hdr.blockSize with
      | (s, .ok bs) => State.readBlocks x core r s (acc ++ [(i, bs)])
      | (s, .fatal c a w) => (s, .fatal c a w)
      | (s, .page a w) => (s, .page a w)
      | (s, .wait) => (s, .wait)
    | _ => State.readBlocks x core r s (acc ++ [(i, [])])

/-- After a resumed workgroup is placed: its carve-out is copied back, its barrier instructions hold their flags again, and an
acquire at .D is performed for each group. -/
def State.afterResume (s : State) (x : Launch) (linear : Nat) (bs : List Byte) : State :=
  match s.wgs.find? (fun w => w.2.linear == linear && (match s.launches.look w.2.launch with
      | some y => y.accepted == x.accepted
      | none => false)) with
  | none => s
  | some (id, w) =>
    let s := if bs = [] then s else
      s.modCore w.core (fun k => { k with array := k.array.setRange 0 (384 * w.base) (bs.take (12288 * w.gran)) })
    (s.groupsOf id).foldl (fun s g =>
      let c := g.1 / 65
      let ctx := g.1 % 65
      let s := match ((x.wgAt linear).groups.find? (fun y => y.grpid == g.2.grpid)) with
        | none => s
        | some y => y.barFlags.foldl (fun (s : State) (b : Nat × Nat) => match s.envAt c ctx b.1 1 with
            | none => s
            | some e => { (s.start e (e.op s (some b.2) .barrier)) with serial := s.serial + 1 }) s
      s.acquire c ctx 4) s

/-- GROUP_RESUME: the dispatcher's next workgroup, or whole rope, that was pre-empted is placed again, with the core the first
of its rectangle, restored, and continues. -/
def execGroupResume (launch core : Nat) (s : State) : Out :=
  if s.nextFill.isSome ∨ s.dispatchChoice ≠ some launch then .next s else
  match s.launches.look launch with
  | none => .next s
  | some x =>
    match x.next with
    | none => .next s
    | some i =>
      if !x.resumes then .next s else
      let cl := core / 16
      let px := core % 4
      let py := core / 4 % 4
      let bases : Option (List (Nat × List Nat)) := if x.hdr.rope then s.ropeFits launch x cl px py else (s.fits launch x 1 core).map (fun b => [(core, b)])
      match bases with
      | none => .next s
      | some bs =>
        match s.clearAll x.hdr.gran bs with
        | (s, false) => finish s
        | (s, true) =>
        let first := i / x.hdr.ropeN * x.hdr.ropeN
        let all := (List.range (min x.hdr.ropeN (x.total - first))).map (fun v => first + v)
        match State.readBlocks x core all s [] with
        | (s, .ok blocks) =>
          let block (j : Nat) : List Byte := ((blocks.find? (fun (b : Nat × List Byte) => b.1 == j)).map (fun (b : Nat × List Byte) => b.2)).getD []
          let rounds (j : Nat) : Tbl Nat := (((x.wgAt j).rounds.zipIdx).map (fun (r : Nat × Nat) => (r.2, r.1))).filter (fun (r : Nat × Nat) => r.2 ≠ 0)
          let mk (j : Nat) (y : Launch) (id g : Nat) : Option Group := y.resumeGroup launch j (block j) (s.core core).clk id g
          let s := if x.hdr.rope then
              (s.putRope launch first cl px py bs rounds mk).count (192 + cl) 4 1
            else (s.putOne launch i core (((bs.head?.map (fun (b : Nat × List Nat) => b.2)).getD []).headD 0) (rounds i) (mk i)).1
          let s := (all.foldl (fun s j => s.afterResume x j (block j)) s).tookTurn launch
          finish ((s.wgs.filter (fun w => w.2.launch == launch && all.contains w.2.linear)).foldl (fun s w => s.checkBarriers w.1) s)
        | (s, .page a w) => finish (s.devHold core x.asid a w (launch, false))
        | (s, .fatal c a w) => finish (s.endLaunch launch 9 (c % 256) (va64 a) 0 (4 + (if w then 1 else 0)) 0 (s.core core).clk)
        | (s, .wait) => .next s
    
end Sys2Proof.Machine
end

