-- ==== Sys2Proof/Machine/RopeDebug.lean ====
section
/-! DEFINITION. Rope stops after their cause: the dump, the debug port's commands and resumption (spec/12 R296-R300). -/

namespace Sys2Proof.Machine

/-- All that an operation's pending lanes wait for is on its way in the fabric. -/
def State.opFlown (s : State) (c : Nat) (o : Op) : Bool :=
  match s.opGroup c o with
  | some g => (g.slotOf o.slot).replay.any (fun r => r.opId == some o.id && r.flown)
  | none => false

/-- An operation a stop waits for: its destination is a register, tile, accumulator or scratchpad word, or it stores a tile
(spec/08 R236), no page fault holds it, and none of its lanes waits to replay; a load on its way in the fabric completes. -/
def State.stopWaits (s : State) (c : Nat) (o : Op) : Bool :=
  o.held.isNone && (!s.opPending c o || s.opFlown c o) && (match o.what with
    | .store => o.uses != [] || (s.core c).sq.any (fun q => q.opId == some o.id && (match q.what with
        | .scratch _ => true
        | .atoms _ _ _ => true
        | .atomg a _ _ => a.ret
        | _ => false))
    | .copy k => k.kind == 0 || k.kind == 2
    | .chain _ _ => false
    | .fillc _ _ => false
    | .barrier => false
    | .logfl => false
    | _ => true)

/-- Whether group g of a workgroup has arrived at a barrier; one that has ended has (spec/10 R271). -/
def State.arrivedBit (s : State) (wg n g : Nat) : Bool :=
  match (s.groupsOf wg).find? (fun x => x.2.grpid == g) with
  | some x => x.2.hasArrived n
  | none => true

/-- The 64-byte block of a workgroup (spec/12 R299); the fold of WARR counts groups that have arrived in the current round. -/
def State.wgBlock (s : State) (wg : Nat) (w : Wg) : List Byte :=
  let k := s.khdr w.launch
  let warr (n : Nat) : Nat := ((List.range k.groups).map (fun g => if s.arrivedBit wg n g then 2 ^ g else 0)).sum
  (List.range 4).flatMap (fun n => leBytes 2 (warr n)) ++ (List.range 4).flatMap (fun n => leBytes 4 (w.rounds.lookD 0 n)) ++
  leBytes 1 (w.core % 16) ++ leBytes 1 w.gran ++ leBytes 2 w.base ++
  leBytes 4 (((s.groupsOf wg).map (fun x => if x.2.ended then 0 else 2 ^ x.2.grpid)).sum) ++ leBytes 32 0

/-- The state of a rope barrier (spec/12 R300): absent indices read 1. -/
def State.ropeBar (s : State) (r : Rope) (n : Nat) : Nat :=
  let bit (v : Nat) : Bool := match r.wgs.look v with
    | none => r.real && decide (v < r.w * r.h * r.k)
    | some wg => s.wgArrived wg (n + 4)
  2 ^ 32 * (r.pcount.lookD 0 n) + ((List.range 24).map (fun v => if bit v then 2 ^ v else 0)).sum

/-- The dump of a stopped rope: its record, a block per workgroup index, a save area per present group. -/
def State.dumpBytes (s : State) (r : Rope) (t : RopeStop) (held : Nat) : List Byte :=
  let gs := r.wgs.flatMap (fun x => (s.groupsOf x.2).filter (fun g => !g.2.ended))
  let rank (l : List (Nat × Group)) : List (Nat × Group) := (List.range 16).flatMap (fun i => l.filter (fun g => g.2.grpid == i))
  let areas := r.wgs.flatMap (fun x => (rank ((s.groupsOf x.2).filter (fun g => !g.2.ended))).flatMap (fun g => pad64 g.2.saveArea))
  leBytes 4 r.ropeId ++ leBytes 1 r.cluster ++ leBytes 1 r.origin ++ leBytes 1 (4 * (r.h - 1) + (r.w - 1)) ++ leBytes 1 r.k ++
  leBytes 2 (s.asid r.launch) ++ leBytes 1 t.cause ++ leBytes 1 t.code ++ leBytes 1 t.swg ++ leBytes 1 t.sgrp ++
  leBytes 2 r.pend.toNat ++ leBytes 8 t.ffirst.toNat ++ leBytes 8 t.faddr.toNat ++
  (List.range 4).flatMap (fun n => leBytes 8 (if r.real then s.ropeBar r n else 0)) ++
  leBytes 8 t.clk ++ leBytes 4 held ++ leBytes 4 gs.length ++ leBytes 48 0 ++
  (List.range (r.w * r.h * r.k)).flatMap (fun v => match r.wgs.look v with
    | none => leBytes 64 0
    | some wg => match s.wgs.look wg with
      | some w => s.wgBlock wg w
      | none => leBytes 64 0) ++ areas

/-- ROPE_STOP: once the operations it waits for are done, a stopping rope's dump is written and it is stopped. -/
def execRopeStop (rope : Nat) (s : State) : Out :=
  match s.ropes.look rope with
  | none => .next s
  | some r =>
    match r.stop with
    | none => .next s
    | some t =>
      if t.dumped then .next s else
      let mine (o : Op) : Bool := r.wgs.any (fun x => x.2 == o.wg)
      if s.cores.any (fun k => k.2.ops.any (fun o => mine o && s.stopWaits k.1 o)) then .next s else
      let held := (s.cores.map (fun k => (k.2.ops.filter (fun o => mine o && o.held.isSome)).length)).sum
      let n := (r.wgs.map (fun x => ((s.groupsOf x.2).filter (fun g => !g.2.ended)).length)).sum
      let done (s : State) : State := s.modRope rope (fun r =>
        { r with stop := r.stop.map (fun t => { t with dumped := true, held := held, ngrp := n }) })
      let base := (s.cluster r.cluster).dumpbase.toNat
      finish (s.devWrite (16 * r.cluster + r.origin) (bits (s.cluster r.cluster).dbgctl.toNat 16 16) base (s.dumpBytes r t held)
        (rope, true) done done)

/-- The ropes of a cluster a command names. -/
def State.namedRopes (s : State) (cluster ropeId : Nat) : List Nat :=
  let asid := bits (s.cluster cluster).dbgctl.toNat 16 16
  (s.ropes.filter (fun r => r.2.cluster == cluster && r.2.ropeId == ropeId && s.asid r.2.launch == asid && r.2.wgs != [])).map
    (fun r => r.1)

/-- DBGCMD_STOP: a rope stop with cause debug port (spec/12 R297, spec/17 R409). -/
def execDbgcmdStop (cluster w : Nat) (s : State) : Out :=
  if !(s.cluster cluster).dbgctl.getLsbD 0 || w % 4 != 1 then .next s else
  .next ((s.namedRopes cluster (bits w 32 32)).foldl (fun s r =>
    let o := match s.ropes.look r with | some x => x.origin | none => 0
    s.beginStop r ⟨1, 0, 0xFF, 0xFF, 2, 0, 0, (s.core (16 * cluster + o)).clk, false, 0, 0⟩) s)

/-- End a rope's stop: every slot goes on; the instruction a watchpoint stopped before issues once unchecked (spec/12 R298). -/
def State.resumeRope (s : State) (r : Nat) : State :=
  match s.ropes.look r with
  | none => s
  | some x =>
    match x.stop with
    | none => s
    | some t =>
      if !t.dumped then s else
      let s := s.modRope r (fun x => { x with stop := none, pend := 0 })
      if t.cause ≠ 4 then s else
      let pass (n : Nat) (sl : Slot) : Slot := if t.slot = n ∧ sl.valid ∧ sl.pc = t.ffirst then { sl with noWatch := true } else sl
      { s with groups := s.groups.mapAll (fun _ g =>
          if x.wgs.look t.swg = some g.wg ∧ g.grpid = t.sgrp then { g with slot0 := pass 0 g.slot0, slot1 := pass 1 g.slot1 } else g) }

/-- DBGCMD_RESUME: a stopped rope goes on. -/
def execDbgcmdResume (cluster w : Nat) (s : State) : Out :=
  if !(s.cluster cluster).dbgctl.getLsbD 0 || w % 4 != 2 then .next s else
  .next ((s.namedRopes cluster (bits w 32 32)).foldl State.resumeRope s)

end Sys2Proof.Machine
end

