-- ==== Sys2Proof/Machine/QueueProc.lean ====
section
/-! DEFINITION. The queue processor: packets, their checks, their starts and completions (spec/17 R390-R404, R408, R439;
spec/14 R333-R337, R350; spec/16 R361, R387). -/

namespace Sys2Proof.Machine

/-! Packets (spec/17 R392, R393) -/

/-- A field of a packet: byte offset and size. -/
def Packet.f (p : Packet) (off n : Nat) : Nat := bits p.body (8 * off) (8 * n)
def Packet.type (p : Packet) : Nat := p.f 0 1
/-- FLAGS.BARRIER and FLAGS.PUBLISH. -/
def Packet.bar (p : Packet) : Bool := p.body.testBit 8
def Packet.pub (p : Packet) : Bool := p.body.testBit 9
def Packet.csig (p : Packet) : Nat := p.f 8 8

def State.qstate (s : State) (q : Nat) : QState := s.queues.lookD QState.reset q
def State.setQ (s : State) (q : Nat) (x : QState) : State := { s with queues := s.queues.put q x }
def State.packet? (s : State) (q i : Nat) : Option Packet := s.packets.find? (fun p => p.q == q && p.idx == i)
/-- A packet that a queue's next one waits on has changed: the queue has work (spec/17 R404). -/
def State.unblock (s : State) (q : Nat) : State :=
  if (s.qstate q).blocked then s.setQ q { s.qstate q with blocked := false, work := true } else s
/-- A packet changes. -/
def State.setPacket (s : State) (p : Packet) : State :=
  let t : State := { s with packets := s.packets.map (fun r => if r.q = p.q ∧ r.idx = p.idx then p else r) }
  t.unblock p.q
/-- Packets of a queue that have started and not completed. -/
def State.running (s : State) (q : Nat) : List Packet := s.packets.filter (fun p => p.q == q && !p.done)

/-- The bytes of a type's body that hold fields (spec/17 R393, spec/16 R361). -/
def bodyFields : Nat → List (Nat × Nat)
  | 2 => [(0x10, 0x21), (0x28, 0x38)]
  | 3 => [(0x10, 0x28)]
  | 4 => [(0x10, 0x21)]
  | 5 => [(0x10, 0x19)]
  | 6 => [(0x10, 0x22)]
  | 7 => [(0x10, 0x1E)]
  | 8 => [(0x10, 0x14)]
  | _ => []

/-- Address fields of a type and their alignment (spec/17 R395). -/
def bodyAligned : Nat → List (Nat × Nat)
  | 2 => [(0x28, 64), (0x30, 64)]
  | 3 => [(0x10, 8), (0x18, 8), (0x20, 8)]
  | 4 => [(0x10, 8)]
  | 5 => [(0x10, 64)]
  | 6 => [(0x10, 4096), (0x18, 4096)]
  | 7 => [(0x10, 64)]
  | _ => []

/-- A packet is bad on its own 64 bytes (spec/17 R395). -/
def Packet.bad (p : Packet) : Bool :=
  let t := p.type
  let foreign (a : Nat) : Bool := p.asid != 0 && a != p.asid
  decide (8 < t) || t == 0 || p.f 1 1 / 4 != 0 || p.f 4 4 != 0 || p.csig % 8 != 0 ||
  ((List.range 48).map (fun i => 16 + i)).any (fun i => !(bodyFields t).any (fun r => decide (r.1 ≤ i) && decide (i < r.2)) && p.f i 1 != 0) ||
  (bodyAligned t).any (fun r => p.f r.1 8 % r.2 != 0) ||
  (match t with
    | 2 => p.f 0x18 4 == 0 || p.f 0x1C 2 == 0 || p.f 0x1E 2 == 0
    | 4 => decide (1 < p.f 0x20 1)
    | 5 => decide (16 ≤ p.f 0x18 1) && p.f 0x18 1 != 255
    | 6 => p.f 0x18 8 == 0 || foreign (p.f 0x20 2)
    | 7 => decide (65536 < p.f 0x18 4) || foreign (p.f 0x1C 2)
    | _ => false)

/-- The argument block's addresses break R395; its reserved bytes are ignored (spec/00 R7). -/
def badArgs (x : Nat) : Bool :=
  bits x (8 * 0x40) 64 % 256 != 0 || bits x (8 * 0x48) 64 % 16 != 0 || bits x (8 * 0x50) 64 % 64 != 0

/-- The rounded read and write ranges of a range block (spec/17 R403). -/
def rangesOf (x : Nat) : List (Nat × Nat) × List (Nat × Nat) :=
  let one (i : Nat) : List (Nat × Nat) :=
    let b := bits x (128 * i) 64
    let n := bits x (128 * i + 64) 64
    if n = 0 then [] else [(b / 256 * 256, (b + n + 255) / 256 * 256)]
  ((List.range 4).flatMap one, (List.range 2).flatMap (fun i => one (4 + i)))

def overlap (a b : List (Nat × Nat)) : Bool := a.any (fun x => b.any (fun y => decide (x.1 < y.2) && decide (y.1 < x.2)))

/-- Two packets of a queue conflict (spec/17 R403). -/
def Packet.conflicts (a b : Packet) : Bool :=
  let whole (t : Nat) : Bool := t == 6 || t == 7
  if whole a.type || whole b.type then true
  else if a.type ≠ 2 ∨ b.type ≠ 2 then false
  else match a.ranges, b.ranges with
    | some x, some y => overlap x.2 (y.1 ++ y.2) || overlap y.2 (x.1 ++ x.2)
    | _, _ => true

/-! Completion (spec/17 R400, R401, R439) -/

/-- Packets before this index have all completed. -/
def State.prefixOf (s : State) (q : Nat) : Nat := (s.running q).foldl (fun m p => min m p.idx) (s.qstate q).next

/-- The slot holds a committed packet: its header word names a TYPE. -/
def State.committed (s : State) (d : QDesc) (i : Nat) : Bool :=
  match s.engRead (procWho d.asid) (d.slotVa i).toNat 1 with
  | (_, .ok bs) => leNat bs != 0
  | _ => false

/-- Write RIDX where R401 asks for it, after a step. -/
def State.publish (s : State) (q : Nat) : State :=
  let x := s.qstate q
  let d := s.qdesc q
  let m := s.prefixOf q
  let behind := s.packets.filter (fun p => p.q == q && p.done && decide (p.idx < m))
  let s := { s with packets := s.packets.filter (fun p => !(p.q == q && p.done && decide (p.idx < m))) }
  let seen := x.pubSeen || behind.any (fun p => p.pub)
  if m = x.published then s.setQ q { x with pubSeen := seen } else
  let quiet := s.running q == [] && !s.committed d m &&
    !((List.range (min d.size (d.widx - m))).any (fun k => s.committed d (m + k)))
  if x.published + d.pubn ≤ m ∨ seen ∨ quiet then
    (s.cohWrite false (cellsFrom (s.qAddr q + 0x18) (leBytes 8 m))).setQ q { x with published := m, pubSeen := false }
  else s.setQ q { x with pubSeen := seen }

/-- A step of the processor has ended. -/
def State.publishAll (s : State) : State := s.queues.foldl (fun s x => s.publish x.1) s

/-- A word the processor writes under a queue's ASID: performed, not performed, or held by a page fault (its SEQ). -/
inductive WordRes
  | done
  | lost
  | held (seq : Nat)
  | wait
  deriving DecidableEq, Repr

/-- Read and write a word of n bytes under an ASID: the new value from the old one. -/
def State.procWord (s : State) (asid va n : Nat) (f : Nat → Nat) : State × WordRes :=
  let w := procWho asid
  match State.engPlaces [va] s w [] with
  | (s, .ok ps) =>
    let v := f (s.tgtNum (placeOf ps va) n)
    (s.engWrite w ps (cellsFrom va (leBytes n v)), .done)
  | (s, .fatal _ _ _) => (s, .lost)
  | (s, .page a _) =>
    let x := s.raiseFault asid (va64 a) .write true 0 0 s.dieClk
    (x.1, .held x.2)
  | (s, .wait) => (s, .wait)

/-- A word can be written now. -/
def State.reaches (s : State) (asid va : Nat) : Bool :=
  match (State.engPlaces [va] s (procWho asid) []).2 with
  | .ok _ => true
  | _ => false

/-- A GENDECL that has completed: fills posted from now on read the table it names (spec/16 R361). -/
def State.declare (s : State) (p : Packet) (status : Nat) : State :=
  if p.type ≠ 7 ∨ status ≠ 0 then s else
  let a := p.f 0x1C 2
  let n := p.f 0x18 4
  { s with genTables := if n = 0 then s.genTables.del a else s.genTables.put a (p.f 0x10 8, n) }

/-- Steps 1 to 3 of a completion: the header word, the release at .S, which finds every earlier write of the processor performed,
and CSIG. -/
def State.finishPacket (s : State) (p : Packet) : State :=
  match p.status with
  | none => s
  | some st =>
    if p.done || p.held.isSome then s else
    let close (s : State) : State :=
      (s.setPacket { p with done := true, held := none, fatal := false }).declare p st
    let hold (s : State) (seq : Nat) : State := s.setPacket { p with held := some seq, fatal := false }
    let signal (s : State) : State :=
      if p.csig = 0 ∨ p.csig % 8 ≠ 0 then close s else
      match s.procWord p.asid p.csig 8 (fun old => if st = 0 then (old + 2 ^ 64 - 1) % 2 ^ 64 else 2 ^ 64 - 1) with
      | (s, .held seq) => hold s seq
      | (s, .wait) => s
      | (s, _) => close s
    if p.fatal && !s.reaches p.asid p.va then signal s
    else
      match s.procWord p.asid p.va 4 (fun _ => 65536 * st) with
      | (s, .held seq) => hold s seq
      | (s, .wait) => s
      | (s, _) => if p.fatal then close s else signal s

/-- Give a packet its status and complete it. -/
def State.endPacket (s : State) (p : Packet) (status : Nat) : State :=
  let p := { p with status := some status, held := none, fatal := false }
  (s.setPacket p).finishPacket p

/-! Aborts and BARRIERs (spec/17 R400, R402) -/

/-- A read of a queue's next packet met a page fault. -/
def State.holdNext (s : State) (q asid va : Nat) : State :=
  let x := s.raiseFault asid (va64 va) .read true 0 0 s.dieClk
  x.1.setQ q { x.1.qstate q with held := some x.2 }

/-- Complete with ABORTED every committed packet that has not started; one whose slot has no page waits for that, unless it was
declared unresolved. -/
def State.drainQueue : Nat → State → Nat → State
  | 0, s, _ => s
  | fuel + 1, s, q =>
    let d := s.qdesc q
    let x := s.qstate q
    if d.widx ≤ x.next || !s.committed d x.next then s else
    match s.engRead (procWho d.asid) (d.slotVa x.next).toNat 64 with
    | (s, .ok bs) =>
      let p : Packet := { q := q, idx := x.next, asid := d.asid, va := (d.slotVa x.next).toNat, body := leNat bs, status := some 11,
                          launch := none, chan := none, ranges := none, held := none, fatal := false, done := false }
      let s := { s.setQ q { s.qstate q with next := x.next + 1, held := none, fatal := false } with packets := s.packets ++ [p] }
      State.drainQueue fuel (s.finishPacket p) q
    | (s, .page v _) => if x.fatal then s.setQ q { s.qstate q with fatal := false } else s.holdNext q d.asid v
    | (s, _) => s

/-- Store −1 to QDONE, where it is still to be stored. -/
def State.tellDone (s : State) (q : Nat) : State :=
  let x := s.qstate q
  match x.qdone with
  | none => s
  | some (asid, va) =>
    if x.doneHeld.isSome then s
    else if x.doneFatal then s.setQ q { x with qdone := none, doneFatal := false }
    else match s.procWord asid va 8 (fun _ => 2 ^ 64 - 1) with
      | (s, .held seq) => s.setQ q { s.qstate q with doneHeld := some seq }
      | (s, .wait) => s
      | (s, _) => s.setQ q { s.qstate q with qdone := none }

/-- The signals of a BARRIER as they read now. -/
def State.readSigs : List Nat → State → Nat → List Nat → State × EngRes (List Nat)
  | [], s, _, acc => (s, .ok acc)
  | a :: r, s, asid, acc =>
    match s.engRead (procWho asid) a 8 with
    | (s, .ok bs) => State.readSigs r s asid (acc ++ [leNat bs])
    | (s, .fatal c v w) => (s, .fatal c v w)
    | (s, .page v w) => (s, .page v w)
    | (s, .wait) => (s, .wait)

/-- A packet is taken and has not started: a SIGNAL not performed, a BARRIER whose signals could not be read, a COPY without a
channel, any packet its pass has yet to reach (spec/17 R400, R439). -/
def State.unstarted (s : State) (p : Packet) : Bool :=
  p.status.isNone &&
  match p.type with
  | 2 => p.launch.isNone
  | 3 => !p.begun
  | 5 => p.chan.isNone
  | 6 => !s.invals.any (fun v => v.q == p.q && v.idx == p.idx)
  | _ => true

/-- The packets of a queue after this index that are taken and have not started complete with ABORTED. -/
def State.abortLater (s : State) (q i : Nat) : State :=
  (s.packets.filter (fun r => r.q == q && decide (i < r.idx) && s.unstarted r)).foldl (fun s r => s.endPacket r 11) s

/-- A queue aborts at its BARRIER: CTL.ABORTED, the BARRIER's completion, those of every later packet that has not started, and
−1 in QDONE. -/
def State.abortQueue (s : State) (p : Packet) (status : Nat) : State :=
  let d := s.qdesc p.q
  let ctl := s.qAddr p.q + 0x0F
  let s := s.cohWrite false [(ctl, s.byteAt false ctl ||| 0x20)]
  let s := (s.endPacket p status).abortLater p.q p.idx
  let s := State.drainQueue (d.size + 1) s p.q
  if d.qdone = 0 then s else (s.setQ p.q { s.qstate p.q with qdone := some (d.asid, d.qdone) }).tellDone p.q

/-- A started BARRIER reads its signals: it completes, aborts its queue, or waits on. -/
def State.serveBarrier (s : State) (p : Packet) : State :=
  if p.held.isSome || p.status.isSome then s
  else if p.fatal then s.abortQueue p 9
  else
    match State.readSigs ([p.f 0x10 8, p.f 0x18 8, p.f 0x20 8].filter (fun a => a != 0)) s p.asid [] with
    | (s, .ok vs) =>
      if vs.any (fun v => decide (2 ^ 63 ≤ v)) then s.abortQueue p 11
      else if vs.all (fun v => v == 0) then s.endPacket p 0
      else if p.begun then s else s.setPacket { p with begun := true }
    | (s, .fatal _ _ _) => s.abortQueue p 9
    | (s, .page va _) =>
      let x := s.raiseFault p.asid (va64 va) .read true 0 0 s.dieClk
      x.1.setPacket { p with held := some x.2 }
    | (s, .wait) => s

/-! The other types (spec/17 R400) -/

/-- A SIGNAL is performed at its signal's home. -/
def State.serveSignal (s : State) (p : Packet) : State :=
  if p.held.isSome || p.status.isSome then s
  else if p.fatal then s.endPacket p 9
  else
    match s.procWord p.asid (p.f 0x10 8) 8 (fun old => if p.f 0x20 1 = 1 then p.f 0x18 8 else (old + p.f 0x18 8) % 2 ^ 64) with
    | (s, .done) => s.endPacket p 0
    | (s, .lost) => s.endPacket p 9
    | (s, .held seq) => s.setPacket { p with held := some seq }
    | (s, .wait) => s

/-- Of the idle channels the one that went idle first, the lowest-numbered of those that did so in one clk. -/
def State.firstIdle (s : State) : Option Nat :=
  (((List.range 16).filter (fun c => !(s.chan c).running)).foldl (fun (b : Option (Nat × Nat)) c =>
    match b with
    | none => some ((s.chan c).idleAt, c)
    | some x => if (s.chan c).idleAt < x.1 then some ((s.chan c).idleAt, c) else some x) none).map (·.2)

/-- The lowest-numbered idle channel. -/
def State.idleChan (s : State) : Option Nat := (List.range 16).find? (fun c => !(s.chan c).running)

/-- A COPY takes its channel once that is idle, and its walk begins as CHAIN's does; with CH 0xFF, the channel given. -/
def State.serveCopy (s : State) (p : Packet) (any : Option Nat) : State :=
  if p.chan.isSome || p.status.isSome then s else
  let want := p.f 0x18 1
  let ch := if want = 255 then any else if (s.chan want).running then none else some want
  match ch with
  | none => s
  | some c =>
    let k : Chan := ⟨true, false, 0, { procWho p.asid with key := some (chanKey c) }, p.f 0x10 8, some (p.q, p.idx), none, 0, [], none, 0⟩
    (s.setChan c k).setPacket { p with chan := some c }

/-- Free the victim entries of a range: their directory entries are zeroed (spec/16 R387). -/
def State.vsDropRange (s : State) (asid lo hi : Nat) : State :=
  if s.vsSteps = 0 then s else
  let d0 := s.vsBase + 7 * (2 ^ 26 * s.vsSteps) / 8
  let d1 := s.vsBase + 2 ^ 26 * s.vsSteps
  let hit (a : Nat) : Bool :=
    let e := s.numAt false a 16
    e.testBit 0 && bits e 80 16 == asid && decide (lo / 128 ≤ bits e 7 50) && decide (bits e 7 50 < hi / 128)
  let dead := (s.mem.filter (fun c => decide (d0 ≤ c.1) && decide (c.1 < d1) && c.1 % 16 == 0 && hit c.1)).map (fun c => (c.1, (0 : Byte)))
  { s with mem := Memory.writes s.mem dead }

/-- A generated line is dropped by an INVAL: one marked PIN goes to the victim store as KEEP would (spec/16 R384). -/
def State.invalLine (s : State) (l : GenLine) : State :=
  if l.pol = 3 ∧ !l.poison then s.leaveGen l.asid l.line else (s.dropGen l.asid l.line).fireLine (genKey l.asid l.line)

/-- The descriptor of an ASID is read again after an INVAL: the flags of its launches follow (spec/14 R323; log 87). -/
def State.rereadFlags (s : State) (asid : Nat) : State :=
  if (s.root? asid).isNone then s else
  let flags := s.ctxFlags asid
  { s with launches := s.launches.mapAll (fun _ x => if x.asid ≠ asid then x else
      { x with stallchk := x.hdr.flags.testBit 3 || flags.testBit 1, log := flags.testBit 2, trace := flags.testBit 3 }) }

/-- A request held at its home goes on. -/
def Slot.unheld (sl : Slot) : Slot :=
  { sl with wait := (match sl.wait with | .pend (.held _ _) => .none | w => w),
            replay := sl.replay.map (fun r => { r with why := r.why.map (fun x =>
              match x.2 with
              | .held k _ => (x.1, .held k true)
              | _ => x) }) }

/-- An INVAL: once no fill of its range is under way, the range's generated lines are dropped, held requests and GPREFs go on. -/
def State.serveInval (s : State) (p : Packet) : State :=
  if p.status.isSome then s else
  match s.invals.find? (fun v => v.q == p.q && v.idx == p.idx) with
  | none => s
  | some v =>
    if s.trackers.any (fun t => t.2.asid == v.asid && decide (t.2.block < v.hi) && decide (v.lo < t.2.block + 2 ^ t.2.blklog)) then s
    else
      let mine (l : GenLine) : Bool := l.asid == v.asid && decide (v.lo / 128 ≤ l.line) && decide (l.line < v.hi / 128)
      let s := (s.genLines.filter mine).foldl State.invalLine s
      let s := s.vsDropRange v.asid v.lo v.hi
      let s := { s with
        invals := s.invals.filter (fun w => !(w.q == p.q && w.idx == p.idx)),
        groups := s.groups.mapAll (fun _ g => { g with slot0 := g.slot0.unheld, slot1 := g.slot1.unheld }) }
      ((v.prefs.foldl State.homePref s).rereadFlags v.asid).endPacket p 0

/-- An INVAL begins: every TLB drops its translations of the range, and misses in it are held at their homes. -/
def State.startInval (s : State) (p : Packet) : State :=
  let asid := p.f 0x20 2
  let lo := p.f 0x10 8 % 2 ^ 57
  let hi := lo + p.f 0x18 8
  let v : Inval := ⟨p.q, p.idx, asid, lo, hi, []⟩
  let s := { s with
    clusters := s.clusters.mapAll (fun _ k => { k with tlb := k.tlb.filter (fun t =>
      !(t.asid == asid && decide (t.page < hi) && decide (lo < t.page + t.size))) }),
    invals := s.invals ++ [v] }
  s.serveInval p

/-- A DISPATCH: the checks of R334's table in its order, then the launch is accepted (spec/14 R335). -/
def State.serveDispatch (s : State) (p : Packet) (prio args : Nat) (h : Option KHdr) : State :=
  match h with
  | none => s.endPacket p (if (s.root? p.asid).isNone then 1 else 2)
  | some k =>
    if (s.root? p.asid).isNone then s.endPacket p 1
    else if k.overLimit then s.endPacket p 3
    else if k.tooBig then s.endPacket p 4
    else if k.badRope then s.endPacket p 5
    else if k.rope && s.ropeNever k then s.endPacket p 6
    else
      let l := s.serial
      let flags := s.ctxFlags p.asid
      let n := p.f 0x20 1
      let x : Launch :=
        { asid := p.asid, kernel := va64 (p.f 0x10 8), hdr := k, prio := prio,
          args := (List.range 16).map (fun i => BitVec.ofNat 32 (bits args (32 * i) 32)), localA := va64 (bits args 512 64),
          dstkA := va64 (bits args 576 64), saveA := va64 (bits args 640 64), gx := p.f 0x18 4, gy := p.f 0x1C 2, gz := p.f 0x1E 2,
          nlaunch := if n = 0 then k.width else n, wgs := [], status := none, queue := some (p.q, p.idx),
          stallchk := k.flags.testBit 3 || flags.testBit 1, log := flags.testBit 2, trace := flags.testBit 3,
          -- a launch that starts while base camp ends waits for RUN (spec/17 R411)
          placeable := !(s.baseCamp && s.life.testPass), preempting := false, aged := false, accepted := l, turns := 0, fill := none,
          cleaned := [], rect := none, waitFrom := s.dieClk, fitted := 0 }
      ({ s with launches := s.launches.put l x, serial := l + 1 }).setPacket { p with launch := some l }

/-- A taken packet has its effect, unless its queue's abort has completed it. -/
def State.servePacket (s : State) (p : Packet) (bad : Bool) (prio args : Nat) (h : Option KHdr) : State :=
  if p.status.isSome then s
  else if bad then s.endPacket p 12 else
  match p.type with
  | 2 => (s.count 268 0 1).serveDispatch p prio args h
  | 3 => s.serveBarrier p
  | 4 => s.serveSignal p
  | 5 => s.serveCopy p s.idleChan
  | 6 => s.startInval p
  | 8 =>
    let s := if (s.root? p.asid).isSome && (s.ctxFlags p.asid).testBit 3 then
        s.ringPut 2 (leBytes 16 0 ++ leBytes 4 (p.f 0x10 4) ++ leBytes 4 p.q ++ leBytes 8 s.dieClk)
      else s
    s.endPacket p 0
  | _ => s.endPacket p 0

/-! Steps (spec/17 R401, R404) -/

/-- A packet taken in a step, with what its checks found. -/
structure Taken where
  pkt  : Packet
  bad  : Bool
  prio : Nat
  args : Nat
  hdr  : Option KHdr

/-- The queue's lane is given up; whether it still has work. -/
def State.release1 (s : State) (q : Nat) (work : Bool) : State :=
  let x := s.qstate q
  { s with serial := s.serial + 1 }.setQ q { x with lane := none, started := 0, work := work || (x.qdone.isSome && x.doneHeld.isNone), since := s.serial }

/-- A read the next packet's start needs met a page fault: the queue has work again when that is answered. -/
def State.holdQueue (s : State) (q asid va : Nat) : State := (s.holdNext q asid va).release1 q false

/-- A block of memory a DISPATCH names: its number, or none where the read faults (spec/17 R395). -/
def State.readBlock (s : State) (q asid va n : Nat) (go : State → Option Nat → State × Option Taken) : State × Option Taken :=
  match s.engRead (procWho asid) va n with
  | (s, .ok bs) => go s (some (leNat bs))
  | (s, .wait) => (s.release1 q true, none)
  | (s, _) => go s none

/-- The packet that may start is taken: it counts as started. -/
def State.took (s : State) (q : Nat) (t : Taken) : State × Option Taken :=
  let x := s.qstate q
  let full := decide (32 ≤ x.started + 1)
  let x' := { x with next := x.next + 1, started := x.started + 1, held := none, fatal := false }
  let s := { s.setQ q x' with packets := s.packets ++ [t.pkt] }
  (if full then s.release1 q true else s, some t)

/-- Software has set a ring up again when RIDX is not what the processor last published (spec/17 R391; log 24). -/
def State.syncQueue (s : State) (q : Nat) : State :=
  let d := s.qdesc q
  let x := s.qstate q
  if d.ridx ≠ x.published ∧ !s.packets.any (fun p => p.q == q) then
    s.setQ q { x with next := d.ridx, published := d.ridx, pubSeen := false }
  else s

/-- A bound lane takes its queue's next packet if it can start. -/
def State.takeNext (s : State) (q : Nat) : State × Option Taken :=
  let d := s.qdesc q
  if !d.enable then (s.release1 q false, none) else
  let s := (s.syncQueue q).tellDone q
  let x := s.qstate q
  if d.aborted then ((State.drainQueue (d.size + 1) s q).release1 q false, none)
  else if x.held.isSome then (s.release1 q false, none)
  else if d.widx ≤ x.next then (s.release1 q false, none)
  else
    let va := (d.slotVa x.next).toNat
    match s.engRead (procWho d.asid) va 64 with
    | (s, .page v _) =>
      if x.fatal then ((s.setQ q { x with fatal := false }).release1 q false, none) else (s.holdQueue q d.asid v, none)
    | (s, .fatal _ _ _) => (s.release1 q false, none)
    | (s, .wait) => (s.release1 q true, none)
    | (s, .ok bs) =>
      let p : Packet := { q := q, idx := x.next, asid := d.asid, va := va, body := leNat bs, status := none, launch := none,
                          chan := none, ranges := none, held := none, fatal := false, done := false }
      let earlier := s.running q
      let later (s : State) : State × Option Taken := ((s.setQ q { s.qstate q with blocked := true }).release1 q false, none)
      if p.type = 0 then (s.release1 q false, none)
      else if !d.range && earlier != [] || earlier.any (fun r => r.bar || s.unstarted r) then later s
      else
        let start (s : State) (p : Packet) (bad : Bool) (args : Nat) (h : Option KHdr) : State × Option Taken :=
          if earlier.any (fun r => r.conflicts p) then later s else
          let t : Taken := { pkt := p, bad := bad, prio := d.prio, args := args, hdr := h }
          s.took q t
        if p.bad || p.type != 2 then start s p p.bad 0 none
        else
          let rest (s : State) (p : Packet) : State × Option Taken :=
            if earlier.any (fun r => r.conflicts p) then later s else
            s.readBlock q d.asid (p.f 0x28 8) 128 (fun s a => match a with
              | none => start s p true 0 none
              | some args =>
                if badArgs args then start s p true 0 none else
                match s.readHeader (procWho d.asid) (p.f 0x10 8) with
                | (s, .ok none) => start s p false args none
                | (s, .ok (some k)) => start s p (decide (k.width < p.f 0x20 1)) args (some k)
                | (s, .page v _) => if x.fatal then start s p false args none else (s.holdQueue q d.asid v, none)
                | (s, _) => (s.release1 q true, none))
          if p.f 0x30 8 = 0 then rest s p
          else s.readBlock q d.asid (p.f 0x30 8) 96 (fun s r => match r with
            | none => start s p true 0 none
            | some y => rest s { p with ranges := some (rangesOf y) })

/-- Queues with work that hold no lane, highest priority first, then those that have waited longest. -/
def State.waitingQueues (s : State) : List Nat :=
  let qs := (s.queues.filter (fun x => x.2.work && x.2.lane.isNone)).map (fun x => (x.1, [7 - (s.qdesc x.1).prio, x.2.since]))
  let ins (l : List (Nat × List Nat)) (x : Nat × List Nat) : List (Nat × List Nat) :=
    l.takeWhile (fun y => !lexLt x.2 y.2) ++ [x] ++ l.dropWhile (fun y => !lexLt x.2 y.2)
  (qs.foldl ins []).map (fun x => x.1)

/-- Free lanes bind queues with work. -/
def State.bindLanes (s : State) : State :=
  let free := (List.range 32).filter (fun n => !s.queues.any (fun x => x.2.lane == some n))
  (free.zip s.waitingQueues).foldl (fun s b =>
    let x := s.qstate b.2
    s.setQ b.2 { x with lane := some b.1, started := 0, work := true, blocked := false }) s

/-- The order of the passes of a step; packets of a reserved TYPE are served before them (log 88). -/
def passes : List Nat := [6, 3, 4, 5, 2, 7, 8, 1]

/-- QKICK: a queue has work; a table at a bad base takes no kick (spec/17 R390, R408). -/
def execQkick (v : Nat) (s : State) : Out :=
  if s.qtabbase.toNat % 131072 ≠ 0 then .next s else .next (s.markWork (v % 1024))

/-- QUEUE_STEP: lanes bind, every bound lane whose next packet can start takes it, and the packets are served in passes by type;
waiting BARRIERs read again in theirs. -/
def execQueueStep (s : State) : Out :=
  let s := s.bindLanes
  let bound := (List.range 32).filterMap (fun n => (s.queues.find? (fun x => x.2.lane == some n)).map (fun x => x.1))
  let r := bound.foldl (fun (a : State × List Taken) q =>
    match a.1.takeNext q with
    | (s, some t) => (s, a.2 ++ [t])
    | (s, none) => (s, a.2)) (s, [])
  let serve (s : State) (t : Taken) : State :=
    match s.packet? t.pkt.q t.pkt.idx with
    | some p => s.servePacket p t.bad t.prio t.args t.hdr
    | none => s
  let s := (r.2.filter (fun t => !passes.contains t.pkt.type)).foldl serve r.1
  let s := passes.foldl (fun s ty =>
    let s := (r.2.filter (fun t => t.pkt.type == ty)).foldl serve s
    if ty = 3 then
      (s.packets.filter (fun p => p.type == 3 && p.status.isNone)).foldl (fun s p =>
        match s.packet? p.q p.idx with
        | some p => s.serveBarrier p
        | none => s) s
    else s) s
  finish s.publishAll

/-- A signal a BARRIER waits on reads negative. -/
def State.sigNegative (s : State) (p : Packet) : Bool :=
  match (State.readSigs ([p.f 0x10 8, p.f 0x18 8, p.f 0x20 8].filter (fun a => a != 0)) s p.asid []).2 with
  | .ok vs => vs.any (fun v => decide (2 ^ 63 ≤ v))
  | _ => false

/-- BARRIER_PACKET: a started BARRIER reads its signals again; one that sees a negative signal aborts its queue, and so does, in that
step, every other that waits on one. -/
def execBarrierPacket (q i : Nat) (s : State) : Out :=
  match s.packet? q i with
  | some p =>
    if p.type ≠ 3 then .next s else
    let others := if p.status.isNone && s.sigNegative p then
      s.packets.filter (fun r => r.type == 3 && r.status.isNone && r.begun && (r.q != q || r.idx != i) && s.sigNegative r) else []
    finish (others.foldl (fun s r => match s.packet? r.q r.idx with
      | some r => s.serveBarrier r
      | none => s) (s.serveBarrier p)).publishAll
  | none => .next s

/-- COPY_PACKET: a COPY that waits takes this channel: its own, or, for CH 0xFF, the first that went idle. -/
def execCopyPacket (q i ch : Nat) (s : State) : Out :=
  match s.packet? q i with
  | some p =>
    let mine := if p.f 0x18 1 = 255 then s.firstIdle == some ch else p.f 0x18 1 == ch
    if p.type = 5 ∧ mine then .next (s.serveCopy p (some ch)) else .next s
  | none => .next s

/-- INVAL: a started INVAL completes once its steps end. -/
def execInval (q i : Nat) (s : State) : Out :=
  match s.packet? q i with
  | some p => if p.type = 6 then finish (s.serveInval p).publishAll else .next s
  | none => .next s

/-- Every group of a launch has ended and every operation its groups issued, but chains, is performed. -/
def State.launchOver (s : State) (l : Nat) (x : Launch) : Bool :=
  let lives (u : Nat) : Bool := s.groups.any (fun g => g.2.uid == u)
  !s.groups.any (fun g => g.2.launch == l) && !s.wgs.any (fun w => w.2.launch == l) &&
  s.cores.all (fun k => k.2.sq.all (fun e => e.asid != x.asid || lives e.uid) && k.2.wt.all (fun e => e.asid != x.asid || lives e.uid)) &&
  s.peerReqs.all (fun r => r.read.isSome || lives r.uid)

/-- PACKET_COMPLETE: a packet whose effect has ended completes; a SIGNAL whose access a page fault held is tried again first. -/
def execPacketComplete (q i : Nat) (s : State) : Out :=
  match s.packet? q i with
  | none => .next s
  | some p =>
    if p.type = 4 ∧ p.status.isNone then finish (s.serveSignal p).publishAll
    else
      match p.status, p.launch.bind (fun l => (s.launches.look l).map (fun x => (l, x))) with
      | none, some (l, x) =>
        match x.status with
        | some st => if s.launchOver l x then finish (({ s with launches := s.launches.del l }).endPacket p st |>.publishAll) else .next s
        | none => .next s
      | some _, _ => finish (s.finishPacket p).publishAll
      | none, none => .next s

end Sys2Proof.Machine
end

