-- ==== Sys2Proof/Machine/Fabric.lean ====
section
/-! DEFINITION. The fabric: configuration, inbound requests, the link, and what its failures do to requests in flight
(spec/19 R425-R436; spec/17 R415). -/

namespace Sys2Proof.Machine

def State.port (s : State) (p : Nat) : Port := s.ports.lookD Port.reset p

/-- A port's registers change; a change of STATE sends an MSI-X message on FABCFG.VEC (spec/19 R434). -/
def State.setPort (s : State) (p : Nat) (x : Port) : State :=
  let changed := x.state != (s.port p).state
  -- routes leave a port that leaves UP, and come back to it only when the other does
  let left := decide (p < 2) && (s.port p).state == 2 && x.state != 2
  let s := { s with ports := s.ports.put p { x with lost := x.lost || left } }
  let s := if left then { s with ports := s.ports.put (1 - p) { s.port (1 - p) with lost := false } } else s
  if changed then s.raiseMsi (bits s.fabcfg.toNat 16 11) else s

/-- A counter that saturates at 2^bits − 1. -/
def satAdd (w a n : Nat) : Nat := min (2 ^ w - 1) (a + n)

/-! FABCFG (spec/19 R425) -/

/-- The fields of FABCFG. -/
def fabMask : DWord := 0x1FFF1F7F

/-- An enabled port that is DOWN trains (spec/19 R434). -/
def State.trainPorts (s : State) : State :=
  [0, 1].foldl (fun s p =>
    let x := s.port p
    if s.fabcfg.getLsbD (4 + p) && x.state == 0 then s.setPort p { x with state := 1 } else s) s

/-- A new configuration takes effect: routes are computed afresh, and enabled ports train. -/
def State.configure (s : State) (w : DWord) : State :=
  { s with fabcfg := w, fabNext := none, ports := s.ports.mapAll (fun _ x => { x with lost := false }) }.trainPorts

/-- A write with EN 0 completes once no request to a peer, nor a validation, is in flight. -/
def State.settleFabric (s : State) : State :=
  match s.fabNext with
  | some v =>
    if s.peerReqs.all (fun r => r.back || r.bad) && s.cores.all (fun k => k.2.vals.all (fun v => v.port.isNone)) then s.configure v else s
  | none => s

/-- FABCFG_WRITE: ignored where EN stays 1; EN 0 refuses new requests at once and completes when those in flight are done. -/
def execFabcfgWrite (v : Nat) (s : State) : Out :=
  let w := va64 v &&& fabMask
  if s.fabcfg.getLsbD 12 && w.getLsbD 12 then .next s
  else if s.fabcfg.getLsbD 12 then .next { s with fabNext := some w }.settleFabric
  else .next (s.configure w)

/-- PORTSTAT_WRITE: a write of any value clears the counters. -/
def execPortstatWrite (port v : Nat) (s : State) : Out :=
  let _ := v
  .next (s.setPort port { s.port port with faults := 0, crcerr := 0, replays := 0, retrains := 0 })

/-! Requests in flight (spec/19 R435, R436) -/

/-- The slot that waits for a request has its outcome. -/
def Slot.peerOut (sl : Slot) (id : Nat) (p : Pend) : Slot :=
  { sl with wait := if sl.wait = .pend (.peer id) then .none else sl.wait,
            replay := sl.replay.map (fun r => { r with why := r.why.map (fun x => if x.2 = .peer id then (x.1, p) else x) }) }

def State.peerOut (s : State) (id : Nat) (p : Pend) : State :=
  { s with groups := s.groups.mapAll (fun _ g => { g with slot0 := g.slot0.peerOut id p, slot1 := g.slot1.peerOut id p }) }

/-- Who made a request still waits for its outcome: its group, its engine operation, or its channel. -/
def State.awaited (s : State) (r : PeerReq) : Bool :=
  match r.op with
  | none => s.groups.any (fun g => g.2.uid == r.uid)
  | some k => (s.core r.core).ops.any (fun o => opKey o.id == k) || s.chans.any (fun x => x.2.running && chanKey x.1 == k)

/-- A request that is done, or whose reader has gone, goes; any other is told of what came of it. -/
def State.peerTold (s : State) (r : PeerReq) (bad : Bool) : State :=
  if s.awaited r ∧ (r.read.isSome ∨ (bad ∧ r.op.isSome)) then
    { s with peerReqs := s.peerReqs.map (fun (q : PeerReq) => if q.id = r.id then { q with back := true, bad := bad, cells := [] } else q) }.peerOut r.id
      (if bad then .peerFail else .ready 0)
  else { s with peerReqs := s.peerReqs.filter (fun q => q.id != r.id) }

/-- The peer's answer arrives: the acknowledgement of a write, which its home has then performed, or the line, with which the waiting
slot replays at once, or the engine goes on (spec/19 R427, R429). -/
def State.peerAck (s : State) (id : Nat) : State :=
  match s.peerReqs.find? (fun r => r.id == id && !r.back && s.travels id r.port r.tgt) with
  | none => s
  | some r => ((s.land (r.tgt / 128)).peerTold r false).settleFabric

/-- A request has failed, and its port counts it: the waiting lanes of a load or atomic take PEER_FAULT, as does an engine's access;
after a group's write, its next release at .S will. A write that its home has not performed yet is not performed (spec/19 R435). -/
def State.failReq (s : State) (r : PeerReq) : State :=
  let x := s.port r.port
  let s := (s.setPort r.port { x with faults := satAdd 8 x.faults 1 }).peerTold r true
  if r.read.isSome ∨ r.op.isSome then s else
  { s with groups := s.groups.mapAll (fun _ g => if g.uid = r.uid ∧ g.peerFail.isNone then { g with peerFail := some (va64 r.va) } else g) }

/-- The packet of a request. -/
def PeerReq.msg (r : PeerReq) : PMsg :=
  let dev := r.tgt / 2 ^ 35
  let a := r.tgt % 2 ^ 35
  if r.read.isNone then .write dev a (r.cells.map (fun c => (c.1 % 2 ^ 35, c.2))) else if r.atom then .atomic dev a else .read dev a

/-- A request that was held for an older one on another port takes the route there is now, or fails. -/
def State.reroute (s : State) (r : PeerReq) : State :=
  match s.peerRoute (r.tgt / 2 ^ 35) (r.tgt % 2 ^ 35) with
  | some p =>
    { s with peerReqs := s.peerReqs.map (fun (q : PeerReq) => if q.id = r.id then { q with port := p } else q) }.send p (some r.id) r.msg
  | none => s.failReq r

/-- A port has left UP for good, from a state: every request in flight on it fails, validations are struck; those held back find
another route (spec/19 R426, R435). -/
def State.failPort (s : State) (p : Nat) (before : State) : State :=
  let mine (r : PeerReq) : Bool := r.port == p && !r.back && !r.bad
  let flying (id tgt : Nat) : Bool := { before with ports := before.ports.put p { before.port p with state := 2 } }.travels id p tgt
  let rs := s.peerReqs.filter mine
  let s := (rs.filter (fun r => flying r.id r.tgt)).foldl State.failReq s
  let s := s.setPort p { s.port p with outQ := [], unacked := [], resend := [] }
  let s := (rs.filter (fun r => !flying r.id r.tgt)).foldl State.reroute s
  let gone (v : Validation) : Bool := v.port == some p && v.answer != some false
  let n := (s.cores.map (fun k => (k.2.vals.filter gone).length)).sum
  let s := { s with cores := s.cores.mapAll (fun _ k => { k with vals := k.vals.map (fun v => if gone v then { v with answer := some false } else v) }) }
  let x := s.port p
  (s.setPort p { x with faults := satAdd 8 x.faults n }).settleFabric

/-- PORT_FAIL: a port that is UP goes DOWN or to FAILED; what is in flight on it fails, and later requests take the other port. -/
def execPortFail (port : Nat) (down : Bool) (s : State) : Out :=
  let x := s.port port
  if x.state ≠ 2 then .next s
  else .next ((s.setPort port { x with state := if down then 0 else 3, width := 0 }).failPort port s)

/-- A validation of a peer's line has no answer: it is struck, and its port counts it (spec/19 R431, R436). -/
def State.failVal (s : State) (v : Validation) : State :=
  match v.port with
  | none => s
  | some p =>
    let x := s.port p
    { s with cores := s.cores.mapAll (fun _ k => { k with vals := k.vals.map (fun (w : Validation) =>
      if w.id = v.id then { w with answer := some false } else w) }) }.setPort p { x with faults := satAdd 8 x.faults 1 }

/-- A peer's request or validation that has not been answered fails. -/
def State.peerFails (s : State) (id : Nat) : State :=
  match s.peerReqs.find? (fun r => r.id == id && !r.back && !r.bad) with
  | some r => (s.failReq r).settleFabric
  | none =>
    match (s.cores.flatMap (fun k => k.2.vals)).find? (fun v => v.id == id && v.answer != some false) with
    | some v => s.failVal v
    | none => s

/-- PEER_TIMEOUT: no answer came within 10,000,000 ns. -/
def execPeerTimeout (id : Nat) (s : State) : Out := .next (s.peerFails id)

/-! Inbound requests (spec/19 R427, R428) -/

/-- The atomic an inbound operation packet carries: operation, TYPE; none for a compare and swap. -/
def inboundOp (k : Nat) : Option (Option AtomOp) :=
  match k with
  | 0 => some (some .add)
  | 1 => some (some .min)
  | 2 => some (some .max)
  | 3 => some (some .and)
  | 4 => some (some .or)
  | 5 => some (some .xor)
  | 6 => some (some .exch)
  | 7 => some (some .inc)
  | 8 => some (some .dec)
  | 9 => some (some .fadd)
  | 10 => some none
  | _ => none

/-- The formats of a TCOPYR's adds, by the code of the inbound event from 11 on (spec/10 R263; log 59). -/
def inboundAdd (k : Nat) : Option FFmt :=
  match k with
  | 11 => some .fp16
  | 12 => some .bf16
  | _ => none

/-- The answer to a request of a device, by the route to it. -/
def State.reply (s : State) (dev addr : Nat) (m : PMsg) : State :=
  match s.peerRoute dev addr with
  | some p => s.send p none m
  | none => s

/-- The home reads a line for a peer, or finds an uncorrectable error in it. -/
def State.inboundRead (s : State) (src addr : Nat) : State :=
  let key := lineKey false (addr / 128)
  if s.eccBad.contains key then s.reply src addr (.error src)
  else
    let s := s.reachHome key
    s.reply src addr (.data src (s.bytesAt false (addr / 128 * 128) 128))

/-- The home confirms or strikes a peer's validation, and counts it (spec/06 R171, spec/19 R431). -/
def State.inboundValidate (s : State) (src addr ver : Nat) : State :=
  let ok := decide (ver < 4095) && s.versions.look (lineKey false (addr / 128)) == some ver
  (s.count (204 + Config.homeSlice 0 (addr / 128) % 64) (if ok then 4 else 5) 1).reply src addr (.confirm src ok)

/-- PEER_INBOUND_REQUEST: kind 0 a read, 1 a write, 2 a validation with its version, 16 + 8 × operation + TYPE an atomic with its value
and compare value, or a TCOPYR's add. It is answered; a refused request is answered with an error, and changes nothing. -/
def execPeerInboundRequest (src kind addr : Nat) (data : List Byte) (s : State) : Out :=
  let src := src % 4
  let open_ := s.fabOn && s.fabcfg.getLsbD (8 + src) && s.devstate.toNat % 16 == 2 && decide (addr + data.length ≤ 2 ^ 35) &&
    decide (addr < 2 ^ 35)
  let write (bs : List Byte) (m : PMsg) : Out := finish ((s.cohWrite false (cellsFrom addr bs)).reply src addr m)
  if !open_ then .next (s.reply src addr (.error src))
  else if kind = 0 then .next (s.inboundRead src addr)
  else if kind = 1 then write data (.ack src)
  else if kind = 2 then .next (s.inboundValidate src addr (leNat data))
  else if kind < 16 then .next s
  else match inboundOp ((kind - 16) / 8), inboundAdd ((kind - 16) / 8) with
    | some op, _ =>
      let a : AtomInfo := { op := op, ty := (kind - 16) % 8, scope := 5, ret := true, acq := false }
      let n := atomBytes a.ty
      let old := s.numAt false addr n
      write (leBytes n (a.apply old (leNat (data.take n)) (leNat ((data.drop n).take n)))) (.value src old)
    | none, some f => write (leBytes 2 (addRne f (s.numAt false addr 2) (leNat (data.take 2)))) (.ack src)
    | none, none => .next s

/-- A peer writes its own memory (spec/19 R429). -/
def State.peerWrites (s : State) (addr : Nat) (bytes : List Byte) : State :=
  if addr / 2 ^ 35 < 4 ∧ addr / 2 ^ 35 ≠ bits s.fabcfg.toNat 0 2 then s.cohWrite true (cellsFrom addr bytes) else s

/-- MSI_FORWARD: a message of a part with host option N raises its vector here (spec/17 R415). -/
def execMsiForward (src vec : Nat) (s : State) : Out := .next (s.raiseMsi (1536 + 128 * (src % 4) + vec % 128))

/-! The link (spec/19 R432-R434) -/

/-- One bit of a CRC-64 with the ECMA-182 polynomial, most significant bit first (log 25). -/
def crcBit (c : DWord) (b : Bool) : DWord :=
  let top := c.getLsbD 63 != b
  if top then (c <<< 1) ^^^ 0x42F0E1EBA9EA3693 else c <<< 1

def crcByte (c : DWord) (b : Byte) : DWord := [7, 6, 5, 4, 3, 2, 1, 0].foldl (fun c i => crcBit c (b.getLsbD i)) c
def crc64 (bs : List Byte) : DWord := bs.foldl crcByte 0

/-- The 256 bytes of a flit given as 32 words of 64 bits. -/
def flitBytes (words : List Nat) : List Byte := (List.range 32).flatMap (fun i => leBytes 8 (words.getD i 0))

/-- The 32 words of a flit: its header, fifteen slots, the CRC (spec/19 R432). -/
def flitWords (seq ack kind : Nat) (slots : List Nat) : List Nat :=
  let hdr := seq % 1024 + 2 ^ 10 * (ack % 1024) + 2 ^ 20 * (kind % 4) + 2 ^ 22 * (slots.length % 16)
  let ws := hdr :: (List.range 15).flatMap (fun i => let x := slots.getD i 0; [x % 2 ^ 64, x / 2 ^ 64 % 2 ^ 64])
  ws ++ [(crc64 (ws.flatMap (leBytes 8))).toNat]

/-- A port sends a new flit with the next sequence number, and keeps it until it is acknowledged; the retry buffer holds 512
(spec/19 R433). -/
def Port.emit (x : Port) (kind ack : Nat) (ms : List PMsg) : Port :=
  if 512 ≤ x.unacked.length then x else
  let ws := flitWords x.nextSeq ack kind (ms.flatMap PMsg.slots)
  { x with nextSeq := (x.nextSeq + 1) % 1024, unacked := x.unacked ++ [(x.nextSeq, ws)], sent := x.sent ++ [ws] }

/-- A packet may go into a flit now: a request only when nothing sent before it to its place is on its way by the other port. -/
def State.mayGo (s : State) (p : Nat) (x : Option Nat × PMsg) : Bool :=
  match x.1, x.2 with
  | some id, .read d a => s.travels id p (d * 2 ^ 35 + a)
  | some id, .write d a _ => s.travels id p (d * 2 ^ 35 + a)
  | some id, .atomic d a => s.travels id p (d * 2 ^ 35 + a)
  | some id, .validate d a _ => s.travels id p (d * 2 ^ 35 + a)
  | _, _ => true

/-- A port that is UP sends: a flit that is to be sent again, else the first n packets that wait, as many as fit, or an idle flit. -/
def State.flitSend (s : State) (p n : Nat) : State :=
  let x := s.port p
  if x.state ≠ 2 then s else
  match x.resend with
  | q :: rest =>
    let again := (x.unacked.filter (fun u => u.1 == q)).map (fun u => u.2)
    s.setPort p { x with resend := rest, sent := x.sent ++ again }
  | [] =>
    let q := (x.outQ.takeWhile (s.mayGo p)).map (fun m => m.2)
    let ms := (List.range (n + 1)).foldl (fun (b : List PMsg) k =>
      if ((q.take k).flatMap PMsg.slots).length ≤ 15 then q.take k else b) []
    if 512 ≤ x.unacked.length then s
    else s.setPort p { x.emit (if ms = [] then 1 else 0) x.lastAcc ms with outQ := x.outQ.drop ms.length }

/-- A packet for another device goes out through the other port (spec/19 R426). -/
def State.forwardOn (s : State) (p n : Nat) : State :=
  let x := s.port p
  if n = 0 ∨ 15 < n ∨ x.accepted.length < n ∨ !(s.fabcfg.getLsbD 4 && s.fabcfg.getLsbD 5) then s else
  let m := PMsg.forward ((x.accepted.take n).map (fun w => w.getD 0 0 + 2 ^ 64 * w.getD 1 0))
  (s.setPort p { x with accepted := x.accepted.drop n }).send (1 - p) none m

/-- Is a sequence number one of the n that end with the last? -/
def seqWithin (first n x : Nat) : Bool := decide ((x + 1024 - first % 1024) % 1024 < n)

/-- The unacknowledged flits after an acknowledgement. -/
def Port.acked (x : Port) (a : Nat) : Port :=
  match x.unacked with
  | [] => x
  | u :: _ =>
    if seqWithin u.1 x.unacked.length a then
      { x with unacked := x.unacked.drop ((a + 1024 - u.1 % 1024) % 1024 + 1), naks := 0 }
    else x

/-- A port retrains: the retry buffer is kept (spec/19 R433). -/
def State.retrain (s : State) (p : Nat) : State :=
  let x := s.port p
  if x.state ≠ 2 then s else s.setPort p { x with state := 1, width := 0, retrains := satAdd 8 x.retrains 1, naks := 0 }

/-- A NAK names the last flit accepted: every later one is sent again in order; eight NAKs of one flit in a row retrain the port. -/
def State.nak (s : State) (p seq : Nat) : State :=
  let x := s.port p
  if x.state ≠ 2 then s else
  let named := (seq + 1) % 1024
  let x := x.acked seq
  let n := if x.nakOf = named then x.naks + 1 else 1
  let s := s.setPort p { x with naks := n, nakOf := named, replays := satAdd 16 x.replays 1, resend := x.unacked.map (fun u => u.1) }
  if 8 ≤ n then s.retrain p else s

/-- NAK_RECEIVE -/
def execNakReceive (port seq : Nat) (s : State) : Out := .next (s.nak port (seq % 1024))

/-- FLIT_RECEIVE: a flit with a good CRC that follows the last accepted one is accepted, with its packets; any other is discarded,
and a NAK names the last accepted one. -/
def execFlitReceive (port : Nat) (words : List Nat) (s : State) : Out :=
  let x := s.port port
  if x.state ≠ 2 then .next s else
  let bs := flitBytes words
  let h := leNat (bs.take 8)
  if crc64 (bs.take 248) ≠ BitVec.ofNat 64 (leNat (bs.drop 248)) then
    .next (s.setPort port ({ x with crcerr := satAdd 16 x.crcerr 1 }.emit 2 x.lastAcc []))
  else if bits h 0 10 ≠ (x.lastAcc + 1) % 1024 then .next (s.setPort port (x.emit 2 x.lastAcc []))
  else
    let n := bits h 22 4
    let packets : List (List Nat) := if bits h 20 2 = 0 then
      (List.range n).map (fun i => [leNat ((bs.drop (8 + 16 * i)).take 8), leNat ((bs.drop (16 + 16 * i)).take 8)]) else []
    let s := s.setPort port { x.acked (bits h 10 10) with lastAcc := bits h 0 10, accepted := x.accepted ++ packets }
    .next (if bits h 20 2 = 2 then s.nak port (bits h 10 10) else s)

/-- ACK_TIMEOUT_RETRAIN: no progress of ACKSEQ for 100,000 ns while flits are unacknowledged. -/
def execAckTimeoutRetrain (port : Nat) (s : State) : Out :=
  if (s.port port).unacked = [] then .next s else .next (s.retrain port)

/-- PORT_TRAINING_DONE: UP on 8 or 16 lanes (lanes 1 or 2), and replay resumes; or failed (0): the third failure in a row is
FAILED. -/
def execPortTrainingDone (port lanes : Nat) (s : State) : Out :=
  let x := s.port port
  if x.state ≠ 1 then .next s
  else if lanes = 0 then
    if 2 ≤ x.fails then
      .next ((s.setPort port { x with state := 3, fails := x.fails + 1, width := 0 }).failPort port s)
    else .next (s.setPort port { x with fails := x.fails + 1 })
  else .next (s.setPort port { x with state := 2, width := min 2 lanes, fails := 0, resend := x.unacked.map (fun u => u.1) })

/-- PORTnSTAT as it reads (spec/19 R434). -/
def Port.word (x : Port) : Nat :=
  x.state + 8 * x.width + 2 ^ 16 * x.retrains + 2 ^ 24 * x.replays + 2 ^ 40 * x.crcerr + 2 ^ 56 * x.faults

end Sys2Proof.Machine
end

