-- ==== Sys2Proof/Machine/Life.lean ====
section
/-! DEFINITION. The host attachment, the registers of BAR0, and the life of the device (spec/17 R407-R415). -/

namespace Sys2Proof.Machine

/-- DEVSTATE.STATE: 1 BASECAMP, 2 RUN, 3 FAILED, 4 ALARM, 5 NOKEY. -/
def State.devSt (s : State) : Nat := s.devstate.toNat % 16
/-- DEVSTATE with a state and a cause. -/
def devWord (st cause : Nat) : DWord := BitVec.ofNat 64 (st + 256 * (cause % 256))
/-- The device answers only reads of DEVSTATE (spec/17 R413). -/
def State.closed (s : State) : Bool := s.devSt == 4 || s.devSt == 5

/-! Registers (spec/17 R408, R409) -/

/-- Clamp a field of a word to a maximum. -/
def clampField (v lo w mx : Nat) : Nat := v - bits v lo w * 2 ^ lo + min mx (bits v lo w) * 2 ^ lo

/-- FRSVA and FRSVB as they are stored (spec/12 R295). -/
def frsvWord (v : Nat) : DWord :=
  let v := clampField (clampField (clampField (clampField (clampField v 32 9 384) 27 5 16) 22 5 16) 18 4 8) 13 5 28
  BitVec.ofNat 64 v &&& 0x1FFFFFFE001

/-- WPnC as it is stored (spec/14 R345). -/
def wpcWord (v : Nat) : DWord := BitVec.ofNat 64 (clampField v 42 6 32) &&& 0xFFFFFC000000000F

/-- PLIM as it is stored (spec/17 R409). -/
def plimWord (v : Nat) : DWord := BitVec.ofNat 64 (max 150 (min 600 (bits v 0 10)))

/-- What a register of window 0 holds, for a write to one half of it; write-only registers read zero. -/
def State.regRead (s : State) (a : Nat) : Nat :=
  let ring (k : Nat) : Ring := s.rings.lookD Ring.reset k
  let wp (n : Nat) := s.wps.lookD (0, 0) n
  if a = 0 then s.devstate.toNat else if a = 8 then s.plim.toNat else if a = 0x10 then s.qtabbase.toNat
  else if a = 0x20 then s.ctxbase.toNat else if a = 0x28 then s.preempt.toNat else if a = 0x38 then s.cntbase.toNat
  else if a = 0x40 then s.sampper.toNat else if a = 0x48 then s.vsbase.toNat else if a = 0x50 then s.vssize.toNat
  else if a = 0x58 then s.vserr.toNat else if a = 0x60 then s.fabcfg.toNat
  else if a = 0x68 then (s.port 0).word else if a = 0x70 then (s.port 1).word
  else if 0x100 ≤ a ∧ a < 0x200 then
    let r := ring ((a - 0x100) / 0x40)
    match (a - 0x100) % 0x40 with
    | 0x00 => r.base.toNat
    | 0x08 => r.size.toNat
    | 0x10 => r.head.toNat
    | 0x18 => r.tail.toNat
    | 0x20 => r.vec.toNat
    | _ => 0
  else if 0x200 ≤ a ∧ a < 0x280 then
    let w := wp ((a - 0x200) / 16)
    if a % 16 = 0 then w.1.toNat else if a % 16 = 8 then w.2.toNat else 0
  else if 0x1000 ≤ a ∧ a < 0x1300 then
    let k := s.cluster ((a - 0x1000) / 0x40)
    match (a - 0x1000) % 0x40 with
    | 0x00 => k.dbgctl.toNat
    | 0x08 => k.dumpbase.toNat
    | 0x10 => k.frsva.toNat
    | 0x18 => k.frsvb.toNat
    | _ => 0
  else if 0x300000 ≤ a ∧ a < 0x308000 then
    let i := (a - 0x300000) / 4
    (s.msixWord i).toNat + 2 ^ 32 * (s.msixWord (i + 1)).toNat
  else if 0x380000 ≤ a ∧ a < 0x380100 then
    ((List.range 64).map (fun i => if s.msiPend.contains (8 * (a - 0x380000) + i) then 2 ^ i else 0)).sum
  else 0

/-- A write of one word of the MSI-X table; unmasking a pending vector sends it. -/
def State.msixWrite (s : State) (i : Nat) (w : Word) : State :=
  let s := { s with msix := s.msix.putD (msixReset i) i w }
  let v := i / 4
  if i % 4 = 3 ∧ !w.getLsbD 0 ∧ s.msiPend.contains v then
    { s with msiPend := s.msiPend.filter (fun x => x != v) }.raiseMsi v
  else s

/-- The state a register's own meaning leaves. -/
def outState (s : State) (o : Out) : State := match o with | .next t => t | _ => s

/-- PREEMPT: a write with PRE, RES or KILL while BUSY is ignored (spec/14 R338); KILL, then RES, then PRE. -/
def State.writePreempt (s : State) (v : Nat) : State :=
  let asid := bits v 0 16
  let req := decide (bits v 16 3 ≠ 0)
  if req && s.preempt.getLsbD 19 then s
  else if !req then { s with preempt := (s.preempt &&& 0x80000) ||| BitVec.ofNat 64 (if s.preempt.getLsbD 19 then bits s.preempt.toNat 0 16 else asid) }
  else
    let s := if v.testBit 18 then outState s (execPreemptKill asid s) else s
    let s := if v.testBit 17 then outState s (execPreemptRes asid s) else s
    if v.testBit 16 then outState s (execPreemptPre asid s) else s

/-- Write a whole register of window 0; an offset that holds none is ignored (spec/17 R408). -/
def State.regWrite (s : State) (a v : Nat) : State :=
  let w := va64 v
  let ring (k : Nat) (f : Ring → Ring) : State := { s with rings := s.rings.put k (f (s.rings.lookD Ring.reset k)) }
  if a = 8 then { s with plim := plimWord v }
  else if a = 0x10 then { s with qtabbase := w }
  else if a = 0x18 then outState s (execQkick (v % 2 ^ 32) s)
  else if a = 0x20 then { s with ctxbase := w }
  else if a = 0x28 then s.writePreempt v
  else if a = 0x30 then
    if bits v 32 2 = 1 then outState s (execFltrespRetry (bits v 0 32) s)
    else if bits v 32 2 = 2 then outState s (execFltrespUnresolved (bits v 0 32) s) else s
  else if a = 0x38 then { s with cntbase := w }
  else if a = 0x40 then { s with sampper := w &&& 0xFFFFFFFF }
  else if a = 0x48 then outState s (execVsbaseWrite v s)
  else if a = 0x50 then outState s (execVssizeWrite v s)
  else if a = 0x58 then (if bits v 2 30 = 0 then { s with vserr := s.vserr &&& 0xFFFFFFFF00000003 } else s)
  else if a = 0x60 then outState s (execFabcfgWrite v s)
  else if a = 0x68 then outState s (execPortstatWrite 0 v s)
  else if a = 0x70 then outState s (execPortstatWrite 1 v s)
  else if 0x100 ≤ a ∧ a < 0x200 then
    let k := (a - 0x100) / 0x40
    match (a - 0x100) % 0x40 with
    | 0x00 => (ring k (fun r => { r with base := w, off := false })).ringIdle k
    | 0x08 => (ring k (fun r => { r with size := w, off := false })).ringIdle k
    | 0x18 => ring k (fun r => { r with tail := w })
    | 0x20 => ring k (fun r => { r with vec := w })
    | _ => s
  else if 0x200 ≤ a ∧ a < 0x280 then
    let n := (a - 0x200) / 16
    let p := s.wps.lookD (0, 0) n
    if a % 16 = 0 then { s with wps := s.wps.put n (w, p.2) }
    else if a % 16 = 8 then { s with wps := s.wps.put n (p.1, wpcWord v) } else s
  else if 0x1000 ≤ a ∧ a < 0x1300 then
    let k := (a - 0x1000) / 0x40
    match (a - 0x1000) % 0x40 with
    | 0x00 => s.modCluster k (fun c => { c with dbgctl := w &&& 0xFFFF0007 })
    | 0x08 => s.modCluster k (fun c => { c with dumpbase := w })
    | 0x10 => s.modCluster k (fun c => { c with frsva := frsvWord v })
    | 0x18 => s.modCluster k (fun c => { c with frsvb := frsvWord v })
    | 0x20 =>
      if v % 4 = 1 then outState s (execDbgcmdStop k v s)
      else if v % 4 = 2 then outState s (execDbgcmdResume k v s) else s
    | _ => s
  else if 0x300000 ≤ a ∧ a < 0x308000 then
    let i := (a - 0x300000) / 4
    (s.msixWrite i (BitVec.ofNat 32 v)).msixWrite (i + 1) (BitVec.ofNat 32 (v / 2 ^ 32))
  else s

/-- A write-only register of 8 bytes, whose other half a 4-byte write leaves as it was written last: FLTRESP, or DBGCMD of a
cluster. -/
def woReg (r : Nat) : Bool := r == 0x30 || (decide (0x1000 ≤ r) && decide (r < 0x1300) && (r - 0x1000) % 0x40 == 0x20)

/-- What one half of an 8-byte register is written into. -/
def State.halfBase (s : State) (r : Nat) : Nat :=
  if woReg r then (let h := s.halves.lookD (0, 0) r; h.1.toNat + 2 ^ 32 * h.2.toNat) else s.regRead r

/-- A write of a register, of which a write-only one keeps the halves for 4-byte writes. -/
def State.regStore (s : State) (r v : Nat) : State :=
  let s := if woReg r then { s with halves := s.halves.putD (0, 0) r (BitVec.ofNat 32 v, BitVec.ofNat 32 (v / 2 ^ 32)) } else s
  s.regWrite r v

/-- A 4-byte write changes one half of an 8-byte register; of the MSI-X table, one word (spec/17 R409). A write of either half of a
write-only register acts as a write of the whole: the model's choice (log 58). -/
def State.regWriteHalf (s : State) (a v : Nat) : State :=
  if 0x300000 ≤ a ∧ a < 0x308000 then s.msixWrite ((a - 0x300000) / 4) (BitVec.ofNat 32 v) else
  let r := a / 8 * 8
  if (r = 0x18 ∨ r = 0x50) ∧ a % 8 = 4 then s else
  let old := s.halfBase r
  if a % 8 = 0 then s.regStore r (old / 2 ^ 32 * 2 ^ 32 + v % 2 ^ 32)
  else s.regStore r (old % 2 ^ 32 + 2 ^ 32 * (v % 2 ^ 32))

/-- A naturally aligned write to window 0; in ALARM and NOKEY writes are ignored. -/
def State.regAccess (s : State) (a v : Nat) (half : Bool) : State :=
  if s.closed || decide (2 ^ 22 ≤ a) then s
  else if half then (if a % 4 = 0 then s.regWriteHalf a v else s)
  else if a % 8 = 0 then s.regStore a v else s

/-- What a read of a register answers: in ALARM and NOKEY only DEVSTATE (spec/17 R413, R415). -/
def State.regAnswer (s : State) (a : Nat) (half : Bool) : Nat :=
  let a := a % 2 ^ 22
  let r := a / 8 * 8
  if s.closed && r != 0 then 0
  else if half then s.regRead r / (if a % 8 = 4 then 2 ^ 32 else 1) % 2 ^ 32 else s.regRead r

/-- The port by which a window's device is reached; none where it lies beyond NDEV, has no route, or the fabric is off
(spec/17 R409). -/
def State.windowPort (s : State) (k : Nat) : Option (Nat × Nat) :=
  let dev := (bits s.fabcfg.toNat 0 2 + k) % 4
  if s.peerOk dev 0 then (s.peerRoute dev 0).map (fun p => (dev, p)) else none

/-- REGISTER_WRITE: the host's write of 8 bytes, or of 4 (half), to a register. One to windows 1 to 3 goes to a peer as a register
packet, or is answered with an error (spec/17 R409). A part with host option N has no host to write its registers (spec/17 R415). -/
def execRegisterWrite (addr v : Nat) (half : Bool) (s : State) : Out :=
  if s.life.optN then .next s
  else if addr < 2 ^ 22 ∨ 2 ^ 24 ≤ addr then finish ({ s with hostErr := false }.regAccess addr v half)
  else if s.closed then .next { s with hostErr := true }
  else
    match s.windowPort (addr / 2 ^ 22) with
    | none => .next { s with hostErr := true }
    | some (dev, p) => .next ({ s with hostErr := false }.send p none (.reg dev true (addr % 2 ^ 22) v half))

/-- REGISTER_PACKET: a register access that a peer carries here: a write has its effect, a read is answered (spec/17 R415). -/
def execRegisterPacket (write : Bool) (src addr v : Nat) (half : Bool) (s : State) : Out :=
  if !(s.fabOn && s.fabcfg.getLsbD (8 + src % 4)) then .next (s.reply (src % 4) 0 (.error (src % 4)))
  else if write then finish (s.regAccess addr v half)
  else .next (s.reply (src % 4) 0 (.value (src % 4) (s.regAnswer addr half)))

/-! The host attachment (spec/17 R407) -/

/-- HOST_REQUEST: kind 1 writes bytes at the coherent caches, as the host's stores and atomics do; kind 2 reads a register (its answer
is regAnswer), through window 1 to 3 by a register packet; any other reads memory and changes nothing. Device memory answers with an
error in ALARM and NOKEY, where none exists, and on a part with host option N. -/
def execHostRequest (kind addr : Nat) (data : List Byte) (s : State) : Out :=
  if kind = 2 then
    if s.life.optN then .next s
    else if addr < 2 ^ 22 then .next { s with hostErr := s.closed && addr / 8 != 0 }
    else if s.closed || decide (2 ^ 24 ≤ addr) then .next { s with hostErr := true }
    else
      match s.windowPort (addr / 2 ^ 22) with
      | none => .next { s with hostErr := true }
      | some (dev, p) => .next ({ s with hostErr := false }.send p none (.reg dev false (addr % 2 ^ 22) 0 (data.length == 4)))
  else
  let cells := cellsFrom addr data
  let bad := cells.any (fun c => decide (2 ^ 52 ≤ c.1) || (!isHost c.1 && (s.closed || s.life.optN || s.hole c.1)))
  if kind ≠ 1 ∨ bad = true then .next { s with hostErr := bad }
  else finish ({ s with hostErr := false }.cohWrite false cells)

/-- UCIE_LINK_TRAINING: kind 0 trains at a rate in GT/s, 1 sets the modules in use, 2 loses training, 3 trains CXL.cache (arg 1) or
loses it. -/
def execUcieLinkTraining (kind arg : Nat) (s : State) : Out :=
  if s.life.optN then .next s else
  match kind with
  | 0 =>
    if arg = 4 ∨ arg = 8 ∨ arg = 12 ∨ arg = 16 ∨ arg = 32 then
      .next { s with life := { s.life with gts := arg, modules := if s.life.modules = 0 then 4 else s.life.modules } }
    else .next s
  | 1 => if (arg = 1 ∨ arg = 2 ∨ arg = 4) ∧ s.life.gts ≠ 0 then .next { s with life := { s.life with modules := arg } } else .next s
  | 2 => .next { s with life := { s.life with gts := 0, modules := 0, cxlCache := false } }
  | 3 => if s.life.modules = 0 then .next s else .next { s with life := { s.life with cxlCache := decide (arg = 1) } }
  | _ => .next s

/-! The life of the device (spec/17 R410-R415) -/

/-- FABCFG of a part with host option N at cold reset (spec/17 R415). -/
def fabOptN (straps : Nat) : DWord := BitVec.ofNat 64 (0x1F3C + straps % 4)

/-- COLD_RESET: every register at its reset value; the key store, the straps and the host's own memory stay as they are. -/
def execColdReset (strap opt grade : Nat) (fwOk : Bool) (s : State) : Out :=
  let n := decide (opt ≠ 0)
  let life : Life := { Life.reset with keyStore := s.life.keyStore, straps := strap % 4, optN := n, gradeE := decide (grade ≠ 0) }
  let t : State := { State.reset with
    mem := s.mem.filter (fun c => isHost c.1), peerMem := s.peerMem, agenda := s.agenda, serial := s.serial, life := life,
    devstate := if !s.life.keyStore then devWord 5 2 else if !fwOk then devWord 5 1 else devWord 1 0,
    fabcfg := if n then fabOptN strap else 0 }
  .next t.trainPorts

/-- BASECAMP_TEST_RESULT: memory training and the cache-die test passed (0), or one failed (CAUSE 1 or 2). -/
def execBasecampTestResult (cause : Nat) (s : State) : Out :=
  if s.devSt ≠ 1 then .next s
  else if cause = 0 then .next { s with life := { s.life with testPass := true } }
  else .next { s with devstate := devWord 3 (min 2 cause) }

/-- The host comes to answer accesses to a line of its memory with an error, or does so no longer (spec/14 R437). -/
def State.hostError (s : State) (line : Nat) (on : Bool) : State :=
  { s with hostBad := s.hostBad.filter (fun k => k != line) ++ (if on then [line] else []) }

/-- ENTER_RUN: with the tests passed and no launch running; launches that waited for RUN may be placed; the contents of the
direct-mode memory are not kept. -/
def execEnterRun (s : State) : Out :=
  let waits (x : Launch) : Bool := x.status.isNone && !x.placeable && !x.preempting && x.fill.isNone
  if s.devSt ≠ 1 ∨ !s.life.testPass ∨ s.launches.any (fun l => l.2.status.isNone && !waits l.2) then .next s
  else
    let kept (k : Nat) : Bool := decide (2 ^ 19 ≤ k)
    .next { s with
      devstate := devWord 2 0, mem := s.mem.filter (fun c => decide (2 ^ 26 ≤ c.1)), versions := s.versions.filter (fun v => kept v.1),
      verRound := s.verRound.filter (fun v => kept v.1), launches := s.launches.mapAll (fun _ x => if waits x then { x with placeable := true } else x),
      clusters := (List.range 12).foldl (fun t k => t.put k { s.cluster k with mhz := 2300 }) s.clusters }

/-- FREEZE_ASSERT: every clock stops; all contents stay. -/
def execFreezeAssert (s : State) : Out := .next { s with life := { s.life with frozen := true } }

/-- FREEZE_DEASSERT has no effect. -/
def execFreezeDeassert (s : State) : Out := .next s

/-- SECURITY_ALARM: the key store is erased, everything stops, ALARM with the detector as CAUSE. -/
def execSecurityAlarm (cause : Nat) (s : State) : Out :=
  if s.devSt = 4 then .next s
  else .next { s with devstate := devWord 4 cause, life := { s.life with keyStore := false, stopped := true, unlocked := false } }

/-- POWER_THROTTLE: a cluster's clock is lowered, or raised again up to its nominal rate, by 100 MHz; only timing changes. -/
def execPowerThrottle (cluster mhz : Nat) (s : State) : Out :=
  let now := (s.cluster cluster).mhz
  let top := if s.baseCamp then 800 else 2300
  if (mhz + 100 = now ∨ mhz = now + 100) ∧ 0 < mhz ∧ mhz ≤ top then .next (s.modCluster cluster (fun k => { k with mhz := mhz }))
  else .next s

/-- THERMAL_TRIP: the output is asserted, and the device stops as the freeze pin stops it. -/
def execThermalTrip (s : State) : Out := .next { s with life := { s.life with thermalTrip := true, frozen := true } }

/-- DEBUG_UNLOCK: refused in ALARM and once the key store is erased. -/
def execDebugUnlock (auth : Bool) (s : State) : Out :=
  if auth && s.life.keyStore && s.devSt != 4 then .next { s with life := { s.life with unlocked := true } } else .next s

/-- While the clocks stand, or the device is in ALARM or NOKEY, only these events have an effect (spec/17 R410, R412, R413): the link
goes on, and answers register packets (spec/17 R415). -/
def State.admits (s : State) (i : Instr) : Bool :=
  if s.life.frozen then
    match i with
    | .coldReset _ _ _ _ => true
    | .securityAlarm _ => true
    | _ => false
  else if s.life.stopped || s.closed then
    match i with
    | .coldReset _ _ _ _ => true
    | .securityAlarm _ => true
    | .freezeAssert => true
    | .thermalTrip => true
    | .debugUnlock _ => true
    | .registerWrite _ _ _ => true
    | .registerPacket _ _ _ _ _ => true
    | .hostRequest _ _ _ => true
    | .peerInboundRequest _ _ _ _ => true
    | .flitReceive _ _ => true
    | .nakReceive _ _ => true
    | .ackTimeoutRetrain _ => true
    | .portTrainingDone _ _ => true
    | .portFail _ _ => true
    | .ucieLinkTraining _ _ => true
    | _ => false
  else true

end Sys2Proof.Machine
end

