-- ==== Sys2Proof/Machine/Matrix.lean ====
section
/-! DEFINITION. Format blocks, the quartet instructions MMA, MMAS and MMAF, and their completion (spec/08 R223-R232; spec/09
R249-R252; spec/01 R40, R41). -/

namespace Sys2Proof.Machine

/-! Format blocks (spec/08 R223, R224; spec/09 R249) -/

def codeReserved (c : Nat) : Bool := decide (0x16 ≤ c)

/-- K of a pair of operand formats, if they form a row of R224. -/
def pairK (a b : Nat) : Option Nat :=
  let both (l : List Nat) : Bool := l.contains a && l.contains b
  if both [9, 10] then some 64
  else if both [11, 12] || both [0, 1] || both [14, 15] then some 128
  else if both [13] || both [6, 7] then some 256
  else if a = 13 ∧ b = 18 then some 512
  else none

/-- Formats a scale block may go with. -/
def mayScale (c : Nat) : Bool := [11, 12, 0, 14, 15, 13, 18].contains c

def blockAfmt (w : Word) : Nat := bits w.toNat 0 5
def blockBfmt (w : Word) : Nat := bits w.toNat 5 5
def blockAblk (w : Word) : Nat := bits w.toNat 10 2
def blockBblk (w : Word) : Nat := bits w.toNat 12 2

/-- Why a format block of MMA or MMAS is not valid: ILLEGAL_FORMAT or FBLOCK. -/
def blockCause (fb : List Word) : Option Nat :=
  let w0 := fb.headD 0
  let w3 := (fb[3]?).getD 0
  let a := blockAfmt w0
  let b := blockBfmt w0
  if codeReserved a || codeReserved b then some 5
  else if bits w0.toNat 16 16 ≠ 0 ∨ w3.toNat / 4 ≠ 0 ∨ (pairK a b).isNone ∨ (blockAblk w0 ≠ 0 ∧ !mayScale a)
    ∨ (blockBblk w0 ≠ 0 ∧ !mayScale b) ∨ (b = 18 ∧ blockBblk w0 ≠ 2) then some 14
  else none

/-- The same for MMAF. -/
def blockCauseF (fb : List Word) : Option Nat :=
  let w0 := fb.headD 0
  let w3 := (fb[3]?).getD 0
  let a := blockAfmt w0
  let b := blockBfmt w0
  if codeReserved a || codeReserved b then some 5
  else if (a ≠ 19 ∧ a ≠ 20) ∨ (b ≠ 19 ∧ b ≠ 20) ∨ bits w0.toNat 10 4 ≠ 0 ∨ bits w0.toNat 16 16 ≠ 0 ∨ (fb[1]?).getD 0 ≠ 0
    ∨ (fb[2]?).getD 0 ≠ 0 ∨ bits w3.toNat 0 2 ≠ 0 ∨ bits w3.toNat 7 25 ≠ 0 then some 14
  else none

/-- The operand that names a format block is no S(n) with n a multiple of 4 and S(n+3) allotted. -/
def Env.badBlock (e : Env) (o : Opd) : Bool :=
  match o with
  | .s n => n.val % 4 != 0 || decide (e.g.sAlloc < n.val + 4)
  | _ => true

def Env.blockWords (e : Env) (o : Opd) : List Word :=
  match o with
  | .s n => (List.range 4).map (fun i => e.sreg (n.val + i))
  | _ => []

def blockRegs (o : Opd) : List (RegCls × Nat) :=
  match o with
  | .s n => (List.range 4).map (fun i => (.s, n.val + i))
  | _ => []

/-- The checks of execFbchk. -/
def chkFbchk (d a : Opd) (e : Env) : Chk :=
  { opd := e.badP d || e.badBlock a, ninth := e.tileRole, reads := blockRegs a }

def execFbchk (h : Hdr) (f : Bool) (d a : Opd) : State → Out :=
  issue h (chkFbchk d a) (fun e s =>
    let act := e.active h
    if act.isEmpty then s.retire e h else
    let fb := e.blockWords a
    let ok := (if f then blockCauseF fb else blockCause fb).isNone
    let ws : List RegWrite := act.flatMap (fun l => match d with
      | .p r => [⟨.p, r.val, l, if ok then 1 else 0⟩]
      | _ => [])
    (s.start e { e.op s (e.flag h) .data with writes := ws }).retire e h)

/-! Arrival at the quartet gate (spec/08 R225, R227-R229; spec/09 R250) -/

/-- The elements a scale covers along k. -/
def blockLen (code : Nat) : Nat := 8 * 2 ^ code

/-- Addresses of the scale bytes of 64 rows. -/
def scaleAddrs (base : Word) (k blk : Nat) : List Nat :=
  if blk = 0 then [] else (List.range (64 * (k / blockLen blk))).map (fun i => (base.toNat + i) % 2 ^ 32)

/-- The lowest of some scale addresses that lies outside the windows. -/
def State.scaleBad (s : State) (e : Env) (as : List Nat) : Option Nat :=
  match as.filter (fun a => (s.window e.g.wg a 1).isNone) with
  | b :: r => some (r.foldl min b)
  | [] => none

/-- Scale reads wait, as the group's loads do, for its earlier writes that are not yet in the array and for an access of the other
slot that pends (spec/08 R225, spec/13 R293, R308). -/
def State.scaleWaits (s : State) (e : Env) (as : List Nat) : Bool :=
  !as.isEmpty && (e.siblingPends || as.any (fun a => s.scratchWaits e a 1))

/-- Scale bytes as the group loads them. -/
def State.scales (s : State) (e : Env) (as : List Nat) : List Nat :=
  as.map (fun a => match s.loadScratch e a 1 with | .done bs => leNat bs | _ => 0)

/-- R228 step 3 on one tile. -/
def tileFits (t : Tag) (dom fmt : Nat) : Bool := t.dom == dom && t.fmt == fmt

/-- The checks of R228 steps 2 to 4 for MMA and MMAS; a cause, or the exponent. -/
def Env.mmaCause (e : Env) (base : Bool) (ta tb acc : Nat) (fb : List Word) : Nat ⊕ Int :=
  let w0 := fb.headD 0
  let a := blockAfmt w0
  let b := blockBfmt w0
  match blockCause fb with
  | some c => .inl c
  | none =>
    if base && !((a == 9 || a == 10) && (b == 9 || b == 10)) then .inl 14
    else if b = 18 ∧ ta % 2 = 1 then .inl 13
    else if b = 18 ∧ e.g.tAlloc ≤ ta + 1 then .inl 4
    else
      let A := e.g.tag ta
      let B := e.g.tag tb
      -- the tags of a pair, BMV apart
      let pairOk := b != 18 || (tileFits (e.g.tag (ta + 1)) 0 a && (e.g.tagOf ta ||| 0x200000) == (e.g.tagOf (ta + 1) ||| 0x200000))
      let ex := A.exp + B.exp
      if !(tileFits A 0 a && pairOk && tileFits B 0 b) then .inl 13
      else if ex < -128 ∨ 127 < ex then .inl 13
      else if !w0.getLsbD 15 && (List.range 4).any (fun i =>
        let t := e.g.atag (acc + i); !t.fresh && (t.dom != 0 || t.exp != ex)) then .inl 13
      else .inr ex

/-- R250 steps 2 to 4 for MMAF. -/
def Env.mmafCause (e : Env) (base : Bool) (ta tb : Nat) (fb : List Word) : Nat ⊕ Int :=
  let w0 := fb.headD 0
  let A := e.g.tag ta
  let B := e.g.tag tb
  let bin := bits ((fb[3]?).getD 0).toNat 2 5
  let ex := A.exp + B.exp
  match blockCauseF fb with
  | some c => .inl c
  | none =>
    if base then .inl 14
    else if !(tileFits A 1 (blockAfmt w0) && tileFits B 1 (blockBfmt w0) && A.blen != 0 && A.blen == B.blen &&
      decide (bin < 2 ^ (A.blen - 1))) then .inl 13
    else if ex < -128 ∨ 127 < ex then .inl 13
    else if !w0.getLsbD 15 && (List.range 8).any (fun i =>
      let t := e.g.atag i; !t.fresh && (t.dom != 1 || t.blen != A.blen || t.exp != ex || t.imag != (i % 2 == 1))) then .inl 13
    else .inr ex

/-- Stand at the gate with an operation, or as a skip. -/
def State.arriveGate (s : State) (e : Env) (h : Hdr) (us : List TileUse) (op : Option (MatOp × Int)) : State :=
  let o := { e.op s (e.flag h) .barrier with uses := us }
  let a : GateArrival :=
    { ctx := e.ctx, slot := e.n, wg := e.g.wg, quart := e.g.grpid / 4, g := e.g.grpid % 4, op := op, opId := some o.id,
      stall := h.stall.toNat }
  let s := ({ s with serial := s.serial + 1 }.start e o).count e.core 0 1
  let s := (s.modCore e.core (fun k => { k with gates := k.gates ++ [a] })).hold e .gate
  s.decideGates e.core e.g.wg (e.g.grpid / 4)

/-- The quartet of the group exists (spec/00 R3). -/
def Env.quartet (e : Env) : Bool := decide (4 * (e.g.grpid / 4) + 4 ≤ e.k.groups)

/-- Tiles and accumulators a quartet instruction uses; with a CB16 B operand, A is a pair. -/
def matUses (ta tb base n : Nat) (pair : Bool) : List TileUse :=
  [readT ta, readT tb] ++ (if pair then [readT (ta + 1)] else []) ++ (List.range n).map (fun i => writeA (base + i))

/-- The checks of quartet. -/
def quartetChk (opc : Nat) (h : Hdr) (base n : Nat) (tb ta : BitVec 4) (sf : Opd) (e : Env) : Chk :=
    let pair := opc != 0x17B && blockBfmt ((e.blockWords sf).headD 0) == 18
    { opd := e.badBlock sf || decide (e.g.tAlloc ≤ ta.toNat) || decide (e.g.tAlloc ≤ tb.toNat) || decide (e.g.aAlloc < base + n),
      ninth := e.tileRole, hold := e.lead h && e.tileBusy (matUses ta.toNat tb.toNat base n pair), reads := blockRegs sf }

/-- An MMA-class instruction. -/
def quartet (opc : Nat) (h : Hdr) (base n : Nat) (tb ta : BitVec 4) (sf : Opd) : State → Out :=
  issue h (quartetChk opc h base n tb ta sf) (fun e s =>
    let fb := e.blockWords sf
    if !e.quartet then s.trapHere e 16
    else if !e.lead h then s.arriveGate e h [] none
    else
      let w0 := fb.headD 0
      let pair := opc != 0x17B && blockBfmt w0 == 18
      let us := matUses ta.toNat tb.toNat base n pair
      match (if opc = 0x17B then e.mmafCause s.baseCamp ta.toNat tb.toNat fb else e.mmaCause s.baseCamp ta.toNat tb.toNat base fb) with
      | .inl c => s.trapHere e c
      | .inr ex =>
        let k := (pairK (blockAfmt w0) (blockBfmt w0)).getD 32
        let sa := if opc = 0x17B then [] else scaleAddrs ((fb[1]?).getD 0) k (blockAblk w0)
        let sb := if opc = 0x17B then [] else scaleAddrs ((fb[2]?).getD 0) k (blockBblk w0)
        match s.scaleBad e (sa ++ sb) with
        | some a => s.trapAt e 8 e.sl.mask (va64 a)
        | none =>
          if s.scaleWaits e (sa ++ sb) then s.hold e else
          let bs := s.scales e (sa ++ sb)
          let slot := bits ((fb[3]?).getD 0).toNat 0 2
          let B := e.g.tag tb.toNat
          let m : MatOp :=
            { opc := opc, base := base, ta := ta.toNat, tb := tb.toNat, fb := fb, ascale := bs.take sa.length,
              bscale := bs.drop sa.length, book := if pair then (List.range 256).map (s.codebookEntry slot 0) else [],
              expB := B.exp, blenB := B.blen }
          s.arriveGate e h us (some (m, ex)))

def execMma (h : Hdr) (b4 : Bool) (tb ta : BitVec 4) (sf : Opd) : State → Out :=
  quartet 0x179 h (if b4 then 4 else 0) 4 tb ta sf
def execMmas (h : Hdr) (b4 : Bool) (tb ta : BitVec 4) (sf : Opd) : State → Out :=
  quartet 0x17A h (if b4 then 4 else 0) 4 tb ta sf
def execMmaf (h : Hdr) (tb ta : BitVec 4) (sf : Opd) : State → Out := quartet 0x17B h 0 8 tb ta sf

/-! The product (spec/01 R40, R41; spec/08 R230, R232; spec/09 R251) -/

def rneEnv : FEnv := ⟨.rne, false, false, false⟩

/-- A starting value: a NaN is the canonical one. -/
def startAcc (w : Word) : Nat := if (FFmt.fp32.decode w.toNat).isNan then FFmt.fp32.nanCode else w.toNat

/-- Add one run's scaled sum: nothing when it is exactly zero; one rounding; SAT. -/
def addRun (sat : Bool) (acc : Nat) (x : FV) : Nat :=
  match x with
  | .fin _ 0 _ => acc
  | _ =>
    let r := (FFmt.fp32.write rneEnv (FV.sum .rne [FFmt.fp32.decode acc, x])).1
    if sat then match FFmt.fp32.decode r with
      | .inf n => FFmt.fp32.signed n FFmt.fp32.maxCode
      | _ => r
    else r

/-- The exact sum of products, scaled. -/
def runSum (ps : List FV) (sa sb : Option Nat) : FV :=
  let x := FV.sum .rne ps
  let x := match sa with | some k => x.scaleBy k | none => x
  match sb with | some k => x.scaleBy k | none => x

/-- An operand of a product: its format, tile bytes (two tiles for a pair), codebook, scales and their block length. -/
structure MatArg where
  fmt   : Fmt
  data  : Array Byte
  data2 : Array Byte
  book  : Array Nat
  scale : Array Nat
  blk   : Nat
  kdim  : Nat
  deriving Repr

/-- Element k of row m, exactly. -/
def MatArg.elem (x : MatArg) (m k : Nat) : FV :=
  if x.fmt = .cb16 then
    let i := tileCode .cb16 x.data m (k / 8)
    cb16Element i ((x.book[i % 256]?).getD 0) (k % 8)
  else if 256 ≤ k then x.fmt.value plainEnv (tileCode x.fmt x.data2 m (k - 256))
  else x.fmt.value plainEnv (tileCode x.fmt x.data m k)

/-- The scale of row m at k, if it has one. -/
def MatArg.scaleAt (x : MatArg) (m k : Nat) : Option Nat :=
  if x.blk = 0 then none else x.scale[m * (x.kdim / blockLen x.blk) + k / blockLen x.blk]?

/-- One element of C. MMAS gives the same bits (R232). -/
def mmaElem (sat : Bool) (a b : MatArg) (m n : Nat) (c : Nat) : Nat :=
  (List.range (a.kdim / 16)).foldl (fun acc j =>
    let ps := (List.range 16).map (fun i => (a.elem m (16 * j + i)).mul (b.elem n (16 * j + i)))
    addRun sat acc (runSum ps (a.scaleAt m (16 * j)) (b.scaleAt n (16 * j)))) c

/-- The parts of a complex element. -/
def complexAt (f : Fmt) (a : Array Byte) (m k : Nat) : FV × FV :=
  let x := tileCode f a m k
  let p : FFmt := if f = .c16 then .fp16 else .bf16
  (p.decode (x % 65536), p.decode (x / 65536))

/-- One element of one plane of an MMAF. -/
def mmafElem (sat imag : Bool) (bin : Nat) (fa fb : Fmt) (a b : Array Byte) (m n : Nat) (c : Nat) : Nat :=
  (List.range 2).foldl (fun acc j =>
    let ps := (List.range 16).flatMap (fun i =>
      let x := complexAt fa a m (16 * j + i)
      let w := complexAt fb b n (16 * j + i)
      match decide (bin = 0), imag with
      | true, false => [x.1.mul w.1]
      | true, true => [x.2.mul w.2]
      | false, false => [x.1.mul w.1, (x.2.mul w.2).negate]
      | false, true => [x.1.mul w.2, x.2.mul w.1])
    addRun sat acc (runSum ps none none)) c

def fmtOf (c : Nat) : Fmt := (Fmt.ofCode (BitVec.ofNat 5 c)).getD .int8

/-- A member's A, or its B quarter, as captured and held by its tiles. -/
def MatOp.argA (m : MatOp) (g : Group) : MatArg :=
  let w := m.fb.headD 0
  { fmt := fmtOf (blockAfmt w), data := (g.tileData m.ta).toArray,
    data2 := if blockBfmt w = 18 then (g.tileData (m.ta + 1)).toArray else #[], book := #[], scale := m.ascale.toArray,
    blk := blockAblk w, kdim := (pairK (blockAfmt w) (blockBfmt w)).getD 32 }
def MatOp.argB (m : MatOp) (g : Group) : MatArg :=
  let w := m.fb.headD 0
  { fmt := fmtOf (blockBfmt w), data := (g.tileData m.tb).toArray, data2 := #[], book := m.book.toArray, scale := m.bscale.toArray,
    blk := blockBblk w, kdim := (pairK (blockAfmt w) (blockBfmt w)).getD 32 }

/-- All 4,096 elements of an accumulator. -/
def eachElem (c : List Word) (f : Nat → Nat → Nat → Nat) : List Word :=
  (c.zipIdx).map (fun x => BitVec.ofNat 32 (f (x.2 / 64) (x.2 % 64) x.1.toNat))

/-- Accumulator j of a member against member j's quarter. -/
def matColumn (g : Group) (m : MatOp) (ex : Int) (j : Nat) (gj : Group) (mj : MatOp) : Group :=
  let w0 := m.fb.headD 0
  let anew := w0.getLsbD 15
  let sat := w0.getLsbD 14
  let start (n : Nat) : List Word := if anew then List.replicate 4096 0 else (g.accData n).map (fun w => BitVec.ofNat 32 (startAcc w))
  if m.opc = 0x17B then
    let fa := fmtOf (blockAfmt w0)
    let fb := fmtOf (blockBfmt w0)
    let a := (g.tileData m.ta).toArray
    let b := (gj.tileData mj.tb).toArray
    let bin := bits ((m.fb[3]?).getD 0).toNat 2 5
    let blen := (g.tag m.ta).blen
    let put (g' : Group) (imag : Bool) : Group :=
      let n := 2 * j + (if imag then 1 else 0)
      g'.setAcc n (eachElem (start n) (fun r c x => mmafElem sat imag bin fa fb a b r c x)) ⟨0, 1, blen, ex, false, imag, false⟩
    put (put g false) true
  else
    let a := m.argA g
    let b := mj.argB gj
    let n := m.base + j
    g.setAcc n (eachElem (start n) (fun r c x => mmaElem sat a b r c x)) ⟨0, 0, 0, ex, false, false, false⟩

/-- One member's four columns, every quarter as its member holds it. -/
def matMember (g : Group) (m : MatOp) (ex : Int) (qs : List (Group × MatOp)) : Group :=
  (qs.zipIdx).foldl (fun g' x => matColumn g' m ex x.2 x.1.1 x.1.2) g

/-- The array time of a member's instruction (spec/08 R231, spec/09 R252). -/
def MatOp.time (m : MatOp) (r : Nat) : Nat :=
  let w := m.fb.headD 0
  let n := if m.opc = 0x17B ∨ blockBfmt w = 18 then 4096 else if blockAfmt w = 14 ∨ blockAfmt w = 15 then 1024 else 2048
  if m.opc = 0x17A then n / 2 + Config.mmasTime r % (n / 2 + 1) else n

def isRound (r : Nat) (w : What) : Bool := match w with | .matrix k _ _ _ => k == r | _ => false

/-- The members of one round complete together (spec/08 R231). -/
def State.roundDone (s : State) (c r : Nat) : State :=
  let os := (s.core c).ops.filter (fun o => isRound r o.what)
  os.foldl (fun s' o =>
    match o.what, s.opGroup c o with
    | .matrix _ m ex qs, some g =>
      let gs := qs.filterMap (fun q => (s.group? c q.1).map (fun x => (x, q.2)))
      ((s'.count c 10 (m.time r)).modGroup c o.ctx (fun g' =>
        let x := matMember g m ex gs
        { g' with accs := x.accs, atags := x.atags })).complete c o
    | _, _ => s'.dropOp c o.id) s

/-- MATRIX_COMPLETE: the round that took the crossbar first completes in all four members. -/
def execMatrixComplete (core id : Nat) (s : State) : Out :=
  match s.findOp core id with
  | some o => match o.what with
    | .matrix r _ _ _ =>
      if (s.core core).ops.any (fun p => match p.what with | .matrix k _ _ _ => decide (k < r) | _ => false) then .next s
      else .next (s.roundDone core r)
    | _ => .next s
  | none => .next s

end Sys2Proof.Machine
end

