-- ==== Sys2Proof/Machine/Pair.lean ====
section
/-! DEFINITION. PAIR words: two operations issued at once under one guard, both reading before either writes
(spec/03 R85-R88). -/

namespace Sys2Proof.Machine

/-- FMIN or FMAX with .SAT: an infinite result becomes the largest finite value of its sign, without a flag (spec/01 R24). -/
def fminmaxSat (isMax : Bool) (f : FFmt) (v : FEnv) (a b : Nat) : Nat × Flg :=
  let r := fminmax isMax f v a b
  (if v.sat && r.1 % 2 ^ f.signPos == f.infCode then r.1 - 1 else r.1, r.2)

/-- An F row on a lane: MOD2[31] negates B, MOD2[30] is .SAT, the rounding is FPCR.RM (spec/03 R87). -/
def pairF (p : PairOp) (fpcr a b d : Word) : Word × Flg :=
  let m : FpMods := { FpMods.none with nb := p.mod2.getLsbD 1, sat := p.mod2.getLsbD 0 }
  let i : LaneIn := { lane := 0, launched := true, fpcr := fpcr, prng := 0, xs := [a.setWidth 64, b.setWidth 64, d.setWidth 64] }
  let go (t : Fmt3) (g : FFmt → FEnv → Elems → Nat × Flg) : Word × Flg :=
    let r := t.each m fpcr g i
    (lo32 r.d, r.flags)
  match p.sub.toNat with
  | 0 => go .f32 (fun f v x => fadd f v x.a x.b)
  | 1 => go .f32 (fun f v x => fmul f v x.a x.b)
  | 2 => go .f32 (fun f v x => ffma f v x.a x.b x.c)
  | 3 => go .f32 (fun f v x => fminmaxSat false f v x.a x.b)
  | 4 => go .f32 (fun f v x => fminmaxSat true f v x.a x.b)
  | 5 => go .h2 (fun f v x => fadd f v x.a x.b)
  | 6 => go .h2 (fun f v x => fmul f v x.a x.b)
  | 7 => go .h2 (fun f v x => ffma f v x.a x.b x.c)
  | 8 => go .h2 (fun f v x => fminmaxSat false f v x.a x.b)
  | 9 => go .h2 (fun f v x => fminmaxSat true f v x.a x.b)
  | 10 => go .b2 (fun f v x => fadd f v x.a x.b)
  | 11 => go .b2 (fun f v x => fmul f v x.a x.b)
  | 12 => go .b2 (fun f v x => ffma f v x.a x.b x.c)
  | 13 => go .b2 (fun f v x => fminmaxSat false f v x.a x.b)
  | _ => go .b2 (fun f v x => fminmaxSat true f v x.a x.b)

/-- The rounding of a conversion row: MOD2 0b00 is FPCR.RM (spec/03 R88). -/
def pairRm (mod2 : BitVec 2) : CvtMods :=
  { sat := false, rm := if mod2 = 0 then 0 else mod2.setWidth 3 + 1 }

/-- An integer or conversion row on a lane (spec/03 R88). -/
def pairI (p : PairOp) (fpcr a b d : Word) : Word × Flg :=
  let w (x : Word) : Word × Flg := (x, 0)
  let n (x : Nat × Flg) : Word × Flg := (BitVec.ofNat 32 x.1, x.2)
  let m := pairRm p.mod2
  match p.sub.toNat with
  | 0x00 => w (a + b)
  | 0x01 => w (a - b)
  | 0x02 => w (a * b)
  | 0x03 => w (a * b + d)
  | 0x04 => w (iminW false a b)
  | 0x05 => w (iminW true a b)
  | 0x06 => w (imaxW false a b)
  | 0x07 => w (imaxW true a b)
  | 0x08 => w (shlW a b)
  | 0x09 => w (shrW a b)
  | 0x0A => w (shraW a b)
  | 0x0B => w (a &&& b)
  | 0x0C => w (a ||| b)
  | 0x0D => w (a ^^^ b)
  | 0x0E => w a
  | 0x0F => w (onHalves (fun x y _ => x + y) a b 0)
  | 0x10 => w (onHalves (fun x y _ => x - y) a b 0)
  | 0x20 => n (cvtif m 0 false fpcr a)
  | 0x21 => n (cvtif m 0 true fpcr a)
  | 0x22 => n (cvtfi m 0 false fpcr a)
  | 0x23 => n (cvtfi m 0 true fpcr a)
  | 0x24 => let r := pack2 .fp16 m fpcr a b; (BitVec.ofNat 32 (r.1 + 65536 * r.2.1), r.2.2)
  | _ => let r := pack2 .bf16 m fpcr a b; (BitVec.ofNat 32 (r.1 + 65536 * r.2.1), r.2.2)

/-- The operand B of a row: a register, or an unsigned 8-bit immediate on an integer row with MOD2[30], which the packed rows
IADD.H2 and ISUB.H2 receive in both halves (spec/03 R88, spec/04 R100). -/
def pairB (p : PairOp) (isF : Bool) : SrcB :=
  let w : Word := p.b.setWidth 32
  if !isF && p.sub.toNat < 32 && p.mod2.getLsbD 0 then
    .imm32 (if p.sub.toNat = 0x0F ∨ p.sub.toNat = 0x10 then w ||| (w <<< 16) else w)
  else .opd (vOpd p.b)

/-- Both rows under one guard; completes at t + 4 (spec/03 R87). -/
def pairWord (h : Hdr) (f1 f2 : Bool) (p q : PairOp) : State → Out :=
  let row (isF : Bool) (p : PairOp) := if isF then pairF p else pairI p
  fpu h
    { dst := vOpd p.d, dst2 := some (vOpd q.d), dk := .w32,
      srcs := [(.opd (vOpd p.a), .raw), (pairB p f1, .raw), (.opd (vOpd p.d), .raw),
               (.opd (vOpd q.a), .raw), (pairB q f2, .raw), (.opd (vOpd q.d), .raw)],
      pairReads := some (pairReadMask f1 p ++ pairReadMask f2 q) }
    (fun i =>
      let x := row f1 p i.fpcr (i.w 0) (i.w 1) (i.w 2)
      let y := row f2 q i.fpcr (i.w 3) (i.w 4) (i.w 5)
      { d := x.1.setWidth 64, d2 := y.1, flags := x.2 ||| y.2 })

section
variable (h : Hdr)

def execPairFF (p q : PairOp) : State → Out := pairWord h true true p q
def execPairFI (p q : PairOp) : State → Out := pairWord h true false p q
def execPairII (p q : PairOp) : State → Out := pairWord h false false p q
def execPairFX (p q : PairOp) : State → Out := pairWord h true false p q
end

end Sys2Proof.Machine
end

