-- ==== Sys2Proof/Machine/SfuMath.lean ====
section
/-! DEFINITION. The special functions (spec/01 R38, R39). 1/x, √x and 1/√x are exact with a sticky bit. The transcendental
ones are computed in fixed point with 512 fraction bits and an error bound of 2^-440; where that does not decide the
rounding, Config.undecidedRounding does (notes/assumptions 12). -/

namespace Sys2Proof.Machine

/-- The ten functions in opcode order (spec/04 R115). -/
inductive SfuFn | rcp | rsq | sqrt | exp2 | log2 | sin | cos | tanh | sigm | gelu
  deriving DecidableEq, Repr

/-- A number for each function, for Config.undecidedRounding. -/
def SfuFn.num : SfuFn → Nat
  | .rcp => 0 | .rsq => 1 | .sqrt => 2 | .exp2 => 3 | .log2 => 4 | .sin => 5 | .cos => 6 | .tanh => 7 | .sigm => 8 | .gelu => 9

/-- Fraction bits of the fixed-point numbers. -/
def fxBits : Nat := 512
def fxOne : Nat := 2 ^ fxBits
/-- The error bound of every fixed-point result, in its unit. -/
def fxErr : Nat := 2 ^ 72

/-- Integer square root by bits from 2^(k-1) down: the largest r with r² ≤ n, given the bits already chosen. -/
def isqrtBits (n : Nat) : Nat → Nat → Nat
  | 0, r => r
  | k + 1, r => isqrtBits n k (if (r + 2 ^ k) * (r + 2 ^ k) ≤ n then r + 2 ^ k else r)

def isqrt (n : Nat) : Nat := isqrtBits n (ilog2 n / 2 + 1) 0

/-- Σ over k of y^(2k+1)/(2k+1), signs alternating or not, for a fixed-point y below 1. -/
def oddSeries (alt : Bool) (y2 : Nat) : Nat → Nat → Nat → Int → Int
  | 0, _, _, acc => acc
  | f + 1, k, p, acc =>
    if p = 0 then acc
    else
      let t : Int := (p / (2 * k + 1) : Nat)
      oddSeries alt y2 f (k + 1) (p * y2 / fxOne) (if alt && k % 2 = 1 then acc - t else acc + t)

/-- artanh of a fixed-point number below 1. -/
def fxArtanh (y : Nat) : Nat := (oddSeries false (y * y / fxOne) 2000 0 y 0).toNat
/-- arctan of a fixed-point number below 1. -/
def fxArctan (y : Nat) : Nat := (oddSeries true (y * y / fxOne) 2000 0 y 0).toNat

/-- ln 2 and π. -/
def fxLn2 : Nat := 2 * fxArtanh (fxOne / 3)
def fxPi : Nat := 16 * fxArctan (fxOne / 5) - 4 * fxArctan (fxOne / 239)

/-- Σ t_k with t_{k+1} = t_k × num / (den k): Taylor sums of e^y, sin y, cos y and erf. -/
def ratioSeries (alt : Bool) (num : Nat) (den : Nat → Nat) : Nat → Nat → Nat → Int → Int
  | 0, _, _, acc => acc
  | f + 1, k, t, acc =>
    if t = 0 then acc
    else ratioSeries alt num den f (k + 1) (t * num / fxOne / den k) (if alt && k % 2 = 1 then acc - t else acc + t)

/-- e^y for a fixed-point y. -/
def fxExp (y : Nat) : Nat := (ratioSeries false y (fun k => k + 1) 2000 0 fxOne 0).toNat
/-- sin y and cos y for a fixed-point y of at most π/2. -/
def fxSin (y : Nat) : Nat := (ratioSeries true (y * y / fxOne) (fun k => (2 * k + 2) * (2 * k + 3)) 2000 0 y 0).toNat
def fxCos (y : Nat) : Nat := (ratioSeries true (y * y / fxOne) (fun k => (2 * k + 1) * (2 * k + 2)) 2000 0 fxOne 0).toNat

/-- An approximated positive real: between (m − err) × 2^e and (m + err) × 2^e. -/
structure Approx where
  m   : Nat
  err : Nat
  e   : Int
  deriving DecidableEq, Repr

/-- 2^t for a fixed-point t (any sign): e^(frac × ln 2), scaled by the whole part. -/
def fxExp2 (t : Int) : Approx :=
  let k := t / (fxOne : Int)
  let f := (t % (fxOne : Int)).toNat
  ⟨fxExp (f * fxLn2 / fxOne), fxErr, k - fxBits⟩

/-- An exact magnitude m × 2^e in fixed point (the fraction bits below 2^-512 drop). -/
def toFx (m : Nat) (e : Int) : Nat := (alignAt m (e + fxBits) 0).1

/-- e^(−z) for a fixed-point z of at least 0, as a fixed-point number. -/
def fxExpNeg (z : Nat) : Nat :=
  let k := z / fxLn2
  fxExp (fxLn2 - z % fxLn2) / 2 ^ (k + 1)

/-- Round an approximation with neg's sign to the format under RNE; the result is never exact. -/
def roundApprox (f : FFmt) (fz : Bool) (fn : SfuFn) (input : Nat) (neg : Bool) (a : Approx) : Nat × Flg :=
  let lo := f.roundTo .rne false fz neg (4 * (a.m - a.err) + 1) (a.e - 2)
  let hi := f.roundTo .rne false fz neg (4 * (a.m + a.err) + 1) (a.e - 2)
  let r := if lo = hi ∨ Config.undecidedRounding fn.num input f.mbits then hi else lo
  (r.1, r.2 ||| Flg.ixc)

/-- num/den × 2^e rounded once, with a sticky bit below 160 quotient bits. -/
def roundQuotient (f : FFmt) (fz neg : Bool) (num den : Nat) (e : Int) : Nat × Flg :=
  let sh := 160 + ilog2 den
  let q := num * 2 ^ sh / den
  let r := num * 2 ^ sh % den
  f.roundTo .rne false fz neg (2 * q + (if r = 0 then 0 else 1)) (e - sh - 1)

/-- √(m × 2^e) as an integer square root with a sticky bit. -/
def sqrtSticky (m : Nat) (e : Int) : Nat × Int :=
  let (m, e) := if e % 2 = 0 then (m, e) else (2 * m, e - 1)
  let n := m * 2 ^ 320
  let r := isqrt n
  (2 * r + (if r * r = n then 0 else 1), e / 2 - 161)

/-- sin(πx) and cos(πx) of a finite x ≠ 0 (spec/01 R39): half turns exactly, else by the series on a quarter turn. -/
def sinCosPi (f : FFmt) (fz isCos : Bool) (input : Nat) (neg : Bool) (m : Nat) (e : Int) : Nat × Flg :=
  -- x mod 2 in units of 2^-k
  let k : Nat := if e < 0 then (-e).toNat else 0
  let n := (m * 2 ^ (e + k).toNat) % (2 * 2 ^ k)
  let half := 2 ^ k          -- twice n compared with these: one half turn is 2^k / 2
  let one := f.bias * 2 ^ f.mbits
  if (2 * n) % half = 0 then
    match isCos, 2 * n / half with
    | false, 0 | false, 2 => (f.signed neg 0, 0)
    | false, 1 => (f.signed neg one, 0)
    | false, _ => (f.signed (!neg) one, 0)
    | true, 0 => (one, 0)
    | true, 2 => (f.signed true one, 0)
    | true, _ => (0, 0)
  else
    -- quarter turn q and the position r in it, as fixed point of a half turn
    let q := 2 * n / half
    let r := toFx (2 * n % half) (-(k : Int) - 1)
    let y := r * fxPi / fxOne
    let useCos := isCos == (q % 2 == 0)
    let s := if useCos then fxCos y else fxSin y
    let sign := if isCos then q = 1 ∨ q = 2 else (neg != (2 ≤ q : Bool)) = true
    roundApprox f fz (if isCos then .cos else .sin) input (decide sign) ⟨s, fxErr, -(fxBits : Int)⟩

/-- log2 of a positive m × 2^e. -/
def log2Of (f : FFmt) (fz : Bool) (input : Nat) (m : Nat) (e : Int) : Nat × Flg :=
  let l := ilog2 m
  let ex : Int := (l : Nat) + e
  if m = 2 ^ l then f.roundTo .rne false fz (decide (ex < 0)) ex.natAbs 0
  else
    let frac := 2 * fxArtanh ((m - 2 ^ l) * fxOne / (m + 2 ^ l)) * fxOne / fxLn2
    let t : Int := ex * (fxOne : Int) + frac
    roundApprox f fz .log2 input (decide (t < 0)) ⟨t.natAbs, fxErr, -(fxBits : Int)⟩

/-- ½(1 + erf(z/√2)) for z ≥ 0 in fixed point: ½ + φ-series, every term positive. -/
def fxPhi (z : Nat) : Nat :=
  let z2 := z * z / fxOne
  let s := (ratioSeries false z2 (fun k => 2 * k + 3) 2000 0 z 0).toNat
  let invSqrt2Pi := fxOne * fxOne / isqrt (2 * fxPi * fxOne)
  fxOne / 2 + (fxExpNeg (z2 / 2) * s / fxOne) * invSqrt2Pi / fxOne

/-- A special function of a code (already ABS and negated), under FPCR's flush bit for its format: code and flags. -/
def SfuFn.apply (fn : SfuFn) (f : FFmt) (fz : Bool) (code : Nat) : Nat × Flg :=
  let one := f.bias * 2 ^ f.mbits
  let nan : Nat × Flg := (f.nanCode, Flg.ioc)
  match f.read fz code with
  | .nan i => (f.nanCode, if i then Flg.ioc else 0)
  | .inf neg =>
    match fn, neg with
    | .rcp, _ => (f.signed neg 0, 0)
    | .rsq, false => (0, 0)
    | .sqrt, false | .exp2, false | .log2, false | .gelu, false => (f.infCode, 0)
    | .exp2, true | .sigm, true => (0, 0)
    | .tanh, _ => (f.signed neg one, 0)
    | .sigm, false => (one, 0)
    | .gelu, true => (f.signed true 0, 0)
    | .rsq, true | .sqrt, true | .log2, true | .sin, _ | .cos, _ => nan
  | .fin neg m e =>
    if m = 0 then
      match fn with
      | .rcp | .rsq => (f.signed (neg) f.infCode, Flg.dzc)
      | .sqrt | .sin | .tanh | .gelu => (f.signed neg 0, 0)
      | .exp2 | .cos => (one, 0)
      | .log2 => (f.signed true f.infCode, Flg.dzc)
      | .sigm => (one - 2 ^ f.mbits, 0)
    else
      match fn with
      | .rcp => roundQuotient f fz neg 1 m (-e)
      | .rsq =>
        if neg then nan
        else
          let (m', e') := if e % 2 = 0 then (m, e) else (2 * m, e - 1)
          let n := 2 ^ 640 / m'
          let r := isqrt n
          f.roundTo .rne false fz false (2 * r + (if r * r * m' = 2 ^ 640 then 0 else 1)) (-(e' / 2) - 321)
      | .sqrt =>
        if neg then nan
        else
          let (r, re) := sqrtSticky m e
          f.roundTo .rne false fz false r re
      | .exp2 =>
        -- |x| of 1,024 or more overflows or underflows as 1,024 does
        let big := decide ((10 : Int) ≤ (ilog2 m : Nat) + e)
        if big then
          if neg then roundApprox f fz .exp2 code false ⟨2, 1, -1024⟩ else roundApprox f fz .exp2 code false ⟨2, 1, 1024⟩
        else
          let (w, rem, _) := alignAt m e 0
          if rem = 0 then f.roundTo .rne false fz false 1 (if neg then -(w : Int) else w)
          else
            let t : Int := toFx m e
            roundApprox f fz .exp2 code false (fxExp2 (if neg then -t else t))
      | .log2 => if neg then nan else log2Of f fz code m e
      | .sin => sinCosPi f fz false code neg m e
      | .cos => sinCosPi f fz true code neg m e
      | .tanh =>
        if (8 : Int) ≤ (ilog2 m : Nat) + e then roundApprox f fz .tanh code neg ⟨fxOne - 2, 1, -(fxBits : Int)⟩
        else
          let z := toFx m e
          let u := fxExpNeg (2 * z)
          roundApprox f fz .tanh code neg ⟨(fxOne - u) * fxOne / (fxOne + u), fxErr, -(fxBits : Int)⟩
      | .sigm =>
        let big := decide ((8 : Int) ≤ (ilog2 m : Nat) + e)
        let u := if big then 2 else fxExpNeg (toFx m e)
        let er := if big then 1 else fxErr
        roundApprox f fz .sigm code false
          ⟨(if neg then u * fxOne / (fxOne + u) else fxOne * fxOne / (fxOne + u)), er, -(fxBits : Int)⟩
      | .gelu =>
        let big := decide ((4 : Int) ≤ (ilog2 m : Nat) + e)
        let phi := if big then fxOne - 2 else fxPhi (toFx m e)
        -- the product with e^(z²/2) of at most 2^185 widens the error
        let er := if big then 1 else 2 ^ 212
        roundApprox f fz .gelu code neg ⟨m * (if neg then fxOne - phi else phi), m * er, e - fxBits⟩

end Sys2Proof.Machine
end

