-- ==== Sys2Proof/Machine/Sfu.lean ====
section
/-! DEFINITION. The special-function instructions (spec/01 R38, R39; spec/04 R115, R116): long latency, completed in issue
order per partition by SFU_COMPLETE. -/

namespace Sys2Proof.Machine

/-- One function on every element of a lane, with .ABS and .NA. -/
def sfuLane (fn : SfuFn) (t : Fmt3) (abs na : Bool) (i : LaneIn) : LaneOut :=
  t.each { FpMods.none with abs := abs, na := na } i.fpcr (fun f v xs => fn.apply f (v.fz f) xs.a) i

section
variable (h : Hdr)

def execFrcp (t : Fmt3) (abs na : Bool) (o : DA) : State → Out := sfu h (o.form t.kind) (sfuLane .rcp t abs na)
def execFrsq (t : Fmt3) (abs na : Bool) (o : DA) : State → Out := sfu h (o.form t.kind) (sfuLane .rsq t abs na)
def execFsqrt (t : Fmt3) (abs na : Bool) (o : DA) : State → Out := sfu h (o.form t.kind) (sfuLane .sqrt t abs na)
def execFexp2 (t : Fmt3) (abs na : Bool) (o : DA) : State → Out := sfu h (o.form t.kind) (sfuLane .exp2 t abs na)
def execFlog2 (t : Fmt3) (abs na : Bool) (o : DA) : State → Out := sfu h (o.form t.kind) (sfuLane .log2 t abs na)
def execFsin (t : Fmt3) (abs na : Bool) (o : DA) : State → Out := sfu h (o.form t.kind) (sfuLane .sin t abs na)
def execFcos (t : Fmt3) (abs na : Bool) (o : DA) : State → Out := sfu h (o.form t.kind) (sfuLane .cos t abs na)
def execFtanh (t : Fmt3) (abs na : Bool) (o : DA) : State → Out := sfu h (o.form t.kind) (sfuLane .tanh t abs na)
def execFsigm (t : Fmt3) (abs na : Bool) (o : DA) : State → Out := sfu h (o.form t.kind) (sfuLane .sigm t abs na)
def execFgelu (t : Fmt3) (abs na : Bool) (o : DA) : State → Out := sfu h (o.form t.kind) (sfuLane .gelu t abs na)
end

end Sys2Proof.Machine
end

