-- ==== Sys2Proof/Machine/Spectral.lean ====
section
/-! DEFINITION. The exact transform, XFWD and XINV and the transform unit (spec/09 R238-R248). -/

namespace Sys2Proof.Machine

/-- The table t of R241. -/
def cosTable : List Nat :=
  [0x3F800000, 0x3F7EC46D, 0x3F7B14BE, 0x3F74FA0B, 0x3F6C835E, 0x3F61C598, 0x3F54DB31, 0x3F45E403, 0x3F3504F3, 0x3F226799,
   0x3F0E39DA, 0x3EF15AEA, 0x3EC3EF15, 0x3E94A031, 0x3E47C5C2, 0x3DC8BD36, 0x00000000]

def cosEntry (k : Nat) : Nat := (cosTable[k]?).getD 0

/-- The negative of an entry; a zero is always +0. -/
def cosNeg (k : Nat) : Nat := if cosEntry k = 0 then 0 else cosEntry k + 2 ^ 31

def cos64 (q : Nat) : Nat :=
  if q ≤ 16 then cosEntry q else if q ≤ 32 then cosNeg (32 - q) else if q ≤ 47 then cosNeg (q - 32) else cosEntry (64 - q)
def sin64 (q : Nat) : Nat :=
  if q ≤ 16 then cosEntry (16 - q) else if q ≤ 32 then cosEntry (q - 16) else if q ≤ 47 then cosNeg (48 - q) else cosNeg (q - 48)

/-- One FP32 operation of the transform. -/
def rneAdd (a b : Nat) : Nat := (FFmt.fp32.write rneEnv (FV.sum .rne [FFmt.fp32.decode a, FFmt.fp32.decode b])).1
def rneSub (a b : Nat) : Nat := (FFmt.fp32.write rneEnv (FV.sum .rne [FFmt.fp32.decode a, (FFmt.fp32.decode b).negate])).1
def rneMul (a b : Nat) : Nat := (FFmt.fp32.write rneEnv ((FFmt.fp32.decode a).mul (FFmt.fp32.decode b))).1

/-- A complex value as two FP32 codes. -/
abbrev BitsC := Nat × Nat

/-- One butterfly's upper and lower results (spec/09 R243). -/
def butterfly (fwd : Bool) (span j : Nat) (u v : BitsC) : BitsC × BitsC :=
  let q := j * 64 / span
  let q := if fwd then (64 - q) % 64 else q
  let w := (cos64 q, sin64 q)
  let d := (rneSub u.1 v.1, rneSub u.2 v.2)
  ((rneAdd u.1 v.1, rneAdd u.2 v.2),
   (rneSub (rneMul d.1 w.1) (rneMul d.2 w.2), rneAdd (rneMul d.1 w.2) (rneMul d.2 w.1)))

/-- The sequence of R243 on 2^c values: the stage of the whole span, then each half. -/
def dif (fwd : Bool) : Nat → List BitsC → List BitsC
  | 0, z => z
  | c + 1, z =>
    let half := 2 ^ c
    let r := (((z.take half).zip (z.drop half)).zipIdx).map (fun x => butterfly fwd (2 * half) x.2 x.1.1 x.1.2)
    dif fwd c (r.map (·.1)) ++ dif fwd c (r.map (·.2))

/-- The low c bits of f reversed. -/
def bitrev (c f : Nat) : Nat := (List.range c).foldl (fun r i => r + (if f.testBit i then 2 ^ (c - 1 - i) else 0)) 0

def cpxAt (z : Array BitsC) (i : Nat) : BitsC := (z[i]?).getD (0, 0)

/-- Round a scaled FP32 value once to a format. -/
def roundScaled (f : FFmt) (x : Nat) (k : Int) : Nat :=
  (f.write rneEnv (match FFmt.fp32.decode x with
    | .fin n m e => .fin n m (e + k)
    | v => v)).1

/-- A code of FP16 or BF16 widened exactly. -/
def widen (f : FFmt) (x : Nat) : Nat := (FFmt.fp32.write rneEnv (f.decode x)).1

/-- The row of slots XFWD makes of a row of 64 element codes (spec/09 R245). -/
def xfwdRow (f : FFmt) (c : Nat) (row : List Nat) : List Nat :=
  let b := 2 ^ c
  let nb := 64 / b
  let blocks := ((List.range nb).map (fun i =>
    (dif true c (((row.drop (b * i)).take b).map (fun x => (widen f x, 0)))).toArray)).toArray
  (List.range 32).map (fun s =>
    let z := (blocks[s % nb]?).getD #[]
    let fr := s / nb
    let re := (cpxAt z (bitrev c fr)).1
    let im := if fr = 0 then (cpxAt z (bitrev c (b / 2))).1 else (cpxAt z (bitrev c fr)).2
    roundScaled f re (-c) + 65536 * roundScaled f im (-c))

/-- The row of 64 element codes XINV makes of a row of slots (spec/09 R246). -/
def xinvRow (f : FFmt) (c : Nat) (k : Int) (sat : Bool) (row : List Nat) : List Nat :=
  let b := 2 ^ c
  let nb := 64 / b
  let a := row.toArray
  let blocks := ((List.range nb).map (fun i =>
    let slot (fr : Nat) : BitsC :=
      let x := (a[fr * nb + i]?).getD 0
      (widen f (x % 65536), widen f (x / 65536))
    (dif false c ((List.range b).map (fun n =>
      if n = 0 then ((slot 0).1, 0)
      else if n = b / 2 then ((slot 0).2, 0)
      else if n < b / 2 then slot n
      else ((slot (b - n)).1, (slot (b - n)).2 ^^^ 2 ^ 31)))).toArray)).toArray
  (List.range 64).map (fun p =>
    let x := roundScaled f (cpxAt ((blocks[p / b]?).getD #[]) (bitrev c (p % b))).1 k
    match f.decode x with
    | .inf n => if sat then f.signed n f.maxCode else x
    | _ => x)

/-- The codes of a tile's rows, and back. -/
def tileRowsOf (f : Fmt) (bs : List Byte) : List (List Nat) :=
  let a := bs.toArray
  (List.range 64).map (fun m => (List.range (1024 / f.bits)).map (fun k => tileCode f a m k))
def tileOfRows (f : Fmt) (rows : List (List Nat)) : List Byte :=
  rows.flatMap (fun r => leBytes 128 ((r.zipIdx).foldl (fun x y => x + 2 ^ (f.bits * y.2) * y.1) 0))

def Group.xfwd (g : Group) (c td ts : Nat) : Group :=
  let t := g.tag ts
  let half := t.fmt == 9
  let f : FFmt := if half then .fp16 else .bf16
  let rows := (tileRowsOf (if half then .fp16 else .bf16) (g.tileData ts)).map (xfwdRow f c)
  let tag : Tag := ⟨if half then 19 else 20, 1, c, t.exp + c, false, false, false⟩
  g.setTile td (tileOfRows .c16 rows) tag.tile

def Group.xinv (g : Group) (fold sat : Bool) (td ts : Nat) : Group :=
  let t := g.tag ts
  let half := t.fmt == 19
  let f : FFmt := if half then .fp16 else .bf16
  let k : Int := if fold then t.exp - t.blen else 0
  let rows := (tileRowsOf .c16 (g.tileData ts)).map (xinvRow f t.blen k sat)
  let tag : Tag := ⟨if half then 9 else 10, 0, 0, if fold then 0 else t.exp - t.blen, false, false, false⟩
  g.setTile td (tileOfRows .fp16 rows) tag.tile

/-- Issue of a transform: its DOMAIN check, then its place in the unit's queue. -/
def transform (h : Hdr) (td ts : BitVec 4) (bad : Tag → Bool) (w : What) : State → Out :=
  let us := [writeT td.toNat, readT ts.toNat]
  issue h (tileChk h us) (fun e s =>
    if !e.lead h then s.retire e h
    else if bad (e.g.tag ts.toNat) then s.trapHere e 13
    else (s.startTile e h us w).retire e h)

def execXfwd (h : Hdr) (c : BitVec 3) (td ts : BitVec 4) : State → Out :=
  transform h td ts (fun t => t.dom != 0 || !(t.fmt == 9 || t.fmt == 10) || decide (127 < t.exp + c.toNat))
    (.xfwd c.toNat td.toNat ts.toNat)
def execXinv (h : Hdr) (fold sat : Bool) (td ts : BitVec 4) : State → Out :=
  transform h td ts (fun t => t.dom != 1 || !(t.fmt == 19 || t.fmt == 20) || t.blen == 0 ||
      (!fold && decide (t.exp - (t.blen : Int) < -128)))
    (.xinv fold sat td.toNat ts.toNat)

def isTransform : What → Bool
  | .xfwd _ _ _ => true
  | .xinv _ _ _ _ => true
  | _ => false

/-- TRANSFORM_SERVICE: the unit serves the oldest transform of its core, which completes. -/
def execTransformService (core : Nat) (s : State) : Out :=
  match s.oldestOp core isTransform with
  | none => .next s
  | some o =>
    match o.what with
    | .xfwd c td ts => .next ((s.modGroup core o.ctx (fun g => g.xfwd c td ts)).complete core o)
    | .xinv fold sat td ts => .next ((s.modGroup core o.ctx (fun g => g.xinv fold sat td ts)).complete core o)
    | _ => .next s

end Sys2Proof.Machine
end

