-- ==== Sys2Proof/Machine/Sys.lean ====
section
/-! DEFINITION. The SYS class: stops, samples, logs and software events; and unassigned opcodes (spec/12 R298; spec/14 R348-R351;
spec/03 R90). -/

namespace Sys2Proof.Machine

/-- STOPR retires, then stops the group's rope where stops are enabled for its ASID. -/
def execStopr (h : Hdr) (code : BitVec 8) (s : State) : Out :=
  issue h (fun _ => {}) (fun e s =>
    if e.lead h && s.stopsOn (clusterOf e.core) e.asid then (s.retire e h).stopRope e 2 code.toNat else s.retire e h) s

/-- PSAMP: the slot's next memory instruction is sampled with this code. -/
def execPsamp (h : Hdr) (code : BitVec 8) (s : State) : Out :=
  issue h (fun _ => {}) (fun e s =>
    if e.lead h then (s.retire e h).modSlot e.core e.ctx e.n (fun sl => { sl with psamp := some code }) else s.retire e h) s

/-- LOGFL empties the group's set of read copies, and completes when its records are written. -/
def execLogfl (h : Hdr) (s : State) : Out :=
  issue h (fun _ => {}) (fun e s =>
    if e.lead h then ((s.start e (e.op s (e.flag h) .logfl)).emptyLog e).retire e h else s.retire e h) s

/-- The checks of execEvinc. -/
def chkEvinc (b : SrcB) (e : Env) : Chk :=
  { opd := e.badU false b, reads := b.regs false }

/-- EVINC adds to a software event of the issuing partition. -/
def execEvinc (h : Hdr) (i : BitVec 4) (b : SrcB) (s : State) : Out :=
  issue h (chkEvinc b) (fun e s =>
    if e.lead h then (s.retire e h).count e.core (192 + 16 * partOf e.ctx + i.toNat) (e.sval b % 64) else s.retire e h) s

/-- An unassigned opcode takes ILLEGAL_OPCODE on its word 0 alone. -/
def execUnassignedOpcode (w : Word) (s : State) : Out :=
  let _ := w
  match s.env? with
  | none => .fault .noStream
  | some e => .next (s.trapAt e 1 e.sl.mask e.sl.pc)

end Sys2Proof.Machine
end

