-- ==== Sys2Proof/Machine/Dispatch.lean ====
section
/-! DEFINITION. One arm per constructor of Instr: a direct call of its meaning. -/

namespace Sys2Proof.Machine

def exec (i : Instr) (s : State) : Host.Outcome State Fault Refusal :=
  match i with
  | .iadd h m o => Sys2Proof.Machine.execIadd h m o s
  | .isub h m o => Sys2Proof.Machine.execIsub h m o s
  | .iadd3 h m o => Sys2Proof.Machine.execIadd3 h m o s
  | .iaddc h o pco => Sys2Proof.Machine.execIaddc h o pco s
  | .isubb h o pco => Sys2Proof.Machine.execIsubb h o pco s
  | .iadd64 h o => Sys2Proof.Machine.execIadd64 h o s
  | .isub64 h o => Sys2Proof.Machine.execIsub64 h o s
  | .imul h o => Sys2Proof.Machine.execImul h o s
  | .imulhiS h o => Sys2Proof.Machine.execImulhiS h o s
  | .imulhiU h o => Sys2Proof.Machine.execImulhiU h o s
  | .imad h o => Sys2Proof.Machine.execImad h o s
  | .imadwS h o => Sys2Proof.Machine.execImadwS h o s
  | .imadwU h o => Sys2Proof.Machine.execImadwU h o s
  | .iabs h sat o => Sys2Proof.Machine.execIabs h sat o s
  | .iminS h o => Sys2Proof.Machine.execIminS h o s
  | .iminU h o => Sys2Proof.Machine.execIminU h o s
  | .imaxS h o => Sys2Proof.Machine.execImaxS h o s
  | .imaxU h o => Sys2Proof.Machine.execImaxU h o s
  | .iclampS h o => Sys2Proof.Machine.execIclampS h o s
  | .iclampU h o => Sys2Proof.Machine.execIclampU h o s
  | .ishl h o => Sys2Proof.Machine.execIshl h o s
  | .ishr h o => Sys2Proof.Machine.execIshr h o s
  | .ishra h o => Sys2Proof.Machine.execIshra h o s
  | .shfL h o => Sys2Proof.Machine.execShfL h o s
  | .shfR h o => Sys2Proof.Machine.execShfR h o s
  | .irot h o => Sys2Proof.Machine.execIrot h o s
  | .isad h u o => Sys2Proof.Machine.execIsad h u o s
  | .idp4S h o => Sys2Proof.Machine.execIdp4S h o s
  | .idp4U h o => Sys2Proof.Machine.execIdp4U h o s
  | .idp2 h u o => Sys2Proof.Machine.execIdp2 h u o s
  | .popc h o => Sys2Proof.Machine.execPopc h o s
  | .clz h o => Sys2Proof.Machine.execClz h o s
  | .ctz h o => Sys2Proof.Machine.execCtz h o s
  | .brev h o => Sys2Proof.Machine.execBrev h o s
  | .bfeS h o => Sys2Proof.Machine.execBfeS h o s
  | .bfeU h o => Sys2Proof.Machine.execBfeU h o s
  | .bfi h o => Sys2Proof.Machine.execBfi h o s
  | .logt h o lut => Sys2Proof.Machine.execLogt h o lut s
  | .prmt h o => Sys2Proof.Machine.execPrmt h o s
  | .sel h o => Sys2Proof.Machine.execSel h o s
  | .isetS h cc o => Sys2Proof.Machine.execIsetS h cc o s
  | .isetU h cc o => Sys2Proof.Machine.execIsetU h cc o s
  | .iset64 h cc u o => Sys2Proof.Machine.execIset64 h cc u o s
  | .imov h o => Sys2Proof.Machine.execImov h o s
  | .movi h d imm => Sys2Proof.Machine.execMovi h d imm s
  | .lea h sh o => Sys2Proof.Machine.execLea h sh o s
  | .lea64 h u sh o => Sys2Proof.Machine.execLea64 h u sh o s
  | .pset h o lut => Sys2Proof.Machine.execPset h o lut s
  | .iaddH2 h m o => Sys2Proof.Machine.execIaddH2 h m o s
  | .isubH2 h m o => Sys2Proof.Machine.execIsubH2 h m o s
  | .imulH2 h o => Sys2Proof.Machine.execImulH2 h o s
  | .imadH2 h o => Sys2Proof.Machine.execImadH2 h o s
  | .iminH2 h u o => Sys2Proof.Machine.execIminH2 h u o s
  | .imaxH2 h u o => Sys2Proof.Machine.execImaxH2 h u o s
  | .ishlH2 h o => Sys2Proof.Machine.execIshlH2 h o s
  | .isetH2 h cc u o => Sys2Proof.Machine.execIsetH2 h cc u o s
  | .fadd h t m o => Sys2Proof.Machine.execFadd h t m o s
  | .fmul h t m o => Sys2Proof.Machine.execFmul h t m o s
  | .ffma h t m o => Sys2Proof.Machine.execFfma h t m o s
  | .fmin h t m o => Sys2Proof.Machine.execFmin h t m o s
  | .fmax h t m o => Sys2Proof.Machine.execFmax h t m o s
  | .fset h t cc m o => Sys2Proof.Machine.execFset h t cc m o s
  | .fclamp h t m o => Sys2Proof.Machine.execFclamp h t m o s
  | .fadd3 h m o => Sys2Proof.Machine.execFadd3 h m o s
  | .fmed3 h t m o => Sys2Proof.Machine.execFmed3 h t m o s
  | .fdp2 h t m o => Sys2Proof.Machine.execFdp2 h t m o s
  | .fdp4 h e5 m o => Sys2Proof.Machine.execFdp4 h e5 m o s
  | .frnd h t m o => Sys2Proof.Machine.execFrnd h t m o s
  | .fscale h t m o => Sys2Proof.Machine.execFscale h t m o s
  | .fclass h t o => Sys2Proof.Machine.execFclass h t o s
  | .cadd h t m o => Sys2Proof.Machine.execCadd h t m o s
  | .cmul h t m o => Sys2Proof.Machine.execCmul h t m o s
  | .cfma h t m o => Sys2Proof.Machine.execCfma h t m o s
  | .cabs2 h t m o => Sys2Proof.Machine.execCabs2 h t m o s
  | .frcp h t abs na o => Sys2Proof.Machine.execFrcp h t abs na o s
  | .frsq h t abs na o => Sys2Proof.Machine.execFrsq h t abs na o s
  | .fsqrt h t abs na o => Sys2Proof.Machine.execFsqrt h t abs na o s
  | .fexp2 h t abs na o => Sys2Proof.Machine.execFexp2 h t abs na o s
  | .flog2 h t abs na o => Sys2Proof.Machine.execFlog2 h t abs na o s
  | .fsin h t abs na o => Sys2Proof.Machine.execFsin h t abs na o s
  | .fcos h t abs na o => Sys2Proof.Machine.execFcos h t abs na o s
  | .ftanh h t abs na o => Sys2Proof.Machine.execFtanh h t abs na o s
  | .fsigm h t abs na o => Sys2Proof.Machine.execFsigm h t abs na o s
  | .fgelu h t abs na o => Sys2Proof.Machine.execFgelu h t abs na o s
  | .sfuComplete core part => Sys2Proof.Machine.execSfuComplete core part s
  | .cvtf h m d a c x => Sys2Proof.Machine.execCvtf h m d a c x s
  | .cvtfSr h sat d a c x => Sys2Proof.Machine.execCvtfSr h sat d a c x s
  | .cvtfi h u src m o => Sys2Proof.Machine.execCvtfi h u src m o s
  | .cvtif h u dst m o => Sys2Proof.Machine.execCvtif h u dst m o s
  | .cvtii h sat src dst o => Sys2Proof.Machine.execCvtii h sat src dst o s
  | .packh h m o => Sys2Proof.Machine.execPackh h m o s
  | .packb h m o => Sys2Proof.Machine.execPackb h m o s
  | .packf8 h e5 hi m o => Sys2Proof.Machine.execPackf8 h e5 hi m o s
  | .packmx h blk dfmt m d a c => Sys2Proof.Machine.execPackmx h blk dfmt m d a c s
  | .unpkmx h scb m d a c x => Sys2Proof.Machine.execUnpkmx h scb m d a c x s
  | .packt5 h o => Sys2Proof.Machine.execPackt5 h o s
  | .unpkt5 h k o => Sys2Proof.Machine.execUnpkt5 h k o s
  | .cbdec h slot half pair fp16 m d a c => Sys2Proof.Machine.execCbdec h slot half pair fp16 m d a c s
  | .cpack h o => Sys2Proof.Machine.execCpack h o s
  | .cpackU h hi o => Sys2Proof.Machine.execCpackU h hi o s
  | .pairFF h p q => Sys2Proof.Machine.execPairFF h p q s
  | .pairFI h p q => Sys2Proof.Machine.execPairFI h p q s
  | .pairII h p q => Sys2Proof.Machine.execPairII h p q s
  | .pairFX h p q => Sys2Proof.Machine.execPairFX h p q s
  | .qswpH h o => Sys2Proof.Machine.execQswpH h o s
  | .qswpV h o => Sys2Proof.Machine.execQswpV h o s
  | .qswpD h o => Sys2Proof.Machine.execQswpD h o s
  | .qbcst h k o => Sys2Proof.Machine.execQbcst h k o s
  | .qred h op u f32 o => Sys2Proof.Machine.execQred h op u f32 o s
  | .qhelp h o => Sys2Proof.Machine.execQhelp h o s
  | .shfl h mode seg o => Sys2Proof.Machine.execShfl h mode seg o s
  | .voteAny h o => Sys2Proof.Machine.execVoteAny h o s
  | .voteAll h o => Sys2Proof.Machine.execVoteAll h o s
  | .voteBal h o => Sys2Proof.Machine.execVoteBal h o s
  | .matchLanes h o => Sys2Proof.Machine.execMatchLanes h o s
  | .lred h op u f32 o => Sys2Proof.Machine.execLred h op u f32 o s
  | .lscan h op u exc o => Sys2Proof.Machine.execLscan h op u exc o s
  | .sadd h m o => Sys2Proof.Machine.execSadd h m o s
  | .ssub h m o => Sys2Proof.Machine.execSsub h m o s
  | .sadd64 h o => Sys2Proof.Machine.execSadd64 h o s
  | .smul h o => Sys2Proof.Machine.execSmul h o s
  | .smad h o => Sys2Proof.Machine.execSmad h o s
  | .smin h u o => Sys2Proof.Machine.execSmin h u o s
  | .smax h u o => Sys2Proof.Machine.execSmax h u o s
  | .sshl h o => Sys2Proof.Machine.execSshl h o s
  | .sshr h o => Sys2Proof.Machine.execSshr h o s
  | .sshra h o => Sys2Proof.Machine.execSshra h o s
  | .slogt h o lut => Sys2Proof.Machine.execSlogt h o lut s
  | .spopc h o => Sys2Proof.Machine.execSpopc h o s
  | .sclz h o => Sys2Proof.Machine.execSclz h o s
  | .sbfe h u o => Sys2Proof.Machine.execSbfe h u o s
  | .sbfi h o => Sys2Proof.Machine.execSbfi h o s
  | .sset h cc u o => Sys2Proof.Machine.execSset h cc u o s
  | .smov h o => Sys2Proof.Machine.execSmov h o s
  | .smovi h d imm => Sys2Proof.Machine.execSmovi h d imm s
  | .slea h u sh o => Sys2Proof.Machine.execSlea h u sh o s
  | .s2v h o => Sys2Proof.Machine.execS2v h o s
  | .v2s h o => Sys2Proof.Machine.execV2s h o s
  | .srdsr h sr d => Sys2Proof.Machine.execSrdsr h sr d s
  | .swrsr h sr b => Sys2Proof.Machine.execSwrsr h sr b s
  | .bra h any off => Sys2Proof.Machine.execBra h any off s
  | .braDivergent h off rc => Sys2Proof.Machine.execBraDivergent h off rc s
  | .brau h off => Sys2Proof.Machine.execBrau h off s
  | .brx h a => Sys2Proof.Machine.execBrx h a s
  | .call h l off => Sys2Proof.Machine.execCall h l off s
  | .callx h l a => Sys2Proof.Machine.execCallx h l a s
  | .ret h l => Sys2Proof.Machine.execRet h l s
  | .join h => Sys2Proof.Machine.execJoin h s
  | .loop h c off => Sys2Proof.Machine.execLoop h c off s
  | .exit h => Sys2Proof.Machine.execExit h s
  | .nop h => Sys2Proof.Machine.execNop h s
  | .yield h => Sys2Proof.Machine.execYield h s
  | .yieldExpiry core ctx slot => Sys2Proof.Machine.execYieldExpiry core ctx slot s
  | .trap h code => Sys2Proof.Machine.execTrap h code s
  | .bkpt h code => Sys2Proof.Machine.execBkpt h code s
  | .tret h => Sys2Proof.Machine.execTret h s
  | .tretSkip h => Sys2Proof.Machine.execTretSkip h s
  | .mark h code => Sys2Proof.Machine.execMark h code s
  | .markImm h code imm => Sys2Proof.Machine.execMarkImm h code imm s
  | .clauseWaitRelease core ctx slot => Sys2Proof.Machine.execClauseWaitRelease core ctx slot s
  | .ldg h m d adr => Sys2Proof.Machine.execLdg h m d adr s
  | .ldgNc h m d adr => Sys2Proof.Machine.execLdgNc h m d adr s
  | .ldacq h vsz sc d adr => Sys2Proof.Machine.execLdacq h vsz sc d adr s
  | .ldb h m d adr => Sys2Proof.Machine.execLdb h m d adr s
  | .stg h m d adr => Sys2Proof.Machine.execStg h m d adr s
  | .strel h vsz sc d adr => Sys2Proof.Machine.execStrel h vsz sc d adr s
  | .lds h m d adr => Sys2Proof.Machine.execLds h m d adr s
  | .ldsX h vsz swz d adr => Sys2Proof.Machine.execLdsX h vsz swz d adr s
  | .sts h m d adr => Sys2Proof.Machine.execSts h m d adr s
  | .ldc h m d adr => Sys2Proof.Machine.execLdc h m d adr s
  | .ldl h m d adr => Sys2Proof.Machine.execLdl h m d adr s
  | .stl h m d adr => Sys2Proof.Machine.execStl h m d adr s
  | .atomg h op m d x => Sys2Proof.Machine.execAtomg h op m d x s
  | .atomgCas h m d base cmp new off => Sys2Proof.Machine.execAtomgCas h m d base cmp new off s
  | .atoms h op m d x => Sys2Proof.Machine.execAtoms h op m d x s
  | .atomsCas h m d base cmp new off => Sys2Proof.Machine.execAtomsCas h m d base cmp new off s
  | .redg h op m x => Sys2Proof.Machine.execRedg h op m x s
  | .storeQueueLeave core which arg => Sys2Proof.Machine.execStoreQueueLeave core which arg s
  | .memoryReplay core ctx slot => Sys2Proof.Machine.execMemoryReplay core ctx slot s
  | .loadComplete core id late => Sys2Proof.Machine.execLoadComplete core id late s
  | .bchk h off => Sys2Proof.Machine.execBchk h off s
  | .bclr h => Sys2Proof.Machine.execBclr h s
  | .belayAnswer core id => Sys2Proof.Machine.execBelayAnswer core id s
  | .homeValidate core id falseStrike => Sys2Proof.Machine.execHomeValidate core id falseStrike s
  | .belayRoundSelfInvalidate core => Sys2Proof.Machine.execBelayRoundSelfInvalidate core s
  | .fence h ord sc => Sys2Proof.Machine.execFence h ord sc s
  | .acqr h sc b => Sys2Proof.Machine.execAcqr h sc b s
  | .anch h d adr => Sys2Proof.Machine.execAnch h d adr s
  | .await h => Sys2Proof.Machine.execAwait h s
  | .awaitTimeout core ctx => Sys2Proof.Machine.execAwaitTimeout core ctx s
  | .prefL2 h adr => Sys2Proof.Machine.execPrefL2 h adr s
  | .prefLlc h adr => Sys2Proof.Machine.execPrefLlc h adr s
  | .gpref h adr => Sys2Proof.Machine.execGpref h adr s
  | .cctlWb h all adr => Sys2Proof.Machine.execCctlWb h all adr s
  | .cctlInv h all adr => Sys2Proof.Machine.execCctlInv h all adr s
  | .localWriteback core asid line => Sys2Proof.Machine.execLocalWriteback core asid line s
  | .binit h a b => Sys2Proof.Machine.execBinit h a b s
  | .barv h rd sc d a b => Sys2Proof.Machine.execBarv h rd sc d a b s
  | .bexp h a b => Sys2Proof.Machine.execBexp h a b s
  | .btry h sc d a b => Sys2Proof.Machine.execBtry h sc d a b s
  | .bwait h sc a b => Sys2Proof.Machine.execBwait h sc a b s
  | .binval h a => Sys2Proof.Machine.execBinval h a s
  | .barwg h n sc => Sys2Proof.Machine.execBarwg h n sc s
  | .barrp h n => Sys2Proof.Machine.execBarrp h n s
  | .qresv h pd d a b => Sys2Proof.Machine.execQresv h pd d a b s
  | .qput h a b c => Sys2Proof.Machine.execQput h a b c s
  | .qcommit h sc a b d => Sys2Proof.Machine.execQcommit h sc a b d s
  | .qsig h store sc a c => Sys2Proof.Machine.execQsig h store sc a c s
  | .tcopy h tok bar d a b c off => Sys2Proof.Machine.execTcopy h tok bar d a b c off s
  | .tcopys h tok bar d a b c off => Sys2Proof.Machine.execTcopys h tok bar d a b c off s
  | .tcopyx h tok bar d a b c off => Sys2Proof.Machine.execTcopyx h tok bar d a b c off s
  | .tcopyr h tok bar d a b c off => Sys2Proof.Machine.execTcopyr h tok bar d a b c off s
  | .copyComplete core id => Sys2Proof.Machine.execCopyComplete core id s
  | .chain h tok ch a => Sys2Proof.Machine.execChain h tok ch a s
  | .chstat h ch d => Sys2Proof.Machine.execChstat h ch d s
  | .chainRecord ch phase => Sys2Proof.Machine.execChainRecord ch phase s
  | .decwBit h tok sg d a c nb => Sys2Proof.Machine.execDecwBit h tok sg d a c nb s
  | .decwDlt h tok sg d a c nb => Sys2Proof.Machine.execDecwDlt h tok sg d a c nb s
  | .decwRle h tok sg d a c nb => Sys2Proof.Machine.execDecwRle h tok sg d a c nb s
  | .decodeComplete core => Sys2Proof.Machine.execDecodeComplete core s
  | .topk h tok n slot res a b c => Sys2Proof.Machine.execTopk h tok n slot res a b c s
  | .resid h tok flush slot a b => Sys2Proof.Machine.execResid h tok flush slot a b s
  | .topkComplete core => Sys2Proof.Machine.execTopkComplete core s
  | .bstart h d a b => Sys2Proof.Machine.execBstart h d a b s
  | .bpop h q d => Sys2Proof.Machine.execBpop h q d s
  | .bpush h q a => Sys2Proof.Machine.execBpush h q a s
  | .bstop h => Sys2Proof.Machine.execBstop h s
  | .tld h fmt hdr sp t a b off => Sys2Proof.Machine.execTld h fmt hdr sp t a b off s
  | .tldX h fmt hdr sp t a b off => Sys2Proof.Machine.execTldX h fmt hdr sp t a b off s
  | .tst h fmt hdr sp t a b off => Sys2Proof.Machine.execTst h fmt hdr sp t a b off s
  | .tstX h fmt hdr sp t a b off => Sys2Proof.Machine.execTstX h fmt hdr sp t a b off s
  | .tzeroTile h t => Sys2Proof.Machine.execTzeroTile h t s
  | .tzeroAcc h n => Sys2Proof.Machine.execTzeroAcc h n s
  | .tmov h td ts => Sys2Proof.Machine.execTmov h td ts s
  | .ttrn h td ts => Sys2Proof.Machine.execTtrn h td ts s
  | .tbmp h t => Sys2Proof.Machine.execTbmp h t s
  | .ttagWr h acc n a => Sys2Proof.Machine.execTtagWr h acc n a s
  | .ttagRd h acc n d => Sys2Proof.Machine.execTtagRd h acc n d s
  | .mma h b4 tb ta sf => Sys2Proof.Machine.execMma h b4 tb ta sf s
  | .mmas h b4 tb ta sf => Sys2Proof.Machine.execMmas h b4 tb ta sf s
  | .mmaf h tb ta sf => Sys2Proof.Machine.execMmaf h tb ta sf s
  | .matrixComplete core id => Sys2Proof.Machine.execMatrixComplete core id s
  | .xfwd h c td ts => Sys2Proof.Machine.execXfwd h c td ts s
  | .xinv h fold sat td ts => Sys2Proof.Machine.execXinv h fold sat td ts s
  | .transformService core => Sys2Proof.Machine.execTransformService core s
  | .accrd h colb n d b => Sys2Proof.Machine.execAccrd h colb n d b s
  | .accwr h colb n a b => Sys2Proof.Machine.execAccwr h colb n a b s
  | .accout h fmt n td a => Sys2Proof.Machine.execAccout h fmt n td a s
  | .fbchk h f d a => Sys2Proof.Machine.execFbchk h f d a s
  | .cbld h slot a b => Sys2Proof.Machine.execCbld h slot a b s
  | .cbldTakeover core id => Sys2Proof.Machine.execCbldTakeover core id s
  | .fillc h a => Sys2Proof.Machine.execFillc h a s
  | .filla h => Sys2Proof.Machine.execFilla h s
  | .fillq h d adr => Sys2Proof.Machine.execFillq h d adr s
  | .ftinfo h which d b => Sys2Proof.Machine.execFtinfo h which d b s
  | .fillv h b => Sys2Proof.Machine.execFillv h b s
  | .stopr h code => Sys2Proof.Machine.execStopr h code s
  | .psamp h code => Sys2Proof.Machine.execPsamp h code s
  | .logfl h => Sys2Proof.Machine.execLogfl h s
  | .evinc h evn b => Sys2Proof.Machine.execEvinc h evn b s
  | .allotmentRelease core ctx => Sys2Proof.Machine.execAllotmentRelease core ctx s
  | .workgroupPlace launch core => Sys2Proof.Machine.execWorkgroupPlace launch core s
  | .ropePlace launch cluster x y => Sys2Proof.Machine.execRopePlace launch cluster x y s
  | .ropeWaitReserve launch cluster x y => Sys2Proof.Machine.execRopeWaitReserve launch cluster x y s
  | .launchAging launch => Sys2Proof.Machine.execLaunchAging launch s
  | .starvationPromote core ctx slot => Sys2Proof.Machine.execStarvationPromote core ctx slot s
  | .throttleWindowEnd core => Sys2Proof.Machine.execThrottleWindowEnd core s
  | .pageWalk cluster asid va => Sys2Proof.Machine.execPageWalk cluster asid va s
  | .fltrespRetry seq => Sys2Proof.Machine.execFltrespRetry seq s
  | .fltrespUnresolved seq => Sys2Proof.Machine.execFltrespUnresolved seq s
  | .ringRecordWrite ring => Sys2Proof.Machine.execRingRecordWrite ring s
  | .counterSweep => Sys2Proof.Machine.execCounterSweep s
  | .preemptPre asid => Sys2Proof.Machine.execPreemptPre asid s
  | .preemptRes asid => Sys2Proof.Machine.execPreemptRes asid s
  | .preemptKill asid => Sys2Proof.Machine.execPreemptKill asid s
  | .groupSave core ctx => Sys2Proof.Machine.execGroupSave core ctx s
  | .preemptOverrun core ctx slot => Sys2Proof.Machine.execPreemptOverrun core ctx slot s
  | .groupResume launch core => Sys2Proof.Machine.execGroupResume launch core s
  | .ropeStop rope => Sys2Proof.Machine.execRopeStop rope s
  | .dbgcmdStop cluster w => Sys2Proof.Machine.execDbgcmdStop cluster w s
  | .dbgcmdResume cluster w => Sys2Proof.Machine.execDbgcmdResume cluster w s
  | .homeMiss core ctx slot => Sys2Proof.Machine.execHomeMiss core ctx slot s
  | .fillLaunch tracker core => Sys2Proof.Machine.execFillLaunch tracker core s
  | .implicitFilla launch => Sys2Proof.Machine.execImplicitFilla launch s
  | .heldRequesterResend slice => Sys2Proof.Machine.execHeldRequesterResend slice s
  | .llcEviction asid line => Sys2Proof.Machine.execLlcEviction asid line s
  | .vsbaseWrite v => Sys2Proof.Machine.execVsbaseWrite v s
  | .vssizeWrite v => Sys2Proof.Machine.execVssizeWrite v s
  | .qkick v => Sys2Proof.Machine.execQkick v s
  | .queueStep => Sys2Proof.Machine.execQueueStep s
  | .barrierPacket q n => Sys2Proof.Machine.execBarrierPacket q n s
  | .copyPacket q n ch => Sys2Proof.Machine.execCopyPacket q n ch s
  | .inval q n => Sys2Proof.Machine.execInval q n s
  | .packetComplete q n => Sys2Proof.Machine.execPacketComplete q n s
  | .hostRequest kind addr data => Sys2Proof.Machine.execHostRequest kind addr data s
  | .peerInboundRequest src kind addr data => Sys2Proof.Machine.execPeerInboundRequest src kind addr data s
  | .registerPacket write src addr v half => Sys2Proof.Machine.execRegisterPacket write src addr v half s
  | .msiForward src vec => Sys2Proof.Machine.execMsiForward src vec s
  | .fabcfgWrite v => Sys2Proof.Machine.execFabcfgWrite v s
  | .portstatWrite port v => Sys2Proof.Machine.execPortstatWrite port v s
  | .flitReceive port words => Sys2Proof.Machine.execFlitReceive port words s
  | .nakReceive port seq => Sys2Proof.Machine.execNakReceive port seq s
  | .ackTimeoutRetrain port => Sys2Proof.Machine.execAckTimeoutRetrain port s
  | .portTrainingDone port lanes => Sys2Proof.Machine.execPortTrainingDone port lanes s
  | .portFail port down => Sys2Proof.Machine.execPortFail port down s
  | .peerTimeout id => Sys2Proof.Machine.execPeerTimeout id s
  | .coldReset strap opt grade fwOk => Sys2Proof.Machine.execColdReset strap opt grade fwOk s
  | .basecampTestResult cause => Sys2Proof.Machine.execBasecampTestResult cause s
  | .enterRun => Sys2Proof.Machine.execEnterRun s
  | .freezeAssert => Sys2Proof.Machine.execFreezeAssert s
  | .freezeDeassert => Sys2Proof.Machine.execFreezeDeassert s
  | .securityAlarm cause => Sys2Proof.Machine.execSecurityAlarm cause s
  | .powerThrottle cluster mhz => Sys2Proof.Machine.execPowerThrottle cluster mhz s
  | .thermalTrip => Sys2Proof.Machine.execThermalTrip s
  | .registerWrite addr v half => Sys2Proof.Machine.execRegisterWrite addr v half s
  | .clkAdvance core => Sys2Proof.Machine.execClkAdvance core s
  | .unassignedOpcode w => Sys2Proof.Machine.execUnassignedOpcode w s
  | .ucieLinkTraining kind arg => Sys2Proof.Machine.execUcieLinkTraining kind arg s
  | .debugUnlock auth => Sys2Proof.Machine.execDebugUnlock auth s

end Sys2Proof.Machine
end

