-- ==== Sys2Proof/Decode.lean ====
section
/-! DEFINITION. The decoder, total on any words, and the encoder beside it (spec/03 R76-R97). Words are split into fields
once; an instruction is built from its fields and accepted exactly when the encoder writes those same words for it and its
own field rules hold, so every unused field must be zero (spec/03 R79). -/

namespace Sys2Proof

/-- Why words are no instruction (spec/03 R84 steps 2 to 6). -/
inductive DecErr
  | illegalOpcode
  | illegalInstruction
  | truncated
  deriving DecidableEq, Repr

/-- An operand field (spec/02 R51). -/
def Opd.ofBits (x : BitVec 9) : Opd :=
  let n := x.toNat
  if h : n < 320 then .v ⟨n, h⟩
  else if h : n - 320 < 64 then .s ⟨n - 320, h⟩
  else if h : n - 384 < 96 then .p ⟨n - 384, h⟩
  else if h : n - 480 < 16 then .k ⟨n - 480, h⟩
  else .rsv ⟨(n - 496) % 16, Nat.mod_lt _ (by decide)⟩

def Opd.bits : Opd → BitVec 9
  | .v n => BitVec.ofNat 9 n.val
  | .s n => BitVec.ofNat 9 (320 + n.val)
  | .p n => BitVec.ofNat 9 (384 + n.val)
  | .k n => BitVec.ofNat 9 (480 + n.val)
  | .rsv n => BitVec.ofNat 9 (496 + n.val)

/-- The B field of an operand B. -/
def SrcB.bits9 : SrcB → BitVec 9
  | .opd o => o.bits
  | .imm9 i => i
  | .imm32 _ => 0

/-- An instruction's words with word 0 split; words it does not have are zero. -/
structure Raw where
  h    : Hdr
  mod8 : BitVec 8
  opc  : BitVec 9
  len  : BitVec 2
  w1   : Word
  w2   : Word
  deriving DecidableEq, Repr

/-- Word 0 (spec/03 R76). -/
def Raw.word0 (r : Raw) : Word :=
  r.mod8 ++ BitVec.ofBool r.h.gneg ++ r.h.guard ++ r.h.fsel ++ r.h.stall ++ r.opc ++ r.len

def Raw.ofWords (w0 w1 w2 : Word) : Raw :=
  { h := { gneg := w0.getLsbD 23, guard := w0.extractLsb' 16 7, fsel := w0.extractLsb' 14 2, stall := w0.extractLsb' 11 3 },
    mod8 := w0.extractLsb' 24 8, opc := w0.extractLsb' 2 9, len := w0.extractLsb' 0 2, w1 := w1, w2 := w2 }

/-- Word 1 of the 64- and 96-bit forms (spec/03 R77). -/
def mkW1 (immb : Bool) (mod4 : BitVec 4) (b a d : BitVec 9) : Word := BitVec.ofBool immb ++ mod4 ++ b ++ a ++ d
/-- Word 2 of a 96c form (spec/03 R78). -/
def mkW2 (imm23 : BitVec 23) (c : BitVec 9) : Word := imm23 ++ c

namespace Raw
def d (r : Raw) : BitVec 9 := r.w1.extractLsb' 0 9
def a (r : Raw) : BitVec 9 := r.w1.extractLsb' 9 9
def b (r : Raw) : BitVec 9 := r.w1.extractLsb' 18 9
def mod4 (r : Raw) : BitVec 4 := r.w1.extractLsb' 27 4
def immb (r : Raw) : Bool := r.w1.getLsbD 31
def c (r : Raw) : BitVec 9 := r.w2.extractLsb' 0 9
def imm23 (r : Raw) : BitVec 23 := r.w2.extractLsb' 9 23
def off27 (r : Raw) : BitVec 27 := r.w1.extractLsb' 0 27
def srcB (r : Raw) : SrcB := if r.immb then .imm9 r.b else .opd (.ofBits r.b)
def da (r : Raw) : DA := ⟨.ofBits r.d, .ofBits r.a⟩
def dab (r : Raw) : DAB := ⟨.ofBits r.d, .ofBits r.a, r.srcB⟩
/-- The 64 form, or the 96i form whose word 2 is B (spec/04 R100). -/
def dabI (r : Raw) : DAB := ⟨.ofBits r.d, .ofBits r.a, if r.len = 2 then .imm32 r.w2 else r.srcB⟩
def dabc (r : Raw) : DABC := ⟨.ofBits r.d, .ofBits r.a, r.srcB, .ofBits r.c⟩
def optOff (r : Raw) : Option (BitVec 23) := if r.len = 2 then some r.imm23 else none
/-- An address with SCALE in MOD5[29:27] (spec/06 R150, R156). -/
def addr (r : Raw) : Addr := ⟨.ofBits r.a, r.srcB, r.mod4.setWidth 3, r.optOff⟩
def memMods (r : Raw) : MemMods := ⟨r.mod8.extractLsb' 5 3, r.mod8.setWidth 5, r.mod4.getLsbD 3⟩
def atomArg (r : Raw) : AtomArg :=
  if r.len = 2 then .long r.addr (.ofBits r.c) else .short (.ofBits r.a) r.srcB
end Raw

def SatU.ofBits (x : BitVec 8) : SatU := ⟨x.getLsbD 4, x.getLsbD 3⟩
def FpMods.ofBits (x : BitVec 8) : FpMods :=
  ⟨x.getLsbD 7, x.getLsbD 6, x.getLsbD 5, x.getLsbD 4, x.getLsbD 3, x.setWidth 3⟩
def CpxMods.ofBits (x : BitVec 8) : CpxMods := ⟨x.getLsbD 6, x.getLsbD 5, x.getLsbD 4, x.getLsbD 3, x.setWidth 3⟩
def CvtMods.ofBits (x : BitVec 8) : CvtMods := ⟨x.getLsbD 3, x.setWidth 3⟩
def AtomMods.ofBits (x : BitVec 8) : AtomMods := ⟨x.extractLsb' 6 2, x.extractLsb' 3 3, x.setWidth 3⟩

/-- IMM23 of CVTF: DIDX, SIDX, DFMT, SFMT (spec/04 R118). -/
def ElemSel.bits (x : ElemSel) : BitVec 23 := (x.didx ++ x.sidx ++ x.dfmt ++ x.sfmt).setWidth 23
def ElemSel.ofBits (x : BitVec 23) : ElemSel :=
  ⟨x.setWidth 5, x.extractLsb' 5 5, x.extractLsb' 10 3, x.extractLsb' 13 3⟩
/-- IMM23 of UNPKMX: DIDX, SCB, SIDX, DFMT, SFMT (spec/04 R124). -/
def ElemSel.bitsUnpk (x : ElemSel) (scb : BitVec 2) : BitVec 23 :=
  (x.didx.setWidth 1 ++ scb ++ x.sidx ++ x.dfmt ++ x.sfmt).setWidth 23
def ElemSel.ofUnpk (x : BitVec 23) : ElemSel :=
  ⟨x.setWidth 5, x.extractLsb' 5 5, x.extractLsb' 10 3, (x.extractLsb' 15 1).setWidth 3⟩

/-- Word 1 or 2 of a PAIR word (spec/03 R85). -/
def PairOp.bits (p : PairOp) : Word := p.mod2 ++ p.b ++ p.a ++ p.d ++ p.sub
def PairOp.ofBits (w : Word) : PairOp :=
  ⟨w.extractLsb' 30 2, w.extractLsb' 22 8, w.extractLsb' 14 8, w.extractLsb' 6 8, w.setWidth 6⟩

/-- One modifier bit; the token field (spec/03 R81). -/
def bit8 (n : Nat) (b : Bool) : BitVec 8 := if b then 1 <<< n else 0
def tok8 (t : BitVec 3) : BitVec 8 := t ++ (0 : BitVec 5)

/-- Which lengths an opcode permits: bit 0 the 32-bit form, bit 1 the 64-bit form, bit 2 the 96-bit form (spec/03 R89). -/
def lenMask (n : Nat) : Nat :=
  if [0, 1, 5, 6, 7, 14, 15, 16, 17, 40, 41, 42, 48, 49, 50, 52, 53].contains n then 6
  else if [2, 3, 4, 10, 11, 12, 18, 19, 23, 24, 26, 27, 28, 29, 36, 37, 38, 39, 44, 45, 46, 47, 51].contains n then 4
  else if n < 0x38 then 2
  else if n < 0x40 then 0
  else if n < 0x6C then
    if n ≤ 0x45 ∨ (0x49 ≤ n ∧ n ≤ 0x51) then 6
    else if n ≤ 0x48 ∨ (0x52 ≤ n ∧ n ≤ 0x5B) ∨ n = 0x66 ∨ n = 0x67 ∨ n = 0x6B then 4
    else 2
  else if n < 0x80 then 0
  else if n < 0x9E then 2
  else if n < 0xA0 then 0
  else if n < 0xB0 then (if n = 0xA0 ∨ n = 0xA1 ∨ n = 0xAA ∨ n = 0xAB ∨ n = 0xAE then 4 else 2)
  else if n < 0xC9 then 2
  else if n < 0xD0 then 0
  else if n < 0xE7 then
    if n ≤ 0xD3 ∨ n = 0xD5 ∨ n = 0xD6 ∨ n = 0xDF then 6
    else if n = 0xD4 ∨ n = 0xDA ∨ n = 0xDE ∨ n = 0xE1 ∨ n = 0xE2 then 4
    else 2
  else if n < 0xF0 then 0
  else if n < 0xFF then
    if n = 0xF0 then 6
    else if n ≤ 0xF4 ∨ n = 0xF7 then 2
    else if n = 0xFE then 5
    else 1
  else if n < 0x100 then 0
  else if n < 0x134 then
    if n = 0x113 ∨ n = 0x11E then 4
    else if n = 0x129 ∨ n = 0x12C then 2
    else if n = 0x12A ∨ n = 0x12B ∨ n = 0x12E then 1
    else 6
  else if n < 0x140 then 0
  else if n < 0x14C then
    if n = 0x146 ∨ n = 0x147 then 1 else if n = 0x149 ∨ n = 0x14B then 4 else 2
  else if n < 0x150 then 0
  else if n < 0x15F then
    if n ≤ 0x153 ∨ (0x156 ≤ n ∧ n ≤ 0x159) then 4 else if n = 0x15E then 1 else 2
  else if n < 0x170 then 0
  else if n < 0x183 then
    if n ≤ 0x173 then 6 else if n ≤ 0x177 then 1 else 2
  else if n < 0x190 then 0
  else if n < 0x195 then (if n = 0x191 then 1 else 2)
  else if n < 0x198 then 0
  else if n < 0x19C then (if n = 0x19B then 2 else 1)
  else if n < 0x1F0 then 0
  else if n < 0x1F4 then 4
  else 0

/-- Steps 2 to 4 of R84 on word 0 alone: the number of words the instruction has. -/
def wordsOf (w0 : Word) : Except DecErr Nat :=
  let r := Raw.ofWords w0 0 0
  if r.len = 3 then .error .illegalInstruction
  else if lenMask r.opc.toNat = 0 then .error .illegalOpcode
  else if (lenMask r.opc.toNat).testBit r.len.toNat then .ok (r.len.toNat + 1)
  else .error .illegalInstruction


/-- The fields of an opcode of the INT class, opcode 0x0 on: nothing is checked yet (spec/03 R89). -/
def buildInt (r : Raw) (k : Nat) : Option Instr :=
  match k with
  | 0 => some (.iadd r.h (.ofBits r.mod8) r.dabI)
  | 1 => some (.isub r.h (.ofBits r.mod8) r.dabI)
  | 2 => some (.iadd3 r.h (.ofBits r.mod8) r.dabc)
  | 3 => some (.iaddc r.h r.dabc (r.imm23.setWidth 7))
  | 4 => some (.isubb r.h r.dabc (r.imm23.setWidth 7))
  | 5 => some (.iadd64 r.h r.dabI)
  | 6 => some (.isub64 r.h r.dabI)
  | 7 => some (.imul r.h r.dabI)
  | 8 => some (.imulhiS r.h r.dab)
  | 9 => some (.imulhiU r.h r.dab)
  | 10 => some (.imad r.h r.dabc)
  | 11 => some (.imadwS r.h r.dabc)
  | 12 => some (.imadwU r.h r.dabc)
  | 13 => some (.iabs r.h (r.mod8.getLsbD 3) r.da)
  | 14 => some (.iminS r.h r.dabI)
  | 15 => some (.iminU r.h r.dabI)
  | 16 => some (.imaxS r.h r.dabI)
  | 17 => some (.imaxU r.h r.dabI)
  | 18 => some (.iclampS r.h r.dabc)
  | 19 => some (.iclampU r.h r.dabc)
  | 20 => some (.ishl r.h r.dab)
  | 21 => some (.ishr r.h r.dab)
  | 22 => some (.ishra r.h r.dab)
  | 23 => some (.shfL r.h r.dabc)
  | 24 => some (.shfR r.h r.dabc)
  | 25 => some (.irot r.h r.dab)
  | 26 => some (.isad r.h (r.mod8.getLsbD 4) r.dabc)
  | 27 => some (.idp4S r.h r.dabc)
  | 28 => some (.idp4U r.h r.dabc)
  | 29 => some (.idp2 r.h (r.mod8.getLsbD 4) r.dabc)
  | 30 => some (.popc r.h r.da)
  | 31 => some (.clz r.h r.da)
  | 32 => some (.ctz r.h r.da)
  | 33 => some (.brev r.h r.da)
  | 34 => some (.bfeS r.h r.dab)
  | 35 => some (.bfeU r.h r.dab)
  | 36 => some (.bfi r.h r.dabc)
  | 37 => some (.logt r.h r.dabc (r.imm23.setWidth 8))
  | 38 => some (.prmt r.h r.dabc)
  | 39 => some (.sel r.h r.dabc)
  | 40 => some (.isetS r.h r.mod4 r.dabI)
  | 41 => some (.isetU r.h r.mod4 r.dabI)
  | 42 => some (.iset64 r.h r.mod4 (r.mod8.getLsbD 4) r.dabI)
  | 43 => some (.imov r.h r.da)
  | 44 => some (.movi r.h (.ofBits r.d) r.w2)
  | 45 => some (.lea r.h (r.imm23.setWidth 5) r.dab)
  | 46 => some (.lea64 r.h (r.mod8.getLsbD 4) (r.imm23.setWidth 5) r.dab)
  | 47 => some (.pset r.h r.dabc (r.imm23.setWidth 8))
  | 48 => some (.iaddH2 r.h (.ofBits r.mod8) r.dabI)
  | 49 => some (.isubH2 r.h (.ofBits r.mod8) r.dabI)
  | 50 => some (.imulH2 r.h r.dabI)
  | 51 => some (.imadH2 r.h r.dabc)
  | 52 => some (.iminH2 r.h (r.mod8.getLsbD 4) r.dabI)
  | 53 => some (.imaxH2 r.h (r.mod8.getLsbD 4) r.dabI)
  | 54 => some (.ishlH2 r.h r.dab)
  | 55 => some (.isetH2 r.h r.mod4 (r.mod8.getLsbD 4) r.dab)
  | _ => none

/-- The fields of an opcode of the FP class, opcode 0x40 on: nothing is checked yet (spec/03 R89). -/
def buildFp (r : Raw) (k : Nat) : Option Instr :=
  match k with
  | 0 => some (.fadd r.h .f32 (.ofBits r.mod8) r.dabI)
  | 1 => some (.fadd r.h .h2 (.ofBits r.mod8) r.dabI)
  | 2 => some (.fadd r.h .b2 (.ofBits r.mod8) r.dabI)
  | 3 => some (.fmul r.h .f32 (.ofBits r.mod8) r.dabI)
  | 4 => some (.fmul r.h .h2 (.ofBits r.mod8) r.dabI)
  | 5 => some (.fmul r.h .b2 (.ofBits r.mod8) r.dabI)
  | 6 => some (.ffma r.h .f32 (.ofBits r.mod8) r.dabc)
  | 7 => some (.ffma r.h .h2 (.ofBits r.mod8) r.dabc)
  | 8 => some (.ffma r.h .b2 (.ofBits r.mod8) r.dabc)
  | 9 => some (.fmin r.h .f32 (.ofBits r.mod8) r.dabI)
  | 10 => some (.fmin r.h .h2 (.ofBits r.mod8) r.dabI)
  | 11 => some (.fmin r.h .b2 (.ofBits r.mod8) r.dabI)
  | 12 => some (.fmax r.h .f32 (.ofBits r.mod8) r.dabI)
  | 13 => some (.fmax r.h .h2 (.ofBits r.mod8) r.dabI)
  | 14 => some (.fmax r.h .b2 (.ofBits r.mod8) r.dabI)
  | 15 => some (.fset r.h .f32 r.mod4 (.ofBits r.mod8) r.dabI)
  | 16 => some (.fset r.h .h2 r.mod4 (.ofBits r.mod8) r.dabI)
  | 17 => some (.fset r.h .b2 r.mod4 (.ofBits r.mod8) r.dabI)
  | 18 => some (.fclamp r.h .f32 (.ofBits r.mod8) r.dabc)
  | 19 => some (.fclamp r.h .h2 (.ofBits r.mod8) r.dabc)
  | 20 => some (.fclamp r.h .b2 (.ofBits r.mod8) r.dabc)
  | 21 => some (.fadd3 r.h (.ofBits r.mod8) r.dabc)
  | 22 => some (.fmed3 r.h .f32 (.ofBits r.mod8) r.dabc)
  | 23 => some (.fmed3 r.h .h2 (.ofBits r.mod8) r.dabc)
  | 24 => some (.fdp2 r.h .h2 (.ofBits r.mod8) r.dabc)
  | 25 => some (.fdp2 r.h .b2 (.ofBits r.mod8) r.dabc)
  | 26 => some (.fdp4 r.h false (.ofBits r.mod8) r.dabc)
  | 27 => some (.fdp4 r.h true (.ofBits r.mod8) r.dabc)
  | 28 => some (.frnd r.h .f32 (.ofBits r.mod8) r.da)
  | 29 => some (.frnd r.h .h2 (.ofBits r.mod8) r.da)
  | 30 => some (.fscale r.h .f32 (.ofBits r.mod8) r.dab)
  | 31 => some (.fscale r.h .h2 (.ofBits r.mod8) r.dab)
  | 32 => some (.fclass r.h .f32 r.da)
  | 33 => some (.fclass r.h .h2 r.da)
  | 34 => some (.cadd r.h .c16 (.ofBits r.mod8) r.dab)
  | 35 => some (.cadd r.h .c32 (.ofBits r.mod8) r.dab)
  | 36 => some (.cmul r.h .c16 (.ofBits r.mod8) r.dab)
  | 37 => some (.cmul r.h .c32 (.ofBits r.mod8) r.dab)
  | 38 => some (.cfma r.h .c16 (.ofBits r.mod8) r.dabc)
  | 39 => some (.cfma r.h .c32 (.ofBits r.mod8) r.dabc)
  | 40 => some (.cabs2 r.h .c16 (.ofBits r.mod8) r.da)
  | 41 => some (.cabs2 r.h .c32 (.ofBits r.mod8) r.da)
  | 42 => some (.cmul r.h .cbf (.ofBits r.mod8) r.dab)
  | 43 => some (.cfma r.h .cbf (.ofBits r.mod8) r.dabc)
  | _ => none

/-- The fields of an opcode of the SFU class, opcode 0x80 on: nothing is checked yet (spec/03 R89). -/
def buildSfu (r : Raw) (k : Nat) : Option Instr :=
  match k with
  | 0 => some (.frcp r.h .f32 (r.mod8.getLsbD 7) (r.mod8.getLsbD 4) r.da)
  | 1 => some (.frcp r.h .h2 (r.mod8.getLsbD 7) (r.mod8.getLsbD 4) r.da)
  | 2 => some (.frcp r.h .b2 (r.mod8.getLsbD 7) (r.mod8.getLsbD 4) r.da)
  | 3 => some (.frsq r.h .f32 (r.mod8.getLsbD 7) (r.mod8.getLsbD 4) r.da)
  | 4 => some (.frsq r.h .h2 (r.mod8.getLsbD 7) (r.mod8.getLsbD 4) r.da)
  | 5 => some (.frsq r.h .b2 (r.mod8.getLsbD 7) (r.mod8.getLsbD 4) r.da)
  | 6 => some (.fsqrt r.h .f32 (r.mod8.getLsbD 7) (r.mod8.getLsbD 4) r.da)
  | 7 => some (.fsqrt r.h .h2 (r.mod8.getLsbD 7) (r.mod8.getLsbD 4) r.da)
  | 8 => some (.fsqrt r.h .b2 (r.mod8.getLsbD 7) (r.mod8.getLsbD 4) r.da)
  | 9 => some (.fexp2 r.h .f32 (r.mod8.getLsbD 7) (r.mod8.getLsbD 4) r.da)
  | 10 => some (.fexp2 r.h .h2 (r.mod8.getLsbD 7) (r.mod8.getLsbD 4) r.da)
  | 11 => some (.fexp2 r.h .b2 (r.mod8.getLsbD 7) (r.mod8.getLsbD 4) r.da)
  | 12 => some (.flog2 r.h .f32 (r.mod8.getLsbD 7) (r.mod8.getLsbD 4) r.da)
  | 13 => some (.flog2 r.h .h2 (r.mod8.getLsbD 7) (r.mod8.getLsbD 4) r.da)
  | 14 => some (.flog2 r.h .b2 (r.mod8.getLsbD 7) (r.mod8.getLsbD 4) r.da)
  | 15 => some (.fsin r.h .f32 (r.mod8.getLsbD 7) (r.mod8.getLsbD 4) r.da)
  | 16 => some (.fsin r.h .h2 (r.mod8.getLsbD 7) (r.mod8.getLsbD 4) r.da)
  | 17 => some (.fsin r.h .b2 (r.mod8.getLsbD 7) (r.mod8.getLsbD 4) r.da)
  | 18 => some (.fcos r.h .f32 (r.mod8.getLsbD 7) (r.mod8.getLsbD 4) r.da)
  | 19 => some (.fcos r.h .h2 (r.mod8.getLsbD 7) (r.mod8.getLsbD 4) r.da)
  | 20 => some (.fcos r.h .b2 (r.mod8.getLsbD 7) (r.mod8.getLsbD 4) r.da)
  | 21 => some (.ftanh r.h .f32 (r.mod8.getLsbD 7) (r.mod8.getLsbD 4) r.da)
  | 22 => some (.ftanh r.h .h2 (r.mod8.getLsbD 7) (r.mod8.getLsbD 4) r.da)
  | 23 => some (.ftanh r.h .b2 (r.mod8.getLsbD 7) (r.mod8.getLsbD 4) r.da)
  | 24 => some (.fsigm r.h .f32 (r.mod8.getLsbD 7) (r.mod8.getLsbD 4) r.da)
  | 25 => some (.fsigm r.h .h2 (r.mod8.getLsbD 7) (r.mod8.getLsbD 4) r.da)
  | 26 => some (.fsigm r.h .b2 (r.mod8.getLsbD 7) (r.mod8.getLsbD 4) r.da)
  | 27 => some (.fgelu r.h .f32 (r.mod8.getLsbD 7) (r.mod8.getLsbD 4) r.da)
  | 28 => some (.fgelu r.h .h2 (r.mod8.getLsbD 7) (r.mod8.getLsbD 4) r.da)
  | 29 => some (.fgelu r.h .b2 (r.mod8.getLsbD 7) (r.mod8.getLsbD 4) r.da)
  | _ => none

/-- The fields of an opcode of the CVT class, opcode 0xa0 on: nothing is checked yet (spec/03 R89). -/
def buildCvt (r : Raw) (k : Nat) : Option Instr :=
  match k with
  | 0 => some (.cvtf r.h (.ofBits r.mod8) (.ofBits r.d) (.ofBits r.a) (.ofBits r.c) (.ofBits r.imm23))
  | 1 => some (.cvtfSr r.h (r.mod8.getLsbD 3) (.ofBits r.d) (.ofBits r.a) (.ofBits r.c) (.ofBits r.imm23))
  | 2 => some (.cvtfi r.h false (r.mod8.extractLsb' 4 2) (.ofBits r.mod8) r.da)
  | 3 => some (.cvtfi r.h true (r.mod8.extractLsb' 4 2) (.ofBits r.mod8) r.da)
  | 4 => some (.cvtif r.h false (r.mod8.extractLsb' 4 2) (.ofBits r.mod8) r.da)
  | 5 => some (.cvtif r.h true (r.mod8.extractLsb' 4 2) (.ofBits r.mod8) r.da)
  | 6 => some (.cvtii r.h (r.mod8.getLsbD 3) (r.mod4.setWidth 3) (r.mod8.extractLsb' 4 3) r.da)
  | 7 => some (.packh r.h (.ofBits r.mod8) r.dab)
  | 8 => some (.packb r.h (.ofBits r.mod8) r.dab)
  | 9 => some (.packf8 r.h (r.mod8.getLsbD 4) (r.mod8.getLsbD 5) (.ofBits r.mod8) r.dab)
  | 10 => some (.packmx r.h (r.imm23.extractLsb' 5 2) (r.imm23.setWidth 5) (.ofBits r.mod8) (.ofBits r.d) (.ofBits r.a) (.ofBits r.c))
  | 11 => some (.unpkmx r.h (r.imm23.extractLsb' 13 2) (.ofBits r.mod8) (.ofBits r.d) (.ofBits r.a) (.ofBits r.c) (.ofUnpk r.imm23))
  | 12 => some (.packt5 r.h r.dab)
  | 13 => some (.unpkt5 r.h (r.mod8.extractLsb' 4 2) r.da)
  | 14 => some (.cbdec r.h (r.imm23.setWidth 2) (r.imm23.getLsbD 2) (r.imm23.extractLsb' 3 2) (r.imm23.getLsbD 5) (.ofBits r.mod8) (.ofBits r.d) (.ofBits r.a) (.ofBits r.c))
  | 15 => if r.mod8.getLsbD 4 then some (.cpackU r.h (r.mod8.getLsbD 5) r.da) else some (.cpack r.h r.dab)
  | _ => none

/-- The fields of an opcode of the XCHG class, opcode 0xb0 on: nothing is checked yet (spec/03 R89). -/
def buildXchg (r : Raw) (k : Nat) : Option Instr :=
  match k with
  | 0 => some (.qswpH r.h r.da)
  | 1 => some (.qswpV r.h r.da)
  | 2 => some (.qswpD r.h r.da)
  | 3 => some (.qbcst r.h (r.mod8.extractLsb' 0 2) r.da)
  | 4 => some (.qred r.h .add (r.mod8.getLsbD 4) (r.mod8.getLsbD 5) r.da)
  | 5 => some (.qred r.h .min (r.mod8.getLsbD 4) (r.mod8.getLsbD 5) r.da)
  | 6 => some (.qred r.h .max (r.mod8.getLsbD 4) (r.mod8.getLsbD 5) r.da)
  | 7 => some (.qred r.h .and (r.mod8.getLsbD 4) (r.mod8.getLsbD 5) r.da)
  | 8 => some (.qred r.h .or (r.mod8.getLsbD 4) (r.mod8.getLsbD 5) r.da)
  | 9 => some (.qhelp r.h r.da)
  | 10 => some (.shfl r.h .idx (r.mod8.extractLsb' 0 3) r.dab)
  | 11 => some (.shfl r.h .up (r.mod8.extractLsb' 0 3) r.dab)
  | 12 => some (.shfl r.h .dn (r.mod8.extractLsb' 0 3) r.dab)
  | 13 => some (.shfl r.h .xor (r.mod8.extractLsb' 0 3) r.dab)
  | 14 => some (.voteAny r.h r.da)
  | 15 => some (.voteAll r.h r.da)
  | 16 => some (.voteBal r.h r.da)
  | 17 => some (.matchLanes r.h r.da)
  | 18 => some (.lred r.h .add (r.mod8.getLsbD 4) (r.mod8.getLsbD 5) r.da)
  | 19 => some (.lred r.h .min (r.mod8.getLsbD 4) (r.mod8.getLsbD 5) r.da)
  | 20 => some (.lred r.h .max (r.mod8.getLsbD 4) (r.mod8.getLsbD 5) r.da)
  | 21 => some (.lred r.h .and (r.mod8.getLsbD 4) (r.mod8.getLsbD 5) r.da)
  | 22 => some (.lred r.h .or (r.mod8.getLsbD 4) (r.mod8.getLsbD 5) r.da)
  | 23 => some (.lscan r.h .add (r.mod8.getLsbD 4) (r.mod8.getLsbD 6) r.da)
  | 24 => some (.lscan r.h .max (r.mod8.getLsbD 4) (r.mod8.getLsbD 6) r.da)
  | _ => none

/-- The fields of an opcode of the UNIF class, opcode 0xd0 on: nothing is checked yet (spec/03 R89). -/
def buildUnif (r : Raw) (k : Nat) : Option Instr :=
  match k with
  | 0 => some (.sadd r.h (.ofBits r.mod8) r.dabI)
  | 1 => some (.ssub r.h (.ofBits r.mod8) r.dabI)
  | 2 => some (.sadd64 r.h r.dabI)
  | 3 => some (.smul r.h r.dabI)
  | 4 => some (.smad r.h r.dabc)
  | 5 => some (.smin r.h (r.mod8.getLsbD 4) r.dabI)
  | 6 => some (.smax r.h (r.mod8.getLsbD 4) r.dabI)
  | 7 => some (.sshl r.h r.dab)
  | 8 => some (.sshr r.h r.dab)
  | 9 => some (.sshra r.h r.dab)
  | 10 => some (.slogt r.h r.dabc (r.imm23.setWidth 8))
  | 11 => some (.spopc r.h r.da)
  | 12 => some (.sclz r.h r.da)
  | 13 => some (.sbfe r.h (r.mod8.getLsbD 4) r.dab)
  | 14 => some (.sbfi r.h r.dabc)
  | 15 => some (.sset r.h r.mod4 (r.mod8.getLsbD 4) r.dabI)
  | 16 => some (.smov r.h r.da)
  | 17 => some (.smovi r.h (.ofBits r.d) r.w2)
  | 18 => some (.slea r.h (r.mod8.getLsbD 4) (r.imm23.setWidth 5) r.dab)
  | 19 => some (.s2v r.h r.da)
  | 20 => some (.v2s r.h r.da)
  | 21 => some (.srdsr r.h r.mod8 (.ofBits r.d))
  | 22 => some (.swrsr r.h r.mod8 r.srcB)
  | _ => none

/-- The fields of an opcode of the CTRL class, opcode 0xf0 on: nothing is checked yet (spec/03 R89). -/
def buildCtrl (r : Raw) (k : Nat) : Option Instr :=
  match k with
  | 0 => if r.len == 2 then some (.braDivergent r.h r.off27 r.imm23) else some (.bra r.h (r.mod8.getLsbD 0) r.off27)
  | 1 => some (.brau r.h r.off27)
  | 2 => some (.brx r.h (.ofBits r.a))
  | 3 => some (.call r.h (r.mod8.setWidth 6) r.off27)
  | 4 => some (.callx r.h (r.mod8.setWidth 6) (.ofBits r.a))
  | 5 => some (.ret r.h (r.mod8.setWidth 6))
  | 6 => some (.join r.h)
  | 7 => some (.loop r.h (r.mod8.setWidth 6) r.off27)
  | 8 => some (.exit r.h)
  | 9 => some (.nop r.h)
  | 10 => some (.yield r.h)
  | 11 => some (.trap r.h r.mod8)
  | 12 => some (.bkpt r.h r.mod8)
  | 13 => if r.mod8 == 1 then some (.tretSkip r.h) else some (.tret r.h)
  | 14 => if r.len == 2 then some (.markImm r.h r.mod8 r.w2) else some (.mark r.h r.mod8)
  | _ => none

/-- The fields of an opcode of the MEM class, opcode 0x100 on: nothing is checked yet (spec/03 R89). -/
def buildMem (r : Raw) (k : Nat) : Option Instr :=
  match k with
  | 0 => some (.ldg r.h r.memMods (.ofBits r.d) r.addr)
  | 1 => some (.ldgNc r.h r.memMods (.ofBits r.d) r.addr)
  | 2 => some (.ldacq r.h (r.mod8.extractLsb' 5 3) (r.mod8.setWidth 3) (.ofBits r.d) r.addr)
  | 3 => some (.ldb r.h r.memMods (.ofBits r.d) r.addr)
  | 4 => some (.stg r.h r.memMods (.ofBits r.d) r.addr)
  | 5 => some (.strel r.h (r.mod8.extractLsb' 5 3) (r.mod8.setWidth 3) (.ofBits r.d) r.addr)
  | 6 => some (.lds r.h r.memMods (.ofBits r.d) r.addr)
  | 7 => some (.ldsX r.h (r.mod8.extractLsb' 5 3) (r.mod8.setWidth 2) (.ofBits r.d) r.addr)
  | 8 => some (.sts r.h r.memMods (.ofBits r.d) r.addr)
  | 9 => some (.ldc r.h r.memMods (.ofBits r.d) r.addr)
  | 10 => some (.ldl r.h r.memMods (.ofBits r.d) r.addr)
  | 11 => some (.stl r.h r.memMods (.ofBits r.d) r.addr)
  | 12 => some (.atomg r.h .add (.ofBits r.mod8) (.ofBits r.d) r.atomArg)
  | 13 => some (.atomg r.h .min (.ofBits r.mod8) (.ofBits r.d) r.atomArg)
  | 14 => some (.atomg r.h .max (.ofBits r.mod8) (.ofBits r.d) r.atomArg)
  | 15 => some (.atomg r.h .and (.ofBits r.mod8) (.ofBits r.d) r.atomArg)
  | 16 => some (.atomg r.h .or (.ofBits r.mod8) (.ofBits r.d) r.atomArg)
  | 17 => some (.atomg r.h .xor (.ofBits r.mod8) (.ofBits r.d) r.atomArg)
  | 18 => some (.atomg r.h .exch (.ofBits r.mod8) (.ofBits r.d) r.atomArg)
  | 19 => some (.atomgCas r.h (.ofBits r.mod8) (.ofBits r.d) (.ofBits r.a) r.srcB (.ofBits r.c) r.imm23)
  | 20 => some (.atomg r.h .inc (.ofBits r.mod8) (.ofBits r.d) r.atomArg)
  | 21 => some (.atomg r.h .dec (.ofBits r.mod8) (.ofBits r.d) r.atomArg)
  | 22 => some (.atomg r.h .fadd (.ofBits r.mod8) (.ofBits r.d) r.atomArg)
  | 23 => some (.atoms r.h .add (.ofBits r.mod8) (.ofBits r.d) r.atomArg)
  | 24 => some (.atoms r.h .min (.ofBits r.mod8) (.ofBits r.d) r.atomArg)
  | 25 => some (.atoms r.h .max (.ofBits r.mod8) (.ofBits r.d) r.atomArg)
  | 26 => some (.atoms r.h .and (.ofBits r.mod8) (.ofBits r.d) r.atomArg)
  | 27 => some (.atoms r.h .or (.ofBits r.mod8) (.ofBits r.d) r.atomArg)
  | 28 => some (.atoms r.h .xor (.ofBits r.mod8) (.ofBits r.d) r.atomArg)
  | 29 => some (.atoms r.h .exch (.ofBits r.mod8) (.ofBits r.d) r.atomArg)
  | 30 => some (.atomsCas r.h (.ofBits r.mod8) (.ofBits r.d) (.ofBits r.a) r.srcB (.ofBits r.c) r.imm23)
  | 31 => some (.atoms r.h .inc (.ofBits r.mod8) (.ofBits r.d) r.atomArg)
  | 32 => some (.atoms r.h .dec (.ofBits r.mod8) (.ofBits r.d) r.atomArg)
  | 33 => some (.atoms r.h .fadd (.ofBits r.mod8) (.ofBits r.d) r.atomArg)
  | 34 => some (.redg r.h .add (.ofBits r.mod8) r.atomArg)
  | 35 => some (.redg r.h .min (.ofBits r.mod8) r.atomArg)
  | 36 => some (.redg r.h .max (.ofBits r.mod8) r.atomArg)
  | 37 => some (.redg r.h .and (.ofBits r.mod8) r.atomArg)
  | 38 => some (.redg r.h .or (.ofBits r.mod8) r.atomArg)
  | 39 => some (.redg r.h .xor (.ofBits r.mod8) r.atomArg)
  | 40 => some (.redg r.h .fadd (.ofBits r.mod8) r.atomArg)
  | 41 => some (.bchk r.h r.off27)
  | 42 => some (.bclr r.h)
  | 43 => some (.fence r.h (r.mod8.extractLsb' 6 2) (r.mod8.extractLsb' 3 3))
  | 44 => some (.acqr r.h (r.mod8.extractLsb' 3 3) r.srcB)
  | 45 => some (.anch r.h (.ofBits r.d) r.addr)
  | 46 => some (.await r.h)
  | 47 => some (.prefL2 r.h r.addr)
  | 48 => some (.prefLlc r.h r.addr)
  | 49 => some (.gpref r.h r.addr)
  | 50 => some (.cctlWb r.h (r.mod8.getLsbD 0) r.addr)
  | 51 => some (.cctlInv r.h (r.mod8.getLsbD 0) r.addr)
  | _ => none

/-- The fields of an opcode of the SYNC class, opcode 0x140 on: nothing is checked yet (spec/03 R89). -/
def buildSync (r : Raw) (k : Nat) : Option Instr :=
  match k with
  | 0 => some (.binit r.h (.ofBits r.a) r.srcB)
  | 1 => some (.barv r.h (r.mod8.getLsbD 0) (r.mod8.extractLsb' 3 3) (.ofBits r.d) (.ofBits r.a) r.srcB)
  | 2 => some (.bexp r.h (.ofBits r.a) r.srcB)
  | 3 => some (.btry r.h (r.mod8.extractLsb' 3 3) (.ofBits r.d) (.ofBits r.a) (.ofBits r.b))
  | 4 => some (.bwait r.h (r.mod8.extractLsb' 3 3) (.ofBits r.a) (.ofBits r.b))
  | 5 => some (.binval r.h (.ofBits r.a))
  | 6 => some (.barwg r.h (r.mod8.setWidth 2) (r.mod8.extractLsb' 3 3))
  | 7 => some (.barrp r.h (r.mod8.setWidth 2))
  | 8 => some (.qresv r.h (r.mod8.setWidth 7) (.ofBits r.d) (.ofBits r.a) r.srcB)
  | 9 => some (.qput r.h (.ofBits r.a) (.ofBits r.b) (.ofBits r.c))
  | 10 => some (.qcommit r.h (r.mod8.extractLsb' 3 3) (.ofBits r.a) (.ofBits r.b) (.ofBits r.d))
  | 11 => some (.qsig r.h (r.mod8.getLsbD 0) (r.mod8.extractLsb' 3 3) (.ofBits r.a) (.ofBits r.c))
  | _ => none

/-- The fields of an opcode of the ASYNC class, opcode 0x150 on: nothing is checked yet (spec/03 R89). -/
def buildAsync (r : Raw) (k : Nat) : Option Instr :=
  match k with
  | 0 => some (.tcopy r.h (r.mod8.extractLsb' 5 3) (r.mod8.getLsbD 4) (.ofBits r.d) (.ofBits r.a) (.ofBits r.b) (.ofBits r.c) r.imm23)
  | 1 => some (.tcopys r.h (r.mod8.extractLsb' 5 3) (r.mod8.getLsbD 4) (.ofBits r.d) (.ofBits r.a) (.ofBits r.b) (.ofBits r.c) r.imm23)
  | 2 => some (.tcopyx r.h (r.mod8.extractLsb' 5 3) (r.mod8.getLsbD 4) (.ofBits r.d) (.ofBits r.a) (.ofBits r.b) (.ofBits r.c) r.imm23)
  | 3 => some (.tcopyr r.h (r.mod8.extractLsb' 5 3) (r.mod8.getLsbD 4) (.ofBits r.d) (.ofBits r.a) (.ofBits r.b) (.ofBits r.c) r.imm23)
  | 4 => some (.chain r.h (r.mod8.extractLsb' 5 3) (r.mod8.setWidth 4) (.ofBits r.a))
  | 5 => some (.chstat r.h (r.mod8.setWidth 4) (.ofBits r.d))
  | 6 => some (.decwBit r.h (r.mod8.extractLsb' 5 3) (r.mod8.getLsbD 4) (.ofBits r.d) (.ofBits r.a) (.ofBits r.c) (r.imm23.setWidth 4))
  | 7 => some (.decwDlt r.h (r.mod8.extractLsb' 5 3) (r.mod8.getLsbD 4) (.ofBits r.d) (.ofBits r.a) (.ofBits r.c) (r.imm23.setWidth 4))
  | 8 => some (.decwRle r.h (r.mod8.extractLsb' 5 3) (r.mod8.getLsbD 4) (.ofBits r.d) (.ofBits r.a) (.ofBits r.c) (r.imm23.setWidth 4))
  | 9 => some (.topk r.h (r.mod8.extractLsb' 5 3) (r.imm23.setWidth 4) (r.imm23.extractLsb' 4 2) (r.imm23.getLsbD 6) (.ofBits r.a) r.srcB (.ofBits r.c))
  | 10 => some (.resid r.h (r.mod8.extractLsb' 5 3) (r.mod8.getLsbD 2) (r.mod8.setWidth 2) (.ofBits r.a) r.srcB)
  | 11 => some (.bstart r.h (.ofBits r.d) (.ofBits r.a) (.ofBits r.b))
  | 12 => some (.bpop r.h (r.mod8.setWidth 2) (.ofBits r.d))
  | 13 => some (.bpush r.h (r.mod8.setWidth 2) (.ofBits r.a))
  | 14 => some (.bstop r.h)
  | _ => none

/-- The fields of an opcode of the TILE class, opcode 0x170 on: nothing is checked yet (spec/03 R89). -/
def buildTile (r : Raw) (k : Nat) : Option Instr :=
  match k with
  | 0 => some (.tld r.h (r.mod8.extractLsb' 3 5) (r.mod8.getLsbD 1) (r.mod8.getLsbD 0) r.mod4 (.ofBits r.a) r.srcB r.optOff)
  | 1 => some (.tldX r.h (r.mod8.extractLsb' 3 5) (r.mod8.getLsbD 1) (r.mod8.getLsbD 0) r.mod4 (.ofBits r.a) r.srcB r.optOff)
  | 2 => some (.tst r.h (r.mod8.extractLsb' 3 5) (r.mod8.getLsbD 1) (r.mod8.getLsbD 0) r.mod4 (.ofBits r.a) r.srcB r.optOff)
  | 3 => some (.tstX r.h (r.mod8.extractLsb' 3 5) (r.mod8.getLsbD 1) (r.mod8.getLsbD 0) r.mod4 (.ofBits r.a) r.srcB r.optOff)
  | 4 => if r.mod8.getLsbD 7 then some (.tzeroAcc r.h (r.mod8.setWidth 3)) else some (.tzeroTile r.h (r.mod8.setWidth 4))
  | 5 => some (.tmov r.h (r.mod8.extractLsb' 4 4) (r.mod8.setWidth 4))
  | 6 => some (.ttrn r.h (r.mod8.extractLsb' 4 4) (r.mod8.setWidth 4))
  | 7 => some (.tbmp r.h (r.mod8.setWidth 4))
  | 8 => if r.mod8.getLsbD 4 then some (.ttagRd r.h (r.mod8.getLsbD 5) (r.mod8.setWidth 4) (.ofBits r.d)) else some (.ttagWr r.h (r.mod8.getLsbD 5) (r.mod8.setWidth 4) (.ofBits r.a))
  | 9 => some (.mma r.h (r.mod4.getLsbD 3) (r.mod8.extractLsb' 4 4) (r.mod8.setWidth 4) (.ofBits r.a))
  | 10 => some (.mmas r.h (r.mod4.getLsbD 3) (r.mod8.extractLsb' 4 4) (r.mod8.setWidth 4) (.ofBits r.a))
  | 11 => some (.mmaf r.h (r.mod8.extractLsb' 4 4) (r.mod8.setWidth 4) (.ofBits r.a))
  | 12 => some (.xfwd r.h (r.mod4.setWidth 3) (r.mod8.extractLsb' 4 4) (r.mod8.setWidth 4))
  | 13 => some (.xinv r.h (r.mod4.getLsbD 3) (r.mod4.getLsbD 2) (r.mod8.extractLsb' 4 4) (r.mod8.setWidth 4))
  | 14 => some (.accrd r.h (r.mod8.extractLsb' 3 3) (r.mod8.setWidth 3) (.ofBits r.d) r.srcB)
  | 15 => some (.accwr r.h (r.mod8.extractLsb' 3 3) (r.mod8.setWidth 3) (.ofBits r.a) r.srcB)
  | 16 => some (.accout r.h (r.mod8.extractLsb' 7 1 ++ r.mod4) (r.mod8.extractLsb' 4 3) (r.mod8.setWidth 4) (.ofBits r.a))
  | 17 => some (.fbchk r.h (r.mod8.getLsbD 0) (.ofBits r.d) (.ofBits r.a))
  | 18 => some (.cbld r.h (r.mod8.setWidth 2) (.ofBits r.a) r.srcB)
  | _ => none

/-- The fields of an opcode of the GEN class, opcode 0x190 on: nothing is checked yet (spec/03 R89). -/
def buildGen (r : Raw) (k : Nat) : Option Instr :=
  match k with
  | 0 => some (.fillc r.h (.ofBits r.a))
  | 1 => some (.filla r.h)
  | 2 => some (.fillq r.h (.ofBits r.d) r.addr)
  | 3 => some (.ftinfo r.h (r.mod8.setWidth 3) (.ofBits r.d) r.srcB)
  | 4 => some (.fillv r.h r.srcB)
  | _ => none

/-- The fields of an opcode of the SYS class, opcode 0x198 on: nothing is checked yet (spec/03 R89). -/
def buildSys (r : Raw) (k : Nat) : Option Instr :=
  match k with
  | 0 => some (.stopr r.h r.mod8)
  | 1 => some (.psamp r.h r.mod8)
  | 2 => some (.logfl r.h)
  | 3 => some (.evinc r.h (r.mod8.setWidth 4) r.srcB)
  | _ => none

/-- The fields of an opcode of the PAIR class, opcode 0x1f0 on: nothing is checked yet (spec/03 R89). -/
def buildPair (r : Raw) (k : Nat) : Option Instr :=
  match k with
  | 0 => some (.pairFF r.h (.ofBits r.w1) (.ofBits r.w2))
  | 1 => some (.pairFI r.h (.ofBits r.w1) (.ofBits r.w2))
  | 2 => some (.pairII r.h (.ofBits r.w1) (.ofBits r.w2))
  | 3 => some (.pairFX r.h (.ofBits r.w1) (.ofBits r.w2))
  | _ => none

/-- The instruction a raw word group names, before its checks. -/
def build (r : Raw) : Option Instr :=
  let n := r.opc.toNat
  if n < 56 then buildInt r n
  else if n < 108 then (if n < 64 then none else buildFp r (n - 64))
  else if n < 158 then (if n < 128 then none else buildSfu r (n - 128))
  else if n < 176 then (if n < 160 then none else buildCvt r (n - 160))
  else if n < 201 then (if n < 176 then none else buildXchg r (n - 176))
  else if n < 231 then (if n < 208 then none else buildUnif r (n - 208))
  else if n < 255 then (if n < 240 then none else buildCtrl r (n - 240))
  else if n < 308 then (if n < 256 then none else buildMem r (n - 256))
  else if n < 332 then (if n < 320 then none else buildSync r (n - 320))
  else if n < 351 then (if n < 336 then none else buildAsync r (n - 336))
  else if n < 387 then (if n < 368 then none else buildTile r (n - 368))
  else if n < 405 then (if n < 400 then none else buildGen r (n - 400))
  else if n < 412 then (if n < 408 then none else buildSys r (n - 408))
  else if n < 500 then (if n < 496 then none else buildPair r (n - 496))
  else none

/-- The raw words of each shape of operands. -/
def encW (h : Hdr) (opc : BitVec 9) (len : BitVec 2) (mod8 : BitVec 8) (w1 w2 : Word) : Raw := ⟨h, mod8, opc, len, w1, w2⟩
def encDA (h : Hdr) (opc : BitVec 9) (mod8 : BitVec 8) (m4 : BitVec 4) (o : DA) : Raw :=
  encW h opc 1 mod8 (mkW1 false m4 0 o.a.bits o.d.bits) 0
def encDAB (h : Hdr) (opc : BitVec 9) (mod8 : BitVec 8) (m4 : BitVec 4) (o : DAB) : Raw :=
  encW h opc (if o.b.isImm32 then 2 else 1) mod8 (mkW1 o.b.isImm m4 o.b.bits9 o.a.bits o.d.bits)
    (match o.b with | .imm32 w => w | _ => 0)
def encDABC (h : Hdr) (opc : BitVec 9) (mod8 : BitVec 8) (m4 : BitVec 4) (o : DABC) (imm : BitVec 23) : Raw :=
  encW h opc 2 mod8 (mkW1 o.b.isImm m4 o.b.bits9 o.a.bits o.d.bits) (mkW2 imm o.c.bits)
/-- A 96c form with D, A and C only. -/
def encDAC (h : Hdr) (opc : BitVec 9) (mod8 : BitVec 8) (d a c : Opd) (imm : BitVec 23) : Raw :=
  encW h opc 2 mod8 (mkW1 false 0 0 a.bits d.bits) (mkW2 imm c.bits)
def encOff27 (h : Hdr) (opc : BitVec 9) (mod8 : BitVec 8) (off : BitVec 27) : Raw :=
  encW h opc 1 mod8 (off.setWidth 32) 0
/-- A memory operand with data or destination D; CV is MOD5[30], SCALE MOD5[29:27] (spec/06 R156). -/
def encMem (h : Hdr) (opc : BitVec 9) (mod8 : BitVec 8) (cv : Bool) (d : Opd) (x : Addr) : Raw :=
  encW h opc (if x.off.isSome then 2 else 1) mod8
    (mkW1 x.idx.isImm (BitVec.ofBool cv ++ x.scale) x.idx.bits9 x.base.bits d.bits)
    (match x.off with | some o => mkW2 o 0 | none => 0)
def encAtom (h : Hdr) (opc : BitVec 9) (mod8 : BitVec 8) (d : Opd) (x : AtomArg) : Raw :=
  match x with
  | .short base data => encW h opc 1 mod8 (mkW1 data.isImm 0 data.bits9 base.bits d.bits) 0
  | .long y data =>
    encW h opc 2 mod8 (mkW1 y.idx.isImm ((0 : BitVec 1) ++ y.scale) y.idx.bits9 y.base.bits d.bits)
      (mkW2 (y.off.getD 0) data.bits)
def encTile (h : Hdr) (opc : BitVec 9) (mod8 : BitVec 8) (t : BitVec 4) (a : Opd) (b : SrcB) (off : Option (BitVec 23)) : Raw :=
  encW h opc (if off.isSome then 2 else 1) mod8 (mkW1 b.isImm t b.bits9 a.bits 0)
    (match off with | some o => mkW2 o 0 | none => 0)
/-- LEA forms: D, A and B with C zero. -/
def DAB.withC (o : DAB) (c : Opd) : DABC := ⟨o.d, o.a, o.b, c⟩

/-- The raw words of an instruction, from the encoding tables of the spec (spec/03 R76-R78, R85, R89 and each class's own
table); an event has none. -/
def Instr.toRaw : Instr → Option Raw
  | .iadd h m o => some (encDAB h 0x000 m.bits 0 o)
  | .isub h m o => some (encDAB h 0x001 m.bits 0 o)
  | .iadd3 h m o => some (encDABC h 0x002 m.bits 0 o 0)
  | .iaddc h o pco => some (encDABC h 0x003 0 0 o (pco.setWidth 23))
  | .isubb h o pco => some (encDABC h 0x004 0 0 o (pco.setWidth 23))
  | .iadd64 h o => some (encDAB h 0x005 0 0 o)
  | .isub64 h o => some (encDAB h 0x006 0 0 o)
  | .imul h o => some (encDAB h 0x007 0 0 o)
  | .imulhiS h o => some (encDAB h 0x008 0 0 o)
  | .imulhiU h o => some (encDAB h 0x009 0 0 o)
  | .imad h o => some (encDABC h 0x00A 0 0 o 0)
  | .imadwS h o => some (encDABC h 0x00B 0 0 o 0)
  | .imadwU h o => some (encDABC h 0x00C 0 0 o 0)
  | .iabs h sat o => some (encDA h 0x00D (bit8 3 sat) 0 o)
  | .iminS h o => some (encDAB h 0x00E 0 0 o)
  | .iminU h o => some (encDAB h 0x00F 0 0 o)
  | .imaxS h o => some (encDAB h 0x010 0 0 o)
  | .imaxU h o => some (encDAB h 0x011 0 0 o)
  | .iclampS h o => some (encDABC h 0x012 0 0 o 0)
  | .iclampU h o => some (encDABC h 0x013 0 0 o 0)
  | .ishl h o => some (encDAB h 0x014 0 0 o)
  | .ishr h o => some (encDAB h 0x015 0 0 o)
  | .ishra h o => some (encDAB h 0x016 0 0 o)
  | .shfL h o => some (encDABC h 0x017 0 0 o 0)
  | .shfR h o => some (encDABC h 0x018 0 0 o 0)
  | .irot h o => some (encDAB h 0x019 0 0 o)
  | .isad h u o => some (encDABC h 0x01A (bit8 4 u) 0 o 0)
  | .idp4S h o => some (encDABC h 0x01B 0 0 o 0)
  | .idp4U h o => some (encDABC h 0x01C 0 0 o 0)
  | .idp2 h u o => some (encDABC h 0x01D (bit8 4 u) 0 o 0)
  | .popc h o => some (encDA h 0x01E 0 0 o)
  | .clz h o => some (encDA h 0x01F 0 0 o)
  | .ctz h o => some (encDA h 0x020 0 0 o)
  | .brev h o => some (encDA h 0x021 0 0 o)
  | .bfeS h o => some (encDAB h 0x022 0 0 o)
  | .bfeU h o => some (encDAB h 0x023 0 0 o)
  | .bfi h o => some (encDABC h 0x024 0 0 o 0)
  | .logt h o lut => some (encDABC h 0x025 0 0 o (lut.setWidth 23))
  | .prmt h o => some (encDABC h 0x026 0 0 o 0)
  | .sel h o => some (encDABC h 0x027 0 0 o 0)
  | .isetS h cc o => some (encDAB h 0x028 0 cc o)
  | .isetU h cc o => some (encDAB h 0x029 0 cc o)
  | .iset64 h cc u o => some (encDAB h 0x02A (bit8 4 u) cc o)
  | .imov h o => some (encDA h 0x02B 0 0 o)
  | .movi h d imm => some (encW h 0x02C 2 0 (mkW1 false 0 0 0 d.bits) imm)
  | .lea h sh o => some (encDABC h 0x02D 0 0 (o.withC (.v 0)) (sh.setWidth 23))
  | .lea64 h u sh o => some (encDABC h 0x02E (bit8 4 u) 0 (o.withC (.v 0)) (sh.setWidth 23))
  | .pset h o lut => some (encDABC h 0x02F 0 0 o (lut.setWidth 23))
  | .iaddH2 h m o => some (encDAB h 0x030 m.bits 0 o)
  | .isubH2 h m o => some (encDAB h 0x031 m.bits 0 o)
  | .imulH2 h o => some (encDAB h 0x032 0 0 o)
  | .imadH2 h o => some (encDABC h 0x033 0 0 o 0)
  | .iminH2 h u o => some (encDAB h 0x034 (bit8 4 u) 0 o)
  | .imaxH2 h u o => some (encDAB h 0x035 (bit8 4 u) 0 o)
  | .ishlH2 h o => some (encDAB h 0x036 0 0 o)
  | .isetH2 h cc u o => some (encDAB h 0x037 (bit8 4 u) cc o)
  | .fadd h t m o => some (encDAB h (match t with | .f32 => 0x040 | .h2 => 0x041 | .b2 => 0x042) m.bits 0 o)
  | .fmul h t m o => some (encDAB h (match t with | .f32 => 0x043 | .h2 => 0x044 | .b2 => 0x045) m.bits 0 o)
  | .ffma h t m o => some (encDABC h (match t with | .f32 => 0x046 | .h2 => 0x047 | .b2 => 0x048) m.bits 0 o 0)
  | .fmin h t m o => some (encDAB h (match t with | .f32 => 0x049 | .h2 => 0x04A | .b2 => 0x04B) m.bits 0 o)
  | .fmax h t m o => some (encDAB h (match t with | .f32 => 0x04C | .h2 => 0x04D | .b2 => 0x04E) m.bits 0 o)
  | .fset h t cc m o => some (encDAB h (match t with | .f32 => 0x04F | .h2 => 0x050 | .b2 => 0x051) m.bits cc o)
  | .fclamp h t m o => some (encDABC h (match t with | .f32 => 0x052 | .h2 => 0x053 | .b2 => 0x054) m.bits 0 o 0)
  | .fadd3 h m o => some (encDABC h 0x055 m.bits 0 o 0)
  | .fmed3 h t m o => some (encDABC h (match t with | .f32 => 0x056 | _ => 0x057) m.bits 0 o 0)
  | .fdp2 h t m o => some (encDABC h (match t with | .h2 => 0x058 | _ => 0x059) m.bits 0 o 0)
  | .fdp4 h e5 m o => some (encDABC h (match e5 with | false => 0x05A | true => 0x05B) m.bits 0 o 0)
  | .frnd h t m o => some (encDA h (match t with | .f32 => 0x05C | _ => 0x05D) m.bits 0 o)
  | .fscale h t m o => some (encDAB h (match t with | .f32 => 0x05E | _ => 0x05F) m.bits 0 o)
  | .fclass h t o => some (encDA h (match t with | .f32 => 0x060 | _ => 0x061) 0 0 o)
  | .cadd h t m o => some (encDAB h (match t with | .c16 => 0x062 | _ => 0x063) m.bits 0 o)
  | .cmul h t m o => some (encDAB h (match t with | .c16 => 0x064 | .c32 => 0x065 | .cbf => 0x06A) m.bits 0 o)
  | .cfma h t m o => some (encDABC h (match t with | .c16 => 0x066 | .c32 => 0x067 | .cbf => 0x06B) m.bits 0 o 0)
  | .cabs2 h t m o => some (encDA h (match t with | .c16 => 0x068 | _ => 0x069) m.bits 0 o)
  | .frcp h t abs na o => some (encDA h (match t with | .f32 => 0x080 | .h2 => 0x081 | .b2 => 0x082) (bit8 7 abs ||| bit8 4 na) 0 o)
  | .frsq h t abs na o => some (encDA h (match t with | .f32 => 0x083 | .h2 => 0x084 | .b2 => 0x085) (bit8 7 abs ||| bit8 4 na) 0 o)
  | .fsqrt h t abs na o => some (encDA h (match t with | .f32 => 0x086 | .h2 => 0x087 | .b2 => 0x088) (bit8 7 abs ||| bit8 4 na) 0 o)
  | .fexp2 h t abs na o => some (encDA h (match t with | .f32 => 0x089 | .h2 => 0x08A | .b2 => 0x08B) (bit8 7 abs ||| bit8 4 na) 0 o)
  | .flog2 h t abs na o => some (encDA h (match t with | .f32 => 0x08C | .h2 => 0x08D | .b2 => 0x08E) (bit8 7 abs ||| bit8 4 na) 0 o)
  | .fsin h t abs na o => some (encDA h (match t with | .f32 => 0x08F | .h2 => 0x090 | .b2 => 0x091) (bit8 7 abs ||| bit8 4 na) 0 o)
  | .fcos h t abs na o => some (encDA h (match t with | .f32 => 0x092 | .h2 => 0x093 | .b2 => 0x094) (bit8 7 abs ||| bit8 4 na) 0 o)
  | .ftanh h t abs na o => some (encDA h (match t with | .f32 => 0x095 | .h2 => 0x096 | .b2 => 0x097) (bit8 7 abs ||| bit8 4 na) 0 o)
  | .fsigm h t abs na o => some (encDA h (match t with | .f32 => 0x098 | .h2 => 0x099 | .b2 => 0x09A) (bit8 7 abs ||| bit8 4 na) 0 o)
  | .fgelu h t abs na o => some (encDA h (match t with | .f32 => 0x09B | .h2 => 0x09C | .b2 => 0x09D) (bit8 7 abs ||| bit8 4 na) 0 o)
  | .sfuComplete _ _ => none
  | .cvtf h m d a c x => some (encDAC h 0x0A0 m.bits d a c x.bits)
  | .cvtfSr h sat d a c x => some (encDAC h 0x0A1 (bit8 3 sat) d a c x.bits)
  | .cvtfi h u src m o => some (encDA h (match u with | false => 0x0A2 | true => 0x0A3) ((src.setWidth 8 <<< 4) ||| m.bits) 0 o)
  | .cvtif h u dst m o => some (encDA h (match u with | false => 0x0A4 | true => 0x0A5) ((dst.setWidth 8 <<< 4) ||| m.bits) 0 o)
  | .cvtii h sat src dst o => some (encDA h 0x0A6 (bit8 3 sat ||| (dst.setWidth 8 <<< 4)) (src.setWidth 4) o)
  | .packh h m o => some (encDAB h 0x0A7 m.bits 0 o)
  | .packb h m o => some (encDAB h 0x0A8 m.bits 0 o)
  | .packf8 h e5 hi m o => some (encDAB h 0x0A9 ((bit8 4 e5 ||| bit8 5 hi) ||| m.bits) 0 o)
  | .packmx h blk dfmt m d a c => some (encDAC h 0x0AA m.bits d a c ((blk ++ dfmt).setWidth 23))
  | .unpkmx h scb m d a c x => some (encDAC h 0x0AB m.bits d a c (x.bitsUnpk scb))
  | .packt5 h o => some (encDAB h 0x0AC 0 0 o)
  | .unpkt5 h k o => some (encDA h 0x0AD (k.setWidth 8 <<< 4) 0 o)
  | .cbdec h slot half pair fp16 m d a c => some (encDAC h 0x0AE m.bits d a c ((BitVec.ofBool fp16 ++ pair ++ BitVec.ofBool half ++ slot).setWidth 23))
  | .cpack h o => some (encDAB h 0x0AF 0 0 o)
  | .cpackU h hi o => some (encDA h 0x0AF (bit8 4 true ||| bit8 5 hi) 0 o)
  | .pairFF h p q => some (encW h 0x1F0 2 0 p.bits q.bits)
  | .pairFI h p q => some (encW h 0x1F1 2 0 p.bits q.bits)
  | .pairII h p q => some (encW h 0x1F2 2 0 p.bits q.bits)
  | .pairFX h p q => some (encW h 0x1F3 2 0 p.bits q.bits)
  | .qswpH h o => some (encDA h 0x0B0 0 0 o)
  | .qswpV h o => some (encDA h 0x0B1 0 0 o)
  | .qswpD h o => some (encDA h 0x0B2 0 0 o)
  | .qbcst h k o => some (encDA h 0x0B3 (k.setWidth 8 <<< 0) 0 o)
  | .qred h op u f32 o => some (encDA h (match op with | .add => 0x0B4 | .min => 0x0B5 | .max => 0x0B6 | .and => 0x0B7 | .or => 0x0B8) (bit8 4 u ||| bit8 5 f32) 0 o)
  | .qhelp h o => some (encDA h 0x0B9 0 0 o)
  | .shfl h mode seg o => some (encDAB h (match mode with | .idx => 0x0BA | .up => 0x0BB | .dn => 0x0BC | .xor => 0x0BD) (seg.setWidth 8 <<< 0) 0 o)
  | .voteAny h o => some (encDA h 0x0BE 0 0 o)
  | .voteAll h o => some (encDA h 0x0BF 0 0 o)
  | .voteBal h o => some (encDA h 0x0C0 0 0 o)
  | .matchLanes h o => some (encDA h 0x0C1 0 0 o)
  | .lred h op u f32 o => some (encDA h (match op with | .add => 0x0C2 | .min => 0x0C3 | .max => 0x0C4 | .and => 0x0C5 | .or => 0x0C6) (bit8 4 u ||| bit8 5 f32) 0 o)
  | .lscan h op u exc o => some (encDA h (match op with | .add => 0x0C7 | _ => 0x0C8) (bit8 4 u ||| bit8 6 exc) 0 o)
  | .sadd h m o => some (encDAB h 0x0D0 m.bits 0 o)
  | .ssub h m o => some (encDAB h 0x0D1 m.bits 0 o)
  | .sadd64 h o => some (encDAB h 0x0D2 0 0 o)
  | .smul h o => some (encDAB h 0x0D3 0 0 o)
  | .smad h o => some (encDABC h 0x0D4 0 0 o 0)
  | .smin h u o => some (encDAB h 0x0D5 (bit8 4 u) 0 o)
  | .smax h u o => some (encDAB h 0x0D6 (bit8 4 u) 0 o)
  | .sshl h o => some (encDAB h 0x0D7 0 0 o)
  | .sshr h o => some (encDAB h 0x0D8 0 0 o)
  | .sshra h o => some (encDAB h 0x0D9 0 0 o)
  | .slogt h o lut => some (encDABC h 0x0DA 0 0 o (lut.setWidth 23))
  | .spopc h o => some (encDA h 0x0DB 0 0 o)
  | .sclz h o => some (encDA h 0x0DC 0 0 o)
  | .sbfe h u o => some (encDAB h 0x0DD (bit8 4 u) 0 o)
  | .sbfi h o => some (encDABC h 0x0DE 0 0 o 0)
  | .sset h cc u o => some (encDAB h 0x0DF (bit8 4 u) cc o)
  | .smov h o => some (encDA h 0x0E0 0 0 o)
  | .smovi h d imm => some (encW h 0x0E1 2 0 (mkW1 false 0 0 0 d.bits) imm)
  | .slea h u sh o => some (encDABC h 0x0E2 (bit8 4 u) 0 (o.withC (.v 0)) (sh.setWidth 23))
  | .s2v h o => some (encDA h 0x0E3 0 0 o)
  | .v2s h o => some (encDA h 0x0E4 0 0 o)
  | .srdsr h sr d => some (encW h 0x0E5 1 sr (mkW1 false 0 0 0 d.bits) 0)
  | .swrsr h sr b => some (encW h 0x0E6 1 sr (mkW1 b.isImm 0 b.bits9 0 0) 0)
  | .bra h any off => some (encOff27 h 0x0F0 (bit8 0 any) off)
  | .braDivergent h off rc => some (encW h 0x0F0 2 0 (off.setWidth 32) (mkW2 rc 0))
  | .brau h off => some (encOff27 h 0x0F1 0 off)
  | .brx h a => some (encW h 0x0F2 1 0 (mkW1 false 0 0 a.bits 0) 0)
  | .call h l off => some (encOff27 h 0x0F3 (l.setWidth 8) off)
  | .callx h l a => some (encW h 0x0F4 1 (l.setWidth 8) (mkW1 false 0 0 a.bits 0) 0)
  | .ret h l => some (encW h 0x0F5 0 (l.setWidth 8) 0 0)
  | .join h => some (encW h 0x0F6 0 0 0 0)
  | .loop h c off => some (encOff27 h 0x0F7 (c.setWidth 8) off)
  | .exit h => some (encW h 0x0F8 0 0 0 0)
  | .nop h => some (encW h 0x0F9 0 0 0 0)
  | .yield h => some (encW h 0x0FA 0 0 0 0)
  | .yieldExpiry _ _ _ => none
  | .trap h code => some (encW h 0x0FB 0 code 0 0)
  | .bkpt h code => some (encW h 0x0FC 0 code 0 0)
  | .tret h => some (encW h 0x0FD 0 0 0 0)
  | .tretSkip h => some (encW h 0x0FD 0 1 0 0)
  | .mark h code => some (encW h 0x0FE 0 code 0 0)
  | .markImm h code imm => some (encW h 0x0FE 2 code 0 imm)
  | .clauseWaitRelease _ _ _ => none
  | .ldg h m d adr => some (encMem h 0x100 m.bits m.cv d adr)
  | .ldgNc h m d adr => some (encMem h 0x101 m.bits m.cv d adr)
  | .ldacq h vsz sc d adr => some (encMem h 0x102 (vsz ++ (0 : BitVec 2) ++ sc) false d adr)
  | .ldb h m d adr => some (encMem h 0x103 m.bits m.cv d adr)
  | .stg h m d adr => some (encMem h 0x104 m.bits m.cv d adr)
  | .strel h vsz sc d adr => some (encMem h 0x105 (vsz ++ (0 : BitVec 2) ++ sc) false d adr)
  | .lds h m d adr => some (encMem h 0x106 m.bits m.cv d adr)
  | .ldsX h vsz swz d adr => some (encMem h 0x107 (vsz ++ (0 : BitVec 3) ++ swz) false d adr)
  | .sts h m d adr => some (encMem h 0x108 m.bits m.cv d adr)
  | .ldc h m d adr => some (encMem h 0x109 m.bits m.cv d adr)
  | .ldl h m d adr => some (encMem h 0x10A m.bits m.cv d adr)
  | .stl h m d adr => some (encMem h 0x10B m.bits m.cv d adr)
  | .atomg h op m d x => some (encAtom h (match op with | .add => 0x10C | .min => 0x10D | .max => 0x10E | .and => 0x10F | .or => 0x110 | .xor => 0x111 | .exch => 0x112 | .inc => 0x114 | .dec => 0x115 | .fadd => 0x116) m.bits d x)
  | .atomgCas h m d base cmp new off => some (encW h 0x113 2 m.bits (mkW1 cmp.isImm 0 cmp.bits9 base.bits d.bits) (mkW2 off new.bits))
  | .atoms h op m d x => some (encAtom h (match op with | .add => 0x117 | .min => 0x118 | .max => 0x119 | .and => 0x11A | .or => 0x11B | .xor => 0x11C | .exch => 0x11D | .inc => 0x11F | .dec => 0x120 | .fadd => 0x121) m.bits d x)
  | .atomsCas h m d base cmp new off => some (encW h 0x11E 2 m.bits (mkW1 cmp.isImm 0 cmp.bits9 base.bits d.bits) (mkW2 off new.bits))
  | .redg h op m x => some (encAtom h (match op with | .add => 0x122 | .min => 0x123 | .max => 0x124 | .and => 0x125 | .or => 0x126 | .xor => 0x127 | _ => 0x128) m.bits (.v 0) x)
  | .storeQueueLeave _ _ _ => none
  | .memoryReplay _ _ _ => none
  | .loadComplete _ _ _ => none
  | .bchk h off => some (encOff27 h 0x129 0 off)
  | .bclr h => some (encW h 0x12A 0 0 0 0)
  | .belayAnswer _ _ => none
  | .homeValidate _ _ _ => none
  | .belayRoundSelfInvalidate _ => none
  | .fence h ord sc => some (encW h 0x12B 0 (ord ++ sc ++ (0 : BitVec 3)) 0 0)
  | .acqr h sc b => some (encW h 0x12C 1 (sc.setWidth 8 <<< 3) (mkW1 b.isImm 0 b.bits9 0 0) 0)
  | .anch h d adr => some (encMem h 0x12D 0 false d adr)
  | .await h => some (encW h 0x12E 0 0 0 0)
  | .awaitTimeout _ _ => none
  | .prefL2 h adr => some (encMem h 0x12F 0 false (.v 0) adr)
  | .prefLlc h adr => some (encMem h 0x130 0 false (.v 0) adr)
  | .gpref h adr => some (encMem h 0x131 0 false (.v 0) adr)
  | .cctlWb h all adr => some (encMem h 0x132 (bit8 0 all) false (.v 0) adr)
  | .cctlInv h all adr => some (encMem h 0x133 (bit8 0 all) false (.v 0) adr)
  | .localWriteback _ _ _ => none
  | .binit h a b => some (encW h 0x140 1 0 (mkW1 b.isImm 0 b.bits9 a.bits 0) 0)
  | .barv h rd sc d a b => some (encW h 0x141 1 ((sc.setWidth 8 <<< 3) ||| bit8 0 rd) (mkW1 b.isImm 0 b.bits9 a.bits d.bits) 0)
  | .bexp h a b => some (encW h 0x142 1 0 (mkW1 b.isImm 0 b.bits9 a.bits 0) 0)
  | .btry h sc d a b => some (encW h 0x143 1 (sc.setWidth 8 <<< 3) (mkW1 false 0 b.bits a.bits d.bits) 0)
  | .bwait h sc a b => some (encW h 0x144 1 (sc.setWidth 8 <<< 3) (mkW1 false 0 b.bits a.bits 0) 0)
  | .binval h a => some (encW h 0x145 1 0 (mkW1 false 0 0 a.bits 0) 0)
  | .barwg h n sc => some (encW h 0x146 0 ((sc.setWidth 8 <<< 3) ||| n.setWidth 8) 0 0)
  | .barrp h n => some (encW h 0x147 0 (n.setWidth 8) 0 0)
  | .qresv h pd d a b => some (encW h 0x148 1 (pd.setWidth 8) (mkW1 b.isImm 0 b.bits9 a.bits d.bits) 0)
  | .qput h a b c => some (encW h 0x149 2 0 (mkW1 false 0 b.bits a.bits 0) (mkW2 0 c.bits))
  | .qcommit h sc a b d => some (encW h 0x14A 1 (sc.setWidth 8 <<< 3) (mkW1 false 0 b.bits a.bits d.bits) 0)
  | .qsig h store sc a c => some (encW h 0x14B 2 ((sc.setWidth 8 <<< 3) ||| bit8 0 store) (mkW1 false 0 0 a.bits 0) (mkW2 0 c.bits))
  | .tcopy h tok bar d a b c off => some (encW h 0x150 2 (tok8 tok ||| bit8 4 bar) (mkW1 false 0 b.bits a.bits d.bits) (mkW2 off c.bits))
  | .tcopys h tok bar d a b c off => some (encW h 0x151 2 (tok8 tok ||| bit8 4 bar) (mkW1 false 0 b.bits a.bits d.bits) (mkW2 off c.bits))
  | .tcopyx h tok bar d a b c off => some (encW h 0x152 2 (tok8 tok ||| bit8 4 bar) (mkW1 false 0 b.bits a.bits d.bits) (mkW2 off c.bits))
  | .tcopyr h tok bar d a b c off => some (encW h 0x153 2 (tok8 tok ||| bit8 4 bar) (mkW1 false 0 b.bits a.bits d.bits) (mkW2 off c.bits))
  | .copyComplete _ _ => none
  | .chain h tok ch a => some (encW h 0x154 1 (tok8 tok ||| ch.setWidth 8) (mkW1 false 0 0 a.bits 0) 0)
  | .chstat h ch d => some (encW h 0x155 1 (ch.setWidth 8) (mkW1 false 0 0 0 d.bits) 0)
  | .chainRecord _ _ => none
  | .decwBit h tok sg d a c nb => some (encW h 0x156 2 (tok8 tok ||| bit8 4 sg) (mkW1 false 0 0 a.bits d.bits) (mkW2 (nb.setWidth 23) c.bits))
  | .decwDlt h tok sg d a c nb => some (encW h 0x157 2 (tok8 tok ||| bit8 4 sg) (mkW1 false 0 0 a.bits d.bits) (mkW2 (nb.setWidth 23) c.bits))
  | .decwRle h tok sg d a c nb => some (encW h 0x158 2 (tok8 tok ||| bit8 4 sg) (mkW1 false 0 0 a.bits d.bits) (mkW2 (nb.setWidth 23) c.bits))
  | .decodeComplete _ => none
  | .topk h tok n slot res a b c => some (encW h 0x159 2 (tok8 tok) (mkW1 b.isImm 0 b.bits9 a.bits 0) (mkW2 ((BitVec.ofBool res ++ slot ++ n).setWidth 23) c.bits))
  | .resid h tok flush slot a b => some (encW h 0x15A 1 (tok8 tok ||| bit8 2 flush ||| slot.setWidth 8) (mkW1 b.isImm 0 b.bits9 a.bits 0) 0)
  | .topkComplete _ => none
  | .bstart h d a b => some (encW h 0x15B 1 0 (mkW1 false 0 b.bits a.bits d.bits) 0)
  | .bpop h q d => some (encW h 0x15C 1 (q.setWidth 8) (mkW1 false 0 0 0 d.bits) 0)
  | .bpush h q a => some (encW h 0x15D 1 (q.setWidth 8) (mkW1 false 0 0 a.bits 0) 0)
  | .bstop h => some (encW h 0x15E 0 0 0 0)
  | .tld h fmt hdr sp t a b off => some (encTile h 0x170 (fmt.setWidth 8 <<< 3 ||| bit8 1 hdr ||| bit8 0 sp) t a b off)
  | .tldX h fmt hdr sp t a b off => some (encTile h 0x171 (fmt.setWidth 8 <<< 3 ||| bit8 1 hdr ||| bit8 0 sp) t a b off)
  | .tst h fmt hdr sp t a b off => some (encTile h 0x172 (fmt.setWidth 8 <<< 3 ||| bit8 1 hdr ||| bit8 0 sp) t a b off)
  | .tstX h fmt hdr sp t a b off => some (encTile h 0x173 (fmt.setWidth 8 <<< 3 ||| bit8 1 hdr ||| bit8 0 sp) t a b off)
  | .tzeroTile h t => some (encW h 0x174 0 (t.setWidth 8) 0 0)
  | .tzeroAcc h n => some (encW h 0x174 0 (bit8 7 true ||| n.setWidth 8) 0 0)
  | .tmov h td ts => some (encW h 0x175 0 (td ++ ts) 0 0)
  | .ttrn h td ts => some (encW h 0x176 0 (td ++ ts) 0 0)
  | .tbmp h t => some (encW h 0x177 0 (t.setWidth 8) 0 0)
  | .ttagWr h acc n a => some (encW h 0x178 1 (bit8 5 acc ||| n.setWidth 8) (mkW1 false 0 0 a.bits 0) 0)
  | .ttagRd h acc n d => some (encW h 0x178 1 (bit8 5 acc ||| bit8 4 true ||| n.setWidth 8) (mkW1 false 0 0 0 d.bits) 0)
  | .mma h b4 tb ta sf => some (encW h 0x179 1 (tb ++ ta) (mkW1 false (if b4 then 8 else 0) 0 sf.bits 0) 0)
  | .mmas h b4 tb ta sf => some (encW h 0x17A 1 (tb ++ ta) (mkW1 false (if b4 then 8 else 0) 0 sf.bits 0) 0)
  | .mmaf h tb ta sf => some (encW h 0x17B 1 (tb ++ ta) (mkW1 false 0 0 sf.bits 0) 0)
  | .matrixComplete _ _ => none
  | .xfwd h c td ts => some (encW h 0x17C 1 (td ++ ts) (mkW1 false (c.setWidth 4) 0 0 0) 0)
  | .xinv h fold sat td ts => some (encW h 0x17D 1 (td ++ ts) (mkW1 false (BitVec.ofBool fold ++ BitVec.ofBool sat ++ (0 : BitVec 2)) 0 0 0) 0)
  | .transformService _ => none
  | .accrd h colb n d b => some (encW h 0x17E 1 ((colb ++ n).setWidth 8) (mkW1 b.isImm 0 b.bits9 0 d.bits) 0)
  | .accwr h colb n a b => some (encW h 0x17F 1 ((colb ++ n).setWidth 8) (mkW1 b.isImm 0 b.bits9 a.bits 0) 0)
  | .accout h fmt n td a => some (encW h 0x180 1 (fmt.extractLsb' 4 1 ++ n ++ td) (mkW1 false (fmt.setWidth 4) 0 a.bits 0) 0)
  | .fbchk h f d a => some (encW h 0x181 1 (bit8 0 f) (mkW1 false 0 0 a.bits d.bits) 0)
  | .cbld h slot a b => some (encW h 0x182 1 (slot.setWidth 8) (mkW1 b.isImm 0 b.bits9 a.bits 0) 0)
  | .cbldTakeover _ _ => none
  | .fillc h a => some (encW h 0x190 1 0 (mkW1 false 0 0 a.bits 0) 0)
  | .filla h => some (encW h 0x191 0 0 0 0)
  | .fillq h d adr => some (encMem h 0x192 0 false d adr)
  | .ftinfo h which d b => some (encW h 0x193 1 (which.setWidth 8) (mkW1 b.isImm 0 b.bits9 0 d.bits) 0)
  | .fillv h b => some (encW h 0x194 1 0 (mkW1 b.isImm 0 b.bits9 0 0) 0)
  | .stopr h code => some (encW h 0x198 0 code 0 0)
  | .psamp h code => some (encW h 0x199 0 code 0 0)
  | .logfl h => some (encW h 0x19A 0 0 0 0)
  | .evinc h evn b => some (encW h 0x19B 1 (evn.setWidth 8) (mkW1 b.isImm 0 b.bits9 0 0) 0)
  | .allotmentRelease _ _ => none
  | .workgroupPlace _ _ => none
  | .ropePlace _ _ _ _ => none
  | .ropeWaitReserve _ _ _ _ => none
  | .launchAging _ => none
  | .starvationPromote _ _ _ => none
  | .throttleWindowEnd _ => none
  | .pageWalk _ _ _ => none
  | .fltrespRetry _ => none
  | .fltrespUnresolved _ => none
  | .ringRecordWrite _ => none
  | .counterSweep => none
  | .preemptPre _ => none
  | .preemptRes _ => none
  | .preemptKill _ => none
  | .groupSave _ _ => none
  | .preemptOverrun _ _ _ => none
  | .groupResume _ _ => none
  | .ropeStop _ => none
  | .dbgcmdStop _ _ => none
  | .dbgcmdResume _ _ => none
  | .homeMiss _ _ _ => none
  | .fillLaunch _ _ => none
  | .implicitFilla _ => none
  | .heldRequesterResend _ => none
  | .llcEviction _ _ => none
  | .vsbaseWrite _ => none
  | .vssizeWrite _ => none
  | .qkick _ => none
  | .queueStep => none
  | .barrierPacket _ _ => none
  | .copyPacket _ _ _ => none
  | .inval _ _ => none
  | .packetComplete _ _ => none
  | .hostRequest _ _ _ => none
  | .peerInboundRequest _ _ _ _ => none
  | .registerPacket _ _ _ _ _ => none
  | .msiForward _ _ => none
  | .fabcfgWrite _ => none
  | .portstatWrite _ _ => none
  | .flitReceive _ _ => none
  | .nakReceive _ _ => none
  | .ackTimeoutRetrain _ => none
  | .portTrainingDone _ _ => none
  | .portFail _ _ => none
  | .peerTimeout _ => none
  | .coldReset _ _ _ _ => none
  | .basecampTestResult _ => none
  | .enterRun => none
  | .freezeAssert => none
  | .freezeDeassert => none
  | .securityAlarm _ => none
  | .powerThrottle _ _ => none
  | .thermalTrip => none
  | .registerWrite _ _ _ => none
  | .clkAdvance _ => none
  | .ucieLinkTraining _ _ => none
  | .debugUnlock _ => none
  | .unassignedOpcode _ => none

/-- The words of a program instruction. -/
def encode (i : Instr) : Option (List Word) :=
  i.toRaw.map (fun r => [r.word0, r.w1, r.w2].take (r.len.toNat + 1))

/-- Step 6 of R84 for what the words alone decide: the instruction, or none for ILLEGAL_INSTRUCTION. -/
def decodeRaw (r : Raw) : Option Instr :=
  match build r with
  | some i => if i.wf && i.toRaw == some r then some i else none
  | none => none

/-- Decode word 0 with its later words; words beyond the length are ignored. An unassigned opcode is its own row. -/
def decodeWords (w0 w1 w2 : Word) : Except DecErr Instr :=
  match wordsOf w0 with
  | .error .illegalOpcode => .ok (.unassignedOpcode w0)
  | .error e => .error e
  | .ok n =>
    match decodeRaw (Raw.ofWords w0 (if 2 ≤ n then w1 else 0) (if 3 ≤ n then w2 else 0)) with
    | some i => .ok i
    | none => .error .illegalInstruction

/-- A little-endian word of a byte list, if it is long enough (spec/00 R6). -/
def wordAt (bs : List Byte) (k : Nat) : Option Word :=
  match bs.drop (4 * k) with
  | b0 :: b1 :: b2 :: b3 :: _ => some (b3 ++ b2 ++ b1 ++ b0)
  | _ => none

/-- Decode from bytes: the instruction and how many bytes it takes. -/
def decode (bs : List Byte) : Except DecErr (Instr × Nat) :=
  match wordAt bs 0 with
  | none => .error .truncated
  | some w0 =>
    match wordsOf w0 with
    | .error .illegalOpcode => .ok (.unassignedOpcode w0, 4)
    | .error e => .error e
    | .ok n =>
      match (if 2 ≤ n then wordAt bs 1 else some 0), (if 3 ≤ n then wordAt bs 2 else some 0) with
      | some w1, some w2 =>
        match decodeWords w0 w1 w2 with
        | .ok i => .ok (i, 4 * n)
        | .error e => .error e
      | _, _ => .error .truncated

/-- The bytes of a number, least significant first. -/
def bytesLE : Nat → Nat → List Byte
  | 0, _ => []
  | n + 1, x => BitVec.ofNat 8 x :: bytesLE n (x / 256)

/-- The instruction an opcode-table word names: its bits from bit 0 of the first word on, the bits above nbits zero. -/
def decodeTableWord (nbits w : Nat) : Option Instr :=
  match decode (bytesLE 12 (w % 2 ^ nbits)) with
  | .ok (i, _) => some i
  | .error _ => none

end Sys2Proof
end

