-- ==== Sys2Proof/Machine/Fetch.lean ====
section
/-! DEFINITION. Fetching the instruction of a stream, the turn taken when the agenda names none, and the placing of one instruction
for a step (spec/03 R82, R84; spec/07 R187; notes/assumptions 2, 11). -/

namespace Sys2Proof.Machine

/-- What the fetch of an instruction came to: the instruction, a trap, or a wait, with the length in words it has. -/
inductive Fetched
  | instr (i : Instr) (len : Nat)
  | trap (cause len : Nat) (faddr : DWord)
  | page (len : Nat) (faddr : DWord)
  | wait
  deriving DecidableEq, Repr

/-- Later words of an instruction, lowest first; those it does not have are zero (spec/03 R82). -/
def State.fetchRest (s : State) (e : Env) (n : Nat) (w0 : Word) : State × Fetched :=
  let done (s : State) (w1 w2 : Word) : State × Fetched :=
    match decodeWords w0 w1 w2 with
    | .ok i => (s, .instr i n)
    | .error _ => (s, .trap 2 n e.sl.pc)
  if n < 2 then done s 0 0 else
  match s.fetchWord e (e.sl.pc + 4) with
  | (s, .fatal c) => (s, .trap c n (e.sl.pc + 4))
  | (s, .page) => (s, .page n (e.sl.pc + 4))
  | (s, .wait) => (s, .wait)
  | (s, .word w1) =>
    if n < 3 then done s w1 0 else
    match s.fetchWord e (e.sl.pc + 8) with
    | (s, .fatal c) => (s, .trap c n (e.sl.pc + 8))
    | (s, .page) => (s, .page n (e.sl.pc + 8))
    | (s, .wait) => (s, .wait)
    | (s, .word w2) => done s w1 w2

/-- The length in words that LEN gives, one where LEN is 0b11: what TRET.SKIP goes past after a trap at decode (DEDUCED, log
27). -/
def lenWords (w0 : Word) : Nat := match bits w0.toNat 0 2 with | 1 => 2 | 2 => 3 | _ => 1

/-- Steps 1 to 6 of R84: word 0, its checks, then the later words and what the words alone decide. -/
def State.fetchInstr (s : State) (e : Env) : State × Fetched :=
  match s.fetchWord e e.sl.pc with
  | (s, .fatal c) => (s, .trap c 1 e.sl.pc)
  | (s, .page) => (s, .page 1 e.sl.pc)
  | (s, .wait) => (s, .wait)
  | (s, .word w0) =>
    match wordsOf w0 with
    | .error .illegalOpcode => (s, .instr (.unassignedOpcode w0) (lenWords w0))
    | .error _ => (s, .trap 2 (lenWords w0) e.sl.pc)
    | .ok n => s.fetchRest e n w0

/-- A slot released at its clause header stands before the clause's first instruction (spec/03 R65, R69). -/
def State.enterClause (s : State) (c ctx n : Nat) : State :=
  s.modSlot c ctx n (fun sl =>
    match sl.phase with
    | .header => { sl with pc := sl.clause + 4, pos := 0 }
    | .released => { sl with pc := sl.clause + 4, pos := 0 }
    | _ => sl)

/-- A stream at its next instruction: the state after the fetch, with State.cur naming the stream, and the instruction to execute, if
the fetch gave one. -/
def State.nextInstr (s : State) (c ctx n : Nat) : State × Option Instr :=
  let s := { s.enterClause c ctx n with cur := ⟨c, ctx, n, 1, []⟩ }
  match s.envAt c ctx n 1 with
  | none => (s, none)
  | some e =>
    match s.fetchInstr e with
    | (s, .instr i len) => ({ s.forget e.g.uid (n + 2) with cur := ⟨c, ctx, n, len, []⟩ }, some i)
    | (s, .trap cause len fa) => ({ s with cur := ⟨c, ctx, n, len, []⟩ }.trapAt e cause e.sl.mask fa, none)
    | (s, .page len fa) =>
      (if e.sl.fatal then { s with cur := ⟨c, ctx, n, len, []⟩ }.trapAt e 7 e.sl.mask fa else s.faultWait e fa .fetch e.sl.pc, none)
    | (s, .wait) => (s.hold e, none)

/-- A slot stands before the steps of R142. -/
def State.mayArrive (s : State) (c ctx n : Nat) : Bool :=
  match s.group? c ctx with
  | none => false
  | some g =>
    let sl := g.slotOf n
    sl.valid && sl.phase == .arrive && sl.wait == .none && !g.heldByTrap n && !sl.atStop && !s.stopped g

/-- An arriving slot takes the steps of R142, or stops for pre-emption; an emptied one pops its entry first. -/
def State.arriveTurn (s : State) (c ctx n : Nat) : State :=
  if !s.mayArrive c ctx n then s else
  match s.envAt c ctx n 1 with
  | none => s
  | some e => if e.sl.mask = 0 then (State.settleSlot 66 s c ctx n).endCheck c ctx else s.stopOrArrive c ctx n

/-- A partition's port is free (spec/07 R183). -/
def State.portFree (s : State) (c part : Nat) : Bool :=
  match (s.core c).ports.look part with
  | none => true
  | some p => decide (p.till ≤ (s.core c).clk)

/-- A write that can go on its way: the oldest write-through of a core, else the oldest entry of one of its store queues. -/
def State.drainTurn (s : State) : Option Turn :=
  s.cores.findSome? (fun k =>
    if k.2.wt != [] then some (.drain k.1 1 0) else
    (k.2.sq.find? (fun q => match k.2.sq.find? (fun r => r.ctx == q.ctx) with
      | some r => !s.leaveBlocked k.1 r
      | none => false)).map (fun q => .drain k.1 0 q.ctx))

/-- The turn taken when the agenda is empty: the first partition with an eligible stream and a free port issues; else the first
arriving slot takes its steps; else a write goes on its way; else a core with a group, the one whose clock is furthest behind, or
core 0, advances its clock (log 2). -/
def State.defaultTurn (s : State) : Turn :=
  let slots := s.groups.flatMap (fun x => [(x.1 / 65, x.1 % 65, 0), (x.1 / 65, x.1 % 65, 1)])
  match slots.find? (fun x => s.eligible x.1 x.2.1 x.2.2 && s.portFree x.1 (partOf x.2.1)) with
  | some x => .issue x.1 (partOf x.2.1)
  | none =>
    match slots.find? (fun x => s.mayArrive x.1 x.2.1 x.2.2) with
    | some x => .arrive x.1 x.2.1 x.2.2
    | none =>
      match s.drainTurn with
      | some t => t
      | none =>
      let c := (slots.foldl (fun (b : Option Nat) x => match b with
        | none => some x.1
        | some y => if (s.core x.1).clk < (s.core y).clk then some x.1 else some y) none).getD 0
      .event (.clkAdvance c)

/-- The instruction is an event of the device: it belongs to no stream. -/
def isEvent (i : Instr) : Bool :=
  match i with
  | .unassignedOpcode _ => false
  | _ => i.toRaw.isNone

/-! Placing one instruction (notes/assumptions 11) -/

/-- The kernel a placed instruction belongs to: width 64, one group, the largest allotments, no handler. -/
def placedHdr : KHdr :=
  { KHdr.zero with wcode := 3, groups := 1, vcnt := 320, scnt := 64, pcnt := 96, tcnt := 16, acnt := 8, scratch := 344064, spgap := 1,
                   dstk := 64 }

/-- The launch it belongs to: ASID 1, kernel at 0x1000. -/
def placedLaunch : Launch :=
  { asid := 1, kernel := 0x1000, hdr := placedHdr, prio := 0, args := [], localA := 0, dstkA := 0x10000, saveA := 0, gx := 1, gy := 1,
    gz := 1, nlaunch := 64, wgs := [(0, ⟨.placed, [], []⟩)], status := none, queue := none, stallchk := false, log := false,
    trace := false, placeable := true, preempting := false, aged := false, accepted := 0, turns := 0, fill := none, cleaned := [0],
    rect := none, waitFrom := 0, fitted := 0 }

/-- The group whose slot 0 stands before the instruction, the one instruction of a clause at 0x1000 that names flags 0 and 1. -/
def placedGroup (l w uid clk : Nat) : Group :=
  let b := Group.fresh uid l w 0 64 64 0 0x1000 0x1000 []
  let sl : Slot := { b.slot0 with clause := 0x1000, pc := 0x1004, pos := 0, hdr := 0xA0100000, phase := .run }
  { b with slot0 := sl, vAlloc := 320, sAlloc := 64, pAlloc := 96, tAlloc := 16, aAlloc := 8, dstkBase := 0x10000, startedAt := clk }

/-- The translation that serves the code page and those after it: 2 MiB at address 0, readable, writable and executable. -/
def placedTlb : Tlb := { asid := 1, page := 0, size := 2097152, pa := 0, leaf := 0x67, blklog := 0 }

/-- A machine whose next step runs the instruction in these bytes: a group of its own on core 0 stands before it. -/
def State.place (s : State) (bytes : List Byte) : State :=
  let l := s.serial
  let w := l + 1
  let r := l + 2
  let wg : Wg := { launch := l, linear := 0, core := 0, base := 0, gran := 28, rope := some r, wgidx := 0, cx := 0, cy := 0,
                   present := 1, rounds := [] }
  let rp : Rope := { launch := l, ropeId := 0xFFFFFFFF, cluster := 0, origin := 0, w := 1, h := 1, k := 1, wgs := [(0, w)],
                     real := false, pcount := [], stop := none, pend := 0 }
  let k := s.core 0
  let others := s.groups.filter (fun x => decide (65 ≤ x.1))
  let g := placedGroup l w (l + 3) k.clk
  let core0 : Core := { k with boundary := 896, ops := [], wt := [], sq := [], ports := [] }
  { s with
    mem := Memory.writes s.mem (cellsFrom 0x1000 (leBytes 4 0xA0100000 ++ bytes)), launches := s.launches.put l placedLaunch,
    wgs := s.wgs.put w wg, ropes := s.ropes.put r rp, groups := (0, g) :: others, cores := s.cores.put 0 core0,
    clusters := s.clusters.put 0 { s.cluster 0 with tlb := placedTlb :: (s.cluster 0).tlb }, serial := l + 4,
    agenda := [.issue 0 0], stuck := none, life := { s.life with frozen := false, stopped := false } }

end Sys2Proof.Machine
end

