-- ==== Sys2Proof/Machine/Elig.lean ====
section
/-! DEFINITION. Which stream a partition chooses: eligibility in full, the port, packing, and what follows an issue
(spec/07 R183, R186-R190; spec/05 R145; spec/14 R343). -/

namespace Sys2Proof.Machine

/-! What the next instruction would wait for (spec/07 R186; log 86) -/

/-- The flag that a slot's instruction keeps raised while it waits is lowered before it is tried again (spec/02 R56). -/
def State.keptOf (s : State) (c ctx n : Nat) : Option Nat := (s.group? c ctx).bind (fun g => (g.slotOf n).kept)

def State.lowerKept (s : State) (c ctx n : Nat) : State :=
  match s.keptOf c ctx n with
  | none => s
  | some f => s.modGroup c ctx (fun g =>
      let sl : Slot := { g.slotOf n with kept := none }
      (g.flagDown (some f)).setSlot n sl)

/-- The state a stream's next instruction would leave. -/
def State.tryRun (s : State) (c ctx n : Nat) : State :=
  match (s.lowerKept c ctx n).nextInstr c ctx n with
  | (t, some i) => outState t (exec i t)
  | (t, none) => t

/-- A slot's instruction waits, unissued, for the next clk. -/
def State.retries (s : State) (c ctx n : Nat) : Bool :=
  match s.group? c ctx with
  | some g => (g.slotOf n).wait == .retry
  | none => false

/-- Its next instruction would only wait. -/
def State.mustWait (s : State) (c ctx n : Nat) : Bool := (s.tryRun c ctx n).retries c ctx n

/-- A stream is eligible (spec/07 R186). -/
def State.fullyEligible (s : State) (c ctx n : Nat) : Bool := s.eligible c ctx n && !s.mustWait c ctx n

/-! The port and packing (spec/07 R183, R189) -/

/-- Classes INT, FP, SFU, CVT, XCHG and PAIR, by opcode (spec/03 R89). -/
def laneOpc (o : Nat) : Bool := decide (o < 0xC9) || decide (0x1F0 ≤ o)

/-- Loads, stores and atomics that may be packed; the atomics when relaxed. -/
def packOpc (o : Nat) (relaxed : Bool) : Bool :=
  [0x100, 0x101, 0x103, 0x104, 0x106, 0x107, 0x108, 0x109, 0x10A, 0x10B].contains o || (decide (0x10C ≤ o) && decide (o < 0x129) && relaxed)

/-- The instruction may be a member of a packed issue. -/
def packs (i : Instr) : Bool :=
  match i.toRaw with
  | some r => laneOpc r.opc.toNat || packOpc r.opc.toNat (bits r.mod8.toNat 6 2 == 0)
  | none => false

/-- For how many clk its issue holds the port of a group of a width. -/
def portClk (i : Instr) (width : Nat) : Nat :=
  match i.toRaw with
  | some r =>
    let o := r.opc.toNat
    if decide (width = 64) && (laneOpc o || (decide (0x100 ≤ o) && decide (o < 0x134) && !(decide (0x129 ≤ o) && decide (o < 0x12D)))) then 2
    else 1
  | none => 1

/-- The quads that hold a lane of a slot's mask. -/
def quadsOf (ctx : Nat) (m : DWord) : List Nat :=
  ((List.range 16).filter (fun q => bits m.toNat (4 * q) 4 != 0)).map (fun q => 16 * ctx + q)

/-- The address of a slot's next instruction. -/
def Slot.nextPc (sl : Slot) : DWord := match sl.phase with | .run => sl.pc | _ => sl.clause + 4

/-- The partition may add a stream to the issue it has made in this clk. -/
def State.mayPack (s : State) (c part ctx n : Nat) : Bool :=
  match (s.core c).ports.look part, s.group? c ctx with
  | some p, some g =>
    let sl := g.slotOf n
    p.packs && p.clk == (s.core c).clk && p.launch == g.launch && p.pc == sl.nextPc && decide (p.mems.length < 4) &&
      decide ((dedup (p.quads ++ quadsOf ctx sl.mask)).length ≤ 16)
  | _, _ => false

/-! The choice (spec/07 R187) -/

/-- The stream with the smallest key. -/
def State.firstOf (s : State) (c : Nat) (xs : List (Nat × Nat)) : Option (Nat × Nat) :=
  xs.foldl (fun b x => match b with
    | none => some x
    | some y => if lexLt (s.choiceKey c x.1 x.2) (s.choiceKey c y.1 y.2) then some x else some y) none

/-- The stream from which a partition issues; while its port is held, one to be packed. One that would only wait is chosen when there
is no other, and waits. -/
def State.choose (s : State) (c part : Nat) : Option (Nat × Nat) :=
  let able := (s.streams c part).filter (fun x => s.eligible c x.1 x.2)
  match (if s.portFree c part then able else able.filter (fun x => s.mayPack c part x.1 x.2)) with
  | [] => none
  | [x] => some x
  | x :: xs =>
    match s.firstOf c ((x :: xs).filter (fun y => !s.mustWait c y.1 y.2)) with
    | some y => some y
    | none => some x

/-- The other streams of a partition that are eligible, as a YIELD finds them (spec/05 R145). -/
def State.others (s : State) (c part ctx n : Nat) (i : Instr) : List Nat :=
  match i with
  | .yield _ => ((s.streams c part).filter (fun x => x != (ctx, n) && s.fullyEligible c x.1 x.2)).map (fun x => 2 * x.1 + x.2)
  | _ => []

/-! An issue -/

/-- Raise the flag again if it waits on. -/
def State.raiseKept (s : State) (c ctx n : Nat) (f : Option Nat) : State :=
  match f with
  | none => s
  | some f =>
    if s.retries c ctx n && (s.keptOf c ctx n).isNone then
      s.modGroup c ctx (fun g =>
        let sl : Slot := { g.slotOf n with kept := some f }
        (g.flagUp (some f)).setSlot n sl)
    else s

/-- An issue holds its partition's port; one to which a second stream is added is a packed one, and is counted (spec/14 R347). -/
def State.usePort (t s : State) (c part ctx n : Nat) (i : Instr) : State :=
  match s.group? c ctx with
  | none => t
  | some g =>
    let sl := g.slotOf n
    let clk := (s.core c).clk
    let check := match s.launches.look g.launch with | some x => x.stallchk | none => false
    let first : PortUse := ⟨clk, clk + portClk i g.width, g.launch, sl.nextPc, packs i && !check, [(ctx, n)], quadsOf ctx sl.mask⟩
    match (s.core c).ports.look part, s.portFree c part with
    | some p, false =>
      let t := if p.mems.length = 1 then t.count c 1 1 else t
      let p' : PortUse := { p with till := clk + 2, mems := p.mems ++ [(ctx, n)], quads := dedup (p.quads ++ quadsOf ctx sl.mask) }
      t.modCore c (fun k => { k with ports := k.ports.put part p' })
    | _, _ => t.modCore c (fun k => { k with ports := k.ports.put part first })

/-- A slot of a workgroup that is to be saved has reached a stop: the workgroup is discarded if all of it qualifies
(spec/14 R343). -/
def State.stopDiscard (s : State) (c ctx n : Nat) : State :=
  match s.group? c ctx with
  | none => s
  | some g =>
    let sl := g.slotOf n
    let asked := match s.launches.look g.launch with | some x => x.preempting | none => false
    if asked && sl.valid && sl.atStopPoint then (s.tryDiscard g.wg).1.settlePreempt else s

/-- What follows the execution of an instruction: t is the state it leaves, s that in which its stream was chosen. -/
def State.afterIssue (s : State) (c part ctx n : Nat) (i : Instr) (t : State) : State :=
  let t := t.raiseKept c ctx n (s.keptOf c ctx n)
  (if t.retries c ctx n then t else t.usePort s c part ctx n i).stopDiscard c ctx n

/-- Go on with a next state. -/
def nextWith (o : Out) (f : State → State) : Out := match o with | .next t => .next (f t) | o => o

/-- A partition issues. -/
def State.issueTurn (s : State) (c part : Nat) : Out :=
  match s.choose c part with
  | none => .next s
  | some (ctx, n) =>
    match (s.lowerKept c ctx n).nextInstr c ctx n with
    | (t, some i) =>
      nextWith (exec i { t with cur := { t.cur with others := s.others c part ctx n i } }) (s.afterIssue c part ctx n i)
    | (t, none) => finish (t.raiseKept c ctx n (s.keptOf c ctx n))

/-! The clock (spec/07 R187, R192) -/

/-- Since when a slot has been eligible. -/
def Slot.tick (sl : Slot) (able : Bool) (clk : Nat) : Slot :=
  if able then (if sl.eligSince.isSome then sl else { sl with eligSince := some clk })
  else { sl with eligSince := none, promoted := false }

/-- A core's streams after its clock has advanced: which are eligible, and which held-back groups are so for a load. -/
def State.tickCore (s : State) (c : Nat) : State :=
  let clk := (s.core c).clk
  let streams := ([0, 1, 2, 3] : List Nat).flatMap (fun p => (s.streams c p).filter (fun x => s.eligible c x.1 x.2))
  let loads := (streams.filter (fun x => s.mustWait c x.1 x.2 && ((s.tryRun c x.1 x.2).core c).throttle.wanted.contains x.1)).map (fun x => x.1)
  let s' := { s with groups := s.groups.mapAll (fun i g => if i / 65 = c then
    { g with slot0 := g.slot0.tick (s.fullyEligible c (i % 65) 0) clk, slot1 := g.slot1.tick (s.fullyEligible c (i % 65) 1) clk } else g) }
  if loads = [] then s' else
  s'.modCore c (fun k => { k with throttle := { k.throttle with wanted := dedup (k.throttle.wanted ++ loads), waited := true } })

/-- What follows an event: of CLK_ADVANCE, the look at the core's streams; of BELAY_ANSWER, the end of a write of FABCFG that waited
(spec/19 R425). -/
def State.afterEvent (i : Instr) (t : State) : State :=
  match i with
  | .clkAdvance c => t.tickCore c
  | .belayAnswer _ _ => t.settleFabric
  | _ => t

end Sys2Proof.Machine
end

