-- ==== Sys2Proof/Machine/Step.lean ====
section
/-! DEFINITION. One step of the device: the turn the agenda names, or the default one, is taken (notes/assumptions 2). -/

namespace Sys2Proof.Machine

/-- Take a turn. Turns of streams and caches need running clocks; an event has its own effect where the device's state admits it;
a program instruction is no event, and is not executed as one. -/
def State.take (s : State) (t : Turn) : Out :=
  let still := s.life.frozen || s.life.stopped
  match t with
  | .event i => if isEvent i && s.admits i then nextWith (exec i s) (State.afterEvent i) else .next s
  | .issue c p => if still then .next s else s.issueTurn c p
  | .arrive c ctx n => if still then .next s else finish ((s.arriveTurn c ctx n).stopDiscard c ctx n)
  | .evictL1 c asid line => if still then .next s else finish (s.evictL1 c asid line)
  | .evictL2 k asid line => if still then .next s else finish (s.evictL2 k asid line)
  | .evictTlb k asid page => if still then .next s else finish (s.evictTlb k asid page)
  | .evictLlc key => if still then .next s else finish (s.evictLlc key)
  | .passPrio k => if still then .next s else finish (s.passPrio k)
  | .peerAck id => if still then .next s else finish (s.peerAck id)
  | .vsError ins asid vline => if still then .next s else finish (s.vsError ins asid vline)
  | .eccError key on => if still then .next s else finish (s.eccError key on)
  | .hostError line on => if still then .next s else finish (s.hostError line on)
  | .peerPerform line => if still then .next s else finish (s.land line)
  | .peerError id => if still then .next s else finish (s.peerFails id)
  | .peerWrite addr bytes => if still then .next s else finish (s.peerWrites addr bytes)
  | .flitSend p n => if s.life.frozen then .next s else .next (s.flitSend p n)
  | .forward p n => if s.life.frozen then .next s else .next (s.forwardOn p n)
  | .peersRound => if still then .next s else finish s.peersRound
  | .splitSq c id k => if still then .next s else finish (s.splitSq c id k)
  | .movePart c id k => if still then .next s else finish (s.movePart c id k)
  | .readFirst c ctx n u => if still then .next s else .next (s.modSlot c ctx n (fun sl => { sl with readNext := some u }))
  | .chanPart ch k => if still then .next s else finish (s.chanPart ch k)
  | .drain c which arg => if still then .next s else execStoreQueueLeave c which arg s
  | .l1Next c places => if still then .next s else .next (s.modCore c (fun k => { k with l1Next := places }))

/-- One step: a machine that an access to absent memory has stopped stays stopped. -/
def step (s : State) : Out :=
  match s.stuck with
  | some f => .fault f
  | none =>
    match s.agenda with
    | t :: rest => { s with agenda := rest }.take t
    | [] => s.take s.defaultTurn

/-- The instruction of nbits bits w, its later words zero, stored where the very next step fetches (notes/assumptions 11). -/
def State.withFetchWord (s : State) (nbits w : Nat) : State := s.place (bytesLE 12 (w % 2 ^ nbits))

end Sys2Proof.Machine
end

