-- ==== Sys2Proof/Safety.lean ====
section
/-! DEFINITION. What a claim about the machine may mean: that an instruction may issue and what its issue leaves, that a state is in
order, that a step goes on. -/

namespace Sys2Proof.Machine

/-- Both memories have their canonical form. -/
def State.memOk (s : State) : Prop := Memory.wf s.mem = true ∧ Memory.wf s.peerMem = true

/-- The registers of the device that only its own steps write. -/
def State.devRegs (s : State) : DWord × DWord × DWord × DWord × DWord × DWord × DWord × DWord × Tbl (DWord × DWord) × Life :=
  (s.devstate, s.plim, s.qtabbase, s.ctxbase, s.cntbase, s.sampper, s.vsbase, s.vssize, s.wps, s.life)

/-- What every step keeps: the memories have their canonical form, PLIM holds 150 to 600 W (spec/17 R414), VSSIZE at most 384 (spec/16
R382), the reserved half of SAMPPER reads as zero and DEVSTATE names one of its five states (spec/17 R409, R410). -/
def State.sound (s : State) : Prop :=
  s.memOk ∧ 150 ≤ s.plim.toNat ∧ s.plim.toNat ≤ 600 ∧ s.vssize.toNat ≤ 384 ∧ s.sampper.toNat < 2 ^ 32 ∧
  1 ≤ s.devstate.toNat % 16 ∧ s.devstate.toNat % 16 ≤ 5

/-- The step ends in a next state with this property. -/
def Completes (o : Out) (p : State → Prop) : Prop := ∃ t, o = .next t ∧ p t

/-- The instruction of the stream that State.cur names may issue: the machine runs, the stream exists, every check of R84 passes,
no completion flag it raises is at 63, nothing holds it, and where stall-check mode is on nothing it reads or writes is left open. -/
def Ready (s : State) (e : Env) (h : Hdr) (c : Chk) : Prop :=
  s.stuck = none ∧ s.env? = some e ∧ e.failed h c = none ∧ e.flagFull h c.tok = false ∧ c.hold = false ∧ e.stallBad h c = false

/-- The state in which an instruction has issued: its group is g with its slot past the instruction, these operations are in
flight on its core, the issue is counted, and what peers answered the slot is used; everything else is as it was (spec/03 R72,
spec/02 R56, spec/14 R347). -/
def State.issued (s : State) (e : Env) (h : Hdr) (g : Group) (ops : List Op) : State :=
  { s with
    serial := s.serial + 1,
    peerReqs := s.reqsAfter e.g.uid e.n,
    counters := s.counters.putD 0 (e.core * 256) (s.counters.lookD 0 (e.core * 256) + 1),
    cores := if ops = [] then s.cores else s.cores.put e.core { s.core e.core with ops := (s.core e.core).ops ++ ops },
    groups := s.groups.put (gkey e.core e.ctx)
      (g.setSlot e.n (e.sl.past e.len e.clk h.stall.toNat (e.serial + 1))) }

/-- The operation a lane instruction starts: these results, lane by lane, written at a fixed clk or at a completion. -/
def Env.laneOp (e : Env) (s : State) (h : Hdr) (f : AluForm) (due : Option Nat) (what : What) (rs : List (Nat × LaneOut)) : Op :=
  { e.op s (e.flag h) what with
    due := due, writes := rs.flatMap (fun r => f.writesOf r.1 r.2), fl := flagsOf e rs, fpsr := f.fp }

/-- PRNG after the lanes that rounded stochastically (spec/01 R26). -/
def drawn (t : Tbl Word) (rs : List (Nat × LaneOut)) : Tbl Word :=
  rs.foldl (fun t r => match r.2.prng with | some w => t.putD 0 r.1 w | none => t) t

/-- The state in which a lane instruction with these results has issued. -/
def State.lanesIssued (s : State) (e : Env) (h : Hdr) (f : AluForm) (due : Option Nat) (what : What) (rs : List (Nat × LaneOut)) :
    State :=
  s.issued e h { e.g.flagUp (e.flag h) with prng := drawn e.g.prng rs } [e.laneOp s h f due what rs]

/-- The lanes whose reserved T5 bytes make the instruction trap, where FPCR.FMTTRAP is set (spec/01 R15). -/
def Env.fmtTraps (e : Env) (rs : List (Nat × LaneOut)) : Bool := e.g.fpcr.getLsbD 4 && t5Lanes e rs != 0

end Sys2Proof.Machine

namespace Sys2Proof

/-- The events that set the device's own registers: its life, its identity, its limits and the value store's place. -/
def Instr.setsDevice : Instr → Bool
  | .vsbaseWrite _ => true
  | .vssizeWrite _ => true
  | .registerPacket _ _ _ _ _ => true
  | .coldReset _ _ _ _ => true
  | .basecampTestResult _ => true
  | .enterRun => true
  | .freezeAssert => true
  | .securityAlarm _ => true
  | .thermalTrip => true
  | .registerWrite _ _ _ => true
  | .ucieLinkTraining _ _ => true
  | .debugUnlock _ => true
  | _ => false

end Sys2Proof

/-! Lane instructions -/

namespace Sys2Proof.Machine

/-- The operands of a conversion with a second operand: A and C as bits. -/
def convForm (d a c : Opd) : AluForm :=
  { dst := d, dk := .w32, srcs := [(.opd a, .raw), (.opd (.k 0), .raw), (.opd c, .raw)] }

/-- The operands of a PAIR word: A, B and D of both rows, of which each row reads what it names (spec/03 R86). -/
def pairForm (f1 f2 : Bool) (p q : PairOp) : AluForm :=
  { dst := vOpd p.d, dst2 := some (vOpd q.d), dk := .w32,
    srcs := [(.opd (vOpd p.a), .raw), (pairB p f1, .raw), (.opd (vOpd p.d), .raw),
             (.opd (vOpd q.a), .raw), (pairB q f2, .raw), (.opd (vOpd q.d), .raw)],
    pairReads := some (pairReadMask f1 p ++ pairReadMask f2 q) }

/-- The shape of a lane instruction: its header fields, operand form, latency (none: the special-function unit completes it) and
whether a bobbin program may issue it. -/
structure Shape where
  h   : Hdr
  f   : AluForm
  lat : Option Nat
  bob : Bool

def Shape.chk (x : Shape) (e : Env) : Chk := if x.lat.isSome then x.f.chk x.bob e else x.f.slowChk e
def Shape.due (x : Shape) (e : Env) : Option Nat := x.lat.map (fun n => e.clk + n)
def Shape.what (x : Shape) (e : Env) : What := if x.lat.isSome then .fixed else .sfu (e.ctx / 16)

end Sys2Proof.Machine

namespace Sys2Proof
open Machine

/-- The lane instructions (spec/03 R85, spec/04, spec/05 R129) and their operands as spec/03 R73, R78, R89 and spec/04 R99 give them. -/
def Instr.shape? : Instr → Option Shape
  | .iadd h _ o => some ⟨h, o.form .i32, some 4, true⟩
  | .isub h _ o => some ⟨h, o.form .i32, some 4, true⟩
  | .iadd3 h _ o => some ⟨h, o.form .i32, some 4, true⟩
  | .iaddc h o pco => some ⟨h, { o.form .i32 with pco := some pco }, some 4, true⟩
  | .isubb h o pco => some ⟨h, { o.form .i32 with pco := some pco }, some 4, true⟩
  | .iadd64 h o => some ⟨h, o.form64 .i64, some 4, true⟩
  | .isub64 h o => some ⟨h, o.form64 .i64, some 4, true⟩
  | .imul h o => some ⟨h, o.form .i32, some 4, true⟩
  | .imulhiS h o => some ⟨h, o.form .i32, some 4, true⟩
  | .imulhiU h o => some ⟨h, o.form .i32, some 4, true⟩
  | .imad h o => some ⟨h, o.form .i32, some 4, true⟩
  | .imadwS h o => some ⟨h, o.formMix .w64 .i32 .i32 .i64, some 4, true⟩
  | .imadwU h o => some ⟨h, o.formMix .w64 .i32 .i32 .i64, some 4, true⟩
  | .iabs h _ o => some ⟨h, o.form .i32, some 4, true⟩
  | .iminS h o => some ⟨h, o.form .i32, some 4, true⟩
  | .iminU h o => some ⟨h, o.form .i32, some 4, true⟩
  | .imaxS h o => some ⟨h, o.form .i32, some 4, true⟩
  | .imaxU h o => some ⟨h, o.form .i32, some 4, true⟩
  | .iclampS h o => some ⟨h, o.form .i32, some 4, true⟩
  | .iclampU h o => some ⟨h, o.form .i32, some 4, true⟩
  | .ishl h o => some ⟨h, o.form .i32, some 4, true⟩
  | .ishr h o => some ⟨h, o.form .i32, some 4, true⟩
  | .ishra h o => some ⟨h, o.form .i32, some 4, true⟩
  | .shfL h o => some ⟨h, o.form .i32, some 4, true⟩
  | .shfR h o => some ⟨h, o.form .i32, some 4, true⟩
  | .irot h o => some ⟨h, o.form .i32, some 4, true⟩
  | .isad h _ o => some ⟨h, o.form .i32, some 4, true⟩
  | .idp4S h o => some ⟨h, o.form .i32, some 4, true⟩
  | .idp4U h o => some ⟨h, o.form .i32, some 4, true⟩
  | .idp2 h _ o => some ⟨h, o.formMix .w32 .i32 .ih2 .i32, some 4, true⟩
  | .popc h o => some ⟨h, o.form .i32, some 4, true⟩
  | .clz h o => some ⟨h, o.form .i32, some 4, true⟩
  | .ctz h o => some ⟨h, o.form .i32, some 4, true⟩
  | .brev h o => some ⟨h, o.form .i32, some 4, true⟩
  | .bfeS h o => some ⟨h, o.form .i32, some 4, true⟩
  | .bfeU h o => some ⟨h, o.form .i32, some 4, true⟩
  | .bfi h o => some ⟨h, o.form .i32, some 4, true⟩
  | .logt h o _ => some ⟨h, { o.form .i32 with pOk := true }, some 4, true⟩
  | .prmt h o => some ⟨h, o.form .i32, some 4, true⟩
  | .sel h o => some ⟨h, { o.form .i32 with pOk := true }, some 4, true⟩
  | .isetS h _ o => some ⟨h, { o.form .i32 with pOk := true }, some 4, true⟩
  | .isetU h _ o => some ⟨h, { o.form .i32 with pOk := true }, some 4, true⟩
  | .iset64 h _ _ o => some ⟨h, { o.form .i64 with pOk := true }, some 4, true⟩
  | .imov h o => some ⟨h, { o.form .i32 with pOk := true }, some 4, true⟩
  | .movi h d imm => some ⟨h, { dst := d, dk := .w32, srcs := [(.imm32 imm, .i32)] }, some 4, true⟩
  | .lea h _ o => some ⟨h, o.form .i32, some 4, true⟩
  | .lea64 h _ _ o => some ⟨h, { o.form64 .i64 with srcs := [(.opd o.a, .i64), (o.b, .i32)] }, some 4, true⟩
  | .pset h o _ => some ⟨h, { o.form .i32 with pOk := true, pOnly := true }, some 4, true⟩
  | .iaddH2 h _ o => some ⟨h, o.form .ih2, some 4, true⟩
  | .isubH2 h _ o => some ⟨h, o.form .ih2, some 4, true⟩
  | .imulH2 h o => some ⟨h, o.form .ih2, some 4, true⟩
  | .imadH2 h o => some ⟨h, o.form .ih2, some 4, true⟩
  | .iminH2 h _ o => some ⟨h, o.form .ih2, some 4, true⟩
  | .imaxH2 h _ o => some ⟨h, o.form .ih2, some 4, true⟩
  | .ishlH2 h o => some ⟨h, o.form .ih2, some 4, true⟩
  | .isetH2 h _ _ o => some ⟨h, o.form .ih2, some 4, true⟩
  | .fadd h t _ o => some ⟨h, o.form t.kind, some 4, false⟩
  | .fmul h t _ o => some ⟨h, o.form t.kind, some 4, false⟩
  | .ffma h t _ o => some ⟨h, o.form t.kind, some 4, false⟩
  | .fmin h t _ o => some ⟨h, o.form t.kind, some 4, false⟩
  | .fmax h t _ o => some ⟨h, o.form t.kind, some 4, false⟩
  | .fset h t _ _ o => some ⟨h, { o.form t.kind with pOk := t == .f32 }, some 4, false⟩
  | .fclamp h t _ o => some ⟨h, o.form t.kind, some 4, false⟩
  | .fadd3 h _ o => some ⟨h, o.form .f32, some 4, false⟩
  | .fmed3 h t _ o => some ⟨h, o.form t.kind, some 4, false⟩
  | .fdp2 h t _ o => some ⟨h, o.formMix .w32 t.kind t.kind .f32, some 4, false⟩
  | .fdp4 h e5 _ o => some ⟨h, o.formMix .w32 (if e5 then .fe5 else .fe4) (if e5 then .fe5 else .fe4) .f32, some 4, false⟩
  | .frnd h t _ o => some ⟨h, o.form t.kind, some 4, false⟩
  | .fscale h t _ o => some ⟨h, o.formMix .w32 t.kind (if t == .f32 then .i32 else .ih2), some 4, false⟩
  | .fclass h t o => some ⟨h, o.form t.kind, some 4, false⟩
  | .cadd h t _ o => some ⟨h, o.formC t, some 4, false⟩
  | .cmul h t _ o => some ⟨h, o.formC t, some 4, false⟩
  | .cfma h t _ o => some ⟨h, o.formC t, some 4, false⟩
  | .cabs2 h t _ o => some ⟨h, { o.form t.kind with dk := .w32 }, some 4, false⟩
  | .frcp h t _ _ o => some ⟨h, o.form t.kind, none, false⟩
  | .frsq h t _ _ o => some ⟨h, o.form t.kind, none, false⟩
  | .fsqrt h t _ _ o => some ⟨h, o.form t.kind, none, false⟩
  | .fexp2 h t _ _ o => some ⟨h, o.form t.kind, none, false⟩
  | .flog2 h t _ _ o => some ⟨h, o.form t.kind, none, false⟩
  | .fsin h t _ _ o => some ⟨h, o.form t.kind, none, false⟩
  | .fcos h t _ _ o => some ⟨h, o.form t.kind, none, false⟩
  | .ftanh h t _ _ o => some ⟨h, o.form t.kind, none, false⟩
  | .fsigm h t _ _ o => some ⟨h, o.form t.kind, none, false⟩
  | .fgelu h t _ _ o => some ⟨h, o.form t.kind, none, false⟩
  | .cvtf h _ d a c x => some ⟨h, { convForm d a c with fmts := [x.sfmt, x.dfmt] }, some 4, true⟩
  | .cvtfSr h _ d a c x => some ⟨h, { convForm d a c with fmts := [x.sfmt, x.dfmt] }, some 4, true⟩
  | .cvtfi h _ _ _ o => some ⟨h, o.form .raw, some 4, true⟩
  | .cvtif h _ _ _ o => some ⟨h, { o.form .i32 with fp := true }, some 4, true⟩
  | .cvtii h _ _ _ o => some ⟨h, { o.form .i32 with fp := true }, some 4, true⟩
  | .packh h _ o => some ⟨h, o.form .f32, some 4, true⟩
  | .packb h _ o => some ⟨h, o.form .f32, some 4, true⟩
  | .packf8 h _ _ _ o => some ⟨h, { dst := o.d, dk := .w32, srcs := [(.opd o.a, .f32), (o.b, .f32), (.opd o.d, .raw)] }, some 4, true⟩
  | .packmx h blk dfmt _ d a c => some ⟨h, { dst := d, dk := .w32, srcs := [(.opd a, .f32), (.opd (.k 0), .raw), (.opd c, .i32)], fmts := [dfmt], minWidth := 8 * 2 ^ blk.toNat }, some 4, true⟩
  | .unpkmx h _ _ d a c x => some ⟨h, { convForm d a c with fmts := [x.sfmt, x.dfmt] }, some 4, true⟩
  | .packt5 h o => some ⟨h, { o.form .i32 with fp := true }, some 4, true⟩
  | .unpkt5 h _ o => some ⟨h, o.form .raw, some 4, true⟩
  | .cbdec h _ _ _ _ _ d a c => some ⟨h, convForm d a c, some 4, true⟩
  | .cpack h o => some ⟨h, o.form .cpackB, some 4, true⟩
  | .cpackU h _ o => some ⟨h, o.form .raw, some 4, true⟩
  | .pairFF h p q => some ⟨h, pairForm true true p q, some 4, false⟩
  | .pairFI h p q => some ⟨h, pairForm true false p q, some 4, false⟩
  | .pairII h p q => some ⟨h, pairForm false false p q, some 4, false⟩
  | .pairFX h p q => some ⟨h, pairForm true false p q, some 4, false⟩
  | .qswpH h o => some ⟨h, { o.form .raw with fp := false, every := true }, some 4, false⟩
  | .qswpV h o => some ⟨h, { o.form .raw with fp := false, every := true }, some 4, false⟩
  | .qswpD h o => some ⟨h, { o.form .raw with fp := false, every := true }, some 4, false⟩
  | .qbcst h _ o => some ⟨h, { o.form .raw with fp := false, every := true }, some 4, false⟩
  | .qred h _ _ f32 o => some ⟨h, { o.form .raw with fp := f32 }, some 4, false⟩
  | .shfl h _ seg o => some ⟨h, { o.form .raw with fp := false, srcs := [(.opd o.a, .raw), (o.b, .i32)], segment := some seg, every := true }, some 6, false⟩
  | .voteAny h o => some ⟨h, { o.form .raw with fp := false, pOk := true, pOnly := true }, some 6, false⟩
  | .voteAll h o => some ⟨h, { o.form .raw with fp := false, pOk := true, pOnly := true }, some 6, false⟩
  | .voteBal h o => some ⟨h, { o.form .raw with fp := false, dk := .w64 }, some 6, false⟩
  | .matchLanes h o => some ⟨h, { o.form .raw with fp := false, dk := .w64 }, some 6, false⟩
  | .lred h _ _ f32 o => some ⟨h, { o.form .raw with fp := f32 }, some 6, false⟩
  | .lscan h _ _ _ o => some ⟨h, { o.form .raw with fp := false }, some 6, false⟩
  | _ => none

end Sys2Proof

namespace Sys2Proof.Machine

/-- Each active lane with what a function gives from its inputs. -/
def Env.lanes (e : Env) (x : Shape) (g : LaneIn → LaneOut) : List (Nat × LaneOut) :=
  (e.active x.h).map (fun l => (l, g (x.f.laneIn e true l)))

/-- The inputs of every lane of the slot's mask, which an exchange reads (spec/05 R129). -/
def Env.maskLanes (e : Env) (x : Shape) : List LaneIn :=
  (lanesOf e.sl.mask).map (fun l => x.f.laneIn e ((e.active x.h).contains l) l)

/-- The instruction completes in the state in which its operation with these results has issued, whenever it may issue, a lane
is active and no reserved T5 byte traps. -/
def Gives (i : Instr) (rs : Shape → State → Env → List (Nat × LaneOut)) : Prop :=
  ∃ x, i.shape? = some x ∧ ∀ s e, Ready s e x.h (x.chk e) → e.active x.h ≠ [] → e.fmtTraps (rs x s e) = false →
    exec i s = .next (s.lanesIssued e x.h x.f (x.due e) (x.what e) (rs x s e))

/-- Each active lane gets g of its own inputs; nothing it can read makes it trap. -/
def LaneRule (i : Instr) (g : LaneIn → LaneOut) : Prop :=
  ∃ x, i.shape? = some x ∧ ∀ s e, Ready s e x.h (x.chk e) → e.active x.h ≠ [] →
    exec i s = .next (s.lanesIssued e x.h x.f (x.due e) (x.what e) (e.lanes x g))

/-- The active lanes get what g gives of all lanes of the slot's mask and of FPCR and the issue's serial number; nothing they
can read makes it trap. -/
def MaskRule (i : Instr) (g : Word → Nat → List LaneIn → List (Nat × LaneOut)) : Prop :=
  ∃ x, i.shape? = some x ∧ ∀ s e, Ready s e x.h (x.chk e) → e.active x.h ≠ [] →
    exec i s = .next (s.lanesIssued e x.h x.f (x.due e) (x.what e) (g e.g.fpcr e.serial (e.maskLanes x)))

end Sys2Proof.Machine

/-! Words for results -/

namespace Sys2Proof.Machine

/-- An exact integer clamped to INT32, and to UINT32 (spec/04 R108). -/
def clampS (x : Int) : Word := BitVec.ofInt 32 (max (-2147483648) (min 2147483647 x))
def clampU (x : Int) : Word := BitVec.ofInt 32 (max 0 (min 4294967295 x))

/-- The sum of the products of n fields of w bits, sign-extended and zero-extended (spec/04 R104). -/
def dotS (w n : Nat) (a b : Word) : Word :=
  (List.range n).foldl (fun r k => r + (a.extractLsb' (w * k) w).signExtend 32 * (b.extractLsb' (w * k) w).signExtend 32) 0
def dotU (w n : Nat) (a b : Word) : Word :=
  (List.range n).foldl (fun r k => r + (a.extractLsb' (w * k) w).setWidth 32 * (b.extractLsb' (w * k) w).setWidth 32) 0

/-- The comparison codes on bit vectors (spec/04 R102). -/
def cmpS {w : Nat} (cc : BitVec 4) (x y : BitVec w) : Bool :=
  match cc.toNat with
  | 0 => x == y
  | 1 => x != y
  | 2 => x.slt y
  | 3 => x.sle y
  | 4 => y.slt x
  | _ => y.sle x
def cmpU {w : Nat} (cc : BitVec 4) (x y : BitVec w) : Bool :=
  match cc.toNat with
  | 0 => x == y
  | 1 => x != y
  | 2 => x.ult y
  | 3 => x.ule y
  | 4 => y.ult x
  | _ => y.ule x

/-- A function of a lane's halves of A, B and C, on the low and the high halves (spec/04 R104). -/
def halves (f : BitVec 16 → BitVec 16 → BitVec 16 → BitVec 16) (i : LaneIn) : Word :=
  f (i.a.extractLsb' 16 16) (i.b.extractLsb' 16 16) (i.c.extractLsb' 16 16) ++
  f (i.a.extractLsb' 0 16) (i.b.extractLsb' 0 16) (i.c.extractLsb' 0 16)

/-- A word with the flags of the operation that gave it. -/
def fpWord (r : Nat × Flg) : LaneOut := { LaneOut.w32 (BitVec.ofNat 32 r.1) with flags := r.2 }

/-- The lanes that contribute to a vote, match, reduction or scan: launched and active (spec/05 R129). -/
def contributing (ls : List LaneIn) : List LaneIn := ls.filter (fun i => i.active && i.launched)

/-! Correct rounding (spec/01 R12, R21-R24, R29, R37), told without the model's own rounding. A format's values are whole numbers of
units of 2^-(bias + mantissa bits), half the smallest subnormal. -/

/-- The units of a magnitude code, as its fields read (spec/01 R12). The code after the largest finite one, read so, is the power of
two at which a rounded magnitude exceeds the format's maximum. -/
def FFmt.units (f : FFmt) (c : Nat) : Nat :=
  if c / 2 ^ f.mbits = 0 then 2 * c else (2 ^ f.mbits + c % 2 ^ f.mbits) * 2 ^ (c / 2 ^ f.mbits)

/-- How many units make one. -/
def FFmt.perOne (f : FFmt) : Nat := 2 ^ (f.bias + f.mbits)

/-- The magnitude code c is what an exact magnitude rounds to, its multiples of half a unit compared by cmp (spec/01 R21, R22): the
nearest, the even one of two that are equally near; or the one below; or the one above. -/
def FFmt.Near (f : FFmt) (rm : Rm) (neg : Bool) (cmp : Nat → Ordering) (c : Nat) : Prop :=
  let up : Bool := rm == .ru && !neg || rm == .rd && neg
  c ≤ f.infCode ∧
  if rm = .rne then
    (c = 0 ∨ cmp (f.units (c - 1) + f.units c) = .lt ∨ (cmp (f.units (c - 1) + f.units c) = .eq ∧ c % 2 = 0)) ∧
    (c = f.infCode ∨ cmp (f.units c + f.units (c + 1)) = .gt ∨ (cmp (f.units c + f.units (c + 1)) = .eq ∧ c % 2 = 0))
  else if up then (c = 0 ∨ cmp (2 * f.units (c - 1)) = .lt) ∧ (c = f.infCode ∨ cmp (2 * f.units c) ≠ .lt)
  else cmp (2 * f.units c) ≠ .gt ∧ (c = f.infCode ∨ cmp (2 * f.units (c + 1)) = .gt)

/-- The exact magnitude is tiny: rounded with unbounded exponents it stays below the smallest normal one (spec/01 R37). -/
def FFmt.Tiny (f : FFmt) (rm : Rm) (neg : Bool) (cmp : Nat → Ordering) : Prop :=
  if rm = .rne then cmp (4 * 2 ^ f.mbits - 1) = .gt
  else if (rm == .ru && !neg || rm == .rd && neg) = true then cmp (4 * 2 ^ f.mbits - 2) ≠ .lt
  else cmp (4 * 2 ^ f.mbits) = .gt

/-- A code and its flags are what an exact value of this sign and magnitude becomes in an IEEE format: rounded once, with overflow,
.SAT, flushing and the flags IXC, UFC and OFC as spec/01 R21-R24, R29 and R37 give them. -/
def FFmt.Rounds (f : FFmt) (v : FEnv) (neg : Bool) (cmp : Nat → Ordering) (r : Nat × Flg) : Prop :=
  let sign := if neg then 2 ^ f.signPos else 0
  ∃ c, f.Near v.rm neg cmp c ∧
    (c = f.infCode → r = (sign + (if (v.rm = .rne ∨ (v.rm = .ru ∧ neg = false) ∨ (v.rm = .rd ∧ neg = true)) ∧ v.sat = false then f.infCode
      else f.infCode - 1), Flg.ofc ||| Flg.ixc)) ∧
    (c ≠ f.infCode → v.fz f = true → 0 < c → c < 2 ^ f.mbits → r = (sign, Flg.ufc ||| Flg.ixc)) ∧
    (c ≠ f.infCode → v.fz f = false ∨ c = 0 ∨ 2 ^ f.mbits ≤ c → r.1 = sign + c ∧
      (cmp (2 * f.units c) = .eq → r.2 = 0) ∧
      (cmp (2 * f.units c) ≠ .eq → (f.Tiny v.rm neg cmp → r.2 = Flg.ixc ||| Flg.ufc) ∧ (¬f.Tiny v.rm neg cmp → r.2 = Flg.ixc)))

/-- Halves of a unit compared with n / d units, with the root of n / d units squared. -/
def halvesOf (n d k : Nat) : Ordering := compare (k * d) (2 * n)
def halvesOfRoot (n d k : Nat) : Ordering := compare (k * k * d) (4 * n)

/-- What an operand of an IEEE format is: its sign, whether it is a NaN, signalling, an infinity or a number, and the units of a number,
read as zero where it is a subnormal that FPCR flushes (spec/01 R12, R29, R32). -/
def FFmt.mag (f : FFmt) (x : Nat) : Nat := x % 2 ^ f.signPos
def FFmt.neg (f : FFmt) (x : Nat) : Bool := x.testBit f.signPos
def FFmt.isNan (f : FFmt) (x : Nat) : Bool := decide (f.infCode < f.mag x)
def FFmt.isSnan (f : FFmt) (x : Nat) : Bool := f.isNan x && !x.testBit (f.mbits - 1)
def FFmt.isInf (f : FFmt) (x : Nat) : Bool := f.mag x == f.infCode
def FFmt.isNum (f : FFmt) (x : Nat) : Bool := decide (f.mag x < f.infCode)
def FFmt.num (f : FFmt) (fz : Bool) (x : Nat) : Nat := if fz && decide (f.mag x < 2 ^ f.mbits) then 0 else f.units (f.mag x)
def FFmt.signedNum (f : FFmt) (fz : Bool) (x : Nat) : Int := if f.neg x then -(f.num fz x : Int) else f.num fz x

end Sys2Proof.Machine

/-! Transfers of control -/

namespace Sys2Proof.Machine

/-- The operation that writes registers of any class four clks after the issue (spec/03 R73, spec/05 R135). -/
def Env.uniOp (e : Env) (s : State) (h : Hdr) (ws : List RegWrite) : Op :=
  { e.op s (e.flag h) .fixed with due := some (e.clk + 4), writes := ws }

/-- An instruction with that operation has issued. -/
def State.uniIssued (s : State) (e : Env) (h : Hdr) (ws : List RegWrite) : State :=
  s.issued e h (e.g.flagUp (e.flag h)) [e.uniOp s h ws]

/-- An instruction without a vector result has issued; it may write one S register. -/
def State.sIssued (s : State) (e : Env) (h : Hdr) : Option (Nat × Word) → State
  | none => s.issued e h e.g []
  | some x => s.uniIssued e h [⟨.s, x.1, 0, x.2⟩]

/-- A uniform instruction with an active lane computes once, and writes its S register or pair (spec/05 R135). -/
def UniRule (i : Instr) (h : Hdr) (f : UForm) (g : LaneIn → DWord) : Prop :=
  ∀ s e, Ready s e h (f.chk e) → e.active h ≠ [] → exec i s = .next (s.uniIssued e h (sWrites f.dst f.wide (g (f.inp e))))

/-- The stream stands at a clause header. -/
def State.placed (s : State) (e : Env) (a : DWord) : State := s.modSlot e.core e.ctx e.n (fun sl => sl.goTo a)

/-- The fetch of this word at an address goes through: it leaves s1, where the stream is as it was. -/
def Fetches (s : State) (e : Env) (a : DWord) (s1 : State) (w : Word) : Prop :=
  s.fetchWord e a = (s1, .word w) ∧ s1.stuck = none ∧ s1.env? = some e

/-- The instruction passes control to a, where a clause header stands, writing an S register if it names one; to an address
without a header, or a register's address that is no multiple of 4, it traps and is treated as not executed (spec/03 R67, R68). -/
def Moves (i : Instr) (s : State) (e : Env) (h : Hdr) (a : DWord) (reg : Bool) (x : Option (Nat × Word)) : Prop :=
  (∀ s1 w, Fetches s e a s1 w → headerOk w = true → e.regionOk w a false = true → (reg = true → a.toNat % 4 = 0) →
    exec i s = .next ((s1.sIssued e h x).placed e a)) ∧
  (∀ s1 w, Fetches s e a s1 w → (headerOk w && e.regionOk w a false) = false → (reg = true → a.toNat % 4 = 0) →
    exec i s = .next (s1.trapAt e 3 e.sl.mask a)) ∧
  (reg = true → a.toNat % 4 ≠ 0 → exec i s = .next (s.trapAt e 3 e.sl.mask a))

end Sys2Proof.Machine

/-! The checks of every program instruction -/

namespace Sys2Proof
open Machine

/-- The header fields of a program instruction and the checks it adds to those every instruction has, as spec/03 R84 orders them. -/
def Instr.checks? (i : Instr) (s : State) : Option (Hdr × (Env → Chk)) :=
  match i with
  | .qhelp h o => some (h, { o.form .raw with pOk := true, pOnly := true : AluForm }.chk false)
  | .sadd h _ o => some (h, o.uform.chk)
  | .ssub h _ o => some (h, o.uform.chk)
  | .sadd64 h o => some (h, UForm.chk ⟨o.d, true, [(.opd o.a, .i64), (o.b, .i64)]⟩)
  | .smul h o => some (h, o.uform.chk)
  | .smad h o => some (h, o.uform.chk)
  | .smin h _ o => some (h, o.uform.chk)
  | .smax h _ o => some (h, o.uform.chk)
  | .sshl h o => some (h, o.uform.chk)
  | .sshr h o => some (h, o.uform.chk)
  | .sshra h o => some (h, o.uform.chk)
  | .slogt h o _ => some (h, o.uform.chk)
  | .spopc h o => some (h, o.uform.chk)
  | .sclz h o => some (h, o.uform.chk)
  | .sbfe h _ o => some (h, o.uform.chk)
  | .sbfi h o => some (h, o.uform.chk)
  | .sset h _ _ o => some (h, o.uform.chk)
  | .smov h o => some (h, o.uform.chk)
  | .smovi h d imm => some (h, UForm.chk ⟨d, false, [(.imm32 imm, .i32)]⟩)
  | .slea h _ _ o => some (h, UForm.chk ⟨o.d, true, [(.opd o.a, .i64), (o.b, .i32)]⟩)
  | .s2v h o => some (h, chkS2v o)
  | .v2s h o => some (h, chkV2s o)
  | .srdsr h sr d => some (h, chkSrdsr h sr.toNat d)
  | .swrsr h sr b => some (h, chkSwrsr h sr.toNat b)
  | .bra h _ _ => some (h, fun e => ctrlChk e none false)
  | .braDivergent h _ rc => some (h, chkBraDivergent rc)
  | .brau h _ => some (h, fun e => ctrlChk e none true)
  | .brx h a => some (h, chkBrx a)
  | .call h l _ => some (h, chkCall l)
  | .callx h l a => some (h, chkCallx l a)
  | .ret h l => some (h, chkRet l)
  | .join h => some (h, fun e => ctrlChk e none false)
  | .loop h c _ => some (h, chkLoop c)
  | .exit h => some (h, fun _ => {})
  | .nop h => some (h, fun _ => {})
  | .yield h => some (h, fun _ => {})
  | .trap h _ => some (h, fun _ => {})
  | .bkpt h _ => some (h, fun _ => {})
  | .tret h => some (h, tretChk h)
  | .tretSkip h => some (h, tretChk h)
  | .mark h _ => some (h, fun _ => {})
  | .markImm h _ _ => some (h, fun _ => {})
  | .ldg h m d a => some (h, loadChk .global (vszRegs m.vsz) false (mfmtBad m) true d a)
  | .ldgNc h m d a => some (h, loadChk .global (vszRegs m.vsz) false (mfmtBad m) true d a)
  | .ldacq h vsz _ d a => some (h, loadChk .global (vszRegs vsz) false false false d a)
  | .ldb h m d a => some (h, loadChk .global (vszRegs m.vsz) false (mfmtBad m) false d a)
  | .stg h m d a => some (h, storeChk .global (vszRegs m.vsz) (mfmtBad m) d a)
  | .strel h vsz _ d a => some (h, storeChk .global (vszRegs vsz) false d a)
  | .lds h m d a => some (h, loadChk .short (vszRegs m.vsz) false (mfmtBad m) true d a)
  | .ldsX h vsz _ d a => some (h, loadChk .short (vszRegs vsz) false false false d a)
  | .sts h m d a => some (h, storeChk .short (vszRegs m.vsz) (mfmtBad m) d a)
  | .ldc h m d a => some (h, loadChk .const (vszRegs m.vsz) true (mfmtBad m) true d a)
  | .ldl h m d a => some (h, loadChk .short (vszRegs m.vsz) false (mfmtBad m) false d a)
  | .stl h m d a => some (h, storeChk .short (vszRegs m.vsz) (mfmtBad m) d a)
  | .atomg h _ m d x => some (h, (x.atomForm (some d)).chk .global m)
  | .atomgCas h m d base cmp new off =>
    some (h, AtomForm.chk ⟨⟨base, .imm9 0, 0, some off⟩, .opd new, some cmp, some d⟩ .global m)
  | .atoms h _ m d x => some (h, (x.atomForm (some d)).chk .short m)
  | .atomsCas h m d base cmp new off =>
    some (h, AtomForm.chk ⟨⟨base, .imm9 0, 0, some off⟩, .opd new, some cmp, some d⟩ .short m)
  | .redg h _ m x => some (h, (x.atomForm none).chk .global m)
  | .bchk h _ => some (h, fun e => ctrlChk e none false)
  | .bclr h => some (h, fun _ => {})
  | .fence h _ _ => some (h, fun _ => {})
  | .acqr h _ b => some (h, chkAcqr h b)
  | .anch h d a => some (h, chkAnch d a)
  | .await h => some (h, fun _ => {})
  | .prefL2 h a => some (h, prefetchChk a)
  | .prefLlc h a => some (h, prefetchChk a)
  | .gpref h a => some (h, prefetchChk a)
  | .cctlWb h all a => some (h, cctlChk all a)
  | .cctlInv h all a => some (h, cctlChk all a)
  | .binit h a b => some (h, onObjectChk a (chkBinit h b))
  | .barv h rd _ d a b => some (h, onObjectChk a (chkBarv rd d b))
  | .bexp h a b => some (h, onObjectChk a (chkBexp b))
  | .btry h _ d a b => some (h, onObjectChk a (chkBtry d b))
  | .bwait h _ a b => some (h, onObjectChk a (chkBwait b))
  | .binval h a => some (h, onObjectChk a (fun _ => {}))
  | .barwg h _ _ => some (h, fun _ => {})
  | .barrp h _ => some (h, chkBarrp)
  | .qresv h pd d a b => some (h, chkQresv h pd d a b)
  | .qput h a b c => some (h, chkQput a b c)
  | .qcommit h _ a b d => some (h, chkQcommit h a b d)
  | .qsig h _ _ a c => some (h, chkQsig a c)
  | .tcopy h tok bar d a b c _ => some (h, tensorCopyChk tok bar d a b c)
  | .tcopys h tok bar d a b c _ => some (h, tensorCopyChk tok bar d a b c)
  | .tcopyx h tok bar d a b c _ => some (h, tensorCopyChk tok bar d a b c)
  | .tcopyr h tok bar d a b c _ => some (h, tensorCopyChk tok bar d a b c)
  | .chain h tok _ a => some (h, chkChain tok a)
  | .chstat h _ d => some (h, chkChstat d)
  | .decwBit h tok _ d a c nb => some (h, decodeIssueChk tok d a c nb)
  | .decwDlt h tok _ d a c nb => some (h, decodeIssueChk tok d a c nb)
  | .decwRle h tok _ d a c nb => some (h, decodeIssueChk tok d a c nb)
  | .topk h tok n _ _ a b c => some (h, chkTopk h tok n a b c)
  | .resid h tok _ _ a b => some (h, chkResid h tok a b)
  | .bstart h d a b => some (h, chkBstart d a b)
  | .bpop h _ d => some (h, chkBpop d)
  | .bpush h _ a => some (h, chkBpush a)
  | .bstop h => some (h, chkBstop)
  | .tld h fmt hdr sp t a b off => some (h, TileArg.chk ⟨fmt, hdr, sp, t, a, b, off, false⟩ h (writeT t.toNat))
  | .tldX h fmt hdr sp t a b off => some (h, TileArg.chk ⟨fmt, hdr, sp, t, a, b, off, true⟩ h (writeT t.toNat))
  | .tst h fmt hdr sp t a b off => some (h, TileArg.chk ⟨fmt, hdr, sp, t, a, b, off, false⟩ h (readT t.toNat))
  | .tstX h fmt hdr sp t a b off => some (h, TileArg.chk ⟨fmt, hdr, sp, t, a, b, off, true⟩ h (readT t.toNat))
  | .tzeroTile h t => some (h, tileChk h [writeT t.toNat])
  | .tzeroAcc h n => some (h, tileChk h [writeA n.toNat])
  | .tmov h td ts => some (h, tileChk h [writeT td.toNat, readT ts.toNat])
  | .ttrn h td ts => some (h, tileChk h [writeT td.toNat, readT ts.toNat])
  | .tbmp h t => some (h, tileChk h [writeT t.toNat])
  | .ttagWr h acc n a => some (h, chkTtagWr h ⟨acc, n.toNat, true⟩ a)
  | .ttagRd h acc n d => some (h, chkTtagRd h ⟨acc, n.toNat, false⟩ d)
  | .mma h b4 tb ta sf => some (h, quartetChk 0x179 h (if b4 then 4 else 0) 4 tb ta sf)
  | .mmas h b4 tb ta sf => some (h, quartetChk 0x17A h (if b4 then 4 else 0) 4 tb ta sf)
  | .mmaf h tb ta sf => some (h, quartetChk 0x17B h 0 8 tb ta sf)
  | .xfwd h _ td ts => some (h, tileChk h [writeT td.toNat, readT ts.toNat])
  | .xinv h _ _ td ts => some (h, tileChk h [writeT td.toNat, readT ts.toNat])
  | .accrd h colb n d b => some (h, chkAccrd h colb n d b)
  | .accwr h colb n a b => some (h, chkAccwr h colb n a b)
  | .accout h fmt n td a =>
    some (h, chkAccout h (writeT td.toNat :: ((List.range (accoutCount fmt)).map (fun i => n.toNat + i)).map readA) fmt a)
  | .fbchk h _ d a => some (h, chkFbchk d a)
  | .cbld h _ a b => some (h, chkCbld a b)
  | .fillc h a => some (h, chkFillc h a s)
  | .filla h => some (h, chkFilla h s)
  | .fillq h d a => some (h, chkFillq d a)
  | .ftinfo h which d b => some (h, chkFtinfo h which d b)
  | .fillv h b => some (h, chkFillv h b s)
  | .stopr h _ => some (h, fun _ => {})
  | .psamp h _ => some (h, fun _ => {})
  | .logfl h => some (h, fun _ => {})
  | .evinc h _ b => some (h, chkEvinc b)
  | i => i.shape?.map (fun x => (x.h, x.chk))

/-- The instruction may issue. -/
def Instr.Issues (i : Instr) (s : State) (e : Env) (h : Hdr) : Prop := ∃ c, i.checks? s = some (h, c) ∧ Ready s e h (c e)

end Sys2Proof

/-! Memory instructions -/

namespace Sys2Proof
open Machine

/-- The lanes' accesses of a memory instruction, with the FPSR flags of a store's conversions (spec/06 R150-R160, R164, R179,
R181). -/
def Instr.memOp? (i : Instr) (e : Env) : Option (MemOp × Flg) :=
  let cas (scr : Bool) (h : Hdr) (m : AtomMods) (d base : Opd) (cmp : SrcB) (new : Opd) (off : BitVec 23) : MemOp :=
    AtomForm.op ⟨⟨base, .imm9 0, 0, some off⟩, .opd new, some cmp, some d⟩ e h scr none m
  let line (h : Hdr) (inv all : Bool) (a : Addr) : MemOp :=
    { kind := .cctl inv all, size := 1, nreg := 0, mfmt := 0, cv := false, dst := none, active := maskOf (e.active h),
      lanes := (if all then (e.active h).take 1 else e.active h).map (fun l => ⟨l, if all then 0 else e.addrOf .global a l, 0, 0⟩) }
  match i with
  | .ldg h m d a => some (e.loadOp h .ldg .global m d a, 0)
  | .ldgNc h m d a => some (e.loadOp h .nc .global m d a, 0)
  | .ldacq h vsz sc d a => some ({ e.loadOp h .acq .global (rawMods vsz) d a with mfmt := sc.setWidth 5 }, 0)
  | .ldb h m d a => some (e.loadOp h .ldb .global m d a, 0)
  | .stg h m d a => some (e.storeOp h .store .global m d a)
  | .strel h vsz _ d a => some ((e.storeOp h .store .global (rawMods vsz) d a).1, 0)
  | .lds h m d a => some (e.loadOp h .lds .short m d a, 0)
  | .ldsX h vsz swz d a =>
    let m := e.loadOp h .lds .short (rawMods vsz) d a
    some ({ m with lanes := m.lanes.map (fun l =>
      if l.addr.toNat % m.size = 0 then { l with addr := BitVec.ofNat 64 (swizzle swz.toNat l.addr.toNat) } else l) }, 0)
  | .sts h m d a => some (e.storeOp h .sts .short m d a)
  | .ldc h m d a => some (e.loadOp h .ldc .const m d a, 0)
  | .ldl h m d a => some (e.loadOp h .ldl .short m d a, 0)
  | .stl h m d a => some (e.storeOp h .stl .short m d a)
  | .atomg h op m d x => some ((x.atomForm (some d)).op e h false (some op) m, 0)
  | .atomgCas h m d base cmp new off => some (cas false h m d base cmp new off, 0)
  | .atoms h op m d x => some ((x.atomForm (some d)).op e h true (some op) m, 0)
  | .atomsCas h m d base cmp new off => some (cas true h m d base cmp new off, 0)
  | .redg h op m x => some ((x.atomForm none).op e h false (some op) m, 0)
  | .anch h d a =>
    some ({ kind := .anch, size := 4, nreg := 1, mfmt := 5, cv := false, dst := some d, active := maskOf (e.active h),
            lanes := (e.active h).map (fun l => ⟨l, e.addrOf .global a ((e.active h).headD l), 0, 0⟩) }, 0)
  | .cctlWb h all a => some (line h false all a, 0)
  | .cctlInv h all a => some (line h true all a, 0)
  | _ => none

/-- The scope of the release a memory instruction performs first (spec/06 R162, R166). -/
def Instr.releases? : Instr → Option Nat
  | .strel _ _ sc _ _ => some sc.toNat
  | .atomg _ _ m _ _ => if m.order.getLsbD 1 then some m.scope.toNat else none
  | .atomgCas _ m _ _ _ _ _ => if m.order.getLsbD 1 then some m.scope.toNat else none
  | .atoms _ _ m _ _ => if m.order.getLsbD 1 then some m.scope.toNat else none
  | .atomsCas _ m _ _ _ _ _ => if m.order.getLsbD 1 then some m.scope.toNat else none
  | .redg _ _ m _ => if m.order.getLsbD 1 then some m.scope.toNat else none
  | _ => none

end Sys2Proof

namespace Sys2Proof.Machine

/-- Nothing makes the memory instruction wait: no acquiring or overlapping atomic of its group stands before it, nor an access of
its other slot that pends, nor a store that it must not pass; the log ring has room, and the throttle does not hold its context
(spec/06 R162, R166; spec/07 R191; spec/13 R293, R318, R320; spec/14 R351). -/
def MemOp.Unheld (m : MemOp) (s : State) (e : Env) : Prop :=
  (s.core e.core).acqPending e.ctx e.g.uid = false ∧ e.siblingPends = false ∧
  (m.kind = .load .lds → ∀ l ∈ m.lanes, s.scratchWaits e l.addr.toNat m.size = false) ∧
  (m.kind = .load .ldb → ∀ l ∈ m.lanes, s.ownStore e l = false) ∧
  (m.kind.isLoad = true → ∀ l ∈ m.lanes, s.overAtomic e m l = false) ∧
  (m.kind.logged = true → s.logFull e.g = false) ∧
  (m.kind.throttled = true → s.heldBack e = false ∧ (s.core e.core).throttle.permitted.contains e.ctx = false)

/-- Nothing makes it wait, and no watchpoint answers (spec/14 R346). -/
def MemOp.Free (m : MemOp) (s : State) (e : Env) : Prop := m.Unheld s e ∧ s.watchMem e m = (s, false)

/-- Its addresses are multiples of its size (spec/06 R155). -/
def MemOp.aligned (m : MemOp) : Prop := ∀ l ∈ m.lanes, l.addr.toNat % m.size = 0

/-- The state in which the lanes access: the operation is in flight, the issue and a scratchpad access's passes are counted. -/
def MemOp.begun (m : MemOp) (s : State) (e : Env) (h : Hdr) (fl : Flg) : State :=
  let o := { e.op s (e.flag h) (m.kind.what m) with
    sample := s.sampleOf e m.active (m.sectors e) m.dst.isSome, dests := m.dests }
  let k := s.core e.core
  let t : State := { s with
    serial := s.serial + 1,
    counters := s.counters.putD 0 (e.core * 256) (s.counters.lookD 0 (e.core * 256) + 1),
    cores := s.cores.put e.core { k with ops := k.ops ++ [o], memCount := k.memCount + 1 },
    groups := s.groups.put (gkey e.core e.ctx)
      ({ e.g.flagUp (e.flag h) with fpsr := Flg.into e.g.fpsr fl }.setSlot e.n { e.sl with psamp := none }) }
  t.count e.core 9 (s.passes e m)

/-- The lanes' accesses from a state on, with the lines LDB bypasses: the state and what came of each. Lanes go one after another; one
access serves all of LDC's and ANCH's (spec/06 R158, R179). -/
def MemOp.run (m : MemOp) (s : State) (e : Env) (byp : List Nat) : State × List LaneRes :=
  if m.kind.one then
    match m.lanes with
    | [] => (s, [])
    | f :: _ => let r := m.access s e byp false f; (r.1, m.lanes.map (fun l => m.helped e { r.2 with m := l }))
  else m.lanes.foldl (fun (x : State × List LaneRes) l => let y := m.laneRun x.1 e byp [] l; (y.1, x.2 ++ [y.2])) (s, [])

/-- LDB's belay checks line by line, and the lines that bypass; nothing for another instruction (spec/06 R172). -/
def MemOp.belays (m : MemOp) (s : State) (e : Env) : State × List Nat :=
  if m.kind = .load .ldb then
    let b := (dedup ((m.lanes.filter (fun l => canonical l.addr)).map (fun l => l.addr.toNat % 2 ^ 57 / 128))).foldl
      (fun (x : State × List Nat) vl => let r := x.1.belayLine e vl; (r.1, if r.2 then x.2 ++ [vl] else x.2)) (s, [])
    (if b.2 = [] then b.1 else
      (b.1.modGroup e.core e.ctx (fun g => { g with bypass := if g.bypass = 255 then 255 else g.bypass + 1 })).count e.core 8 1, b.2)
  else (s, [])

/-- What a store or load whose lanes are all done leaves: a load's writes stand in its operation, to be made when it completes; a
store's bytes stand at the end of its group's queue; the slot goes on. A store with no byte of its own in the queue (its lanes are
helpers) is complete, and so is a cache control (spec/06 R160, R167, R168). -/
def MemOp.ended (m : MemOp) (s : State) (e : Env) (h : Hdr) (rs : List LaneRes) : State :=
  let id := e.serial
  let s := s.commitLanes e m id rs
  let done (s : State) : State := match s.findOp e.core id with | some o => (s.sampleDone e.core o).complete e.core o | none => s
  let s := match m.kind with
    | .load .acq => s.acquire e.core e.ctx (m.mfmt.toNat % 8)
    | .cctl _ _ => done s
    | _ => s
  let s := if m.kind.isStore && !((s.core e.core).sq.any (fun q => q.opId == some id)) then done s else s
  s.goOn e h.stall.toNat

end Sys2Proof.Machine

/-! Operations started -/

namespace Sys2Proof.Machine

/-- An instruction has issued with this operation in flight, which has raised its flag (spec/02 R56). -/
def State.opIssued (s : State) (e : Env) (h : Hdr) (o : Op) : State := s.issued e h (e.g.flagUp o.flag) [o]

/-- The same with an operation whose register writes are known and made at some later time (spec/03 R74). -/
def State.dataIssued (s : State) (e : Env) (h : Hdr) (ws : List RegWrite) (us : List TileUse) : State :=
  s.opIssued e h { e.op s (e.flag h) .data with writes := ws, uses := us }

/-- The same with the stream's bytes read through the L2 as one lane: the read goes through and leaves s1, where the stream is as
it was. -/
def L2Reads (s : State) (e : Env) (va : DWord) (n : Nat) (s1 : State) (bs : List Byte) : Prop :=
  s.l2Read e va n = (s1, .done bs) ∧ s1.stuck = none ∧ s1.env? = some e

/-- The group's stores, and the writes they must not pass, have been performed at the L2. -/
def State.noStores (s : State) (e : Env) : Prop := s.drained e 3 = true

/-- A tensor layout record is read and passes its checks, in an attempt that reads all of it: its units are those that earlier
attempts read, or those that stand there now (spec/10 R258, R259; spec/13 R304). -/
def RecordAt (s : State) (e : Env) (va : DWord) (s1 : State) (r : Layout) : Prop :=
  ∃ bs, L2Reads s e va 64 s1 bs ∧ e.sl.readFirst va = false ∧ recordCause (e.sl.recordNum va bs) = none ∧
    r = Layout.ofNat (e.sl.recordNum va bs)

end Sys2Proof.Machine
end

