-- ==== Sys2Proof/Certificates/Slice0/Obligations.lean ====
section
/-! DEFINITION. The statements for the provers: what the spec's rules say of the machine (spec/00 to spec/19). -/

open Sys2Proof Sys2Proof.Machine

/-! Encoding -/

/-- The words the spec writes out in its worked examples name the instructions it gives them (spec/03 R84-R86, R89; spec/04,
spec/05, spec/06, spec/08, spec/09, spec/10, spec/11, spec/15, spec/16, spec/17: one word or more of each family), and a word of
an unassigned opcode is kept as it is. -/
def Obligations.SpecWordsDecode : Prop :=
  decodeWords 0x00055901 0x00180A04 0 = .ok (.fadd ⟨false, 5, 1, 3⟩ .f32 ⟨false, false, false, false, false, 0⟩ ⟨.v 4, .v 5, .opd (.v 6)⟩) ∧
  decodeWords 0x007F011A 0x00200807 9 = .ok (.ffma ⟨false, 127, 0, 0⟩ .f32 ⟨false, false, false, false, false, 0⟩ ⟨.v 7, .v 4, .opd (.v 8), .v 9⟩) ∧
  decodeWords 0x007F0896 0x00180A04 0x00012C07 = .ok (.logt ⟨false, 127, 0, 1⟩ ⟨.v 4, .v 5, .opd (.v 6), .v 7⟩ 150) ∧
  decodeWords 0x007F02AA 0x00000A04 0x00005BE0 = .ok (.packmx ⟨false, 127, 0, 0⟩ 1 13 ⟨false, 0⟩ (.v 4) (.v 5) (.k 0)) ∧
  decodeWords 0x057F440D 0x101E8808 0 = .ok (.ldb ⟨false, 127, 1, 0⟩ ⟨0, 5, false⟩ (.v 8) ⟨.s 4, .opd (.v 7), 2, none⟩) ∧
  decodeWords 0x007F1FC6 0x01814100 0x01428240 = .ok (.pairFI ⟨false, 127, 0, 3⟩ ⟨0, 6, 5, 4, 0⟩ ⟨0, 5, 10, 9, 0⟩) ∧
  decodeWords 0x000103C2 7 0x00002A00 = .ok (.braDivergent ⟨false, 1, 0, 0⟩ 7 21) ∧
  decodeWords 0x217F45F1 0x18000000 0 = .ok (.xfwd ⟨false, 127, 1, 0⟩ 3 2 1) ∧
  decodeWords 0x737F05ED 0x0002A000 0 = .ok (.mmaf ⟨false, 127, 0, 0⟩ 7 3 (.s 16)) ∧
  decodeWords 0x8A7F0601 0x1803C000 0 = .ok (.accout ⟨false, 127, 0, 0⟩ 19 0 10 (.k 0)) ∧
  decodeWords 0x107F0542 0x05228942 0x00000150 = .ok (.tcopy ⟨false, 127, 0, 0⟩ 0 true (.s 2) (.s 4) (.s 8) (.s 16) 0) ∧
  decodeWords 0x057F0660 0 0 = .ok (.stopr ⟨false, 127, 0, 0⟩ 5) ∧
  decodeWords 0x037F066D 0x80140000 0 = .ok (.evinc ⟨false, 127, 0, 0⟩ 3 (.imm9 5)) ∧
  decodeWords 0x017F4521 0x8006854A 0 = .ok (.qresv ⟨false, 127, 1, 0⟩ 1 (.s 10) (.s 2) (.imm9 1)) ∧
  decodeWords 0x207F4529 0x052A8548 0 = .ok (.qcommit ⟨false, 127, 1, 0⟩ 4 (.s 2) (.s 10) (.s 8)) ∧
  decodeWords 0x207F452E 0x00028C00 0x000001E2 = .ok (.qsig ⟨false, 127, 1, 0⟩ false 4 (.s 6) (.k 2)) ∧
  decodeWords 0x007F4641 0x0002A800 0 = .ok (.fillc ⟨false, 127, 1, 0⟩ (.s 20)) ∧
  decodeWords 0x007F0651 0x80080000 0 = .ok (.fillv ⟨false, 127, 0, 0⟩ (.imm9 2)) ∧
  decodeWords 0x187F444E 0x0532800D 0x0000014E = .ok (.atomgCas ⟨false, 127, 1, 0⟩ ⟨0, 3, 0⟩ (.v 13) (.s 0) (.opd (.s 12)) (.s 14) 0) ∧
  decodeWords 0x200404B1 0x05780000 0 = .ok (.acqr ⟨false, 4, 0, 0⟩ 4 (.opd (.s 30))) ∧
  decodeWords 0x007F04A5 0x0000003D 0 = .ok (.bchk ⟨false, 127, 0, 0⟩ 61) ∧
  decodeWords 0x000504C5 0x000E8400 0 = .ok (.gpref ⟨false, 5, 0, 0⟩ ⟨.s 2, .opd (.v 3), 0, none⟩) ∧
  decodeWords 0x007F1AAE 0x00000807 0x010A9A05 = .ok (.unpkmx ⟨false, 127, 0, 3⟩ 0 ⟨false, 0⟩ (.v 7) (.v 4) (.v 5) ⟨13, 10, 1, 1⟩) ∧
  decodeWords 0x057F441A 0x80028801 0x00D80800 = .ok (.lds ⟨false, 127, 1, 0⟩ ⟨0, 5, false⟩ (.v 1) ⟨.s 4, .imm9 0, 0, some 0x006c04⟩) ∧
  decodeWords 0x027F05E1 0x0002B600 0 = .ok (.ttagWr ⟨false, 127, 0, 0⟩ false 2 (.s 27)) ∧
  decodeWords 0xCB7F05F5 0x40000000 0 = .ok (.xinv ⟨false, 127, 0, 0⟩ true false 12 11) ∧
  decodeWords 0x017F03F4 0 0 = .ok (.tretSkip ⟨false, 127, 0, 0⟩) ∧
  decodeWords 0x007F0644 0 0 = .ok (.filla ⟨false, 127, 0, 0⟩) ∧
  decodeWords 0x017F4402 0x400EA405 0x00040000 = .ok (.ldg ⟨false, 127, 1, 0⟩ ⟨0, 1, true⟩ (.v 5) ⟨.s 18, .opd (.v 3), 0, some 512⟩) ∧
  decodeWords 0x007F0201 0x00000401 0 = .ok (.frcp ⟨false, 127, 0, 0⟩ .f32 false false ⟨.v 1, .v 2⟩) ∧
  decodeWords 0x007F02C1 0x00000401 0 = .ok (.qswpH ⟨false, 127, 0, 0⟩ ⟨.v 1, .v 2⟩) ∧
  decodeWords 0x007F0381 0x00028541 0 = .ok (.smov ⟨false, 127, 0, 0⟩ ⟨.s 1, .s 2⟩) ∧
  decodeWords 0x007F07FC 0 0 = .ok (.unassignedOpcode 0x007F07FC)

/-- Decoding undoes encoding and encoding undoes decoding: the words of a well-formed instruction, every operand at every value
its encoding admits, decode to it and say its length; and the words from which an instruction was decoded are the words it
encodes to (R82, R84-R89). -/
def Obligations.DecodingUndoesEncoding : Prop :=
  (∀ i ws, i.wf = true → encode i = some ws → wordsOf (ws.headD 0) = .ok ws.length ∧
    decodeWords (ws.headD 0) ((ws[1]?).getD 0) ((ws[2]?).getD 0) = .ok i) ∧
  (∀ w0 w1 w2 i n, wordsOf w0 = .ok n → decodeWords w0 w1 w2 = .ok i → i.wf = true ∧ encode i = some ([w0, w1, w2].take n)) ∧
  (∀ w0 w1 w2, wordsOf w0 = .error .illegalOpcode → decodeWords w0 w1 w2 = .ok (.unassignedOpcode w0))

/-! The step -/

/-- R82, R84: when the turn is a partition's issue, the clocks run and a stream is chosen, the words at its program counter are
read one by one, and a step is exec of the instruction they name, with State.cur naming the stream and the others that could have
issued and what peers answered the fetch used up, after which the port is held and a reached stop is seen (State.afterIssue);
words of one, two or three that name none, a length field of 3 or of words the opcode has not, and a word that may not be fetched
trap instead. That the turn is the agenda's first or, where it names none, the default one is the model's choice (log 2), and so
are these: an event the device admits runs, with a look at the core's streams after CLK_ADVANCE, and any other event leaves the
device as it is (log 34); a machine that has met absent memory stays stopped (log 8); the length kept for TRET.SKIP (log 27). -/
def Obligations.StepRunsTheDecodedInstruction : Prop :=
  (∀ w0 : Word, w0.extractLsb' 0 2 = 3 → wordsOf w0 = .error .illegalInstruction) ∧
  ∀ (s s0 : State) (u : Turn), s.stuck = none →
  ((∃ r, s.agenda = u :: r ∧ s0 = { s with agenda := r }) ∨ (s.agenda = [] ∧ u = s.defaultTurn ∧ s0 = s)) →
  (∀ c p ctx n e, u = .issue c p → s.life.frozen = false → s.life.stopped = false → s0.choose c p = some (ctx, n) →
    let t := { (s0.lowerKept c ctx n).enterClause c ctx n with cur := ⟨c, ctx, n, 1, []⟩ }
    let runs (t : State) (len : Nat) (i : Instr) : Out :=
      nextWith (exec i { t.forget e.g.uid (n + 2) with cur := ⟨c, ctx, n, len, s0.others c p ctx n i⟩ }) (s0.afterIssue c p ctx n i)
    let traps (t : State) (len cause : Nat) (fa : DWord) : Out :=
      finish ((({ t with cur := ⟨c, ctx, n, len, []⟩ } : State).trapAt e cause e.sl.mask fa).raiseKept c ctx n (s0.keptOf c ctx n))
    t.envAt c ctx n 1 = some e →
    (∀ t0 w0, t.fetchWord e e.sl.pc = (t0, .word w0) →
      (wordsOf w0 = .ok 1 → (∀ i, decodeWords w0 0 0 = .ok i → step s = runs t0 1 i) ∧
        ((∀ i, decodeWords w0 0 0 ≠ .ok i) → step s = traps t0 1 2 e.sl.pc)) ∧
      (wordsOf w0 = .ok 2 → ∀ t1 w1, t0.fetchWord e (e.sl.pc + 4) = (t1, .word w1) →
        (∀ i, decodeWords w0 w1 0 = .ok i → step s = runs t1 2 i) ∧
        ((∀ i, decodeWords w0 w1 0 ≠ .ok i) → step s = traps t1 2 2 e.sl.pc)) ∧
      (wordsOf w0 = .ok 3 → ∀ t1 w1, t0.fetchWord e (e.sl.pc + 4) = (t1, .word w1) →
        ∀ t2 w2, t1.fetchWord e (e.sl.pc + 8) = (t2, .word w2) →
        (∀ i, decodeWords w0 w1 w2 = .ok i → step s = runs t2 3 i) ∧
        ((∀ i, decodeWords w0 w1 w2 ≠ .ok i) → step s = traps t2 3 2 e.sl.pc)) ∧
      (wordsOf w0 = .error .illegalOpcode → ∃ k, step s = runs t0 k (.unassignedOpcode w0)) ∧
      (wordsOf w0 = .error .illegalInstruction → ∃ k, step s = traps t0 k 2 e.sl.pc) ∧
      (∀ k t1 x, wordsOf w0 = .ok k → 2 ≤ k → t0.fetchWord e (e.sl.pc + 4) = (t1, .fatal x) →
        step s = traps t1 k x (e.sl.pc + 4)) ∧
      (∀ t1 w1 t2 x, wordsOf w0 = .ok 3 → t0.fetchWord e (e.sl.pc + 4) = (t1, .word w1) →
        t1.fetchWord e (e.sl.pc + 8) = (t2, .fatal x) → step s = traps t2 3 x (e.sl.pc + 8))) ∧
    (∀ t0 x, t.fetchWord e e.sl.pc = (t0, .fatal x) → step s = traps t0 1 x e.sl.pc)) ∧
  (∀ i, u = .event i → isEvent i = true → s0.admits i = true → step s = nextWith (exec i s0) (State.afterEvent i)) ∧
  (∀ i, u = .event i → isEvent i = false ∨ s0.admits i = false → step s = .next s0) ∧
  (∀ f, step { s with stuck := some f } = .fault f)

/-- R84 from its sixth step on: the first check that fails gives the trap, taken in place of the instruction; an instruction
whose completion flag stands at 63 (R56), or which must wait, stays where it is and changes nothing but its slot's wait. -/
def Obligations.TheFirstFailingCheckTraps : Prop := ∀ (i : Instr) (s : State) (e : Env) (h : Hdr) (c : Env → Chk),
  i.checks? s = some (h, c) → s.env? = some e →
    (∀ k, e.failed h (c e) = some k → exec i s = .next (s.trapAt e k.1 k.2 e.sl.pc)) ∧
    (e.failed h (c e) = none → (e.flagFull h (c e).tok || (c e).hold) = true →
      exec i s = .next (s.modSlot e.core e.ctx e.n (fun sl => { sl with wait := .retry })))

/-! Reset, launch, traps and completions -/

/-- R409, R410: the machine after a cold reset with its key store present and its firmware authenticated is in base camp, PLIM
stands at 600 W, every other register of window 0 reads zero, and no launch, group, packet or request exists. That every byte of
memory reads as zero is the model's choice (log 1), and so is that the device's own turn list is empty (log 2). -/
def Obligations.ResetState : Prop :=
  State.reset.sound ∧ State.reset.devSt = 1 ∧ State.reset.regRead 0 = 1 ∧ State.reset.regRead 8 = 600 ∧
  (∀ a, 8 < a → a < 0x300000 → State.reset.regRead a = 0) ∧
  State.reset.groups = [] ∧ State.reset.launches = [] ∧ State.reset.wgs = [] ∧ State.reset.ropes = [] ∧ State.reset.packets = [] ∧
  State.reset.faults = [] ∧ State.reset.peerReqs = [] ∧ State.reset.agenda = [] ∧
  (∀ p a, State.reset.byteAt p a = 0) ∧ State.reset.life.frozen = false ∧ State.reset.life.stopped = false

/-- R25, R42, R48, R54, R61: a group at its first instruction: its arguments in S0 on, every other V, S and P register and flag
zero, PRNG at its launch value, tiles zero with the tag of a reset tile, accumulators fresh, slot 0 at the entry clause with its
launched and helper lanes, slot 1 empty, its divergence stack empty. -/
def Obligations.GroupsStart : Prop := ∀ (x : Launch) (l uid wg linear g clk : Nat),
  let y := x.group l uid wg linear g clk
  (∀ i, y.s.lookD 0 i = (x.args[i]?).getD 0) ∧ (∀ r, y.v.lookD 0 r = 0) ∧ (∀ r, y.p.lookD 0 r = 0) ∧
  (∀ f, y.flags.lookD 0 f = 0) ∧ (∀ i, i < 64 → y.prng.lookD 0 i = BitVec.ofNat 32 (0x9E3779B9 * (i + 1))) ∧
  y.fpcr = 0 ∧ y.fpsr = 0 ∧ y.trapCause = 0 ∧ y.depth = 0 ∧ y.inHandler = false ∧
  (∀ t, y.tagOf t = 0x20000A ∧ y.tileData t = List.replicate 8192 0) ∧ (∀ a, (y.atag a).fresh = true) ∧
  (∀ i, i < 64 → y.launched.getLsbD i = decide (i < x.nlaunch) ∧
    y.helper.getLsbD i = decide (x.nlaunch ≤ i ∧ i < 4 * ((x.nlaunch + 3) / 4)) ∧
    y.slot0.mask.getLsbD i = decide (i < 4 * ((x.nlaunch + 3) / 4))) ∧
  y.slot0.valid = true ∧ y.slot0.pc = codeAddr x.kernel x.hdr.entry ∧ y.slot0.clause = y.slot0.pc ∧ y.slot1.valid = false

/-- R146, R147: a trap writes FFIRST, FADDR, FMASK and TRAPCAUSE, keeps what the slot was doing, and sends it to the handler
clause with its lanes; registers, flags, FPCR, FPSR, tiles, the other slot, the other groups and memory are as they were, but for
a flag that a waiting instruction of the slot kept raised (R56). Without a handler, or in the bobbin context, the launch ends with
status 7; inside the handler or a save routine (R341) with status 8. -/
def Obligations.TakingATrap : Prop := ∀ (s : State) (c ctx n cause : Nat) (mask faddr ffirst : DWord) (atHeader isMem : Bool)
    (g : Group), s.group? c ctx = some g → n < 2 → cause < 256 →
  let t := s.takeTrap c ctx n cause mask faddr ffirst atHeader isMem
  let k := s.khdr g.launch
  (ctx ≠ 64 → k.handler ≠ 0 → g.inHandler = false → g.save ≠ .saving → ∃ g' x, t.group? c ctx = some g' ∧
    g'.ffirst = ffirst ∧ g'.faddr = faddr ∧ g'.fmask = mask ∧ g'.trapCause = BitVec.ofNat 32 (256 * n + cause) ∧
    g'.inHandler = true ∧ g'.trapCtx = some x ∧ x.slot = n ∧ x.pc = (g.slotOf n).pc ∧ x.clause = (g.slotOf n).clause ∧
    x.mask = (g.slotOf n).mask ∧ x.reconv = (g.slotOf n).reconv ∧ x.atHeader = atHeader ∧ x.isMem = isMem ∧
    x.other = (g.slotOf (1 - n)).valid ∧
    (g'.slotOf n).pc = codeAddr g.kernel k.handler ∧ (g'.slotOf n).clause = codeAddr g.kernel k.handler ∧
    (g'.slotOf n).phase = .arrive ∧ (g'.slotOf n).mask = (g.slotOf n).mask ∧ g'.slotOf (1 - n) = g.slotOf (1 - n) ∧
    g'.v = g.v ∧ g'.s = g.s ∧ g'.p = g.p ∧ ((g.slotOf n).kept = none → g'.flags = g.flags) ∧
    (∀ f, (g.slotOf n).kept = some f → g'.flags = (g.flagDown (some f)).flags) ∧
    g'.fpcr = g.fpcr ∧ g'.fpsr = g.fpsr ∧ g'.prng = g.prng ∧
    g'.tiles = g.tiles ∧ g'.tags = g.tags ∧ g'.accs = g.accs ∧ g'.atags = g.atags ∧ g'.depth = g.depth ∧ g'.owners = g.owners ∧
    (∀ j, j ≠ gkey c ctx → t.groups.look j = s.groups.look j) ∧ t.mem = s.mem ∧ t.peerMem = s.peerMem ∧ t.launches = s.launches ∧
    t.wgs = s.wgs ∧ t.cores = s.cores) ∧
  (∀ x, s.launches.look g.launch = some x → x.status = none → ctx = 64 ∨ (k.handler = 0 ∧ g.save ≠ .saving) →
    (t.launches.look g.launch).bind (fun y => y.status) = some 7) ∧
  (∀ x, s.launches.look g.launch = some x → x.status = none → ctx ≠ 64 →
    g.save = .saving ∨ (k.handler ≠ 0 ∧ g.inHandler = true) →
    (t.launches.look g.launch).bind (fun y => y.status) = some 8)

/-- R36, R56, R58, R72: a completing operation writes its destination registers (all its writes, but for those that another write
has overtaken for good: `Op.dropped`, R74, log 5), raises its flags in FPSR and lowers its completion flag by one; every other register, flag, special register, tile and accumulator of its group, every other group and
core and all of memory are as they were. -/
def Obligations.CompletionsWriteTheirDestinations : Prop := ∀ (s : State) (c : Nat) (o : Op) (g : Group),
  s.opGroup c o = some g → (∀ w ∈ o.lands, w.lane < 64) → ∃ g', (s.complete c o).group? c o.ctx = some g' ∧
  (∀ w ∈ o.lands, (∀ x ∈ o.lands, w.same x = true → x = w) →
    (w.cls = .v → g'.v.lookD 0 (w.reg * 64 + w.lane) = w.val) ∧ (w.cls = .s → g'.s.lookD 0 w.reg = w.val) ∧
    (w.cls = .p → (g'.p.lookD 0 w.reg).getLsbD w.lane = w.val.getLsbD 0)) ∧
  (∀ r l, l < 64 → (∀ w ∈ o.lands, w.cls = .v → w.reg = r → w.lane ≠ l) →
    g'.v.lookD 0 (r * 64 + l) = g.v.lookD 0 (r * 64 + l)) ∧
  (∀ r, (∀ w ∈ o.lands, w.cls = .s → w.reg ≠ r) → g'.s.lookD 0 r = g.s.lookD 0 r) ∧
  (∀ r l, l < 64 → (∀ w ∈ o.lands, w.cls = .p → w.reg = r → w.lane ≠ l) →
    (g'.p.lookD 0 r).getLsbD l = (g.p.lookD 0 r).getLsbD l) ∧
  g'.fpsr = g.fpsr ||| o.fl.setWidth 32 ∧
  (∀ f, g'.flags.lookD 0 f = if o.flag = some f then g.flags.lookD 0 f - 1 else g.flags.lookD 0 f) ∧
  g'.fpcr = g.fpcr ∧ g'.fmask = g.fmask ∧ g'.ffirst = g.ffirst ∧ g'.faddr = g.faddr ∧ g'.trapCause = g.trapCause ∧
  g'.prng = g.prng ∧ g'.tiles = g.tiles ∧ g'.tags = g.tags ∧ g'.accs = g.accs ∧ g'.atags = g.atags ∧
  g'.slot0 = g.slot0 ∧ g'.slot1 = g.slot1 ∧ (o.dropped = [] → o.lands = o.writes) ∧
  (∀ k, k ≠ gkey c o.ctx → (s.complete c o).groups.look k = s.groups.look k) ∧
  (∀ d, d ≠ c → (s.complete c o).core d = s.core d) ∧ (s.complete c o).mem = s.mem ∧ (s.complete c o).peerMem = s.peerMem

/-- R68, R72, R74, R85: a lane instruction that issues changes at its issue nothing but its slot's place,
its completion flag, PRNG, its group's place among the operations in flight and the issue count: every register, FPCR, FPSR and
the exception registers of its group, the other slot, tiles and accumulators, the other groups and cores and every byte of
memory are as they were (its results are written when it completes). R15, R125: the one that may trap instead is UNPKT5, where
FPCR.FMTTRAP is 1 and a launched active lane's byte is above 242: it takes FORMAT (cause 23), FMASK naming those lanes, and has no
other effect. -/
def Obligations.LaneInstructionsChangeNothingElse : Prop :=
  let bad (e : Env) (h : Hdr) (k : BitVec 2) (o : DA) : List Nat :=
    (e.active h).filter (fun l => e.isLaunched l && decide (242 < (e.word o.a l).toNat / 2 ^ (8 * k.toNat) % 256))
  (∀ (i : Instr) (x : Shape) (s : State) (e : Env),
    i.shape? = some x → Ready s e x.h (x.chk e) →
    (∀ h k o, i = .unpkt5 h k o → e.g.fpcr.getLsbD 4 = true → bad e h k o = []) → ∃ t g', exec i s = .next t ∧
    t.group? e.core e.ctx = some g' ∧
    g'.v = e.g.v ∧ g'.s = e.g.s ∧ g'.p = e.g.p ∧ g'.fpcr = e.g.fpcr ∧ g'.fpsr = e.g.fpsr ∧ g'.fmask = e.g.fmask ∧
    g'.ffirst = e.g.ffirst ∧ g'.faddr = e.g.faddr ∧ g'.trapCause = e.g.trapCause ∧ g'.tiles = e.g.tiles ∧ g'.tags = e.g.tags ∧
    g'.accs = e.g.accs ∧ g'.atags = e.g.atags ∧ g'.depth = e.g.depth ∧ g'.slotOf (1 - e.n) = e.g.slotOf (1 - e.n) ∧
    (g'.slotOf e.n).mask = e.sl.mask ∧ (g'.slotOf e.n).valid = e.sl.valid ∧
    (∀ f, e.flag x.h ≠ some f → g'.flags.lookD 0 f = e.g.flags.lookD 0 f) ∧
    (∀ k, k ≠ gkey e.core e.ctx → t.groups.look k = s.groups.look k) ∧ (∀ c, c ≠ e.core → t.core c = s.core c) ∧
    (t.core e.core).sq = (s.core e.core).sq ∧ (t.core e.core).array = (s.core e.core).array ∧
    (∀ p a, t.byteAt p a = s.byteAt p a) ∧ t.launches = s.launches ∧ t.wgs = s.wgs ∧ t.rings = s.rings ∧ t.devRegs = s.devRegs) ∧
  (∀ (h : Hdr) (k : BitVec 2) (o : DA) (x : Shape) (s : State) (e : Env),
    (Instr.unpkt5 h k o).shape? = some x → Ready s e h (x.chk e) → e.g.fpcr.getLsbD 4 = true → bad e h k o ≠ [] →
    exec (.unpkt5 h k o) s = .next (s.trapAt e 23 (maskOf (bad e h k o)) e.sl.pc))

/-! The invariant -/

/-- R382, R409, R410, R414: every step, whatever turn it takes, keeps what State.sound says, from every state that has it. -/
def Obligations.EveryStepKeepsTheInvariant : Prop := ∀ s t : State, s.sound → step s = .next t → t.sound

/-! Memory, atomics and barrier objects -/

/-- R155: a lane whose address is not a multiple of its access size makes the memory instruction take MISALIGN before any lane
accesses memory: FMASK holds the misaligned active lanes, helper lanes too, and FADDR the address of the lowest. -/
def Obligations.MisalignedAccessesTrap : Prop := ∀ (i : Instr) (s : State) (e : Env) (h : Hdr) (m : MemOp) (fl : Flg)
    (f : MLane) (r : List MLane), i.Issues s e h → i.memOp? e = some (m, fl) →
  m.lanes.filter (fun l => l.addr.toNat % m.size != 0) = f :: r →
  m.Unheld s e →
  exec i s = .next (s.trapAt e 9 (maskOf ((f :: r).map (·.lane))) f.addr true)

/-- R160, R170, R179: a write at the coherent caches changes the bytes it writes and no others, of this device's memory or of
the peers'; a byte written once holds what was written; the canonical form is kept; registers, tiles and accumulators of every
group are as they were; outside base camp it never stops the device. -/
def Obligations.CoherentWritesWriteTheirBytes : Prop := ∀ (s : State) (peer : Bool) (cells : List (Nat × Byte)),
  let t := s.cohWrite peer cells
  (∀ a, (∀ c ∈ cells, c.1 ≠ a) → t.byteAt peer a = s.byteAt peer a) ∧ (∀ a, t.byteAt (!peer) a = s.byteAt (!peer) a) ∧
  (∀ c ∈ cells, (∀ d ∈ cells, d.1 = c.1 → d = c) → t.byteAt peer c.1 = c.2) ∧ (s.memOk → t.memOk) ∧
  (∀ k g, s.groups.look k = some g → ∃ g', t.groups.look k = some g' ∧ g'.v = g.v ∧ g'.s = g.s ∧ g'.p = g.p ∧
    g'.flags = g.flags ∧ g'.fpcr = g.fpcr ∧ g'.fpsr = g.fpsr ∧ g'.tiles = g.tiles ∧ g'.accs = g.accs ∧ g'.live = g.live) ∧
  t.cores = s.cores ∧ t.launches = s.launches ∧ t.devRegs = s.devRegs ∧ (s.baseCamp = false → t.stuck = s.stuck)

/-- R166: what an atomic leaves in its element, in the arithmetic of bit vectors: types 0 and 2 are unsigned and 1 and 3 signed,
of 32 and 64 bits; INC and DEC are of 32 bits (R164). FADD adds as FADD.F32 does, or each half as FADD.H2 does, under RNE with
subnormals kept, whatever FPCR holds (FloatsAreCorrectlyRounded says what that is). -/
def Obligations.AtomicResults : Prop := ∀ (scope : Nat) (ret acq : Bool),
  (∀ (wide : Bool),
    let n := if wide then 64 else 32
    let u (op : Option AtomOp) (old v cmp : BitVec n) : BitVec n :=
      BitVec.ofNat n ((⟨op, if wide then 2 else 0, scope, ret, acq⟩ : AtomInfo).apply old.toNat v.toNat cmp.toNat)
    let i (op : Option AtomOp) (old v cmp : BitVec n) : BitVec n :=
      BitVec.ofNat n ((⟨op, if wide then 3 else 1, scope, ret, acq⟩ : AtomInfo).apply old.toNat v.toNat cmp.toNat)
    ∀ old v cmp : BitVec n,
      u (some .add) old v cmp = old + v ∧ i (some .add) old v cmp = old + v ∧
      u (some .min) old v cmp = (if v.ult old then v else old) ∧ i (some .min) old v cmp = (if v.slt old then v else old) ∧
      u (some .max) old v cmp = (if old.ult v then v else old) ∧ i (some .max) old v cmp = (if old.slt v then v else old) ∧
      u (some .and) old v cmp = old &&& v ∧ u (some .or) old v cmp = old ||| v ∧ u (some .xor) old v cmp = old ^^^ v ∧
      u (some .exch) old v cmp = v ∧ u none old v cmp = (if old = cmp then v else old) ∧
      (wide = false → u (some .inc) old v cmp = (if v.ule old then 0 else old + 1) ∧
        u (some .dec) old v cmp = (if old = 0 ∨ v.ult old then v else old - 1))) ∧
  (∀ old v cmp : Nat,
    let plain : FEnv := ⟨.rne, false, false, false⟩
    (⟨some .fadd, 4, scope, ret, acq⟩ : AtomInfo).apply old v cmp = (fadd .fp32 plain old v).1 ∧
    (⟨some .fadd, 5, scope, ret, acq⟩ : AtomInfo).apply old v cmp = (fadd .fp16 plain (old % 65536) (v % 65536)).1 +
      65536 * (fadd .fp16 plain (old / 65536) (v / 65536)).1)

/-- R268, R269: a barrier object's transitions on the bytes that hold it: what an event leaves reads back as the table gives it,
and no other byte of the core's array changes. -/
def Obligations.BarrierObjectTransitions : Prop := ∀ (s : State) (t : Nat) (o : BarObj), s.obj t = o → t % 2 ^ 20 + 16 ≤ 2 ^ 20 →
  (∀ e, e < 65536 → (s.objEvent t (.init e)).obj t = ⟨e, e, 0, false, false, 0⟩) ∧
  ((s.objEvent t .inval).obj t = ⟨0, 0, 0, o.poison, false, 0⟩) ∧
  (o.poison = true → ∀ n, s.objEvent t (.arrive n) = s ∧ s.objEvent t (.expect n) = s ∧ s.objEvent t (.credit n) = s) ∧
  (o.poison = false →
    (∀ n, n ≤ o.parr → ¬(o.parr = n ∧ o.pbytes = 0) → (s.objEvent t (.arrive n)).obj t = { o with parr := o.parr - n }) ∧
    (o.pbytes = 0 → (s.objEvent t (.arrive o.parr)).obj t =
      { o with parr := o.expArr, phase := o.pcount % 2 == 0, pcount := (o.pcount + 1) % 2 ^ 32 }) ∧
    (∀ n, o.parr < n → (s.objEvent t (.arrive n)).obj t = { o with poison := true }) ∧
    (∀ m, o.pbytes + m < 2 ^ 28 → (s.objEvent t (.expect m)).obj t = { o with pbytes := o.pbytes + m }) ∧
    (∀ m, 2 ^ 28 ≤ o.pbytes + m → (s.objEvent t (.expect m)).obj t = { o with poison := true }) ∧
    (∀ m, m ≤ o.pbytes → ¬(o.pbytes = m ∧ o.parr = 0) → (s.objEvent t (.credit m)).obj t = { o with pbytes := o.pbytes - m }) ∧
    (o.parr = 0 → (s.objEvent t (.credit o.pbytes)).obj t =
      { o with pbytes := 0, parr := o.expArr, phase := o.pcount % 2 == 0, pcount := (o.pcount + 1) % 2 ^ 32 }) ∧
    (∀ m, o.pbytes < m → (s.objEvent t (.credit m)).obj t = { o with poison := true })) ∧
  (∀ v a, (∀ j, j < 16 → a ≠ t + j) → (s.objEvent t v).scrByte a = s.scrByte a)

/-- R159: LDS.X maps a window address by the swizzle of its granule, which is its own inverse and keeps the lines of 128 bytes
apart, so that what a copy wrote at a swizzled place is read at its logical address. -/
def Obligations.SwizzleIsItsOwnInverse : Prop := ∀ swz a : Nat, swz < 4 →
  (swz ≠ 0 → swizzle swz a = a ^^^ ((a >>> 7) % (128 / (8 * 2 ^ swz)) * (8 * 2 ^ swz))) ∧ swizzle 0 a = a ∧
  swizzle swz (swizzle swz a) = a ∧ swizzle swz a / 128 = a / 128 ∧ (swz ≠ 0 → swizzle swz a % (8 * 2 ^ swz) = a % (8 * 2 ^ swz))

/-! Number formats -/

/-- R13: an E8M0 code e up to 0xFE stands for exactly 2^(e − 127), and an E2M1 code for the value of the table, 0, 0.5, 1, 1.5,
2, 3, 4 or 6, its bit 3 being the sign, code 8 −0. R112: FCLASS.F32 writes a mask with the one bit of its operand's class, from 0
for a signalling NaN to 9 for +∞, told from the sign, exponent and mantissa as stored; FCLASS.H2 does so for each half; neither
reads FPCR or raises a flag. -/
def Obligations.FormatsAndClasses : Prop :=
  (∀ c, c ≤ 0xFE → e8m0Value c = .fin false 1 ((c : Int) - 127)) ∧
  (∀ c, c < 16 → ∃ m x : Nat, FFmt.e2m1.decode c = .fin (decide (8 ≤ c)) m ((x : Int) - 1) ∧
    some (m * 2 ^ x) = [0, 1, 2, 3, 4, 6, 8, 12][c % 8]?) ∧
  (let cls (eb mb x : Nat) : Nat :=
    let sign := x / 2 ^ (eb + mb) % 2
    let ex := x / 2 ^ mb % 2 ^ eb
    let ma := x % 2 ^ mb
    if ex = 2 ^ eb - 1 then (if ma = 0 then (if sign = 1 then 2 else 9) else if ma / 2 ^ (mb - 1) = 0 then 0 else 1)
    else if ex = 0 then (if ma = 0 then (if sign = 1 then 5 else 6) else if sign = 1 then 4 else 7)
    else if sign = 1 then 3 else 8
  (∀ eb mb x, cls eb mb x ≤ 9) ∧
  (∀ h o, LaneRule (.fclass h .f32 o) fun i => .w32 (BitVec.ofNat 32 (2 ^ cls 8 23 i.a.toNat))) ∧
  (∀ h o, LaneRule (.fclass h .h2 o) fun i =>
    .w32 (BitVec.ofNat 32 (2 ^ cls 5 10 (i.a.toNat % 65536) + 2 ^ 16 * 2 ^ cls 5 10 (i.a.toNat / 65536)))))

/-- R12, R21-R24, R29, R31, R32, R37, R109: FADD, FMUL and FFMA of numbers give the exact result rounded once (FFmt.Rounds of
Safety.lean, which knows nothing of the model's rounding): its sign where it is exactly zero, overflow, .SAT, flushing and flags
with it. A NaN operand, ∞ − ∞ and 0 × ∞ give the canonical NaN, with IOC for a signalling NaN or an invalid operation; an infinite
result needs no rounding. R40: a run of a matrix instruction whose exact products are numbers adds its exact sum to a finite FP32
accumulator with one RNE rounding, and a sum of zero leaves the accumulator as it is. -/
def Obligations.FloatsAreCorrectlyRounded : Prop :=
  (∀ (f : FFmt) (v : FEnv) (a b c : Nat), f = .fp32 ∨ f = .fp16 ∨ f = .bf16 →
    let n := f.signedNum (v.fz f)
    let u := f.num (v.fz f)
    let nan : Nat := f.infCode + 2 ^ (f.mbits - 1)
    let inf (neg : Bool) : Nat × Flg := ((if neg then 2 ^ f.signPos else 0) + (if v.sat then f.infCode - 1 else f.infCode), 0)
    let ioc (x : Bool) : Flg := if x then Flg.ioc else 0
    let ab := f.neg a != f.neg b
    let bad := (f.isInf a && f.isNum b && u b == 0) || (f.isInf b && f.isNum a && u a == 0)
    ((f.isNan a = true ∨ f.isNan b = true → fadd f v a b = (nan, ioc (f.isSnan a || f.isSnan b)) ∧
        fmul f v a b = (nan, ioc (f.isSnan a || f.isSnan b))) ∧
      (f.isNan a = true ∨ f.isNan b = true ∨ f.isNan c = true →
        ffma f v a b c = (nan, ioc (f.isSnan a || f.isSnan b || f.isSnan c || bad)))) ∧
    ((f.isInf a = true → f.isInf b = true → ab = true → fadd f v a b = (nan, Flg.ioc)) ∧
      (f.isInf a = true → f.isNum b = true ∨ (f.isInf b = true ∧ ab = false) → fadd f v a b = inf (f.neg a) ∧ fadd f v b a = inf (f.neg a)) ∧
      (bad = true → fmul f v a b = (nan, Flg.ioc) ∧ (f.isNan c = false → ffma f v a b c = (nan, Flg.ioc))) ∧
      (f.isInf a = true ∨ f.isInf b = true → f.isNan a = false → f.isNan b = false → bad = false → fmul f v a b = inf ab ∧
        (f.isInf c = true → f.neg c ≠ ab → ffma f v a b c = (nan, Flg.ioc)) ∧
        (f.isNum c = true ∨ (f.isInf c = true ∧ f.neg c = ab) → ffma f v a b c = inf ab)) ∧
      (f.isNum a = true → f.isNum b = true → f.isInf c = true → ffma f v a b c = inf (f.neg c))) ∧
    (f.isNum a = true → f.isNum b = true →
      (let s := n a + n b
       f.Rounds v (if s = 0 then (if u a = 0 ∧ ab = false then f.neg a else v.rm == .rd) else decide (s < 0)) (halvesOf s.natAbs 1)
          (fadd f v a b)) ∧
      f.Rounds v ab (halvesOf (u a * u b) f.perOne) (fmul f v a b) ∧
      (f.isNum c = true →
        let p : Int := if ab then -(u a * u b : Nat) else (u a * u b : Nat)
        let s := p + n c * (f.perOne : Nat)
        f.Rounds v (if s = 0 then (if u a * u b = 0 ∧ u c = 0 ∧ f.neg c = ab then ab else v.rm == .rd) else decide (s < 0))
          (halvesOf s.natAbs f.perOne) (ffma f v a b c)))) ∧
  (∀ (sat : Bool) (ps : List FV) (low : Int) (acc : Nat),
    (∀ p ∈ ps, ∃ neg m e, p = .fin neg m e ∧ (m = 0 ∨ low ≤ e)) → FFmt.fp32.isNum acc = true →
    let sum : Int := (ps.map (fun p => match p with
      | .fin neg m e => (if neg then -1 else 1) * ((m * 2 ^ (e - low).toNat : Nat) : Int)
      | _ => 0)).sum
    let d : Nat := 2 ^ (-150 - low).toNat
    let total : Int := FFmt.fp32.signedNum false acc * d + sum * ((2 ^ (low + 150).toNat : Nat) : Int)
    (sum = 0 → addRun sat acc (runSum ps none none) = acc) ∧
    (sum ≠ 0 → ∃ fl, FFmt.fp32.Rounds ⟨.rne, sat, false, false⟩ (decide (total < 0)) (halvesOf total.natAbs d)
      (addRun sat acc (runSum ps none none), fl)))

/-! Rules of the whole machine -/

/-- R175: BCLR is a 32-bit instruction with OPC 0x12A and MOD8 zero, and with its leading lane's guard true it frees every entry
of the group at once and sets BELAYST.BYPASS to 0; the other groups' entries, registers and memory are as they were. -/
def Obligations.BclrFreesEveryEntry : Prop := ∀ (h : Hdr),
  (∃ w, encode (.bclr h) = some [w] ∧ w.extractLsb' 2 9 = 0x12A ∧ w.extractLsb' 24 8 = 0) ∧
  ∀ (s : State) (e : Env), (Instr.bclr h).Issues s e h → e.lead h = true → s.baseCamp = false → ∃ t g',
    exec (.bclr h) s = .next t ∧ t.group? e.core e.ctx = some g' ∧ g'.bypass = 0 ∧
    (∀ k b, (t.core e.core).belay.look k = some b → b.ctx = e.ctx → b.state = 0) ∧
    (∀ k b, (s.core e.core).belay.look k = some b → b.ctx ≠ e.ctx → (t.core e.core).belay.look k = some b) ∧
    g'.v = e.g.v ∧ g'.s = e.g.s ∧ g'.p = e.g.p ∧ g'.fpcr = e.g.fpcr ∧ g'.fpsr = e.g.fpsr ∧ g'.tiles = e.g.tiles ∧ g'.accs = e.g.accs ∧
    (∀ j, j ≠ gkey e.core e.ctx → t.groups.look j = s.groups.look j) ∧ (∀ p a, t.byteAt p a = s.byteAt p a)

/-- No instruction of a program and no event but the device's own stops the device outside base camp: each ends in a next state,
traps, waits and ends of launches among them, in which memory keeps its form and the device's own registers (DEVSTATE, PLIM,
QTABBASE, CTXBASE, CNTBASE, SAMPPER, VSBASE, VSSIZE, the watchpoints) are as they were (spec/00 R9: the device produces one of
the outcomes the manual lists, and nothing else). -/
def Obligations.NoInstructionStopsTheDevice : Prop := ∀ (i : Instr) (s : State), i.setsDevice = false →
  s.stuck = none → s.baseCamp = false → isEvent i = true ∨ (∃ e, s.env? = some e) →
  ∃ t, exec i s = .next t ∧ t.stuck = none ∧ t.devRegs = s.devRegs ∧ (s.memOk → t.memOk)

/-- R410, R412: with FREEZE asserted nothing but a cold reset and a security alarm changes the device: every other turn leaves
every register, array, cache and byte as it was, and FROZEN is left by no step but a cold reset. -/
def Obligations.FrozenDeviceKeepsItsState : Prop := ∀ s t : State, s.life.frozen = true → step s = .next t →
  (∀ strap opt grade fw, s.agenda.head? ≠ some (.event (.coldReset strap opt grade fw))) →
  t.life.frozen = true ∧ ((∀ c, s.agenda.head? ≠ some (.event (.securityAlarm c))) → t = { s with agenda := s.agenda.tail })

/-- R60, R84: SRDSR and SWRSR of a reserved number, SWRSR of a read-only register and SRDSR of a per-lane register into an S
destination take ILLEGAL_OPERAND in place of the access; SWRSR may write FPCR, FPSR, FMASK and PRNG only. -/
def Obligations.SpecialRegisterAccess : Prop := ∀ (h : Hdr) (s : State) (e : Env), s.env? = some e → s.stuck = none →
  e.badFsel h none = false →
  (∀ sr d, 0x1C ≤ sr.toNat → exec (.srdsr h sr d) s = .next (s.trapAt e 4 e.sl.mask e.sl.pc)) ∧
  (∀ (sr : BitVec 8) (r : Fin 64), sr = 0 ∨ sr = 1 → exec (.srdsr h sr (.s r)) s = .next (s.trapAt e 4 e.sl.mask e.sl.pc)) ∧
  (∀ sr b, sr.toNat ∉ [0x0D, 0x0E, 0x0F, 0x10, 0x18] → exec (.swrsr h sr b) s = .next (s.trapAt e 4 e.sl.mask e.sl.pc))

/-! Lane instructions -/

/-- IADD, ISUB and IADD3 wrap, or clamp the exact sum with .SAT (spec/04 R104, R108); the 64-bit sums and LEA wrap. Pco of IADDC
is the carry out of bit 31 of A + B + C[0], and Pco of ISUBB is 1 exactly when A is below B + C[0] (R105). Products, multiply-adds,
dot products and absolute differences (R104); minima, maxima, clamps, absolute values and comparisons, signed and unsigned (R102,
R104). -/
def Obligations.IntegerArithmetic : Prop :=
  (((∀ h m o, m.sat = false → LaneRule (.iadd h m o) fun i => .w32 (i.a + i.b)) ∧
  (∀ h m o, m.sat = false → LaneRule (.isub h m o) fun i => .w32 (i.a - i.b)) ∧
  (∀ h m o, m.sat = false → LaneRule (.iadd3 h m o) fun i => .w32 (i.a + i.b + i.c)) ∧
  (∀ h o, LaneRule (.iadd h ⟨false, true⟩ o) fun i => .w32 (clampS (i.a.toInt + i.b.toInt))) ∧
  (∀ h o, LaneRule (.iadd h ⟨true, true⟩ o) fun i => .w32 (clampU (i.a.toNat + i.b.toNat))) ∧
  (∀ h o, LaneRule (.isub h ⟨false, true⟩ o) fun i => .w32 (clampS (i.a.toInt - i.b.toInt))) ∧
  (∀ h o, LaneRule (.isub h ⟨true, true⟩ o) fun i => .w32 (clampU (i.a.toNat - i.b.toNat))) ∧
  (∀ h o, LaneRule (.iadd3 h ⟨false, true⟩ o) fun i => .w32 (clampS (i.a.toInt + i.b.toInt + i.c.toInt))) ∧
  (∀ h o, LaneRule (.iadd3 h ⟨true, true⟩ o) fun i => .w32 (clampU (i.a.toNat + i.b.toNat + i.c.toNat))) ∧
  (∀ h o, LaneRule (.iadd64 h o) fun i => .w64 (i.a64 + i.b64)) ∧
  (∀ h o, LaneRule (.isub64 h o) fun i => .w64 (i.a64 - i.b64)) ∧
  (∀ h sh o, LaneRule (.lea h sh o) fun i => .w32 (i.a + (i.b <<< sh.toNat))) ∧
  (∀ h sh o, LaneRule (.lea64 h true sh o) fun i => .w64 (i.a64 + (i.b.setWidth 64 <<< sh.toNat))) ∧
  (∀ h sh o, LaneRule (.lea64 h false sh o) fun i => .w64 (i.a64 + (i.b.signExtend 64 <<< sh.toNat)))) ∧
  ((∀ h o pco, LaneRule (.iaddc h o pco) fun i =>
    { d := (i.a + i.b + (i.c &&& 1)).setWidth 64, pout := decide (2 ^ 32 ≤ i.a.toNat + i.b.toNat + (i.c &&& 1).toNat) }) ∧
  (∀ h o pco, LaneRule (.isubb h o pco) fun i =>
    { d := (i.a - i.b - (i.c &&& 1)).setWidth 64, pout := decide (i.a.toNat < i.b.toNat + (i.c &&& 1).toNat) }))) ∧
  ((∀ h o, LaneRule (.imul h o) fun i => .w32 (i.a * i.b)) ∧
  (∀ h o, LaneRule (.imulhiS h o) fun i => .w32 ((i.a.signExtend 64 * i.b.signExtend 64).extractLsb' 32 32)) ∧
  (∀ h o, LaneRule (.imulhiU h o) fun i => .w32 ((i.a.setWidth 64 * i.b.setWidth 64).extractLsb' 32 32)) ∧
  (∀ h o, LaneRule (.imad h o) fun i => .w32 (i.a * i.b + i.c)) ∧
  (∀ h o, LaneRule (.imadwS h o) fun i => .w64 (i.a.signExtend 64 * i.b.signExtend 64 + i.c64)) ∧
  (∀ h o, LaneRule (.imadwU h o) fun i => .w64 (i.a.setWidth 64 * i.b.setWidth 64 + i.c64)) ∧
  (∀ h o, LaneRule (.isad h true o) fun i => .w32 ((if i.a ≤ i.b then i.b - i.a else i.a - i.b) + i.c)) ∧
  (∀ h o, LaneRule (.isad h false o) fun i => .w32 ((if i.a.sle i.b then i.b - i.a else i.a - i.b) + i.c)) ∧
  (∀ h o, LaneRule (.idp4S h o) fun i => .w32 (i.c + dotS 8 4 i.a i.b)) ∧
  (∀ h o, LaneRule (.idp4U h o) fun i => .w32 (i.c + dotU 8 4 i.a i.b)) ∧
  (∀ h o, LaneRule (.idp2 h false o) fun i => .w32 (i.c + dotS 16 2 i.a i.b)) ∧
  (∀ h o, LaneRule (.idp2 h true o) fun i => .w32 (i.c + dotU 16 2 i.a i.b))) ∧
  ((∀ h o, LaneRule (.iminS h o) fun i => .w32 (if i.a.sle i.b then i.a else i.b)) ∧
  (∀ h o, LaneRule (.iminU h o) fun i => .w32 (if i.a ≤ i.b then i.a else i.b)) ∧
  (∀ h o, LaneRule (.imaxS h o) fun i => .w32 (if i.a.sle i.b then i.b else i.a)) ∧
  (∀ h o, LaneRule (.imaxU h o) fun i => .w32 (if i.a ≤ i.b then i.b else i.a)) ∧
  (∀ h o, LaneRule (.iclampS h o) fun i =>
    .w32 (let x := if i.a.sle i.b then i.b else i.a; if x.sle i.c then x else i.c)) ∧
  (∀ h o, LaneRule (.iclampU h o) fun i => .w32 (let x := if i.a ≤ i.b then i.b else i.a; if x ≤ i.c then x else i.c)) ∧
  (∀ h o, LaneRule (.iabs h false o) fun i => .w32 (if i.a.slt 0 then 0 - i.a else i.a)) ∧
  (∀ h o, LaneRule (.iabs h true o) fun i => .w32 (clampS i.a.toInt.natAbs)) ∧
  (∀ h cc o, LaneRule (.isetS h cc o) fun i => .w32 (if cmpS cc i.a i.b then 0xFFFFFFFF else 0)) ∧
  (∀ h cc o, LaneRule (.isetU h cc o) fun i => .w32 (if cmpU cc i.a i.b then 0xFFFFFFFF else 0)) ∧
  (∀ h cc o, LaneRule (.iset64 h cc false o) fun i => .w32 (if cmpS cc i.a64 i.b64 then 0xFFFFFFFF else 0)) ∧
  (∀ h cc o, LaneRule (.iset64 h cc true o) fun i => .w32 (if cmpU cc i.a64 i.b64 then 0xFFFFFFFF else 0)))

/-- Shifts by 32 or more empty the word or fill it with the sign; funnel shifts and rotates take their amount modulo 32; the bit
counts and fields (spec/04 R104, R106). Bitwise functions by truth table, byte permutes, selects and moves (spec/04 R104, R107).
-/
def Obligations.ShiftsFieldsAndLogic : Prop :=
  ((∀ h o, LaneRule (.ishl h o) fun i => .w32 (i.a <<< i.b.toNat)) ∧
  (∀ h o, LaneRule (.ishr h o) fun i => .w32 (i.a >>> i.b.toNat)) ∧
  (∀ h o, LaneRule (.ishra h o) fun i => .w32 (i.a.sshiftRight i.b.toNat)) ∧
  (∀ h o, LaneRule (.shfL h o) fun i => .w32 (((i.b ++ i.a) <<< (i.c.toNat % 32)).extractLsb' 32 32)) ∧
  (∀ h o, LaneRule (.shfR h o) fun i => .w32 (((i.b ++ i.a) >>> (i.c.toNat % 32)).extractLsb' 0 32)) ∧
  (∀ h o, LaneRule (.irot h o) fun i => .w32 (i.a.rotateLeft (i.b.toNat % 32))) ∧
  (∀ h o, LaneRule (.popc h o) fun i => .w32 (BitVec.ofNat 32 (popc i.a))) ∧
  (∀ h o, LaneRule (.clz h o) fun i => .w32 (BitVec.ofNat 32 (clz i.a))) ∧
  (∀ h o, LaneRule (.ctz h o) fun i => .w32 (BitVec.ofNat 32 (ctz i.a))) ∧
  (∀ h o, LaneRule (.brev h o) fun i => .w32 (brev i.a)) ∧
  (∀ h o, LaneRule (.bfeU h o) fun i => .w32 (bfeU i.a i.b)) ∧
  (∀ h o, LaneRule (.bfeS h o) fun i => .w32 (bfeS i.a i.b)) ∧
  (∀ h o, LaneRule (.bfi h o) fun i => .w32 (bfi i.a i.b i.c))) ∧
  ((∀ h o lut, LaneRule (.logt h o lut) fun i => .w32 (logt lut i.a i.b i.c)) ∧
  (∀ h o lut, LaneRule (.pset h o lut) fun i => .w32 (logt lut i.a i.b i.c &&& 1)) ∧
  (∀ h o, LaneRule (.prmt h o) fun i => .w32 (prmt i.a i.b i.c)) ∧
  (∀ h o, LaneRule (.sel h o) fun i => .w32 (if i.c.getLsbD 0 then i.a else i.b)) ∧
  (∀ h o, LaneRule (.imov h o) fun i => .w32 i.a) ∧
  (∀ h d imm, LaneRule (.movi h d imm) fun _ => .w32 imm))

/-- The packed-half forms act on the two halves apart (spec/04 R104, R108). The rows of a PAIR word both read before either
writes: the first row's result goes to its D, the second's to its own, and the flags join (spec/03 R85-R88). -/
def Obligations.PackedHalvesAndPairs : Prop :=
  ((∀ h m o, m.sat = false → LaneRule (.iaddH2 h m o) fun i => .w32 (halves (fun a b _ => a + b) i)) ∧
  (∀ h m o, m.sat = false → LaneRule (.isubH2 h m o) fun i => .w32 (halves (fun a b _ => a - b) i)) ∧
  (∀ h o, LaneRule (.iaddH2 h ⟨false, true⟩ o) fun i =>
    .w32 (halves (fun a b _ => BitVec.ofInt 16 (max (-32768) (min 32767 (a.toInt + b.toInt)))) i)) ∧
  (∀ h o, LaneRule (.iaddH2 h ⟨true, true⟩ o) fun i =>
    .w32 (halves (fun a b _ => BitVec.ofInt 16 (max 0 (min 65535 (a.toNat + b.toNat)))) i)) ∧
  (∀ h o, LaneRule (.isubH2 h ⟨false, true⟩ o) fun i =>
    .w32 (halves (fun a b _ => BitVec.ofInt 16 (max (-32768) (min 32767 (a.toInt - b.toInt)))) i)) ∧
  (∀ h o, LaneRule (.isubH2 h ⟨true, true⟩ o) fun i =>
    .w32 (halves (fun a b _ => BitVec.ofInt 16 (max 0 (min 65535 ((a.toNat : Int) - b.toNat)))) i)) ∧
  (∀ h o, LaneRule (.imulH2 h o) fun i => .w32 (halves (fun a b _ => a * b) i)) ∧
  (∀ h o, LaneRule (.imadH2 h o) fun i => .w32 (halves (fun a b c => a * b + c) i)) ∧
  (∀ h o, LaneRule (.iminH2 h false o) fun i => .w32 (halves (fun a b _ => if a.sle b then a else b) i)) ∧
  (∀ h o, LaneRule (.iminH2 h true o) fun i => .w32 (halves (fun a b _ => if a ≤ b then a else b) i)) ∧
  (∀ h o, LaneRule (.imaxH2 h false o) fun i => .w32 (halves (fun a b _ => if a.sle b then b else a) i)) ∧
  (∀ h o, LaneRule (.imaxH2 h true o) fun i => .w32 (halves (fun a b _ => if a ≤ b then b else a) i)) ∧
  (∀ h o, LaneRule (.ishlH2 h o) fun i => .w32 (halves (fun a b _ => a <<< b.toNat) i)) ∧
  (∀ h cc o, LaneRule (.isetH2 h cc false o) fun i => .w32 (halves (fun a b _ => if cmpS cc a b then 0xFFFF else 0) i)) ∧
  (∀ h cc o, LaneRule (.isetH2 h cc true o) fun i => .w32 (halves (fun a b _ => if cmpU cc a b then 0xFFFF else 0) i))) ∧
  ((∀ h p q, LaneRule (.pairFF h p q) fun i =>
    let x := pairF p i.fpcr (i.w 0) (i.w 1) (i.w 2)
    let y := pairF q i.fpcr (i.w 3) (i.w 4) (i.w 5)
    { d := x.1.setWidth 64, d2 := y.1, flags := x.2 ||| y.2 }) ∧
  (∀ h p q, LaneRule (.pairFI h p q) fun i =>
    let x := pairF p i.fpcr (i.w 0) (i.w 1) (i.w 2)
    let y := pairI q i.fpcr (i.w 3) (i.w 4) (i.w 5)
    { d := x.1.setWidth 64, d2 := y.1, flags := x.2 ||| y.2 }) ∧
  (∀ h p q, LaneRule (.pairII h p q) fun i =>
    let x := pairI p i.fpcr (i.w 0) (i.w 1) (i.w 2)
    let y := pairI q i.fpcr (i.w 3) (i.w 4) (i.w 5)
    { d := x.1.setWidth 64, d2 := y.1, flags := x.2 ||| y.2 }) ∧
  (∀ h p q, LaneRule (.pairFX h p q) fun i =>
    let x := pairF p i.fpcr (i.w 0) (i.w 1) (i.w 2)
    let y := pairI q i.fpcr (i.w 3) (i.w 4) (i.w 5)
    { d := x.1.setWidth 64, d2 := y.1, flags := x.2 ||| y.2 }))

/-- The FP instructions apply their operation of one element, after the sign modifiers, to the word or to each half, and the
complex ones to the parts (spec/04 R103, R109-R114). -/
def Obligations.FloatInstructions : Prop :=
  (∀ h t m o, LaneRule (.fadd h t m o) fun i => t.each m i.fpcr (fun f v x => fadd f v x.a x.b) i) ∧
  (∀ h t m o, LaneRule (.fmul h t m o) fun i => t.each m i.fpcr (fun f v x => fmul f v x.a x.b) i) ∧
  (∀ h t m o, LaneRule (.ffma h t m o) fun i => t.each m i.fpcr (fun f v x => ffma f v x.a x.b x.c) i) ∧
  (∀ h t m o, LaneRule (.fmin h t m o) fun i => t.each m i.fpcr (fun f v x => f.minmax (v.fz f) false x.a x.b) i) ∧
  (∀ h t m o, LaneRule (.fmax h t m o) fun i => t.each m i.fpcr (fun f v x => f.minmax (v.fz f) true x.a x.b) i) ∧
  (∀ h t cc m o, LaneRule (.fset h t cc m o) fun i => t.each m i.fpcr (fun f v x => fset cc f v x.a x.b) i) ∧
  (∀ h t m o, LaneRule (.fclamp h t m o) fun i => t.each m i.fpcr (fun f v x => fclamp f v x.a x.b x.c) i) ∧
  (∀ h m o, LaneRule (.fadd3 h m o) fun i => Fmt3.f32.each m i.fpcr (fun f v x => fadd3 f v x.a x.b x.c) i) ∧
  (∀ h t m o, LaneRule (.fmed3 h t m o) fun i => t.each m i.fpcr (fun f v x => fmed3 f v x.a x.b x.c) i) ∧
  (∀ h t m o, LaneRule (.frnd h t m o) fun i => t.each m i.fpcr (fun f v x => frnd f v x.a) i) ∧
  (∀ h m o, LaneRule (.fscale h .f32 m o) fun i =>
    Fmt3.f32.each { m with nb := false } i.fpcr (fun f v x => fscale f v x.a (BitVec.ofNat 32 x.b).toInt) i) ∧
  (∀ h m o, LaneRule (.fscale h .h2 m o) fun i =>
    Fmt3.h2.each { m with nb := false } i.fpcr (fun f v x => fscale f v x.a (BitVec.ofNat 16 x.b).toInt) i) ∧
  (∀ h m o, LaneRule (.fdp2 h .h2 m o) fun i => fpWord (fdp .fp16 16 2 (m.env i.fpcr) (m.onA .h2 i.a).toNat (m.onB .h2 i.b).toNat
    (m.onC .f32 i.c).toNat)) ∧
  (∀ h m o, LaneRule (.fdp2 h .b2 m o) fun i => fpWord (fdp .bf16 16 2 (m.env i.fpcr) (m.onA .b2 i.a).toNat (m.onB .b2 i.b).toNat
    (m.onC .f32 i.c).toNat)) ∧
  (∀ h e5 m o, LaneRule (.fdp4 h e5 m o) fun i => fpWord (fdp (if e5 then .e5m2 else .e4m3) 8 4 (m.env i.fpcr) i.a.toNat i.b.toNat
    (m.onC .f32 i.c).toNat)) ∧
  (∀ h o, LaneRule (.fclass h .f32 o) fun i => .w32 (1 <<< fclassBit .fp32 i.a.toNat)) ∧
  (∀ h o, LaneRule (.fclass h .h2 o) fun i => .w32 ((1 <<< fclassBit .fp16 (i.a.toNat % 65536)) |||
    (1 <<< (16 + fclassBit .fp16 (i.a.toNat / 65536))))) ∧
  (∀ h t m o, LaneRule (.cadd h t m o) fun i =>
    let a := t.readC (m.env i.fpcr) m.cja false i.a64
    let b := t.readC (m.env i.fpcr) m.cjb false i.b64
    t.writeC (m.env i.fpcr) [a.re, b.re] [a.im, b.im]) ∧
  (∀ h t m o, LaneRule (.cmul h t m o) fun i =>
    let a := t.readC (m.env i.fpcr) m.cja false i.a64
    let b := t.readC (m.env i.fpcr) m.cjb false i.b64
    t.writeC (m.env i.fpcr) [a.re.mul b.re, (a.im.mul b.im).negate] [a.re.mul b.im, a.im.mul b.re]) ∧
  (∀ h t m o, LaneRule (.cfma h t m o) fun i =>
    let a := t.readC (m.env i.fpcr) m.cja false i.a64
    let b := t.readC (m.env i.fpcr) m.cjb false i.b64
    let c := t.readC (m.env i.fpcr) false m.nc i.c64
    t.writeC (m.env i.fpcr) [a.re.mul b.re, (a.im.mul b.im).negate, c.re] [a.re.mul b.im, a.im.mul b.re, c.im]) ∧
  (∀ h t m o, LaneRule (.cabs2 h t m o) fun i =>
    let a := t.readC (m.env i.fpcr) m.cja false i.a64
    fpWord (sumTo .fp32 (m.env i.fpcr) [a.re.mul a.re, a.im.mul a.im]))

/-- The special functions, on the word or on each half, complete by the partition's unit; their sign modifiers are .ABS and .NA
(spec/04 R115, R116). What the ten functions give is SpecialFunctionResults. -/
def Obligations.SpecialFunctions : Prop :=
  (∀ h t abs na o, LaneRule (.frcp h t abs na o) (sfuLane .rcp t abs na)) ∧
  (∀ h t abs na o, LaneRule (.frsq h t abs na o) (sfuLane .rsq t abs na)) ∧
  (∀ h t abs na o, LaneRule (.fsqrt h t abs na o) (sfuLane .sqrt t abs na)) ∧
  (∀ h t abs na o, LaneRule (.fexp2 h t abs na o) (sfuLane .exp2 t abs na)) ∧
  (∀ h t abs na o, LaneRule (.flog2 h t abs na o) (sfuLane .log2 t abs na)) ∧
  (∀ h t abs na o, LaneRule (.fsin h t abs na o) (sfuLane .sin t abs na)) ∧
  (∀ h t abs na o, LaneRule (.fcos h t abs na o) (sfuLane .cos t abs na)) ∧
  (∀ h t abs na o, LaneRule (.ftanh h t abs na o) (sfuLane .tanh t abs na)) ∧
  (∀ h t abs na o, LaneRule (.fsigm h t abs na o) (sfuLane .sigm t abs na)) ∧
  (∀ h t abs na o, LaneRule (.fgelu h t abs na o) (sfuLane .gelu t abs na))

/-- R38, R39, on FP32, FP16 and BF16 codes x under either flush bit: a NaN gives the canonical NaN, with IOC where it signals; an
infinity and a zero (a flushed subnormal is one) what the table gives; FSQRT, FRSQ and FLOG2 of a negative number an invalid NaN.
FRCP, FSQRT and FRSQ of a number are the exact result rounded once under RNE, with its flags, and so are FEXP2 of a whole number and
FLOG2 of a power of two, whose result is exact; FSIN and FCOS of a multiple of a half are exactly ±1 or a zero. Everything else is
inexact, with IXC, and neither invalid nor a division by zero; FTANH and FGELU keep the sign of x, FEXP2 and FSIGM have none. That
a transcendental result nearer to a rounding boundary than the model's 440 bits tell is decided freely is log 12, on which no
clause rests. -/
def Obligations.SpecialFunctionResults : Prop := ∀ (f : FFmt) (fz : Bool) (x : Nat), f = .fp32 ∨ f = .fp16 ∨ f = .bf16 →
  let v : FEnv := ⟨.rne, false, fz, fz⟩
  let one := f.bias * 2 ^ f.mbits
  let nan := f.infCode + 2 ^ (f.mbits - 1)
  let inf := f.infCode
  let sign := 2 ^ f.signPos
  let u := f.num fz x
  let ng := f.neg x
  -- results of −∞, −0, +0 and +∞
  let row (fn : SfuFn) (a b c d : Nat × Flg) : Prop :=
    (f.isInf x = true → fn.apply f fz x = if ng then a else d) ∧
    (f.isNum x = true → u = 0 → fn.apply f fz x = if ng then b else c)
  (∀ fn : SfuFn, f.isNan x = true → fn.apply f fz x = (nan, if f.isSnan x then Flg.ioc else 0)) ∧
  row .rcp (sign, 0) (sign + inf, Flg.dzc) (inf, Flg.dzc) (0, 0) ∧
  row .rsq (nan, Flg.ioc) (sign + inf, Flg.dzc) (inf, Flg.dzc) (0, 0) ∧
  row .sqrt (nan, Flg.ioc) (sign, 0) (0, 0) (inf, 0) ∧
  row .exp2 (0, 0) (one, 0) (one, 0) (inf, 0) ∧
  row .log2 (nan, Flg.ioc) (sign + inf, Flg.dzc) (sign + inf, Flg.dzc) (inf, 0) ∧
  row .sin (nan, Flg.ioc) (sign, 0) (0, 0) (nan, Flg.ioc) ∧
  row .cos (nan, Flg.ioc) (one, 0) (one, 0) (nan, Flg.ioc) ∧
  row .tanh (sign + one, 0) (sign, 0) (0, 0) (one, 0) ∧
  row .sigm (0, 0) (one - 2 ^ f.mbits, 0) (one - 2 ^ f.mbits, 0) (one, 0) ∧
  row .gelu (sign, 0) (sign, 0) (0, 0) (inf, 0) ∧
  (f.isNum x = true → u ≠ 0 →
    (ng = true → SfuFn.sqrt.apply f fz x = (nan, Flg.ioc) ∧ SfuFn.rsq.apply f fz x = (nan, Flg.ioc) ∧
      SfuFn.log2.apply f fz x = (nan, Flg.ioc)) ∧
    f.Rounds v ng (halvesOf (f.perOne ^ 2) u) (SfuFn.rcp.apply f fz x) ∧
    (ng = false → f.Rounds v false (halvesOfRoot (u * f.perOne) 1) (SfuFn.sqrt.apply f fz x) ∧
      f.Rounds v false (halvesOfRoot (f.perOne ^ 3) u) (SfuFn.rsq.apply f fz x) ∧
      (∀ k : Nat, u = 2 ^ k → let e : Int := (k : Int) - (f.bias + f.mbits : Nat)
                        (SfuFn.log2.apply f fz x).2 = 0 ∧ f.Rounds v (decide (e < 0)) (halvesOf (e.natAbs * f.perOne) 1) (SfuFn.log2.apply f fz x))) ∧
    (∀ k : Nat, u = k * f.perOne → f.Rounds v false (if ng then halvesOf f.perOne (2 ^ k) else halvesOf (f.perOne * 2 ^ k) 1)
      (SfuFn.exp2.apply f fz x)) ∧
    (∀ k : Nat, 2 * u = k * f.perOne →
      SfuFn.sin.apply f fz x = ((if ng != (k % 4 == 3) then sign else 0) + (if k % 2 = 1 then one else 0), 0) ∧
      SfuFn.cos.apply f fz x = (if k % 4 = 0 then one else if k % 4 = 2 then sign + one else 0, 0)) ∧
    (let inexact (r : Nat × Flg) : Prop := r.2 &&& Flg.ixc = Flg.ixc ∧ r.2 &&& (Flg.ioc ||| Flg.dzc) = 0
     (∀ fn : SfuFn, fn = .tanh ∨ fn = .sigm ∨ fn = .gelu → inexact (fn.apply f fz x)) ∧
      ((∀ k : Nat, u ≠ k * f.perOne) → inexact (SfuFn.exp2.apply f fz x)) ∧
      (ng = false → (∀ k : Nat, u ≠ 2 ^ k) → inexact (SfuFn.log2.apply f fz x)) ∧
      ((∀ k : Nat, 2 * u ≠ k * f.perOne) → inexact (SfuFn.sin.apply f fz x) ∧ inexact (SfuFn.cos.apply f fz x)) ∧
      f.neg (SfuFn.tanh.apply f fz x).1 = ng ∧ f.neg (SfuFn.gelu.apply f fz x).1 = ng ∧
      f.neg (SfuFn.exp2.apply f fz x).1 = false ∧ f.neg (SfuFn.sigm.apply f fz x).1 = false))

/-- Conversions, packing and unpacking of a lane's elements (spec/04 R117-R128). -/
def Obligations.Conversions : Prop :=
  (∀ h m d a c y, LaneRule (.cvtf h m d a c y) fun i =>
    let r := (fmtOr y.dfmt).convert (m.env i.fpcr) ((fmtOr y.sfmt).value (m.env i.fpcr) (getElem (fmtOr y.sfmt) i.a y.sidx.toNat))
    { LaneOut.w32 (setElem (fmtOr y.dfmt) i.c y.didx.toNat r.1) with flags := r.2 }) ∧
  (∀ h sat d a c y, LaneRule (.cvtfSr h sat d a c y) (cvtfSrLane sat y)) ∧
  (∀ h u src m o, LaneRule (.cvtfi h u src m o) fun i =>
    fpWord ((if u then Fmt.uint32 else .int32).convert (m.env i.fpcr)
      ((cvt2Fmt src).value (m.env i.fpcr) (getElem (cvt2Fmt src) i.a 0)))) ∧
  (∀ h u dst m o, LaneRule (.cvtif h u dst m o) fun i =>
    fpWord ((cvt2Fmt dst).convert (m.env i.fpcr) ((if u then Fmt.uint32 else .int32).value (m.env i.fpcr) i.a.toNat))) ∧
  (∀ h sat src dst o, LaneRule (.cvtii h sat src dst o) fun i => .w32 (cvtii sat src dst i.a)) ∧
  (∀ h m o, LaneRule (.packh h m o) fun i =>
    let x := Fmt.fp16.convert (m.env i.fpcr) (Fmt.fp32.value (m.env i.fpcr) i.a.toNat)
    let y := Fmt.fp16.convert (m.env i.fpcr) (Fmt.fp32.value (m.env i.fpcr) i.b.toNat)
    fpWord (x.1 + 65536 * y.1, x.2 ||| y.2)) ∧
  (∀ h m o, LaneRule (.packb h m o) fun i =>
    let x := Fmt.bf16.convert (m.env i.fpcr) (Fmt.fp32.value (m.env i.fpcr) i.a.toNat)
    let y := Fmt.bf16.convert (m.env i.fpcr) (Fmt.fp32.value (m.env i.fpcr) i.b.toNat)
    fpWord (x.1 + 65536 * y.1, x.2 ||| y.2)) ∧
  (∀ h e5 m o, LaneRule (.packf8 h e5 false m o) fun i =>
    let r := pack2 (if e5 then .e5m2 else .e4m3) m i.fpcr i.a i.b
    { LaneOut.w32 ((i.c &&& 0xFFFF0000) ||| BitVec.ofNat 32 (r.1 + 256 * r.2.1)) with flags := r.2.2 }) ∧
  (∀ h e5 m o, LaneRule (.packf8 h e5 true m o) fun i =>
    let r := pack2 (if e5 then .e5m2 else .e4m3) m i.fpcr i.a i.b
    { LaneOut.w32 ((i.c &&& 0x0000FFFF) ||| BitVec.ofNat 32 ((r.1 + 256 * r.2.1) * 65536)) with flags := r.2.2 }) ∧
  (∀ h blk df m d a c, Gives (.packmx h blk df m d a c) fun x _ e =>
    (List.range (64 / (8 * 2 ^ blk.toNat))).flatMap (fun j => packmxBlock m (fmtOr df) e.g.fpcr
      (((e.active x.h).map (x.f.laneIn e true)).filter (fun i => i.lane / (8 * 2 ^ blk.toNat) = j)))) ∧
  (∀ h scb m d a c y, LaneRule (.unpkmx h scb m d a c y) fun i =>
    let df := (fmtOr y.dfmt).ffmt?.getD .fp32
    let r := widenScaled (m.env i.fpcr) df (narrowValue (fmtOr y.sfmt) (getElem (fmtOr y.sfmt) i.a y.sidx.toNat))
      (byteOf i.c scb.toNat).toNat
    fpWord (if y.didx = 1 ∧ df ≠ .fp32 then r.1 * 65536 else r.1, r.2)) ∧
  (∀ h o, LaneRule (.packt5 h o) fun i => .w32 (packt5 i.a i.b)) ∧
  (∀ h k o, Gives (.unpkt5 h k o) fun x _ e => e.lanes x (fun i => unpkt5 k.toNat i.a)) ∧
  (∀ h slot half pair fp16 m d a c, Gives (.cbdec h slot half pair fp16 m d a c) fun x s e => e.lanes x (fun i =>
    let idx := i.a.toNat / (if half then 65536 else 1) % 65536
    let one (k : Nat) := widenScaled (m.env i.fpcr) (if fp16 then .fp16 else .bf16)
      (cb16Element idx (s.codebookEntry slot.toNat i.lane (idx % 256)) k) (i.c.toNat % 256)
    fpWord ((one (2 * pair.toNat)).1 + 65536 * (one (2 * pair.toNat + 1)).1,
      (one (2 * pair.toNat)).2 ||| (one (2 * pair.toNat + 1)).2))) ∧
  (∀ h o, LaneRule (.cpack h o) fun i => .w32 ((i.a &&& 0xFFFF) ||| (i.b <<< 16))) ∧
  (∀ h o, LaneRule (.cpackU h false o) fun i => .w32 (i.a &&& 0xFFFF)) ∧
  (∀ h o, LaneRule (.cpackU h true o) fun i => .w32 (i.a >>> 16))

/-- Exchanges: an active lane gets A of the lane its rule names, and its own where that lane is outside the slot's mask; votes,
matches, reductions and scans take the contributing lanes (spec/05 R129-R134). -/
def Obligations.Exchanges : Prop :=
  (∀ h o, MaskRule (.qswpH h o) fun _ _ ls => eachActive ls fun i => .w32 (laneA ls (i.lane ^^^ 1) i)) ∧
  (∀ h o, MaskRule (.qswpV h o) fun _ _ ls => eachActive ls fun i => .w32 (laneA ls (i.lane ^^^ 2) i)) ∧
  (∀ h o, MaskRule (.qswpD h o) fun _ _ ls => eachActive ls fun i => .w32 (laneA ls (i.lane ^^^ 3) i)) ∧
  (∀ h k o, MaskRule (.qbcst h k o) fun _ _ ls => eachActive ls fun i => .w32 (laneA ls (i.lane / 4 * 4 + k.toNat) i)) ∧
  (∀ h op u f32 o, MaskRule (.qred h op u f32 o) fun fpcr _ ls => eachActive ls fun i =>
    qred op u f32 fpcr (ls.filter fun j => j.active && j.lane / 4 = i.lane / 4)) ∧
  (∀ h mode seg o, seg ≠ 0 → MaskRule (.shfl h mode seg o) fun _ _ ls => eachActive ls fun i =>
    .w32 (match shflSrc mode (2 ^ seg.toNat) i.lane (i.b.toNat % 64) with | some src => laneA ls src i | none => i.a)) ∧
  (∀ h mode o, Gives (.shfl h mode 0 o) fun x _ e => eachActive (e.maskLanes x) fun i =>
    .w32 (match shflSrc mode e.g.width i.lane (i.b.toNat % 64) with | some src => laneA (e.maskLanes x) src i | none => i.a)) ∧
  (∀ h o, MaskRule (.voteAny h o) fun _ _ ls => eachActive ls fun _ =>
    .w32 (if (contributing ls).any (fun i => i.a.getLsbD 0) then 1 else 0)) ∧
  (∀ h o, MaskRule (.voteAll h o) fun _ _ ls => eachActive ls fun _ =>
    .w32 (if (contributing ls).all (fun i => i.a.getLsbD 0) then 1 else 0)) ∧
  (∀ h o, MaskRule (.voteBal h o) fun _ _ ls => eachActive ls fun _ =>
    .w64 (maskOf (((contributing ls).filter (fun i => i.a.getLsbD 0)).map (·.lane)))) ∧
  (∀ h o, MaskRule (.matchLanes h o) fun _ _ ls => eachActive ls fun i =>
    .w64 (maskOf (((contributing ls).filter (fun j => j.a == i.a)).map (·.lane)))) ∧
  (∀ h op u f32 o, MaskRule (.lred h op u f32 o) fun fpcr n ls => eachActive ls fun _ => lred op u f32 fpcr n (contributing ls)) ∧
  (∀ h op u o, MaskRule (.lscan h op u false o) fun _ _ ls => eachActive ls fun i =>
    .w32 (((contributing ls).filter (fun j => j.lane < i.lane ∨ (i.launched ∧ j.lane = i.lane))).foldl (fun r j => redInt op u r j.a)
      (redIdentity op u false))) ∧
  (∀ h op u o, MaskRule (.lscan h op u true o) fun _ _ ls => eachActive ls fun i =>
    .w32 (((contributing ls).filter (fun j => j.lane < i.lane)).foldl (fun r j => redInt op u r j.a) (redIdentity op u false)))

/-! The uniform unit -/

/-- The uniform unit computes as the lane instructions do, once an issue, on S registers, constants and immediates (R135, R136).
-/
def Obligations.UniformArithmetic : Prop :=
  (∀ h u o, UniRule (.sadd h ⟨u, false⟩ o) h o.uform fun i => (i.a + i.b).setWidth 64) ∧
  (∀ h u o, UniRule (.ssub h ⟨u, false⟩ o) h o.uform fun i => (i.a - i.b).setWidth 64) ∧
  (∀ h o, UniRule (.sadd h ⟨false, true⟩ o) h o.uform fun i => (clampS (i.a.toInt + i.b.toInt)).setWidth 64) ∧
  (∀ h o, UniRule (.sadd h ⟨true, true⟩ o) h o.uform fun i => (clampU (i.a.toNat + i.b.toNat)).setWidth 64) ∧
  (∀ h o, UniRule (.ssub h ⟨false, true⟩ o) h o.uform fun i => (clampS (i.a.toInt - i.b.toInt)).setWidth 64) ∧
  (∀ h o, UniRule (.ssub h ⟨true, true⟩ o) h o.uform fun i => (clampU ((i.a.toNat : Int) - i.b.toNat)).setWidth 64) ∧
  (∀ h o, UniRule (.sadd64 h o) h ⟨o.d, true, [(.opd o.a, .i64), (o.b, .i64)]⟩ fun i => i.a64 + i.b64) ∧
  (∀ h o, UniRule (.smul h o) h o.uform fun i => (i.a * i.b).setWidth 64) ∧
  (∀ h o, UniRule (.smad h o) h o.uform fun i => (i.a * i.b + i.c).setWidth 64) ∧
  (∀ h o, UniRule (.smin h false o) h o.uform fun i => (if i.a.sle i.b then i.a else i.b).setWidth 64) ∧
  (∀ h o, UniRule (.smin h true o) h o.uform fun i => (if i.a ≤ i.b then i.a else i.b).setWidth 64) ∧
  (∀ h o, UniRule (.smax h false o) h o.uform fun i => (if i.a.sle i.b then i.b else i.a).setWidth 64) ∧
  (∀ h o, UniRule (.smax h true o) h o.uform fun i => (if i.a ≤ i.b then i.b else i.a).setWidth 64) ∧
  (∀ h o, UniRule (.sshl h o) h o.uform fun i => (i.a <<< i.b.toNat).setWidth 64) ∧
  (∀ h o, UniRule (.sshr h o) h o.uform fun i => (i.a >>> i.b.toNat).setWidth 64) ∧
  (∀ h o, UniRule (.sshra h o) h o.uform fun i => (i.a.sshiftRight i.b.toNat).setWidth 64) ∧
  (∀ h o lut, UniRule (.slogt h o lut) h o.uform fun i => (logt lut i.a i.b i.c).setWidth 64) ∧
  (∀ h o, UniRule (.spopc h o) h o.uform fun i => BitVec.ofNat 64 (popc i.a)) ∧
  (∀ h o, UniRule (.sclz h o) h o.uform fun i => BitVec.ofNat 64 (clz i.a)) ∧
  (∀ h u o, UniRule (.sbfe h u o) h o.uform fun i => (if u then bfeU i.a i.b else bfeS i.a i.b).setWidth 64) ∧
  (∀ h o, UniRule (.sbfi h o) h o.uform fun i => (bfi i.a i.b i.c).setWidth 64) ∧
  (∀ h cc o, UniRule (.sset h cc false o) h o.uform fun i => if cmpS cc i.a i.b then 0xFFFFFFFF else 0) ∧
  (∀ h cc o, UniRule (.sset h cc true o) h o.uform fun i => if cmpU cc i.a i.b then 0xFFFFFFFF else 0) ∧
  (∀ h o, UniRule (.smov h o) h o.uform fun i => i.a.setWidth 64) ∧
  (∀ h d imm, UniRule (.smovi h d imm) h ⟨d, false, [(.imm32 imm, .i32)]⟩ fun _ => imm.setWidth 64) ∧
  (∀ h sh o, UniRule (.slea h false sh o) h ⟨o.d, true, [(.opd o.a, .i64), (o.b, .i32)]⟩ fun i => i.a64 + (i.b.signExtend 64 <<< sh.toNat)) ∧
  (∀ h sh o, UniRule (.slea h true sh o) h ⟨o.d, true, [(.opd o.a, .i64), (o.b, .i32)]⟩ fun i => i.a64 + (i.b.setWidth 64 <<< sh.toNat))

/-- S2V, V2S, SRDSR and SWRSR (R136, R137): what each writes, at t + 4 or, for SWRSR, from the next instruction on. -/
def Obligations.UniformMoves : Prop := ∀ (h : Hdr) (s : State) (e : Env),
  (∀ o, Ready s e h (chkS2v o e) → e.active h ≠ [] →
    (∀ n, o.d = .v n → exec (.s2v h o) s = .next (s.uniIssued e h ((e.active h).map (fun l => ⟨.v, n.val, l, e.word o.a 0⟩)))) ∧
    (∀ n, o.d = .p n → exec (.s2v h o) s = .next (s.uniIssued e h ((e.active h).map (fun l => ⟨.p, n.val, l, e.word o.a 0⟩))))) ∧
  (∀ o n l, Ready s e h (chkV2s o e) → o.d = .s n → (e.active h).head? = some l →
    exec (.v2s h o) s = .next (s.uniIssued e h [⟨.s, n.val, 0, e.word o.a l⟩])) ∧
  (∀ sr d l, Ready s e h (chkSrdsr h sr.toNat d e) → (e.active h).head? = some l → sr ≠ 0x0B →
    (∀ n, d = .v n → exec (.srdsr h sr d) s =
      .next (s.uniIssued e h ((e.active h).map (fun x => ⟨.v, n.val, x, s.srRead e sr.toNat x l⟩)))) ∧
    (∀ n, d = .s n → exec (.srdsr h sr d) s = .next (s.uniIssued e h [⟨.s, n.val, 0, s.srRead e sr.toNat l l⟩]))) ∧
  (∀ d l, Ready s e h (chkSrdsr h 0x0B d e) → (e.active h).head? = some l →
    (∀ n, d = .v n → exec (.srdsr h 0x0B d) s =
      .next ((s.uniIssued e h ((e.active h).map (fun x => ⟨.v, n.val, x, BitVec.ofNat 32 e.clk⟩))).modGroup e.core e.ctx
        (fun g => { g with clkCap := g.clkCap.put e.n (BitVec.ofNat 64 e.clk) }))) ∧
    (∀ n, d = .s n → exec (.srdsr h 0x0B d) s =
      .next ((s.uniIssued e h [⟨.s, n.val, 0, BitVec.ofNat 32 e.clk⟩]).modGroup e.core e.ctx
        (fun g => { g with clkCap := g.clkCap.put e.n (BitVec.ofNat 64 e.clk) })))) ∧
  (∀ sr b l, Ready s e h (chkSwrsr h sr.toNat b e) → (e.active h).head? = some l →
    exec (.swrsr h sr b) s = .next (s.issued e h ((e.g.flagUp (e.flag h)).srWrite sr.toNat (lo32 (e.operand .i32 b l))) [e.uniOp s h []]))

/-! Control flow -/

/-- R138, R139: a taken transfer goes to its target, and one that is not taken goes on; R72: CALL and CALLX write the link, LOOP
its counter less one, four clks after the issue. -/
def Obligations.TransfersOfControl : Prop := ∀ (h : Hdr) (s : State) (e : Env),
  (∀ any off, Ready s e h (ctrlChk e none false) →
    let taken := if any then (lanesOf e.sl.mask).any (e.guard h) else (lanesOf e.sl.mask).all (e.guard h)
    (taken = true → Moves (.bra h any off) s e h (e.sl.pc + 4 * off.signExtend 64) false none) ∧
    (taken = false → exec (.bra h any off) s = .next (s.sIssued e h none))) ∧
  (∀ off, Ready s e h (ctrlChk e none true) →
    (e.lead h = true → Moves (.brau h off) s e h (e.sl.pc + 4 * off.signExtend 64) false none) ∧
    (e.lead h = false → exec (.brau h off) s = .next (s.sIssued e h none))) ∧
  (∀ a, Ready s e h (chkBrx a e) →
    (e.lead h = true → Moves (.brx h a) s e h (e.g.kernel + (e.word a 0).signExtend 64) true none) ∧
    (e.lead h = false → exec (.brx h a) s = .next (s.sIssued e h none))) ∧
  (∀ l off, Ready s e h (chkCall l e) →
    (e.lead h = true → Moves (.call h l off) s e h (e.sl.pc + 4 * off.signExtend 64) false
      (some (l.toNat, (e.sl.pc + BitVec.ofNat 64 (4 * e.len) - e.g.kernel).setWidth 32))) ∧
    (e.lead h = false → exec (.call h l off) s = .next (s.sIssued e h none))) ∧
  (∀ l a, Ready s e h (chkCallx l a e) →
    (e.lead h = true → Moves (.callx h l a) s e h (e.g.kernel + (e.word a 0).signExtend 64) true
      (some (l.toNat, (e.sl.pc + BitVec.ofNat 64 (4 * e.len) - e.g.kernel).setWidth 32))) ∧
    (e.lead h = false → exec (.callx h l a) s = .next (s.sIssued e h none))) ∧
  (∀ l, Ready s e h (chkRet l e) →
    (e.lead h = true → Moves (.ret h l) s e h (e.g.kernel + (e.sreg l.toNat).signExtend 64) true none) ∧
    (e.lead h = false → exec (.ret h l) s = .next (s.sIssued e h none))) ∧
  (Ready s e h (ctrlChk e none false) →
    (e.lead h = true → e.sl.reconv ≠ 0 →
      Moves (.join h) s e h (e.g.kernel + 4 * e.sl.reconv.signExtend 64) false none) ∧
    (e.lead h = false ∨ e.sl.reconv = 0 → exec (.join h) s = .next (s.sIssued e h none))) ∧
  (∀ c off, Ready s e h (chkLoop c e) →
    (e.lead h = true → e.sreg c.toNat ≠ 1 → Moves (.loop h c off) s e h (e.sl.pc + 4 * off.signExtend 64) false
      (some (c.toNat, e.sreg c.toNat - 1))) ∧
    (e.lead h = true → e.sreg c.toNat = 1 → exec (.loop h c off) s = .next (s.sIssued e h (some (c.toNat, 0)))) ∧
    (e.lead h = false → exec (.loop h c off) s = .next (s.sIssued e h none)))

/-- What NOP, YIELD, TRAP, BKPT, MARK and EXIT do when they may issue (spec/05 R143-R145, R147; spec/12 R298; spec/14 R350): NOP
goes on; YIELD waits where the step found another stream that may issue; TRAP and BKPT take their trap where the guard is true in
the leading lane, or BKPT stops the rope; MARK writes a trace record in a traced launch; EXIT takes its active lanes out, once the
stack entries that slots left empty would take have been read, or waits or traps for one of them and has no effect. That BKPT has
issued before its rope stops is the model's choice (log 36), and so is that YIELD does nothing without an active lane (log 90). -/
def Obligations.FlowInstructions : Prop := ∀ (h : Hdr) (s : State) (e : Env), Ready s e h {} →
  exec (.nop h) s = .next (s.sIssued e h none) ∧
  ((s.cur.others = [] ∨ e.active h = [] → exec (.yield h) s = .next (s.sIssued e h none)) ∧
    (s.cur.others ≠ [] → e.active h ≠ [] → exec (.yield h) s = .next ((s.sIssued e h none).modSlot e.core e.ctx e.n (fun sl =>
      { sl with wait := .yield (e.clk + 16) s.cur.others })))) ∧
  (∀ code, (e.lead h = true → exec (.trap h code) s = .next (s.trapAt e 22 e.sl.mask (code.setWidth 64))) ∧
    (e.lead h = false → exec (.trap h code) s = .next (s.sIssued e h none))) ∧
  (∀ code, (e.lead h = false → exec (.bkpt h code) s = .next (s.sIssued e h none)) ∧
    (e.lead h = true → (s.stopsOn (clusterOf e.core) e.asid && (s.cluster (clusterOf e.core)).dbgctl.getLsbD 1) = false →
      exec (.bkpt h code) s = .next (s.trapAt e 21 e.sl.mask (code.setWidth 64))) ∧
    (e.lead h = true → (s.stopsOn (clusterOf e.core) e.asid && (s.cluster (clusterOf e.core)).dbgctl.getLsbD 1) = true →
      s.baseCamp = false → exec (.bkpt h code) s = .next ((s.sIssued e h none).stopRope e 3 code.toNat))) ∧
  (∀ code imm, (s.launches.look e.g.launch).any (fun l => l.trace) = false ∨ e.lead h = false →
    exec (.mark h code) s = .next (s.sIssued e h none) ∧ exec (.markImm h code imm) s = .next (s.sIssued e h none)) ∧
  (∀ code imm, (s.launches.look e.g.launch).any (fun l => l.trace) = true → e.lead h = true →
    let rec' (imm : Word) := leBytes 16 (s.stamp e.core e.g e.n false) ++ leBytes 4 code.toNat ++ leBytes 4 imm.toNat ++ leBytes 8 e.clk
    exec (.mark h code) s = .next ((s.sIssued e h none).ringPut 2 (rec' 0)) ∧
    exec (.markImm h code imm) s = .next ((s.sIssued e h none).ringPut 2 (rec' imm))) ∧
  (e.active h = [] → exec (.exit h) s = .next (s.sIssued e h none)) ∧
  (e.active h ≠ [] → s.baseCamp = false →
    let g := e.g.exitLanes (maskOf (e.active h))
    let gone (s : State) : State :=
      ((s.sIssued e h none).modGroup e.core e.ctx (fun g => g.exitLanes (maskOf (e.active h)))).afterLeave e.core e.ctx e.n
    (e.g.owners = [] ∨ g.emptySlots = [] → exec (.exit h) s = .next (gone s)) ∧
    (∀ s1, s.preRead 65 e g.emptySlots g.live e.g.owners false = (s1, none) → s1.env? = some e → exec (.exit h) s = .next (gone s1)) ∧
    (∀ s1 t, s.preRead 65 e g.emptySlots g.live e.g.owners false = (s1, some t) → exec (.exit h) s = .next t))

/-- R140: the branch that may split a slot. No lane takes it: it goes on. All take it: the slot moves. Some take it and the
other slot is free with no reconvergence address set: the others go on in the other slot. Otherwise they are pushed. -/
def Obligations.DivergentBranch : Prop := ∀ (s : State) (e : Env) (h : Hdr) (off : BitVec 27) (rc : BitVec 23),
  (Instr.braDivergent h off rc).Issues s e h → s.baseCamp = false →
  let i := Instr.braDivergent h off rc
  let t := maskOf ((lanesOf e.sl.mask).filter (e.guard h))
  let a := e.sl.pc + 4 * off.signExtend 64
  let f := e.sl.pc + BitVec.ofNat 64 (4 * e.len)
  let n := e.sl.mask &&& ~~~t
  let alone : Prop := (e.g.slotOf (1 - e.n)).valid = false ∧ e.sl.reconv = 0
  (t = 0 → exec i s = .next (s.sIssued e h none)) ∧
  (t ≠ 0 → t = e.sl.mask → Moves i s e h a false none) ∧
  (t ≠ 0 → t ≠ e.sl.mask → alone → ∀ s1 w, Fetches s e a s1 w → headerOk w = true → e.regionOk w a false = true →
    exec i s = .next (((s1.sIssued e h none).modGroup e.core e.ctx (fun g =>
      (g.setSlot e.n { g.slotOf e.n with mask := t, reconv := e.rcOff rc }).setSlot (1 - e.n)
        { Slot.free with valid := true, clause := f, pc := f, mask := n, reconv := e.rcOff rc,
                         readyAt := (g.slotOf e.n).readyAt, passed := (g.slotOf e.n).passed })).placed e a)) ∧
  (t ≠ 0 → t ≠ e.sl.mask → ¬alone → e.k.dstk ≤ e.g.depth →
    exec i s = .next (s.trapAt e 17 e.sl.mask (e.g.entryAddr e.g.depth))) ∧
  (t ≠ 0 → t ≠ e.sl.mask → ¬alone → e.g.depth < e.k.dstk → ∀ s0 x o s1 w, s.entryPlace e e.g.depth = (s0, some x, o) →
    Fetches s0 e a s1 w → headerOk w = true → e.regionOk w a false = true →
    exec i s = .next (((((s1.sIssued e h none).writeEntry e e.g.depth x ⟨n, codeOff e.g.kernel f, e.sl.reconv⟩).modGroup
      e.core e.ctx (fun g => { g with depth := g.depth + 1, owners := e.n :: g.owners }.setSlot e.n
        { g.slotOf e.n with mask := t, reconv := e.rcOff rc }))).placed e a))

/-- R148: TRET resumes the trapped slot, in its live lanes, at the trapping instruction, or with .SKIP past it; FPCR, FPSR and
FMASK's lanes as R146 keeps them. -/
def Obligations.ReturnFromTrap : Prop := ∀ (s : State) (e : Env) (h : Hdr) (skip : Bool) (i : Instr),
  i = (if skip then .tretSkip h else .tret h) → i.Issues s e h → s.baseCamp = false →
  (e.lead h = false → exec i s = .next (s.sIssued e h none)) ∧
  (e.lead h = true → e.g.save = .saving → exec i s = .next ((s.sIssued e h none).modGroup e.core e.ctx (fun g =>
    { g with save := .saved }.setSlot e.n { g.slotOf e.n with atStop := true }))) ∧
  (∀ t, e.lead h = true → e.g.save ≠ .saving → e.g.trapCtx = some t → t.slot = e.n → t.regs = none →
    t.mask &&& e.g.live ≠ 0 → ∃ s' g', exec i s = .next s' ∧ s'.group? e.core e.ctx = some g' ∧
      g'.inHandler = false ∧ g'.trapCtx = none ∧ g'.fpcr = e.g.fpcr ∧ g'.v = e.g.v ∧ g'.s = e.g.s ∧ g'.p = e.g.p ∧
      s'.mem = s.mem ∧ (g'.slotOf e.n).mask = t.mask &&& e.g.live ∧ (g'.slotOf e.n).reconv = t.reconv ∧
      (skip = false ∨ t.atHeader = true → (g'.slotOf e.n).pc = t.pc ∧ (g'.slotOf e.n).clause = t.clause ∧
        (g'.slotOf e.n).pos = t.pos ∧ (t.isMem = true → (g'.slotOf e.n).tretLanes = some e.g.fmask)) ∧
      (skip = true → t.atHeader = false → (g'.slotOf e.n).pc = t.pc + BitVec.ofNat 64 (4 * t.len) ∧
        (g'.slotOf e.n).tretLanes = none))

/-- R131: QHELP makes the active launched lanes whose A bit 0 is 1 helpers, and its predicate says which lanes are launched
after it; a quad left with no launched lane leaves when the write completes. Where lanes so leave a slot empty, the stack entry it would take
is read first, and a fault there is QHELP's trap or wait, with no other effect. That a helper of such a quad leaves with it in the
other slot and on the stack too is the model's choice (log 91). -/
def Obligations.HelperTurn : Prop := ∀ (s : State) (e : Env) (h : Hdr) (o : DA),
  (Instr.qhelp h o).Issues s e h → s.baseCamp = false →
  let f : AluForm := { o.form .raw with pOk := true, pOnly := true }
  let turn := maskOf ((e.active h).filter (fun l => e.isLaunched l && (e.word o.a l).getLsbD 0))
  let la := e.g.launched &&& ~~~turn
  let gone := if turn = 0 then 0 else Group.emptyQuads e.g.live la
  let g := (e.g.toHelpers turn).dropHelpers gone
  let done (s : State) : State := s.issued e h { e.g.flagUp (e.flag h) with launched := la, helper := e.g.helper ||| turn }
    [e.laneOp s h f (some (e.clk + 4)) (.help e.n gone) ((e.active h).map (fun l => (l, LaneOut.w32 (if la.getLsbD l then 1 else 0))))]
  (e.active h = [] → exec (.qhelp h o) s = .next (s.sIssued e h none)) ∧
  (e.active h ≠ [] → (e.g.owners = [] ∨ g.emptySlots = [] → exec (.qhelp h o) s = .next (done s)) ∧
    (∀ s1, s.preRead 65 e g.emptySlots g.live e.g.owners false = (s1, none) → s1.env? = some e → exec (.qhelp h o) s = .next (done s1)) ∧
    (∀ s1 t, s.preRead 65 e g.emptySlots g.live e.g.owners false = (s1, some t) → exec (.qhelp h o) s = .next t))

/-! Memory and ordering instructions -/

/-- A memory instruction whose accesses are aligned, are not held and all come out done has its effect: R155, R157-R160,
R164-R168. -/
def Obligations.MemoryInstructionsComplete : Prop := ∀ (i : Instr) (s : State) (e : Env) (h : Hdr) (m : MemOp) (fl : Flg),
  i.Issues s e h → i.memOp? e = some (m, fl) →
    (m.lanes = [] → exec i s = .next (s.sIssued e h none)) ∧
    (m.lanes ≠ [] → m.aligned → m.Free s e → (∀ sc, i.releases? = some sc → s.release e sc true = .go) →
      ∀ s2 rs, m.run (m.belays (m.begun s e h fl) e).1 e (m.belays (m.begun s e h fl) e).2 = (s2, rs) →
        (∀ r ∈ rs, r.isDone = true) → s2.stuck = none → exec i s = .next (m.ended s2 e h rs))

/-- R162, R163, R173-R175, R178, R179: the instructions that order, acquire, drop and wait, where the guard is true in the leading
lane and the other slot has no access in flight that goes before. R181, R386: a prefetch asks for the line of each active lane's
address; an address it may not read asks for nothing. -/
def Obligations.OrderingInstructions : Prop :=
  (∀ (s : State) (e : Env) (h : Hdr), e.lead h = true → s.baseCamp = false →
  (∀ off, (Instr.bchk h off).Issues s e h → (s.core e.core).belayPending e.ctx = false →
    let struck := (s.core e.core).belayStruck e.ctx || e.g.lostStruck
    let a := e.sl.pc + 4 * off.signExtend 64
    (struck = false → exec (.bchk h off) s = .next (((s.sIssued e h none).clearBelay e).emptyLog e)) ∧
    (∀ s1 w, struck = true → Fetches s e a s1 w → headerOk w = true → e.regionOk w a false = true →
      exec (.bchk h off) s = .next ((((s1.sIssued e h none).clearBelay e).emptyLog e).placed e a))) ∧
  ((Instr.bclr h).Issues s e h → exec (.bclr h) s = .next ((s.sIssued e h none).clearBelay e)) ∧
  (∀ ord sc, (Instr.fence h ord sc).Issues s e h → (ord.getLsbD 1 = true → s.release e sc.toNat true = .go) →
    (ord.getLsbD 1 = false → e.siblingPends = false) → (ord.getLsbD 0 = true → (s.core e.core).atomPending e.ctx e.g.uid = false) → exec (.fence h ord sc) s =
      .next ((if ord.getLsbD 0 then s.acquire e.core e.ctx sc.toNat else s).retire e h)) ∧
  (∀ sc b, (Instr.acqr h sc b).Issues s e h → e.siblingPends = false → exec (.acqr h sc b) s =
    .next ((((s.drainCore (e.sval b)).dropClean (e.sval b)).acquire e.core e.ctx sc.toNat).retire e h)) ∧
  ((Instr.await h).Issues s e h →
    (∀ a b, e.g.monitor = .armed a b → exec (.await h) s = .next ((s.sIssued e h none).hold e (.await e.clk))) ∧
    ((∀ a b, e.g.monitor ≠ .armed a b) → exec (.await h) s =
      .next ((s.sIssued e h none).modGroup e.core e.ctx (fun g => { g with monitor := .idle }))))) ∧
  (∀ (s : State) (e : Env) (h : Hdr) (adr : Addr), s.baseCamp = false →
  let ask (gpref l2 : Bool) (s : State) (l : Nat) : State :=
    let va := e.addrOf .global adr l
    match s.translate (clusterOf e.core) e.asid va .read with
    | (t, .ok x) =>
      let t := { t with stuck := s.stuck }
      if !x.peer && !x.gen && s.hole x.addr then t
      else let r := e.req (va.toNat % 2 ^ 57) x
      if gpref then (if x.gen then t.homePref r else t)
      else if l2 then
        (if x.peer ∨ x.cp = 2 ∨ (x.gen = true ∧ (t.genValid r.asid (r.va / 128) = false ∨ t.invalHolds r = true)) then t
          else (t.fetchReq r x).1)
      else if x.gen ∨ x.peer then t else t.reachHome (lineKey false (x.addr / 128))
    | (t, _) => { t with stuck := s.stuck }
  let asked (gpref l2 : Bool) : State :=
    if e.active h = [] then s.retire e h
    else (((e.active h).foldl (ask gpref l2) s).memDone e ((e.active h).map (fun l => (l, e.addrOf .global adr l)))).retire e h
  ((Instr.prefL2 h adr).Issues s e h → exec (.prefL2 h adr) s = .next (asked false true)) ∧
  ((Instr.prefLlc h adr).Issues s e h → exec (.prefLlc h adr) s = .next (asked false false)) ∧
  ((Instr.gpref h adr).Issues s e h → exec (.gpref h adr) s = .next (asked true false)))

/-- R269, R270: the barrier-object instructions, where A names an object of the workgroup and the guard is true in the leading
lane. BINIT, BARV, BEXP and BINVAL have their effect for a slot that holds a launched lane. A BWAIT
whose wait saw PCOUNT leave t goes on at its re-issue. R271, R294: BARWG and BARRP release,
count the slot's lanes as arrived and wait, and look whether the round is complete. -/
def Obligations.BarrierObjectInstructions : Prop :=
  (∀ (s : State) (e : Env) (h : Hdr) (a : Opd) (t : Nat),
  e.lead h = true → s.baseCamp = false → s.objPlace e (e.word a 0).toNat = .inl t →
  s.scratchWaits e (e.word a 0).toNat 16 = false → e.siblingPends = false →
  (∀ b, (Instr.binit h a b).Issues s e h → exec (.binit h a b) s =
    .next (if e.hasLaunched then (s.objEvent t (.init (e.sval b))).retire e h else s.sIssued e h none)) ∧
  (∀ b, (Instr.bexp h a b).Issues s e h → exec (.bexp h a b) s =
    .next (if e.hasLaunched then (s.objEvent t (.expect (e.sval b))).retire e h else s.sIssued e h none)) ∧
  ((Instr.binval h a).Issues s e h → exec (.binval h a) s =
    .next (if e.hasLaunched then (s.objEvent t .inval).retire e h else s.sIssued e h none)) ∧
  (∀ sc d b, (Instr.barv h false sc d a b).Issues s e h → e.hasLaunched = true →
    s.release e sc.toNat (decide (3 ≤ sc.toNat)) = .go → exec (.barv h false sc d a b) s =
      .next ((if e.sval b = 0 then s else s.objEvent t (.arrive (e.sval b))).retire e h)) ∧
  (∀ sc (r : Fin 64) b, (Instr.barv h true sc (.s r) a b).Issues s e h → e.hasLaunched = true →
    s.release e sc.toNat (decide (3 ≤ sc.toNat)) = .go → exec (.barv h true sc (.s r) a b) s =
      .next ((if e.sval b = 0 then s.dataWrite e h [⟨.s, r.val, 0, BitVec.ofNat 32 (s.obj t).pcount⟩]
        else (s.dataWrite e h [⟨.s, r.val, 0, BitVec.ofNat 32 (s.obj t).pcount⟩]).objEvent t (.arrive (e.sval b))).retire e h)) ∧
  (∀ sc (r : Fin 96) b, (Instr.btry h sc (.p r) a b).Issues s e h →
    let passed := (s.obj t).pcount != (e.word b 0).toNat
    let s1 := s.dataWrite e h ((e.active h).map (fun l => ⟨.p, r.val, l, if passed then 1 else 0⟩))
    ((s.obj t).poison = false → exec (.btry h sc (.p r) a b) s =
      .next ((if passed then s1.acquire e.core e.ctx sc.toNat else s1).retire e h)) ∧
    ((s.obj t).poison = true → exec (.btry h sc (.p r) a b) s = .next (s.trapAt e 19 e.sl.mask ((e.word a 0).setWidth 64)))) ∧
  (∀ sc b, (Instr.bwait h sc a b).Issues s e h →
    (e.sl.bpast = true ∨ ((s.obj t).poison = false ∧ (s.obj t).pcount ≠ (e.word b 0).toNat) → exec (.bwait h sc a b) s =
      .next ((s.acquire e.core e.ctx sc.toNat).retire e h)) ∧
    (e.sl.bpast = false → (s.obj t).poison = false → (s.obj t).pcount = (e.word b 0).toNat → exec (.bwait h sc a b) s =
      .next (s.hold e (.bwait t (e.word a 0).toNat (e.word b 0).toNat))) ∧
    (e.sl.bpast = false → (s.obj t).poison = true → exec (.bwait h sc a b) s =
      .next (s.trapAt e 19 e.sl.mask ((e.word a 0).setWidth 64))))) ∧
  (∀ (s : State) (e : Env) (h : Hdr), e.lead h = true → s.baseCamp = false →
  let arrive (k : Nat) (w : Wait) : State :=
    ((((s.opIssued e h (e.op s (e.flag h) .barrier)).modGroup e.core e.ctx (fun g =>
      { g with arrived := g.arrived.putD 0 k (g.arrived.lookD 0 k ||| e.sl.mask) })).modSlot e.core e.ctx e.n (fun sl =>
      { sl with wait := w, afterBarwg := decide (k < 4) })).checkBarriers e.g.wg)
  (∀ n sc, (Instr.barwg h n sc).Issues s e h → s.release e sc.toNat (decide (3 ≤ sc.toNat)) = .go →
    exec (.barwg h n sc) s = .next (arrive n.toNat (.barwg n.toNat sc.toNat))) ∧
  (∀ n, (Instr.barrp h n).Issues s e h → s.release e 3 true = .go →
    exec (.barrp h n) s = .next (arrive (4 + n.toNat) (.barrp n.toNat))))

/-- R397, R398: the enqueue instructions on a queue the group may use, where the guard is true in the leading lane. -/
def Obligations.EnqueueInstructions : Prop := ∀ (s : State) (e : Env) (h : Hdr) (a : Opd),
  e.lead h = true → s.baseCamp = false →
  let q := (e.word a 0).toNat
  let x := s.qdesc q
  (∀ pd (d : Fin 64) b, s.queueBad e q = false → e.siblingPends = false → (Instr.qresv h pd (.s d) a b).Issues s e h →
    let n := e.sval b
    let ok := decide ((x.widx + n + 2 ^ 64 - x.ridx) % 2 ^ 64 ≤ x.size)
    let s1 := if ok then s.cohWrite false (cellsFrom (s.qAddr q + 16) (leBytes 8 (x.widx + n))) else s
    exec (.qresv h pd (.s d) a b) s = .next ((s1.dataWrite e h (sWrites (.s d) true (BitVec.ofNat 64 x.widx) ++
      (if pd = 127 then [] else (e.active h).map (fun l => ⟨.p, pd.toNat, l, if ok then 1 else 0⟩)))).retire e h)) ∧
  (∀ b c s1 bs s2 y r, s.queueBad e q = false → (Instr.qput h a b c).Issues s e h →
    let img := e.wide .i64 c 0
    let va := (s1.qdesc q).slotVa (e.wide .i64 b 0).toNat + 4
    img.toNat % 64 = 0 → (s.core e.core).acqPending e.ctx e.g.uid = false → e.siblingPends = false →
    s.loadBytes e (img + 4) 60 { alloc := some .glob, victim := false } = (s1, .done bs) → s1.writePlace e va = (s2, some y, .done r) →
    exec (.qput h a b c) s = .next (((s2.start e (e.op s2 (e.flag h) .store)).enqueue e (some e.serial)
      (.bytes (storeCells (va.toNat % 2 ^ 57) y.tgt bs (decide (y.cp = 2))))).retire e h)) ∧
  (∀ sc b d s1 y r, s.queueBad e q = false → (Instr.qcommit h sc a b d).Issues s e h → s.release e sc.toNat true = .go →
    let va := x.slotVa (e.wide .i64 b 0).toNat
    s.writePlace e va = (s1, some y, .done r) → exec (.qcommit h sc a b d) s =
      .next (((s1.homeStore e va y (leBytes 4 (e.word d 0).toNat)).markWork q).retire e h)) ∧
  (∀ store sc c s1 y r, (Instr.qsig h store sc a c).Issues s e h → s.release e sc.toNat true = .go →
    let va := e.wide .i64 a 0
    va.toNat % 8 = 0 → s.writePlace e va = (s1, some y, .done r) → exec (.qsig h store sc a c) s =
      .next (((s1.flushLine e.core y.tgt).homeStore e va y (leBytes 8 (if store then (e.wide .i64 c 0).toNat
        else (s1.flushLine e.core y.tgt).numAt y.peer y.addr 8 + (e.wide .i64 c 0).toNat))).retire e h))

/-! Tiles, accumulators, quartets -/

/-- R213, R220-R222, R226: the tile instructions that are done at issue, where their checks pass. -/
def Obligations.TileInstructionsAtIssue : Prop := ∀ (s : State) (e : Env) (h : Hdr), e.lead h = true →
  (∀ t, (Instr.tzeroTile h t).Issues s e h → exec (.tzeroTile h t) s =
    .next ((s.sIssued e h none).modEnvGroup e (fun g =>
      { g.setTile t.toNat (List.replicate 8192 0) 0x20000A with bitmaps := g.bitmaps.del t.toNat }))) ∧
  (∀ n, (Instr.tzeroAcc h n).Issues s e h → exec (.tzeroAcc h n) s =
    .next ((s.sIssued e h none).modEnvGroup e (fun g =>
      { g with accs := g.accs.setRange 0 (n.toNat * 4096) (List.replicate 4096 0), atags := g.atags.putD 1 n.toNat 1 }))) ∧
  (∀ td ts, (Instr.tmov h td ts).Issues s e h → exec (.tmov h td ts) s =
    .next ((s.sIssued e h none).modEnvGroup e (fun g =>
      { g.setTile td.toNat (g.tileData ts.toNat) (g.tagOf ts.toNat) with
        bitmaps := g.bitmaps.putD 0 td.toNat (g.bitmaps.lookD 0 ts.toNat) }))) ∧
  (∀ td ts, (Instr.ttrn h td ts).Issues s e h →
    (((e.g.tag ts.toNat).fmt = 9 ∨ (e.g.tag ts.toNat).fmt = 10) ∧ (e.g.tag ts.toNat).dom = 0 → exec (.ttrn h td ts) s =
      .next ((s.sIssued e h none).modEnvGroup e (fun g => g.setTile td.toNat
        ((List.range 8192).map (fun o => ((g.tileData ts.toNat)[o / 2 % 64 * 128 + o / 128 * 2 + o % 2]?).getD 0))
        ({ g.tag ts.toNat with bmv := false } : Tag).tile))) ∧
    (¬(((e.g.tag ts.toNat).fmt = 9 ∨ (e.g.tag ts.toNat).fmt = 10) ∧ (e.g.tag ts.toNat).dom = 0) →
      exec (.ttrn h td ts) s = .next (s.trapAt e 13 e.sl.mask e.sl.pc))) ∧
  (∀ t, (Instr.tbmp h t).Issues s e h →
    ((e.g.tag t.toNat).dom ≠ 1 → exec (.tbmp h t) s = .next ((s.sIssued e h none).modEnvGroup e (fun g =>
      { g with bitmaps := g.bitmaps.putD 0 t.toNat (bitmapOf (g.tag t.toNat).fmt (g.tileData t.toNat)),
               tags := g.tags.putD 0x20000A t.toNat ({ g.tag t.toNat with bmv := true } : Tag).tile }))) ∧
    ((e.g.tag t.toNat).dom = 1 → exec (.tbmp h t) s = .next (s.trapAt e 13 e.sl.mask e.sl.pc))) ∧
  (∀ n a, (Instr.ttagWr h true n a).Issues s e h →
    (accTagBad (e.word a 0) = false → exec (.ttagWr h true n a) s = .next ((s.sIssued e h none).modEnvGroup e (fun g =>
      { g with atags := g.atags.putD 1 n.toNat
                 ({ Tag.ofAcc ((e.word a 0).setWidth 64) with fresh := (g.atag n.toNat).fresh } : Tag).acc }))) ∧
    (accTagBad (e.word a 0) = true → exec (.ttagWr h true n a) s = .next (s.trapAt e 13 e.sl.mask e.sl.pc))) ∧
  (∀ n a, (Instr.ttagWr h false n a).Issues s e h →
    (tagCause ((e.word a 0).setWidth 128) = none → exec (.ttagWr h false n a) s =
      .next ((s.sIssued e h none).modEnvGroup e (fun g =>
        { g with tags := g.tags.putD 0x20000A n.toNat ({ Tag.ofTile ((e.word a 0).setWidth 128) with bmv := false } : Tag).tile }))) ∧
    (∀ k, tagCause ((e.word a 0).setWidth 128) = some k → exec (.ttagWr h false n a) s =
      .next (s.trapAt e k e.sl.mask e.sl.pc))) ∧
  (∀ acc n (r : Fin 320), (Instr.ttagRd h acc n (.v r)).Issues s e h → exec (.ttagRd h acc n (.v r)) s =
    .next (s.dataIssued e h ((e.active h).map (fun l => ⟨.v, r.val, l,
      if acc then (e.g.atagOf n.toNat).setWidth 32 else (e.g.tagOf n.toNat).setWidth 32⟩)) [⟨acc, n.toNat, false⟩])) ∧
  (∀ acc n (r : Fin 64), (Instr.ttagRd h acc n (.s r)).Issues s e h → exec (.ttagRd h acc n (.s r)) s =
    .next (s.dataIssued e h [⟨.s, r.val, 0,
      if acc then (e.g.atagOf n.toNat).setWidth 32 else (e.g.tagOf n.toNat).setWidth 32⟩] [⟨acc, n.toNat, false⟩]))

/-- R226, R233, R244-R246: accumulator segments, ACCOUT, FBCHK (R226: it tells whether a format block is valid, and never traps on one) and
the transforms, where their checks pass. R234: ACCOUT, where its accumulators agree, puts in flight a tile of its format with every
element converted from its place. -/
def Obligations.AccumulatorsAndTransforms : Prop :=
  (∀ (s : State) (e : Env) (h : Hdr),
  (∀ colb n (r : Fin 320) b, (Instr.accrd h colb n (.v r) b).Issues s e h → e.active h ≠ [] →
    exec (.accrd h colb n (.v r) b) s = .next (s.dataIssued e h ((e.active h).map (fun l => ⟨.v, r.val, l,
      if (e.g.atag n.toNat).fresh then 0
      else e.g.accs.lookD 0 (n.toNat * 4096 + 64 * (e.sval b % 64) + (e.g.width * colb.toNat + l))⟩)) [readA n.toNat])) ∧
  (∀ colb n a b, (Instr.accwr h colb n a b).Issues s e h → e.active h ≠ [] →
    exec (.accwr h colb n a b) s = .next ((s.sIssued e h none).modEnvGroup e (fun g =>
      { g with
        accs := (e.active h).foldl
          (fun m l => m.putD 0 (n.toNat * 4096 + 64 * (e.sval b % 64) + e.g.width * colb.toNat + l) (e.word a l))
          (if (e.g.atag n.toNat).fresh then g.accs.setRange 0 (n.toNat * 4096) (List.replicate 4096 0) else g.accs),
        atags := g.atags.putD 1 n.toNat ({ e.g.atag n.toNat with fresh := false } : Tag).acc }))) ∧
  (∀ f (r : Fin 96) a, (Instr.fbchk h f (.p r) a).Issues s e h → e.active h ≠ [] →
    exec (.fbchk h f (.p r) a) s = .next (s.dataIssued e h ((e.active h).map (fun l => ⟨.p, r.val, l,
      if (if f then blockCauseF (e.blockWords a) else blockCause (e.blockWords a)) = none then 1 else 0⟩)) [])) ∧
  (∀ c td ts, (Instr.xfwd h c td ts).Issues s e h → e.lead h = true →
    let t := e.g.tag ts.toNat
    (t.dom = 0 ∧ (t.fmt = 9 ∨ t.fmt = 10) ∧ t.exp + c.toNat ≤ 127 → exec (.xfwd h c td ts) s =
      .next (s.opIssued e h { e.op s (e.flag h) (.xfwd c.toNat td.toNat ts.toNat) with uses := [writeT td.toNat, readT ts.toNat] })) ∧
    (¬(t.dom = 0 ∧ (t.fmt = 9 ∨ t.fmt = 10) ∧ t.exp + c.toNat ≤ 127) → exec (.xfwd h c td ts) s =
      .next (s.trapAt e 13 e.sl.mask e.sl.pc))) ∧
  (∀ fold sat td ts, (Instr.xinv h fold sat td ts).Issues s e h → e.lead h = true →
    let t := e.g.tag ts.toNat
    let ok := t.dom = 1 ∧ (t.fmt = 19 ∨ t.fmt = 20) ∧ t.blen ≠ 0 ∧ (fold = false → -128 ≤ t.exp - t.blen)
    (ok → exec (.xinv h fold sat td ts) s =
      .next (s.opIssued e h
        { e.op s (e.flag h) (.xinv fold sat td.toNat ts.toNat) with uses := [writeT td.toNat, readT ts.toNat] })) ∧
    (¬ok → exec (.xinv h fold sat td ts) s = .next (s.trapAt e 13 e.sl.mask e.sl.pc)))) ∧
  (∀ (s : State) (e : Env) (h : Hdr) (fmt : BitVec 5) (n : BitVec 3) (td : BitVec 4) (a : Opd),
  (Instr.accout h fmt n td a).Issues s e h → e.lead h = true →
  let f := (Fmt.ofCode fmt).getD .fp32
  let as := (List.range (accoutCount fmt)).map (fun i => n.toNat + i)
  let ts := (as.map e.g.atag).filter (fun t => !t.fresh)
  let cplx : Prop := f = .c16 ∨ f = .cbf
  let plane (i : Nat) (im : Bool) : Prop := (e.g.atag (n.toNat + i)).fresh = true ∨ (e.g.atag (n.toNat + i)).imag = im
  let agree : Prop := (∀ t ∈ ts, ∀ u ∈ ts, t.dom = u.dom ∧ t.blen = u.blen ∧ t.exp = u.exp) ∧
    ((∃ t ∈ ts, t.dom = 1) → cplx ∧ plane 0 false ∧ plane 1 true)
  (¬agree → exec (.accout h fmt n td a) s = .next (s.trapAt e 13 e.sl.mask e.sl.pc)) ∧
  (agree → ∃ code : Nat → Nat → Nat,
    exec (.accout h fmt n td a) s = .next (s.opIssued e h { e.op s (e.flag h) (.tile td.toNat (packTile f code)
      (match ts with | t :: _ => (⟨fmt.toNat, t.dom, t.blen, t.exp, false, false, false⟩ : Tag) | [] => Tag.plain fmt.toNat).tile none) with
        uses := writeT td.toNat :: as.map readA }) ∧
    ∀ m c, m < 64 →
      let el (i col : Nat) : Word := ((e.g.accData (n.toNat + i))[64 * m + col]?).getD 0
      let ctl := e.word a 0
      (f = .fp32 → c < 32 → code m c = (el 0 (32 * (if ctl.getLsbD 3 then 1 else 0) + c)).toNat) ∧
      (cplx → c < 32 → let col := 32 * (if ctl.getLsbD 3 then 1 else 0) + c
        let part := if f = .c16 then Fmt.fp16 else .bf16
        code m c = accoutCode part ctl (el 0 col) + 65536 * accoutCode part ctl (el 1 col)) ∧
      (f ≠ .fp32 → ¬cplx → c < 64 * accoutCount fmt → code m c = accoutCode f ctl (el (c / 64) (c % 64)))))

/-- R216-R219: TLD, TLD.X, TST and TST.X move a tile by its rows, a header's 16 bytes first where one is kept, when their
addresses and strides are aligned, nothing holds them, and every byte is read or may be written. -/
def Obligations.TileMemoryInstructions : Prop := ∀ (s : State) (e : Env) (h : Hdr) (i : Instr) (r : TileArg),
  e.lead h = true → s.baseCamp = false → i.Issues s e h →
  let head := if r.hdr then [(r.adr e, 16)] else []
  let rows := (tileRows r.x r.sp r.hdr r.fmt (r.adr e) (r.stride e)).chunks
  let chunks := head ++ rows
  ((i = .tld h r.fmt r.hdr r.sp r.t r.a r.b r.off ∧ r.x = false) ∨ (i = .tldX h r.fmt r.hdr r.sp r.t r.a r.b r.off ∧ r.x = true) →
    r.misaligned e false = none → (s.core e.core).atomsQueued e.ctx e.g.uid = false → e.siblingPends = false →
    (r.sp = true ∨ s.logFull e.g = false) → (r.sp = true → ∀ c ∈ chunks, s.scratchWaits e c.1 c.2 = false) →
    ∀ s0 s1 hb s2 bs, (if r.sp then (s, false) else s.watchAccess e false true chunks) = (s0, false) →
      s0.gather e r.sp true head = (s1, ⟨hb, none⟩) →
      let tag : BitVec 128 := if r.hdr then BitVec.ofNat 128 (leNat hb) else (Tag.plain r.fmt.toNat).tile
      (r.hdr = true → tagCause tag = none) → s1.gather e r.sp true rows = (s2, ⟨bs, none⟩) →
      exec i s = .next (((s2.start e { e.op s2 (e.flag h) (.tile r.t.toNat (fromRows r.x (tileEb r.fmt) bs)
        ({ Tag.ofTile tag with bmv := false } : Tag).tile (some ⟨r.sp, rows, r.hdr, if r.x then some (tileEb r.fmt) else none⟩)) with
          uses := [writeT r.t.toNat], sample := s2.tileSample e h chunks true }).memCounted e).retire e h)) ∧
  ((i = .tst h r.fmt r.hdr r.sp r.t r.a r.b r.off ∧ r.x = false) ∨ (i = .tstX h r.fmt r.hdr r.sp r.t r.a r.b r.off ∧ r.x = true) →
    (r.hdr = true ∨ (e.g.tag r.t.toNat).fmt = r.fmt.toNat) → r.misaligned e true = none →
    (s.core e.core).acqPending e.ctx e.g.uid = false → e.siblingPends = false →
    ∀ s0 s1 ps, (if r.sp then (s, false) else s.watchAccess e true false chunks) = (s0, false) →
      s0.gatherPlaces e r.sp chunks = (s1, ps, none) →
      let bytes := (if r.hdr then leBytes 16 ({ e.g.tag r.t.toNat with bmv := false } : Tag).tile.toNat else []) ++
        toRows r.x (tileEb r.fmt) (e.g.tileData r.t.toNat)
      let cells := chunkCells chunks ps bytes
      exec i s = .next ((((s1.start e { e.op s1 (e.flag h) .store with
          uses := [readT r.t.toNat], sample := s1.tileSample e h chunks false }).enqueue e (some e.serial)
        (if r.sp then .scratch (cells.map (fun c => (c.tgt, c.b)))
          else .bytes (cells.map (fun c => { c with va := c.va % 2 ^ 57 })))).memCounted e).retire e h))

/-- R225, R227-R229, R249, R250: a member of a quartet passes its own checks, reads its format block, its scales and its codebook at its
arrival, and arrives at the gate; with a guard false in the leading lane it arrives with nothing; without its quartet it traps. That
what it captured at its arrival, Tb's EXP and BLEN among it, is what the round uses is the model's choice (log 66). -/
def Obligations.QuartetMembersArrive : Prop := ∀ (s : State) (e : Env) (h : Hdr) (tb ta : BitVec 4) (sf : Opd) (b4 : Bool)
    (i : Instr) (opc base n : Nat), s.baseCamp = false → i.Issues s e h →
  (i = .mma h b4 tb ta sf ∧ opc = 0x179 ∧ base = (if b4 then 4 else 0)) ∨
    (i = .mmas h b4 tb ta sf ∧ opc = 0x17A ∧ base = (if b4 then 4 else 0)) ∨ (i = .mmaf h tb ta sf ∧ opc = 0x17B ∧ base = 0) →
  n = (if opc = 0x17B then 8 else 4) →
  let fb := e.blockWords sf
  let w0 := fb.headD 0
  let pair := opc != 0x17B && blockBfmt w0 == 18
  let k := (pairK (blockAfmt w0) (blockBfmt w0)).getD 32
  let sa := if opc = 0x17B then [] else scaleAddrs ((fb[1]?).getD 0) k (blockAblk w0)
  let sb := if opc = 0x17B then [] else scaleAddrs ((fb[2]?).getD 0) k (blockBblk w0)
  (4 * (e.g.grpid / 4) + 4 ≤ e.k.groups → e.lead h = false → exec i s = .next (s.arriveGate e h [] none)) ∧
  (∀ ex, 4 * (e.g.grpid / 4) + 4 ≤ e.k.groups → e.lead h = true →
    (if opc = 0x17B then e.mmafCause false ta.toNat tb.toNat fb else e.mmaCause false ta.toNat tb.toNat base fb) = .inr ex →
    s.scaleBad e (sa ++ sb) = none → s.scaleWaits e (sa ++ sb) = false →
    let bs := s.scales e (sa ++ sb)
    exec i s =
      .next (s.arriveGate e h (matUses ta.toNat tb.toNat base n pair) (some ({
        opc := opc, base := base, ta := ta.toNat, tb := tb.toNat, fb := fb, ascale := bs.take sa.length,
        bscale := bs.drop sa.length,
        book := if pair then (List.range 256).map (s.codebookEntry (bits ((fb[3]?).getD 0).toNat 0 2) 0) else [],
        expB := (e.g.tag tb.toNat).exp, blenB := (e.g.tag tb.toNat).blen }, ex)))) ∧
  (¬ 4 * (e.g.grpid / 4) + 4 ≤ e.k.groups → exec i s = .next (s.trapAt e 16 e.sl.mask e.sl.pc))

/-! Engines, channels, fills -/

/-- R255, R265, R267, R272, R274, R275, R277, R235: where their operands pass, the engine instructions (CHAIN, TOPK, RESID, DECW, BPOP and
CBLD) put their operation in flight with its token or flag raised, and the slot goes on (a DECW's slot waits for the decoder); with a
guard that is false in the leading lane they do nothing. That CBLD's source is read whole at its issue, and again unit by unit by turns
before its completion, is the model's choice (log 42). -/
def Obligations.EngineOperationsStart : Prop := ∀ (s : State) (e : Env) (h : Hdr),
  (∀ tok ch a, (Instr.chain h tok ch a).Issues s e h →
    (e.leads h = true → e.siblingPends = false → exec (.chain h tok ch a) s =
      .next (s.opIssued e h (e.op s (some (4 + tok.toNat)) (.chain ch.toNat (e.wide .i64 a 0).toNat)))) ∧
    (e.leads h = false → exec (.chain h tok ch a) s = .next (s.sIssued e h none))) ∧
  (∀ tok n slot res a b c, (Instr.topk h tok n slot res a b c).Issues s e h →
    (e.leads h = true → e.siblingPends = false → s.rangeCause e (e.word a 0).toNat (256 * (n.toNat + 1)) 8 = none →
      s.rangeCause e (e.word c 0).toNat (8 * e.sval b) 8 = none → exec (.topk h tok n slot res a b c) s =
        .next (s.opIssued e h (e.op s (some (4 + tok.toNat))
          (.topk (e.word a 0).toNat (e.sval b) (64 * (n.toNat + 1)) slot.toNat res (e.word c 0).toNat)))) ∧
    (e.leads h = false → exec (.topk h tok n slot res a b c) s = .next (s.sIssued e h none))) ∧
  (∀ tok fl slot a b, (Instr.resid h tok fl slot a b).Issues s e h →
    (e.leads h = true → e.siblingPends = false → s.rangeCause e (e.word a 0).toNat (4 * e.sval b) 4 = none → exec (.resid h tok fl slot a b) s =
      .next (s.opIssued e h (e.op s (some (4 + tok.toNat)) (.resid (e.word a 0).toNat (e.sval b) slot.toNat fl)))) ∧
    (e.leads h = false → exec (.resid h tok fl slot a b) s = .next (s.sIssued e h none))) ∧
  (∀ tok sg (d : Fin 320) a (c : Fin 64) nb (i : Instr) (form : Nat),
    (i = .decwBit h tok sg (.v d) a (.s c) nb ∧ form = 0) ∨ (i = .decwDlt h tok sg (.v d) a (.s c) nb ∧ form = 1) ∨
      (i = .decwRle h tok sg (.v d) a (.s c) nb ∧ form = 2) → i.Issues s e h →
    (e.lead h = true → e.siblingPends = false → exec i s = .next ((({ s with serial := s.serial + 1 }.start e { e.op s (some (4 + tok.toNat))
      (.decode form sg (nb.toNat + 1) (e.word a 0).toNat (e.word (.s c) 0).toNat d.val c.val e.sl.mask h.stall.toNat) with
        fpsr := form == 2,
        dests := (List.range ((nb.toNat + 1) * (64 / e.g.width))).map (fun i => (RegCls.v, d.val + i, e.sl.mask)) ++
          [(RegCls.s, c.val, e.sl.mask)] }).count e.core 0 1).hold e (.decode e.serial))) ∧
    (e.lead h = false → exec i s = .next (s.sIssued e h none))) ∧
  (∀ q (d : Fin 320), (Instr.bpop h q (.v d)).Issues s e h →
    (e.lead h = true → exec (.bpop h q (.v d)) s =
      .next (s.opIssued e h { e.op s (e.flag h) (.bpop q.toNat d.val e.sl.mask) with
        dests := (List.range (64 / e.g.width)).map (fun r => (RegCls.v, d.val + r, e.sl.mask)) })) ∧
    (e.lead h = false → exec (.bpop h q (.v d)) s = .next (s.sIssued e h none))) ∧
  (∀ slot a b bs, (Instr.cbld h slot a b).Issues s e h →
    let adr := ((e.word a 0).toNat + e.sval b) % 2 ^ 32
    (e.lead h = true → adr % 4 = 0 → s.scratchWaits e adr 768 = false → e.siblingPends = false →
      (s.window e.g.wg adr 768).isSome = true → s.loadScratch e adr 768 = .done bs → exec (.cbld h slot a b) s =
      .next (s.opIssued e h (e.op s (e.flag h)
        (.cbld slot.toNat ((List.range 256).map (fun j => leNat bs / 2 ^ (24 * j) % 2 ^ 24)) adr)))) ∧
    (e.lead h = false → exec (.cbld h slot a b) s = .next (s.sIssued e h none)))

/-- R255, R258-R264: a tensor copy reads its record, or its two, checks box, alignment, window and barrier object, and puts its operation in
flight with its token raised. That TCOPYX is left out of the check of an odd first coordinate, and that the record is read after the
group's earlier stores, unit by unit where a turn asks for it, is the model's choice (log 42). -/
def Obligations.TensorCopiesStart : Prop := ∀ (s : State) (e : Env) (h : Hdr) (tok : BitVec 3) (bar : Bool) (d a c : Opd)
    (b : Fin 64) (off : BitVec 23) (s1 s2 : State) (r r2 : Layout) (o : Option Nat),
  let va := e.wide .i64 a 0
  let ws := e.boxWords b.val
  let copy (kind : Nat) (data : Layout) (idx : Option Layout) : CopyOp :=
    ⟨kind, data, idx, boxExtents ws, boxCoords ws, (e.word d 0 + off.signExtend 32).toNat, o⟩
  let fits (s : State) (k : CopyOp) : Prop :=
    boxBad k.data ws = false ∧ (k.data.ebn = 1 → k.kind ≠ 2 → k.coord.headD 0 % 2 = 0) ∧ (k.kind = 3 → k.data.adds = true) ∧
    (∀ i, k.index = some i → indirectBad i k.data ws = false) ∧ k.dst % (if k.data.swz = 0 then 16 else 128) = 0 ∧
    (s.window e.g.wg k.dst k.size).isSome = true ∧
    (bar = false → o = none) ∧ (bar = true → ∃ t, s.objPlace e (e.word c 0).toNat = .inl t ∧ o = some t)
  let free : Prop := ((s.core e.core).ops.filter (fun o => isCopy o.what)).length < 32
  e.leads h = true → e.siblingPends = false → free → va.toNat % 64 = 0 → s.noStores e →
    (RecordAt s e va s1 r →
      ((Instr.tcopy h tok bar d a (.s b) c off).Issues s e h → fits s1 (copy 0 r none) →
        exec (.tcopy h tok bar d a (.s b) c off) s =
          .next (s1.opIssued e h (e.op s1 (some (4 + tok.toNat)) (.copy (copy 0 r none))))) ∧
      ((Instr.tcopys h tok bar d a (.s b) c off).Issues s e h → fits s1 (copy 1 r none) →
        exec (.tcopys h tok bar d a (.s b) c off) s =
          .next (s1.opIssued e h (e.op s1 (some (4 + tok.toNat)) (.copy (copy 1 r none))))) ∧
      ((Instr.tcopyr h tok bar d a (.s b) c off).Issues s e h → fits s1 (copy 3 r none) →
        exec (.tcopyr h tok bar d a (.s b) c off) s =
          .next (s1.opIssued e h (e.op s1 (some (4 + tok.toNat)) (.copy (copy 3 r none))))) ∧
      ((Instr.tcopyx h tok bar d a (.s b) c off).Issues s e h → s1.noStores e → RecordAt s1 e (va + 64) s2 r2 →
        fits s2 (copy 2 r2 (some r)) → exec (.tcopyx h tok bar d a (.s b) c off) s =
          .next (s2.opIssued e h (e.op s2 (some (4 + tok.toNat)) (.copy (copy 2 r2 (some r)))))))

/-- R267, R275-R277: CHSTAT and the bobbin instructions, where the guard is true in the leading lane. -/
def Obligations.BobbinsAndChannels : Prop := ∀ (s : State) (e : Env) (h : Hdr), e.lead h = true → s.baseCamp = false →
  (∀ ch (d : Fin 64), (Instr.chstat h ch (.s d)).Issues s e h → exec (.chstat h ch (.s d)) s =
    .next (s.dataIssued e h [⟨.s, d.val, 0, BitVec.ofNat 32 ((if (s.chan ch.toNat).running then 1 else 0) +
      (if (s.chan ch.toNat).err then 2 else 0) + 256 * (s.chan ch.toNat).cause)⟩] [])) ∧
  (∀ (d : Fin 96) a (b : Fin 64), (Instr.bstart h (.p d) a (.s b)).Issues s e h →
    let free := (s.bobbin? e.core).isNone && decide (32 ≤ s.freeRegs e.core 0)
    let s1 := s.dataIssued e h ((e.active h).map (fun l => ⟨.p, d.val, l, if free then 1 else 0⟩)) []
    (free = false → exec (.bstart h (.p d) a (.s b)) s = .next s1) ∧
    (free = true → ∃ g s2, exec (.bstart h (.p d) a (.s b)) s = .next s2 ∧ s2.group? e.core 64 = some g ∧
      (∀ k, k ≠ gkey e.core 64 → s2.groups.look k = s1.groups.look k) ∧ s2.mem = s.mem ∧
      g.launch = e.g.launch ∧ g.wg = e.g.wg ∧ g.grpid = e.g.grpid ∧ g.width = 64 ∧ g.vAlloc = 32 ∧ g.sAlloc = 16 ∧ g.pAlloc = 16 ∧
      g.starter = some e.ctx ∧ g.slot0.valid = true ∧ g.slot0.pc = codeAddr e.g.kernel (e.word a 0) ∧ g.slot1.valid = false ∧
      (∀ i, i < 8 → g.s.lookD 0 i = ((e.boxWords b.val)[i]?).getD 0) ∧
      (∀ x, s.launches.look e.g.launch = some x → ∀ i, 8 ≤ i → g.s.lookD 0 i = (x.args[i]?).getD 0))) ∧
  (∀ q a, (Instr.bpush h q a).Issues s e h → ((s.core e.core).queues.lookD [] q.toNat).length < 16 → exec (.bpush h q a) s =
    .next ((s.modCore e.core (fun k => { k with queues := k.queues.put q.toNat ((s.core e.core).queues.lookD [] q.toNat ++
      [(List.range 64).map (e.word a)]) })).retire e h)) ∧
  ((Instr.bstop h).Issues s e h → exec (.bstop h) s = .next (match s.bobbin? e.core with
    | none => s.sIssued e h none
    | some b => if e.ctx = 64 ∨ b.launch = e.g.launch then (s.sIssued e h none).removeGroup e.core 64 else s.sIssued e h none))

/-- R375, R376, R378-R380: the instructions of a fill task, where the guard is true in the leading lane. -/
def Obligations.FillInstructions : Prop := ∀ (s : State) (e : Env) (h : Hdr), e.lead h = true → s.baseCamp = false →
  (∀ k t w a, s.taskTracker e.g.launch = some (k, t) → s.wgs.look e.g.wg = some w →
    let adr := (e.word a 0).toNat
    (Instr.fillc h a).Issues s e h → e.siblingPends = false → adr % 128 = 0 → adr + 2 ^ t.blklog ≤ wgBytes w →
    exec (.fillc h a) s = .next (((s.modTracker k (fun t => { t with decided := true })).start e
      (e.op s (e.flag h) (.fillc k (w.core * 2 ^ 20 + w.base * 384 + adr)))).retire e h)) ∧
  (∀ k t, s.taskTracker e.g.launch = some (k, t) →
    ((Instr.filla h).Issues s e h → e.siblingPends = false → s.drained e 3 = true → exec (.filla h) s = .next (((s.dataWrite e h []).decideBlock k none).retire e h)) ∧
    (∀ b, (Instr.fillv h b).Issues s e h → exec (.fillv h b) s =
      .next ((s.modTracker k (fun t => { t with fillv := e.sval b % 4 })).retire e h))) ∧
  (∀ which d b, (Instr.ftinfo h which d b).Issues s e h → exec (.ftinfo h which d b) s =
    .next (s.dataIssued e h (wideWrites d (e.active h) (BitVec.ofNat 32
      (s.ftinfo e which.toNat (if which = 3 then e.sval b else 0)))) [])) ∧
  (∀ d adr l r x, (Instr.fillq h d adr).Issues s e h → e.active h = l :: r →
    let va := e.addrOf .global adr l
    (s.translate (clusterOf e.core) e.asid va .read).2 = .ok x → exec (.fillq h d adr) s =
      .next (s.dataIssued e h (wideWrites d (l :: r) (BitVec.ofNat 32
        (if x.gen then s.lineState e.asid (va.toNat % 2 ^ 57) x.blklog else 255))) []))

/-- STOPR, PSAMP, LOGFL and EVINC do what their rules give where the guard is true in the leading lane, and only go on where it
is false (spec/12 R298; spec/14 R348, R349, R351); an unassigned opcode takes ILLEGAL_OPCODE (spec/03 R90). -/
def Obligations.DebugInstructions : Prop := ∀ (s : State) (e : Env) (h : Hdr),
  (∀ code, (Instr.stopr h code).Issues s e h → s.baseCamp = false → exec (.stopr h code) s =
    .next (if e.lead h && s.stopsOn (clusterOf e.core) e.asid then (s.sIssued e h none).stopRope e 2 code.toNat
      else s.sIssued e h none)) ∧
  (∀ code, (Instr.psamp h code).Issues s e h → exec (.psamp h code) s =
    .next (if e.lead h then (s.sIssued e h none).modSlot e.core e.ctx e.n (fun sl => { sl with psamp := some code })
      else s.sIssued e h none)) ∧
  ((Instr.logfl h).Issues s e h → exec (.logfl h) s =
    .next (if e.lead h then ((s.start e (e.op s (e.flag h) .logfl)).emptyLog e).retire e h else s.sIssued e h none)) ∧
  (∀ i b, (Instr.evinc h i b).Issues s e h → exec (.evinc h i b) s =
    .next (if e.lead h then (s.sIssued e h none).count e.core (192 + 16 * partOf e.ctx + i.toNat) (e.sval b % 64)
      else s.sIssued e h none)) ∧
  (∀ w, s.env? = some e → exec (.unassignedOpcode w) s = .next (s.trapAt e 1 e.sl.mask e.sl.pc))

/-! The device's own steps -/

/-- R58, R116, R236, R247, R256, R266, R272-R274: a unit serves its oldest operation, which completes: its results are made and its flag is
lowered. What they are is EngineResults. Late is a load whose bytes are read again when it completes: the model's choice (log 56), as is
the order by clk and partition in which a shared unit serves (log 45). -/
def Obligations.UnitsComplete : Prop := ∀ (s : State) (c : Nat) (o : Op), s.stuck = none → s.baseCamp = false →
  (∀ part, (s.core c).ops.find? (fun o => o.what == .sfu part) = some o →
    exec (.sfuComplete c part) s = .next (s.complete c o)) ∧
  (∀ core id late, core = c → s.findOp c id = some o →
    let i := Instr.loadComplete core id late
    (∀ m, o.what = .load m → s.opPending c o = false → late = false → exec i s = .next ((s.sampleDone c o).complete c o)) ∧
    (∀ m, o.what = .load m → s.opPending c o = false → late = true →
      let r := s.lateRead c o m (fun _ => true)
      exec i s = .next ((r.1.sampleDone c r.2).complete c r.2)) ∧
    (o.what = .data → exec i s = .next (s.complete c o)) ∧
    (∀ q d l, o.what = .bpop q d l → exec i s = .next (s.bpopDone c o q d l)) ∧
    (∀ t bs tag src, o.what = .tile t bs tag src → exec i s =
      .next (((s.modGroup c o.ctx (fun g => if g.uid = o.uid then g.setTile t bs tag else g)).sampleDone c o).complete c o)) ∧
    (∀ slot book src, o.what = .cbld slot book src → exec i s = .next (s.cbldDone c o slot book)) ∧
    (∀ k place, o.what = .fillc k place → s.forked c o = true → exec i s = .next (s.fillcDone c o k place)) ∧
    (o.what = .logfl → (s.rings.lookD Ring.reset 3).wait = [] → exec i s = .next (s.complete c o))) ∧
  (∀ id k, s.findOp c id = some o → o.what = .copy k → exec (.copyComplete c id) s = .next (s.copyComplete c o k)) ∧
  (s.oldestOp c isDecode = some o → exec (.decodeComplete c) s = .next (s.decodeComplete c o)) ∧
  (s.oldestOp c isTopk = some o → s.engReady c o = true →
    (∀ inp k n slot res out, o.what = .topk inp k n slot res out →
      exec (.topkComplete c) s = .next (s.topk c o inp k n slot res out)) ∧
    (∀ a n slot flush, o.what = .resid a n slot flush → exec (.topkComplete c) s = .next (s.residOut c o a n slot flush))) ∧
  (∀ id r x k qs, s.findOp c id = some o → o.what = .matrix r x k qs →
    (∀ p ∈ (s.core c).ops, ∀ r' x' k' qs', p.what = .matrix r' x' k' qs' → r ≤ r') →
    exec (.matrixComplete c id) s = .next (s.roundDone c r)) ∧
  (s.oldestOp c isTransform = some o →
    (∀ k td ts, o.what = .xfwd k td ts → exec (.transformService c) s =
      .next ((s.modGroup c o.ctx (fun g => g.xfwd k td ts)).complete c o)) ∧
    (∀ fold sat td ts, o.what = .xinv fold sat td ts → exec (.transformService c) s =
      .next ((s.modGroup c o.ctx (fun g => g.xinv fold sat td ts)).complete c o))) ∧
  (∀ ch, exec (.chainRecord ch 0) s = .next (s.acceptChain ch)) ∧
  (∀ ch phase, phase ≠ 0 →
    exec (.chainRecord ch phase) s = .next (State.chanStages (if phase = 2 then 1 else 3 - (s.chan ch).stage) s ch))

/-- What the engines, the decoder, the top-k unit and the matrix arrays write. R263: a TCOPY or TCOPYX whose reads go through puts into the
place of each element of its boxes what the element's bytes, as the engine read them, hold, or the fill value of one outside the tensor.
R274: TOPK ranks its input, with the residual added where RES is 1, by magnitude, a NaN above every number and equal ones by index,
writes the first k with their index, and leaves in the slot what it dropped; RESID writes the slot, and with .FLUSH zeroes it. R272,
R273: DECW reads each block's fields from the stream and writes value j of block t in lane j mod W of register t × (64 / W) + j div W,
in the slot's lanes, and the offset it reached. R230, R251: a round writes each element of each member's accumulators, by R40's runs
(FloatsAreCorrectlyRounded says what a run adds), and their tags. That NaNs among themselves rank by index in TOPK (log 43), and that a
round is done in one step from what its members captured (log 66), is the model's choice. -/
def Obligations.EngineResults : Prop :=
  (∀ (s s0 s1 : State) (c : Nat) (o : Op) (k : CopyOp) (t : Nat) (starts : List (Option (List Int))) (ps0 ps : List (Nat × List Byte)),
    k.kind = 0 ∨ k.kind = 2 → s.engReady c o = true → s.engLost (opKey o.id) = none → s.window o.wg k.dst k.size = some t →
    s.copyStarts (s.who c o) o.parts k = (s0, .ok (ps0, starts)) → (∀ u, partAt ps0 (3 * u + 1) = none) →
    State.capture 0 (unitsOf ((k.ranges starts).map (fun x => x.1))) s0 (s0.who c o) ps0 = (s1, .ok ps) →
    k.data.swz < 4 → k.dst % (if k.data.swz = 0 then 16 else 128) = 0 → k.box.headD 0 * k.data.ebn % 32 = 0 →
    ∀ y ∈ k.elems starts,
      (∀ b, k.bar = some b → ∀ i, i < 16 → ∀ j, j ≤ k.data.ebn / 2 → b + i ≠ k.scratchNib t y.1 / 2 + j) →
      k.data.elem (s.copyComplete c o k).scrByte (k.scratchNib t y.1) = k.data.stored (match y.2 with
        | some p => k.data.elem (partByte ps 0) p
        | none => k.data.fillValue)) ∧
  (∀ (s : State) (c : Nat) (o : Op) (inp k n slot : Nat) (res : Bool) (out ti tout : Nat), s.window o.wg inp (4 * n) = some ti →
    s.window o.wg out (8 * k) = some tout → s.residFree c o.asid slot = true → k ≤ n → n ≤ 1024 →
    (∀ u, partAt o.parts (3 * u + 1) = none) →
    let t := s.topk c o inp k n slot res out
    let x (i : Nat) : Word :=
      let w : Word := BitVec.ofNat 32 (leNat (s.opBytes o.parts (ti + 4 * i) 4))
      if res then BitVec.ofNat 32 (fadd .fp32 ⟨.rne, false, false, false⟩ w.toNat ((s.core c).resid o.asid slot i).toNat).1 else w
    let key (w : Word) : Nat := if 0x7F800000 < w.toNat % 2 ^ 31 then 2 ^ 31 else w.toNat % 2 ^ 31
    let before (i j : Nat) : Prop := key (x j) < key (x i) ∨ (key (x i) = key (x j) ∧ i < j)
    ∃ idx : Nat → Nat, (∀ r, r < k → idx r < n) ∧ (∀ r q, r < q → q < k → before (idx r) (idx q)) ∧
      (∀ i, i < n → (∀ r, r < k → idx r ≠ i) → (∀ r, r < k → before (idx r) i) ∧ (t.core c).resid o.asid slot i = x i) ∧
      (∀ r, r < k → (t.core c).resid o.asid slot (idx r) = 0 ∧
        t.scrBytes (tout + 8 * r) 8 = leBytes 4 (idx r) ++ leBytes 4 (x (idx r)).toNat)) ∧
  (∀ (s : State) (c : Nat) (o : Op) (a n slot t0 : Nat) (flush : Bool), s.window o.wg a (4 * n) = some t0 →
    (flush = true → s.residFree c o.asid slot = true) → n ≤ 1024 → (∀ u, partAt o.parts (3 * u + 1) = none) →
    let t := s.residOut c o a n slot flush
    (∀ i, i < n → t.scrBytes (t0 + 4 * i) 4 = leBytes 4 ((s.core c).resid o.asid slot i).toNat ∧
      (flush = true → (t.core c).resid o.asid slot i = 0)) ∧
    (flush = false → ∀ i, (t.core c).resid o.asid slot i = (s.core c).resid o.asid slot i)) ∧
  (∀ (s : State) (c : Nat) (o : Op) (g : Group) (form : Nat) (sg : Bool) (nb addr bit dst cr : Nat) (lanes : DWord) (stall : Nat),
    s.engReady c o = true → s.findOp c o.id = some o → s.opGroup c o = some g →
    o.what = .decode form sg nb addr bit dst cr lanes stall →
    (s.streamBlocks o.parts g.wg addr form sg nb ⟨bit, none⟩).2.2.bad = none →
    let bitAt (i : Nat) : Bool := match s.window g.wg (addr + i / 8) 1 with
      | some p => (s.opByte o.parts p).getLsbD (i % 8)
      | none => false
    let field (i w : Nat) : Nat := (List.range w).foldl (fun x j => x + (if bitAt (i + j) then 2 ^ j else 0)) 0
    let ext (w x : Nat) : Word := if sg then (BitVec.ofNat w x).signExtend 32 else BitVec.ofNat 32 x
    ∃ (pos : Nat → Nat) (val : Nat → Nat → Word) (cut : Nat → Bool) (o' : Op), pos 0 = bit ∧
      (form = 0 → ∀ t, t < nb → cut t = false ∧ pos (t + 1) = pos t + 5 + 64 * field (pos t) 5 ∧
        ∀ j, j < 64 → val t j = ext (field (pos t) 5) (field (pos t + 5 + j * field (pos t) 5) (field (pos t) 5))) ∧
      (form = 1 → ∀ t, t < nb → cut t = false ∧ pos (t + 1) = pos t + 37 + 63 * field (pos t + 32) 5 ∧
        val t 0 = BitVec.ofNat 32 (field (pos t) 32) ∧
        ∀ j, j < 63 → ∃ z, z = field (pos t + 37 + j * field (pos t + 32) 5) (field (pos t + 32) 5) ∧
          val t (j + 1) = val t j + (BitVec.ofNat 32 (z / 2) ^^^ (0 - BitVec.ofNat 32 (z % 2)))) ∧
      (2 ≤ form → ∀ t, t < nb →
        let w := field (pos t) 5
        let at' (i : Nat) : Nat := pos t + 5 + i * (6 + w)
        let upTo (i : Nat) : Nat := ((List.range i).map (fun q => field (at' q) 6 + 1)).sum
        ∃ m, 0 < m ∧ upTo (m - 1) < 64 ∧ 64 ≤ upTo m ∧ cut t = decide (64 < upTo m) ∧ pos (t + 1) = at' m ∧
          ∀ i j, i < m → j < 64 → upTo i ≤ j → j < upTo (i + 1) → val t j = ext w (field (at' i + 6) w)) ∧
      (s.decodeComplete c o).findOp c o.id = some o' ∧ o'.what = .data ∧
      o'.fl = (if (List.range nb).any cut then Flg.fmt else 0) ∧
      (∀ x, x ∈ o'.writes ↔ x = ⟨.s, cr, 0, BitVec.ofNat 32 (pos nb)⟩ ∨ ∃ t j, t < nb ∧ j < 64 ∧
        lanes.getLsbD (j % g.width) = true ∧ x = ⟨.v, dst + t * (64 / g.width) + j / g.width, j % g.width, val t j⟩)) ∧
  (∀ (s : State) (c r : Nat) (o : Op) (g : Group) (m : MatOp) (ex : Int) (qs : List (Nat × MatOp)), o ∈ (s.core c).ops →
    o.what = .matrix r m ex qs → s.opGroup c o = some g → (∀ q ∈ qs, (s.group? c q.1).isSome = true) →
    (∀ p ∈ (s.core c).ops, isRound r p.what = true → p.ctx = o.ctx → p = o) → -128 ≤ ex → ex ≤ 127 →
    ∃ g', (s.roundDone c r).group? c o.ctx = some g' ∧
    ∀ j q gj, qs[j]? = some q → s.group? c q.1 = some gj →
      let w0 := m.fb.headD 0
      let sat := w0.getLsbD 14
      -- element i of accumulator n: the value it starts from, and after each of some runs
      let runs (n i k : Nat) (sum : Nat → FV) : Prop := ∃ acc : Nat → Nat,
        acc 0 = (if w0.getLsbD 15 then 0 else startAcc (((g.accData n)[i]?).getD 0).toNat) ∧
        (∀ u, u < k → acc (u + 1) = addRun sat (acc u) (sum u)) ∧ (g'.accData n)[i]? = some (BitVec.ofNat 32 (acc k))
      (m.opc ≠ 0x17B → g'.atag (m.base + j) = ⟨0, 0, 0, ex, false, false, false⟩ ∧ ∀ a b, a < 64 → b < 64 →
        let x := m.argA g
        let y := q.2.argB gj
        runs (m.base + j) (64 * a + b) (x.kdim / 16) (fun u =>
          runSum ((List.range 16).map (fun i => (x.elem a (16 * u + i)).mul (y.elem b (16 * u + i)))) (x.scaleAt a (16 * u))
            (y.scaleAt b (16 * u)))) ∧
      (m.opc = 0x17B → ∀ imag : Bool, g'.atag (2 * j + (if imag then 1 else 0)) = ⟨0, 1, (g.tag m.ta).blen, ex, false, imag, false⟩ ∧
        ∀ a b, a < 64 → b < 64 →
        let x (k : Nat) := complexAt (fmtOf (blockAfmt w0)) (g.tileData m.ta).toArray a k
        let y (k : Nat) := complexAt (fmtOf (blockBfmt w0)) (gj.tileData q.2.tb).toArray b k
        runs (2 * j + (if imag then 1 else 0)) (64 * a + b) 2 (fun u => runSum ((List.range 16).flatMap (fun i =>
          let p := x (16 * u + i)
          let w := y (16 * u + i)
          if bits ((m.fb[3]?).getD 0).toNat 2 5 = 0 then (if imag then [p.2.mul w.2] else [p.1.mul w.1])
          else if imag then [p.1.mul w.2, p.2.mul w.1] else [p.1.mul w.1, (p.2.mul w.2).negate])) none none)))

/-- R69, R145, R169, R180, R187, R192, R160, R185, R206: the steps a core takes beside its issues, each when its condition holds. R170,
R171, R173, R438, R370: a home answers a validation, an answer reaches its entry, a core self-invalidates in a belay round, a dirty
local line is written back, and held requesters ask again. That HOME_MISS and HELD_REQUESTER_RESEND are the retries of one slot and of
one slice (log 51) and that launches age by the largest CLK (log 22) is the model's choice. -/
def Obligations.CoreSteps : Prop :=
  (∀ (s : State) (c ctx n : Nat) (g : Group), s.stuck = none → s.baseCamp = false →
  s.group? c ctx = some g →
  let sl := g.slotOf n
  (sl.valid = true → sl.phase = .header → sl.wait = .none → g.waitOk sl.hdr = true →
    exec (.clauseWaitRelease c ctx n) s = .next (s.modSlot c ctx n (fun sl => { sl with phase := .released }))) ∧
  (∀ t others, sl.wait = .yield t others →
    t ≤ (s.core c).clk ∨ (∀ x ∈ others, ∀ o, s.group? c (x / 2) = some o → (o.slotOf (x % 2)).valid = true →
      sl.lastIssue < (o.slotOf (x % 2)).lastIssue) →
    exec (.yieldExpiry c ctx n) s = .next (s.modSlot c ctx n (fun sl => { sl with wait := .none }))) ∧
  (∀ t, sl.wait = .await t → n < 2 → t + 1048576 ≤ (s.core c).clk →
    exec (.awaitTimeout c ctx) s = .next (s.modGroup c ctx Group.fire)) ∧
  (∀ t, sl.eligSince = some t → s.eligible c ctx n = true → t + 4096 ≤ (s.core c).clk →
    exec (.starvationPromote c ctx n) s = .next (s.modSlot c ctx n (fun sl => { sl with promoted := true }))) ∧
  (∀ r m, sl.replay = some r → r.ready = some m → sl.wait = .replay → s.stopped g = false ∨ r.flown = true → g.heldByTrap n = false →
    (m = 0 ∨ s.earlierWoken c ctx m = false) → exec (.memoryReplay c ctx n) s = .next (s.replay c ctx n r)) ∧
  (∀ q, (s.core c).sq.find? (fun q => q.ctx == ctx) = some q → s.leaveBlocked c q = false →
    exec (.storeQueueLeave c 0 ctx) s = .next (s.leaveQueue c q)) ∧
  (g.ended = true → (∀ o ∈ (s.core c).ops, o.ctx = ctx → o.uid = g.uid → o.what.toMemory = true ∧ o.uses = []) →
    exec (.allotmentRelease c ctx) s = .next (s.removeGroup c ctx).reap) ∧
  (∀ k w, k < (s.core c).wt.length → (s.core c).wt[k]? = some w →
    (∀ v ∈ (s.core c).wt.take k, ∀ x ∈ v.cells, ∀ y ∈ w.cells, x.tgt / 128 ≠ y.tgt / 128) →
    exec (.storeQueueLeave c 1 k) s = .next ((s.modCore c (fun x => { x with wt := x.wt.eraseIdx k })).leaveWt c w)) ∧
  (∀ id o slot book src, s.findOp c id = some o → o.what = .cbld slot book src →
    (s.core c).bookAsid.lookD 0 slot ≠ o.asid → s.asidOn c ((s.core c).bookAsid.lookD 0 slot) = false →
    exec (.cbldTakeover c id) s = .next (s.modCore c (fun k => k.takeBook o.asid slot))) ∧
  ((s.core c).throttle.window + 2048 ≤ (s.core c).clk → ∃ t, exec (.throttleWindowEnd c) s = .next t ∧
    let a := (s.core c).throttle
    let b := (t.core c).throttle
    b.limit = (if s.coreIdle c then none else newLimit a.limit (s.ordinary c).length a.hits (a.waited && !a.loaded)) ∧
    b.hits = 0 ∧ b.wanted = [] ∧ b.waited = false ∧ b.loaded = false ∧ b.window = (s.core c).clk ∧ b.tags = a.tags ∧
    t.groups = s.groups ∧ t.mem = s.mem) ∧
  (let t := s.modCore c (fun k => { k with clk := k.clk + 1 })
   let s1 := if s.dieClk < t.dieClk then t.dieTick else t
   let s2 := if (s1.core c).throttle.window + 2048 ≤ (s1.core c).clk then s1.endWindow c else s1
   let s3 := (s2.commitDue c).reap.settlePreempt
   exec (.clkAdvance c) s = .next { s3 with groups := s3.groups.mapAll (fun k g =>
     if k / 65 = c ∧ g.save ≠ SaveMode.done then { g with slot0 := g.slot0.look s3 c, slot1 := g.slot1.look s3 c } else g) })) ∧
  (∀ (s : State) (c : Nat), s.stuck = none → s.baseCamp = false →
  (∀ id falsely v, (s.core c).vals.find? (fun v => v.id == id && v.answer.isNone && s.valTravels v) = some v →
    let s1 := s.flushLine c ((if v.peer then 2 ^ 60 else 0) + 128 * v.pline)
    let ok := !falsely && decide (v.ver < 4095) && s1.versions.look (lineKey v.peer v.pline) == some v.ver
    exec (.homeValidate c id falsely) s = .next ((if v.peer then s1
        else s1.count (204 + Config.homeSlice 0 v.pline % 64) (if ok then 4 else 5) 1).modCore c
      (fun k => { k with vals := k.vals.map (fun w => if w.id = id then { w with answer := some ok } else w) }))) ∧
  (∀ id v ok b, (s.core c).vals.find? (fun v => v.id == id) = some v → v.answer = some ok → (s.core c).belay.look v.index = some b →
    b.genr = v.genr → b.state = 1 → ∃ t b', exec (.belayAnswer c id) s = .next t ∧ (t.core c).belay.look v.index = some b' ∧
      b'.count = b.count - 1 ∧ b'.sbit = (b.sbit || !ok) ∧
      b'.state = (if b.count - 1 ≠ 0 then 1 else if b.sbit || !ok then 3 else 2) ∧
      (t.core c).vals = (s.core c).vals.filter (fun w => w.id != id) ∧ t.mem = s.mem ∧ t.groups = s.groups) ∧
  (s.roundSeen.contains c = false → exec (.belayRoundSelfInvalidate c) s = .next (s.dropAllClean c)) ∧
  (∀ asid line l s1, (s.core c).l1Find asid line = some l → l.kind = .loc →
    s.wbHeld.any (fun w => w.1 == c && w.2.1 == asid && w.2.2.1 == line) = false → s.writeBack c l false = (s1, BackRes.done) →
    exec (.localWriteback c asid line) s = .next s1) ∧
  (∀ ctx n, exec (.homeMiss c ctx n) s = .next (s.resendSlot c ctx n (fun _ => true))) ∧
  (∀ slice, exec (.heldRequesterResend slice) s = .next (s.groups.foldl (fun s x =>
    (s.resendSlot (x.1 / 65) (x.1 % 65) 0 (fun k => k == slice)).resendSlot (x.1 / 65) (x.1 % 65) 1 (fun k => k == slice)) s)))

/-- R287-R289, R335, R363, R372-R374: the dispatcher's and the fill launcher's steps, each when its condition holds. That a rope's wait of
65,536 clk is counted on State.dieClk, the largest CLK of any core, is the model's choice (log 22). -/
def Obligations.DispatcherSteps : Prop := ∀ (s : State) (l : Nat), s.stuck = none → s.baseCamp = false →
  (∀ x c i bs s1, s.nextFill = none → s.dispatchChoice = some l → s.launches.look l = some x → x.next = some i →
    x.hdr.rope = false → x.resumes = false → s.fits l x 1 c = some bs →
    (s.clearAll x.hdr.gran [(c, bs)] = (s1, false) → exec (.workgroupPlace l c) s = .next s1) ∧
    (s.clearAll x.hdr.gran [(c, bs)] = (s1, true) → exec (.workgroupPlace l c) s =
      .next ((s1.putOne l i c (bs.headD 0) [] (s1.newGroup l i c)).1.tookTurn l))) ∧
  (∀ x cl px py i bs s1, s.nextFill = none → s.dispatchChoice = some l → s.launches.look l = some x → x.next = some i →
    x.hdr.rope = true → x.resumes = false → s.ropeFits l x cl px py = some bs → s.clearAll x.hdr.gran bs = (s1, true) →
    exec (.ropePlace l cl px py) s =
      .next (((s1.putRope l i cl px py bs (fun _ => []) (fun j => s1.newGroup l j (16 * cl +
        4 * (py + (ropeCell x.hdr.rw x.hdr.rk (j - i)).2) + (px + (ropeCell x.hdr.rw x.hdr.rk (j - i)).1)))).count
        (192 + cl) 4 1).tookTurn l)) ∧
  (∀ x cl px py, s.launches.look l = some x → x.waits = true → x.hdr.rope = true → x.rect = none →
    x.waitFrom + 65536 ≤ s.dieClk → s.fitsSomewhere l x = false → s.rectCould x.hdr cl px py = true →
    s.rectClash l x cl px py = false →
    exec (.ropeWaitReserve l cl px py) s = .next (s.modLaunch l (fun x => { x with rect := some (cl, px, py) }))) ∧
  (∀ x, s.launches.look l = some x → x.waits = true → x.aged = false → 4194304 ≤ x.fitted → exec (.launchAging l) s = .next (s.modLaunch l (fun x => { x with aged := true }))) ∧
  (∀ k t c s1, s.nextFill = some k → s.trackers.look k = some t → s.fillPlan t = (s1, none) →
    exec (.fillLaunch k c) s = .next (s1.decideBlock k none)) ∧
  (∀ k t c s0 s1 r kh b, s.nextFill = some k → s.trackers.look k = some t → s.fillPlan t = (s0, some (r, kh)) →
    s0.fillFits kh t.level c true = some b → s0.notPreferred kh t c = false →
    ((s0.fillFits kh t.level c false).isSome = true ∨ s0.fillSomewhere kh t.level false = false) →
    s0.clearAll kh.gran [(c, [b])] = (s1, true) →
    ∃ s2 x, exec (.fillLaunch k c) s = .next s2 ∧ s2.launches.look s1.serial = some x ∧ x.fill = some k ∧ x.asid = t.asid ∧
      x.prio = max t.prio r.prio ∧ x.hdr = kh ∧ x.kernel = va64 r.kernel ∧ x.status = none ∧ x.args.drop 8 = r.args ∧
      x.args.take 2 = [(lineVa (t.block / 128)).setWidth 32, ((lineVa (t.block / 128)) >>> 32).setWidth 32] ∧
      (∀ t1, s1.trackers.look k = some t1 →
        s2.trackers.look k = some { t1 with launch := some s1.serial, recPol := r.vpol, prio := max t.prio r.prio })) ∧
  (∀ x k t, s.launches.look l = some x → s.taskTracker l = some (k, t) → x.status.isSome = true → t.decided = false →
    exec (.implicitFilla l) s = .next (s.decideBlock k none))

/-- R338-R344: pre-emption's requests, saves, discards, resumptions and the report of an overrun, each when its condition holds. That a save
which meets a fatal fault ends its launch with status 9 (log 53) and that times are State.dieClk's (log 22) is the model's choice. -/
def Obligations.PreemptionSteps : Prop := ∀ (s : State), s.stuck = none → s.baseCamp = false →
  (∀ asid, s.preempt.getLsbD 19 = false →
    let live := s.launches.filter (fun x => x.2.status.isNone && x.2.fill.isNone && x.2.asid == asid)
    let ls := (live.filter (fun x => x.2.saveA != 0)).map (·.1)
    let s0 := { s with preempt := BitVec.ofNat 64 (asid % 65536) }
    exec (.preemptPre asid) s = .next (((s.wgs.filter (fun w => ls.contains w.2.launch)).map (·.1)).foldl
      (fun s w => (s.tryDiscard w).1) (ls.foldl State.askLaunch { s with preempt := BitVec.ofNat 64 (asid % 65536) ||| 0x80000 })).settlePreempt ∧
    exec (.preemptRes asid) s = .next { s0 with launches := s.launches.mapAll (fun _ x =>
      if x.status.isNone ∧ x.asid = asid ∧ x.preempting then { x with preempting := false, placeable := true, waitFrom := s.dieClk, fitted := 0 }
      else x) } ∧
    exec (.preemptKill asid) s = .next ((live.map (·.1)).foldl (fun t l => t.endLaunch l 10 0 0 0 0 0 t.dieClk) s0)) ∧
  (∀ asid, s.preempt.getLsbD 19 = true → exec (.preemptPre asid) s = .next s ∧ exec (.preemptRes asid) s = .next s ∧
    exec (.preemptKill asid) s = .next s) ∧
  (∀ c ctx n g x, s.group? c ctx = some g → s.launches.look g.launch = some x → x.preempting = true →
    (g.slotOf n).valid = true → (g.slotOf n).atStopPoint = false → x.hdr.spgap ≤ (g.slotOf n).passed →
    g.slot0.passed < 2 ^ 40 → g.slot1.passed < 2 ^ 40 → exec (.preemptOverrun c ctx n) s =
      .next ((s.report 4 0 x.asid 0 (g.slotOf n).pc 0 0 (s.stamp c g n false) (s.core c).clk).modGroup c ctx (fun g =>
        { g with slot0 := { g.slot0 with passed := 2 ^ 40 }, slot1 := { g.slot1 with passed := 2 ^ 40 } }))) ∧
  (∀ c ctx g x w, s.group? c ctx = some g → s.launches.look g.launch = some x → s.wgs.look g.wg = some w → x.preempting = true →
    x.status = none → ctx ≠ 64 → s.stopped g = false →
    let slot := x.slotAt w.linear g.grpid
    let keep (bytes : List Byte) : State := s.devWrite c x.asid slot bytes (g.launch, false)
      (fun s => (s.modGroup c ctx (fun g => { g with save := .done })).tryFinish g.wg)
      (fun s => s.endLaunch g.launch 9 8 (va64 slot) 0 5 0 (s.core c).clk)
    let n := if g.slot0.valid then 0 else 1
    let safe := if !(g.slotOf (1 - n)).valid && (g.slotOf n).atStop then x.hdr.safeAt (codeOff g.kernel (g.slotOf n).clause) else none
    (g.save = .saved → s.groupQuiet c g = true → exec (.groupSave c ctx) s = .next (keep g.routineHdr.bytes)) ∧
    (g.save = .done ∨ (g.save = .none ∧ g.ended = true) → exec (.groupSave c ctx) s = .next (s.tryFinish g.wg)) ∧
    (g.save = .none → g.ended = false → g.inHandler = false → g.slot0.atStopPoint = true → g.slot1.atStopPoint = true →
      (∀ s1, s.tryDiscard g.wg = (s1, true) → exec (.groupSave c ctx) s = .next s1.settlePreempt) ∧
      (∀ s1, s.tryDiscard g.wg = (s1, false) →
        (∀ save a b, safe = some (save, a, b) → save ≠ 0 →
          exec (.groupSave c ctx) s = .next (s.startSave c ctx n save (slot + 128))) ∧
        ((∀ save a b, safe = some (save, a, b) → save = 0) → s.groupQuiet c g = true →
          exec (.groupSave c ctx) s = .next (keep g.saveArea))))) ∧
  (∀ l x c i bs blocks s0 s1, s.nextFill = none → s.dispatchChoice = some l → s.launches.look l = some x → x.next = some i →
    x.resumes = true → x.hdr.rope = false → s.fits l x 1 c = some bs → s.clearAll x.hdr.gran [(c, bs)] = (s0, true) →
    let first := i / x.hdr.ropeN * x.hdr.ropeN
    let all := (List.range (min x.hdr.ropeN (x.total - first))).map (fun v => first + v)
    State.readBlocks x c all s0 [] = (s1, .ok blocks) →
    let block (j : Nat) : List Byte := ((blocks.find? (fun b => b.1 == j)).map (fun b => b.2)).getD []
    let rounds : Tbl Nat := (((x.wgAt i).rounds.zipIdx).map (fun r => (r.2, r.1))).filter (fun r => r.2 ≠ 0)
    let t := (all.foldl (fun s j => s.afterResume x j (block j))
      (s1.putOne l i c (bs.headD 0) rounds (fun y id g => y.resumeGroup l i (block i) (s1.core c).clk id g)).1).tookTurn l
    exec (.groupResume l c) s = .next ((t.wgs.filter (fun w => w.2.launch == l && all.contains w.2.linear)).foldl
      (fun s w => s.checkBarriers w.1) t))

/-- R326, R328, R330-R332, R347, R382, R384: walks, fault answers, ring records, the counter sweep and evictions, each when its condition
holds. The model's choices here: PAGE_WALK only fills the TLB (log 51), CNTBASE is a physical address (log 23), a write of VSBASE or
VSSIZE clears the tables (log 52), and rings are written through cluster 0 (log 21). -/
def Obligations.MemorySystemSteps : Prop := ∀ (s : State), s.stuck = none → s.baseCamp = false →
  (∀ cl asid va, exec (.pageWalk cl asid va) s = .next (s.translate cl asid (va64 va) .read).1) ∧
  (∀ seq, (∃ f ∈ s.faults, f.seq = seq) → ∃ t, t.mem = s.mem ∧ exec (.fltrespRetry seq) s =
      .next ((s.wbHeld.filter (fun w => w.2.2.2 == seq)).foldl (fun s w => s.tryBack w.1 w.2.1 w.2.2.1) t) ∧
    t.faults = s.faults.filter (fun f => f.seq != seq) ∧
    t.groups = s.groups.mapAll (fun _ g => { g with slot0 := g.slot0.answered seq false, slot1 := g.slot1.answered seq false }) ∧
    t.wbHeld = s.wbHeld.filter (fun w => w.2.2.2 != seq) ∧ t.devHeld = s.devHeld.filter (fun d => d.1 != seq)) ∧
  (∀ seq, (∃ f ∈ s.faults, f.seq = seq) → (∀ k ∈ s.cores, ∀ o ∈ k.2.ops, ∀ x, o.held = some x → x.1 ≠ seq) →
    (∀ k ∈ s.chans, k.2.held ≠ some seq) → (∀ d ∈ s.devHeld, d.1 ≠ seq) → (∀ w ∈ s.wbHeld, w.2.2.2 ≠ seq) →
    exec (.fltrespUnresolved seq) s = .next (s.answer seq true)) ∧
  (∀ ring rec' rest, let r := s.rings.lookD Ring.reset ring
    r.wait = rec' :: rest → r.on = true →
    ((r.head - r.tail).toNat < r.size.toNat → let a := r.base.toNat + ringBytes ring * (r.head.toNat % r.size.toNat)
      ∀ s1 ps, State.engPlaces (firstOfLines ((List.range (ringBytes ring)).map (fun i => a + i))) s (procWho 0) [] = (s1, .ok ps) →
        exec (.ringRecordWrite ring) s = .next ({ s1.engWrite (procWho 0) ps (cellsFrom a rec') with
          rings := (s1.engWrite (procWho 0) ps (cellsFrom a rec')).rings.put ring { r with wait := rest, head := r.head + 1 } }.raiseMsi
            (r.vec.toNat % 2048))) ∧
    (r.size.toNat ≤ (r.head - r.tail).toNat → ring = 1 ∨ ring = 2 → exec (.ringRecordWrite ring) s =
      .next ({ s with rings := s.rings.put ring { r with wait := rest } }.count 268 4 1))) ∧
  (s.cntbase ≠ 0 → exec .counterSweep s = .next (let t := s.counters.foldl (fun s x =>
      let d := (x.2 - s.swept.lookD 0 x.1).toNat
      let a := s.cntbase.toNat + 8 * x.1
      if d = 0 then s else s.cohWrite false (cellsFrom a (leBytes 8 ((s.numAt false a 8 + d) % 2 ^ 64)))) s
    { t with swept := t.counters })) ∧
  (∀ asid line l, s.genLine? asid line = some l → (l.pol = 3 ∧ l.poison = false → exec (.llcEviction asid line) s = .next s) ∧
    (l.pol ≠ 3 ∨ l.poison = true → exec (.llcEviction asid line) s = .next (s.leaveGen asid line))) ∧
  (∀ v, let t := { s.dropStore with vsbase := BitVec.ofNat 64 (v / 2 ^ 26 % 2 ^ 26 * 2 ^ 26) }
    exec (.vsbaseWrite v) s = .next (if t.vsSteps = 0 then t else t.vsClear)) ∧
  (∀ v, let t := { s.dropStore with vssize := BitVec.ofNat 64 (min 384 (v % 512)) }
    exec (.vssizeWrite v) s = .next (if t.vsSteps = 0 then t else t.vsClear))

/-- R296-R299, R408, R413: rope stops and their commands, and the debug port's unlock, each when its condition holds. That a dump which
cannot be written counts as written (log 53) and that a stop is immediate on all cores (log 55) is the model's choice. -/
def Obligations.DebugSteps : Prop := ∀ (s : State), s.stuck = none → s.baseCamp = false →
  (∀ k r t, s.ropes.look k = some r → r.stop = some t → t.dumped = false →
    (∀ c ∈ s.cores, ∀ o ∈ c.2.ops, (∃ x ∈ r.wgs, x.2 = o.wg) → s.stopWaits c.1 o = false) →
    let held := (s.cores.map (fun c => (c.2.ops.filter (fun o => r.wgs.any (fun x => x.2 == o.wg) && o.held.isSome)).length)).sum
    let n := (r.wgs.map (fun x => ((s.groupsOf x.2).filter (fun g => !g.2.ended)).length)).sum
    exec (.ropeStop k) s = .next (
      let done (s : State) : State := s.modRope k (fun r => { r with stop := r.stop.map (fun t =>
        { t with dumped := true, held := held, ngrp := n }) })
      s.devWrite (16 * r.cluster + r.origin) (bits (s.cluster r.cluster).dbgctl.toNat 16 16) (s.cluster r.cluster).dumpbase.toNat
        (s.dumpBytes r t held) (k, true) done done)) ∧
  (∀ cl w, (s.cluster cl).dbgctl.getLsbD 0 = true →
    (w % 4 = 1 → exec (.dbgcmdStop cl w) s = .next ((s.namedRopes cl (bits w 32 32)).foldl (fun s r =>
      s.beginStop r ⟨1, 0, 0xFF, 0xFF, 2, 0, 0, (s.core (16 * cl + ((s.ropes.look r).map (·.origin)).getD 0)).clk, false, 0, 0⟩) s)) ∧
    (w % 4 = 2 → exec (.dbgcmdResume cl w) s = .next ((s.namedRopes cl (bits w 32 32)).foldl State.resumeRope s))) ∧
  (s.life.keyStore = true → s.devSt ≠ 4 → exec (.debugUnlock true) s = .next { s with life := { s.life with unlocked := true } })

/-- R390, R400-R402, R408: what the queue processor's own turns do, outside base camp. A kick leaves its queue with work; with
the table at a bad base it does nothing. A step of the processor completes, keeps the device's own registers and the form of
memory, and without work does nothing but publish. A started BARRIER completes where the signals it reads are all zero, aborts its
queue with ABORTED where one is negative, as does each other one that waits on a negative signal then, and waits otherwise. A COPY
takes the channel its CH names once that is idle, or, for CH 0xFF, the one that went idle first. An
INVAL in whose range a fill is under way waits, and completes otherwise. A SIGNAL performs its OP at its home. A packet whose effect
has ended has its STATUS written into the header word, then its CSIG counted down, or −1 stored there, and is done; a DISPATCH
whose launch is over completes with the launch's status. After each turn the processor publishes. -/
def Obligations.QueueSteps : Prop := ∀ (s : State), s.stuck = none → s.baseCamp = false →
  (∀ v, s.qtabbase.toNat % 131072 = 0 → ∃ t, exec (.qkick v) s = .next t ∧ (t.qstate (v % 1024)).work = true ∧
    (∀ q, q ≠ v % 1024 → t.qstate q = s.qstate q) ∧ t.mem = s.mem ∧ t.packets = s.packets ∧ t.groups = s.groups ∧
    t.devRegs = s.devRegs) ∧
  (∀ v, s.qtabbase.toNat % 131072 ≠ 0 → exec (.qkick v) s = .next s) ∧
  (∃ t, exec .queueStep s = .next t ∧ t.stuck = none ∧ t.devRegs = s.devRegs ∧ (s.memOk → t.memOk)) ∧
  (s.queues.all (fun x => x.2.work == false && x.2.lane.isNone) = true → s.packets = [] →
    exec .queueStep s = .next s.publishAll) ∧
  (∀ q n p, s.packet? q n = some p → p.status = none → p.held = none → p.fatal = false →
    (∀ s1 vs, p.type = 3 →
      State.readSigs ([p.f 0x10 8, p.f 0x18 8, p.f 0x20 8].filter (fun a => a != 0)) s p.asid [] = (s1, .ok vs) →
      ((∃ v ∈ vs, 2 ^ 63 ≤ v) → exec (.barrierPacket q n) s = .next ((s.packets.filter (fun r =>
          r.type == 3 && r.status.isNone && r.begun && (r.q != q || r.idx != n) && s.sigNegative r)).foldl (fun t r =>
            match t.packet? r.q r.idx with | some r => t.serveBarrier r | none => t) (s1.abortQueue p 11)).publishAll) ∧
      ((∀ v ∈ vs, v = 0) → exec (.barrierPacket q n) s = .next (s1.endPacket p 0).publishAll) ∧
      ((∀ v ∈ vs, v < 2 ^ 63) → (∃ v ∈ vs, v ≠ 0) → exec (.barrierPacket q n) s =
        .next (if p.begun then s1 else s1.setPacket { p with begun := true }).publishAll)) ∧
    (∀ ch, p.type = 5 → p.chan = none → (p.f 0x18 1 = ch ∧ ch ≠ 255 ∧ (s.chan ch).running = false) ∨
        (p.f 0x18 1 = 255 ∧ s.firstIdle = some ch) →
      let k : Chan :=
        { running := true, err := false, cause := 0, who := { procWho p.asid with key := some (chanKey ch) },
          recA := p.f 0x10 8, byPacket := some (p.q, p.idx), held := none, stage := 0, parts := [], dead := none, idleAt := 0 }
      exec (.copyPacket q n ch) s = .next ((s.setChan ch k).setPacket { p with chan := some ch })) ∧
    (∀ v, p.type = 6 → s.invals.find? (fun v => v.q == p.q && v.idx == p.idx) = some v →
      let busy := s.trackers.any (fun t => t.2.asid == v.asid && decide (t.2.block < v.hi) && decide (v.lo < t.2.block + 2 ^ t.2.blklog))
      (busy = true → exec (.inval q n) s = .next s.publishAll) ∧
      (busy = false → exec (.inval q n) s = .next (s.serveInval p).publishAll)) ∧
    (∀ s1, p.type = 4 → s.procWord p.asid (p.f 0x10 8) 8
        (fun old => if p.f 0x20 1 = 1 then p.f 0x18 8 else (old + p.f 0x18 8) % 2 ^ 64) = (s1, .done) →
      exec (.packetComplete q n) s = .next (s1.endPacket p 0).publishAll) ∧
    (∀ l x st, p.type ≠ 4 → p.launch = some l → s.launches.look l = some x → x.status = some st → s.launchOver l x = true →
      exec (.packetComplete q n) s = .next (({ s with launches := s.launches.del l }).endPacket p st).publishAll)) ∧
  (∀ q n p st s1, s.packet? q n = some p → p.status = some st → p.done = false → p.held = none → p.fatal = false → p.type ≠ 7 →
    s.procWord p.asid p.va 4 (fun _ => 65536 * st) = (s1, .done) →
    let done (t : State) : State := (t.setPacket { p with done := true }).publishAll
    (p.csig = 0 → exec (.packetComplete q n) s = .next (done s1)) ∧
    (∀ s2, p.csig ≠ 0 → p.csig % 8 = 0 →
      s1.procWord p.asid p.csig 8 (fun old => if st = 0 then (old + 2 ^ 64 - 1) % 2 ^ 64 else 2 ^ 64 - 1) = (s2, .done) →
      exec (.packetComplete q n) s = .next (done s2)))

/-- R415, R425-R428, R431-R436: the fabric's ports, flits, requests, validations and interrupts, each step when its condition holds. The
model's choices here: the bit order and start value of the CRC-64 (log 25), the codes by which inbound events name atomics and a
TCOPYR's adds, the slots a packet takes and their header (log 59), and the corners of sending (log 98). -/
def Obligations.FabricSteps : Prop := ∀ (s : State) (p : Nat), s.stuck = none → s.baseCamp = false →
  (∀ v, let w := va64 v &&& 0x1FFF1F7F
    (s.fabcfg.getLsbD 12 = true → w.getLsbD 12 = true → exec (.fabcfgWrite v) s = .next s) ∧
    (s.fabcfg.getLsbD 12 = true → w.getLsbD 12 = false →
      exec (.fabcfgWrite v) s = .next { s with fabNext := some w }.settleFabric) ∧
    (s.fabcfg.getLsbD 12 = false →
      let t : State := { s with fabcfg := w, fabNext := none, ports := s.ports.mapAll (fun _ x => { x with lost := false }) }
      exec (.fabcfgWrite v) s = .next t.trainPorts)) ∧
  (∀ v, exec (.portstatWrite p v) s = .next (s.setPort p { s.port p with faults := 0, crcerr := 0, replays := 0, retrains := 0 })) ∧
  (∀ down, (s.port p).state = 2 → exec (.portFail p down) s =
    .next ((s.setPort p { s.port p with state := if down then 0 else 3, width := 0 }).failPort p s)) ∧
  (∀ id r, s.peerReqs.find? (fun r => r.id == id && !r.back && !r.bad) = some r →
    exec (.peerTimeout id) s = .next (s.failReq r).settleFabric) ∧
  (∀ id v q, s.peerReqs.find? (fun r => r.id == id && !r.back && !r.bad) = none →
    (s.cores.flatMap (fun k => k.2.vals)).find? (fun v => v.id == id && v.answer != some false) = some v → v.port = some q →
    let struck (w : Validation) : Validation := if w.id = v.id then { w with answer := some false } else w
    exec (.peerTimeout id) s = .next (({ s with cores := s.cores.mapAll (fun _ k => { k with vals := k.vals.map struck }) } : State).setPort
      q { s.port q with faults := min 255 ((s.port q).faults + 1) })) ∧
  (∀ src addr data, s.fabcfg.getLsbD 12 = true → s.fabNext = none → s.fabcfg.getLsbD (8 + src % 4) = true →
    s.devstate.toNat % 16 = 2 → addr + data.length ≤ 2 ^ 35 → addr < 2 ^ 35 →
    let key := lineKey false (addr / 128)
    (s.eccBad.contains key = true → exec (.peerInboundRequest src 0 addr data) s = .next (s.reply (src % 4) addr (.error (src % 4)))) ∧
    (s.eccBad.contains key = false → exec (.peerInboundRequest src 0 addr data) s =
      .next ((s.reachHome key).reply (src % 4) addr (.data (src % 4) ((s.reachHome key).bytesAt false (addr / 128 * 128) 128)))) ∧
    exec (.peerInboundRequest src 1 addr data) s = .next ((s.cohWrite false (cellsFrom addr data)).reply (src % 4) addr (.ack (src % 4))) ∧
    (∀ ok, ok = (decide (leNat data < 4095) && s.versions.look key == some (leNat data)) →
      exec (.peerInboundRequest src 2 addr data) s =
        .next ((s.count (204 + Config.homeSlice 0 (addr / 128) % 64) (if ok then 4 else 5) 1).reply (src % 4) addr
          (.confirm (src % 4) ok))) ∧
    (∀ ty k op, ty < 8 → inboundOp k = some op → let n := atomBytes ty
      exec (.peerInboundRequest src (16 + 8 * k + ty) addr data) s = .next ((s.cohWrite false (cellsFrom addr (leBytes n
        (AtomInfo.apply ⟨op, ty, 5, true, false⟩ (s.numAt false addr n) (leNat (data.take n)) (leNat ((data.drop n).take n)))))).reply
          (src % 4) addr (.value (src % 4) (s.numAt false addr n)))) ∧
    (∀ (bf : Bool) ty, ty < 8 → exec (.peerInboundRequest src (16 + 8 * (if bf then 12 else 11) + ty) addr data) s =
      .next ((s.cohWrite false (cellsFrom addr (leBytes 2
        (addRne (if bf then .bf16 else .fp16) (s.numAt false addr 2) (leNat (data.take 2)))))).reply (src % 4) addr (.ack (src % 4))))) ∧
  (∀ src kind addr data, s.fabcfg.getLsbD 12 = false ∨ s.fabNext ≠ none ∨ s.fabcfg.getLsbD (8 + src % 4) = false ∨
      s.devstate.toNat % 16 ≠ 2 ∨ 2 ^ 35 < addr + data.length ∨ 2 ^ 35 ≤ addr →
    exec (.peerInboundRequest src kind addr data) s = .next (s.reply (src % 4) addr (.error (src % 4)))) ∧
  (∀ src vec, exec (.msiForward src vec) s = .next (s.raiseMsi (1536 + 128 * (src % 4) + vec % 128))) ∧
  (∀ seq, (s.port p).state = 2 → exec (.nakReceive p seq) s = .next (s.nak p (seq % 1024))) ∧
  (∀ ws, (s.port p).state = 2 → let bs := flitBytes ws
    let h := leNat (bs.take 8)
    (crc64 (bs.take 248) ≠ BitVec.ofNat 64 (leNat (bs.drop 248)) → exec (.flitReceive p ws) s =
      .next (s.setPort p (({ s.port p with crcerr := min 65535 ((s.port p).crcerr + 1) } : Port).emit 2 (s.port p).lastAcc []))) ∧
    (crc64 (bs.take 248) = BitVec.ofNat 64 (leNat (bs.drop 248)) → h % 1024 ≠ ((s.port p).lastAcc + 1) % 1024 →
      exec (.flitReceive p ws) s = .next (s.setPort p ((s.port p).emit 2 (s.port p).lastAcc []))) ∧
    (crc64 (bs.take 248) = BitVec.ofNat 64 (leNat (bs.drop 248)) → h % 1024 = ((s.port p).lastAcc + 1) % 1024 → bits h 20 2 = 0 →
      let packets := (List.range (bits h 22 4)).map (fun i =>
        [leNat ((bs.drop (8 + 16 * i)).take 8), leNat ((bs.drop (16 + 16 * i)).take 8)])
      exec (.flitReceive p ws) s = .next (s.setPort p { (s.port p).acked (bits h 10 10) with
        lastAcc := h % 1024, accepted := (s.port p).accepted ++ packets })) ∧
    (crc64 (bs.take 248) = BitVec.ofNat 64 (leNat (bs.drop 248)) → h % 1024 = ((s.port p).lastAcc + 1) % 1024 → bits h 20 2 = 2 →
      exec (.flitReceive p ws) s =
        .next ((s.setPort p { (s.port p).acked (bits h 10 10) with lastAcc := h % 1024 }).nak p (bits h 10 10))) ∧
    (crc64 (bs.take 248) = BitVec.ofNat 64 (leNat (bs.drop 248)) → h % 1024 = ((s.port p).lastAcc + 1) % 1024 → bits h 20 2 = 1 →
      exec (.flitReceive p ws) s = .next (s.setPort p { (s.port p).acked (bits h 10 10) with lastAcc := h % 1024 }))) ∧
  (∀ (x : Port) kind ack ms, x.unacked.length < 512 → kind < 4 → (ms.flatMap PMsg.slots).length ≤ 15 → ∃ ws,
    (x.emit kind ack ms).unacked = x.unacked ++ [(x.nextSeq, ws)] ∧ (x.emit kind ack ms).sent = x.sent ++ [ws] ∧
    (x.emit kind ack ms).nextSeq = (x.nextSeq + 1) % 1024 ∧ ws.length = 32 ∧
    let bs := flitBytes ws
    crc64 (bs.take 248) = BitVec.ofNat 64 (leNat (bs.drop 248)) ∧ bits (leNat (bs.take 8)) 0 10 = x.nextSeq % 1024 ∧
    bits (leNat (bs.take 8)) 10 10 = ack % 1024 ∧ bits (leNat (bs.take 8)) 20 2 = kind ∧
    bits (leNat (bs.take 8)) 22 4 = (ms.flatMap PMsg.slots).length ∧
    ∀ i, i < (ms.flatMap PMsg.slots).length →
      leNat ((bs.drop (8 + 16 * i)).take 16) = ((ms.flatMap PMsg.slots)[i]?).getD 0 % 2 ^ 128) ∧
  ((s.port p).unacked ≠ [] → (s.port p).state = 2 → exec (.ackTimeoutRetrain p) s = .next (s.setPort p
    { s.port p with state := 1, width := 0, retrains := min 255 ((s.port p).retrains + 1), naks := 0 })) ∧
  ((s.port p).state = 1 →
    (∀ n, n = 1 ∨ n = 2 → exec (.portTrainingDone p n) s = .next (s.setPort p
      { s.port p with state := 2, width := n, fails := 0, resend := (s.port p).unacked.map (fun u => u.1) })) ∧
    ((s.port p).fails < 2 → exec (.portTrainingDone p 0) s = .next (s.setPort p { s.port p with fails := (s.port p).fails + 1 })) ∧
    (2 ≤ (s.port p).fails → exec (.portTrainingDone p 0) s =
      .next ((s.setPort p { s.port p with state := 3, fails := (s.port p).fails + 1, width := 0 }).failPort p s)))

/-- R407, R410-R414: the host's requests and the life of the device, each step when its condition holds. The model's choices here: what
COLD_RESET and ENTER_RUN keep (log 61), and POWER_THROTTLE's steps and bounds (log 62). -/
def Obligations.LifeSteps : Prop := ∀ (s : State), s.stuck = none →
  (∀ strap opt grade fw, ∃ t, exec (.coldReset strap opt grade fw) s = .next t ∧
    t.devstate.toNat % 16 = (if !s.life.keyStore || !fw then 5 else 1) ∧
    t.life.frozen = false ∧ t.life.stopped = false ∧ t.life.thermalTrip = false ∧ t.life.keyStore = s.life.keyStore ∧
    t.groups = [] ∧ t.cores = [] ∧ t.launches = [] ∧ t.wgs = [] ∧ t.packets = [] ∧ t.plim = State.reset.plim ∧
    t.mem = s.mem.filter (fun c => isHost c.1)) ∧
  (s.devSt = 1 → exec (.basecampTestResult 0) s = .next { s with life := { s.life with testPass := true } }) ∧
  (∀ cause, s.devSt = 1 → cause ≠ 0 → exec (.basecampTestResult cause) s = .next { s with devstate := devWord 3 (min 2 cause) }) ∧
  (s.devSt = 1 → s.life.testPass = true → s.launches = [] → ∃ t, exec .enterRun s = .next t ∧ t.devstate = devWord 2 0 ∧
    t.groups = s.groups ∧ t.mem = s.mem.filter (fun c => decide (2 ^ 26 ≤ c.1)) ∧ ∀ c, c < 12 → (t.cluster c).mhz = 2300) ∧
  exec .freezeAssert s = .next { s with life := { s.life with frozen := true } } ∧
  exec .freezeDeassert s = .next s ∧
  (∀ cause, s.devSt ≠ 4 → exec (.securityAlarm cause) s = .next { s with
    devstate := devWord 4 cause, life := { s.life with keyStore := false, stopped := true, unlocked := false } }) ∧
  exec .thermalTrip s = .next { s with life := { s.life with thermalTrip := true, frozen := true } } ∧
  (∀ cl mhz, (mhz + 100 = (s.cluster cl).mhz ∨ mhz = (s.cluster cl).mhz + 100) → 0 < mhz →
    mhz ≤ (if s.baseCamp then 800 else 2300) →
    exec (.powerThrottle cl mhz) s = .next (s.modCluster cl (fun k => { k with mhz := mhz }))) ∧
  (∀ rate, s.life.optN = false → rate ∈ [4, 8, 12, 16, 32] → exec (.ucieLinkTraining 0 rate) s = .next { s with
    life := { s.life with gts := rate, modules := if s.life.modules = 0 then 4 else s.life.modules } }) ∧
  (∀ addr data, s.baseCamp = false → (∀ c ∈ cellsFrom addr data, c.1 < 2 ^ 52 ∧ (isHost c.1 = true ∨
      (s.closed = false ∧ s.life.optN = false ∧ s.hole c.1 = false))) →
    exec (.hostRequest 1 addr data) s = .next ({ s with hostErr := false }.cohWrite false (cellsFrom addr data))) ∧
  (∀ addr data, (∃ c ∈ cellsFrom addr data, 2 ^ 52 ≤ c.1 ∨ (isHost c.1 = false ∧
      (s.closed = true ∨ s.life.optN = true ∨ s.hole c.1 = true))) →
    exec (.hostRequest 1 addr data) s = .next { s with hostErr := true })

/-- R408, R409, R414, R415, R425, R330, R345, R295, R385: writes to the registers of window 0, in every state that takes them; PLIM keeps
its limits, WPnC and the reservations of a cluster clamp their fields, VSERR's counts are cleared by writing 0, a write with no request
in PREEMPT names its ASID, and a base or size that turns a ring off drops and counts the records that waited for it (`State.ringIdle`).
A 4-byte write changes one half. CXL.io does not reach a part with host option N, whose registers a peer's packets write. A register of
another window is a peer's: the access goes out as a packet, or ends in an error. That a misaligned access writes nothing, and that
either half of a write-only register acts as the whole, is the model's choice (log 58). -/
def Obligations.RegisterWrites : Prop := ∀ (s : State) (v : Nat), s.stuck = none → s.closed = false →
  let wrote (half : Bool) (a : Nat) (f : State → State) : Prop :=
    (s.life.optN = false → a < 2 ^ 22 → exec (.registerWrite a v half) s = .next (f { s with hostErr := false })) ∧
    (∀ src, s.fabcfg.getLsbD 12 = true → s.fabNext = none → s.fabcfg.getLsbD (8 + src % 4) = true →
      exec (.registerPacket true src a v half) s = .next (f s))
  let wr (a : Nat) (f : State → State) : Prop := wrote false a f
  let half (a : Nat) (f : State → State) : Prop := wrote true a f
  let via (a : Nat) (i : Instr) (pre : State → State) : Prop :=
    (s.life.optN = false → ∀ t, exec i (pre { s with hostErr := false }) = .next t → t.stuck = none →
      exec (.registerWrite a v false) s = .next t) ∧
    (∀ src, s.fabcfg.getLsbD 12 = true → s.fabNext = none → s.fabcfg.getLsbD (8 + src % 4) = true →
      ∀ t, exec i (pre s) = .next t → t.stuck = none → exec (.registerPacket true src a v false) s = .next t)
  let kept (a : Nat) (s : State) : State :=
    { s with halves := s.halves.putD (0, 0) a (BitVec.ofNat 32 v, BitVec.ofNat 32 (v / 2 ^ 32)) }
  let ring (k : Nat) (f : Ring → Ring) (s : State) : State := { s with rings := s.rings.put k (f (s.rings.lookD Ring.reset k)) }
  let lo (x : DWord) : DWord := BitVec.ofNat 64 (x.toNat / 2 ^ 32 * 2 ^ 32 + v % 2 ^ 32)
  let hi (x : DWord) : DWord := BitVec.ofNat 64 (x.toNat % 2 ^ 32 + 2 ^ 32 * (v % 2 ^ 32))
  let wpc (v : Nat) : DWord :=
    BitVec.ofNat 64 (bits v 0 4 + 2 ^ 42 * min 32 (bits v 42 6) + 2 ^ 48 * bits v 48 16)
  (s.life.optN = true → ∀ a half, exec (.registerWrite a v half) s = .next s) ∧
  wr 0x00 id ∧
  wr 0x08 (fun s => { s with plim := BitVec.ofNat 64 (max 150 (min 600 (v % 2 ^ 10))) }) ∧
  wr 0x10 (fun s => { s with qtabbase := va64 v }) ∧ wr 0x20 (fun s => { s with ctxbase := va64 v }) ∧
  wr 0x38 (fun s => { s with cntbase := va64 v }) ∧ wr 0x40 (fun s => { s with sampper := BitVec.ofNat 64 (v % 2 ^ 32) }) ∧
  half 0x10 (fun s => { s with qtabbase := lo s.qtabbase }) ∧ half 0x14 (fun s => { s with qtabbase := hi s.qtabbase }) ∧
  half 0x20 (fun s => { s with ctxbase := lo s.ctxbase }) ∧ half 0x24 (fun s => { s with ctxbase := hi s.ctxbase }) ∧
  half 0x38 (fun s => { s with cntbase := lo s.cntbase }) ∧ half 0x3C (fun s => { s with cntbase := hi s.cntbase }) ∧
  (bits v 16 3 = 0 → s.preempt.getLsbD 19 = false → wr 0x28 (fun s => { s with preempt := BitVec.ofNat 64 (v % 65536) })) ∧
  (bits v 16 3 ≠ 0 → s.preempt.getLsbD 19 = true → wr 0x28 id) ∧
  (s.preempt.getLsbD 19 = false → (bits v 16 3 = 1 → via 0x28 (.preemptPre (v % 65536)) id) ∧
    (bits v 16 3 = 2 → via 0x28 (.preemptRes (v % 65536)) id) ∧ (bits v 16 3 = 4 → via 0x28 (.preemptKill (v % 65536)) id)) ∧
  via 0x18 (.qkick (v % 2 ^ 32)) id ∧ (bits v 32 2 = 1 → via 0x30 (.fltrespRetry (bits v 0 32)) (kept 0x30)) ∧
  (bits v 32 2 = 2 → via 0x30 (.fltrespUnresolved (bits v 0 32)) (kept 0x30)) ∧
  via 0x48 (.vsbaseWrite v) id ∧ via 0x50 (.vssizeWrite v) id ∧ via 0x60 (.fabcfgWrite v) id ∧
  via 0x68 (.portstatWrite 0 v) id ∧ via 0x70 (.portstatWrite 1 v) id ∧
  (∀ k, k < 12 → (v % 4 = 1 → via (0x1020 + 0x40 * k) (.dbgcmdStop k v) (kept (0x1020 + 0x40 * k))) ∧
    (v % 4 = 2 → via (0x1020 + 0x40 * k) (.dbgcmdResume k v) (kept (0x1020 + 0x40 * k)))) ∧
  (bits v 2 30 = 0 → wr 0x58 (fun s => { s with vserr := s.vserr &&& 0xFFFFFFFF00000003 })) ∧ (bits v 2 30 ≠ 0 → wr 0x58 id) ∧
  (∀ k, k < 4 →
    wr (0x100 + 0x40 * k) (fun s => (ring k (fun r => { r with base := va64 v, off := false }) s).ringIdle k) ∧
    wr (0x108 + 0x40 * k) (fun s => (ring k (fun r => { r with size := va64 v, off := false }) s).ringIdle k) ∧
    wr (0x110 + 0x40 * k) id ∧
    wr (0x118 + 0x40 * k) (ring k (fun r => { r with tail := va64 v })) ∧
    wr (0x120 + 0x40 * k) (ring k (fun r => { r with vec := va64 v })) ∧
    half (0x118 + 0x40 * k) (ring k (fun r => { r with tail := lo r.tail })) ∧
    half (0x11C + 0x40 * k) (ring k (fun r => { r with tail := hi r.tail }))) ∧
  (∀ k, k < 8 → wr (0x200 + 16 * k) (fun s => { s with wps := s.wps.put k (va64 v, (s.wps.lookD (0, 0) k).2) }) ∧
    wr (0x208 + 16 * k) (fun s => { s with wps := s.wps.put k ((s.wps.lookD (0, 0) k).1, wpc v) })) ∧
  (∀ k, k < 12 → wr (0x1000 + 0x40 * k) (fun s => s.modCluster k (fun c => { c with dbgctl := va64 v &&& 0xFFFF0007 })) ∧
    wr (0x1008 + 0x40 * k) (fun s => s.modCluster k (fun c => { c with dumpbase := va64 v })) ∧
    wr (0x1010 + 0x40 * k) (fun s => s.modCluster k (fun c => { c with frsva := frsvWord v })) ∧
    wr (0x1018 + 0x40 * k) (fun s => s.modCluster k (fun c => { c with frsvb := frsvWord v }))) ∧
  (bits (frsvWord v).toNat 0 1 = v % 2 ∧ bits (frsvWord v).toNat 13 5 = min 28 (bits v 13 5) ∧
    bits (frsvWord v).toNat 18 4 = min 8 (bits v 18 4) ∧ bits (frsvWord v).toNat 22 5 = min 16 (bits v 22 5) ∧
    bits (frsvWord v).toNat 27 5 = min 16 (bits v 27 5) ∧ bits (frsvWord v).toNat 32 9 = min 384 (bits v 32 9)) ∧
  (∀ i, i < 8192 → i % 4 ≠ 3 ∨ v % 2 = 1 ∨ s.msiPend.contains (i / 4) = false →
    half (0x300000 + 4 * i) (fun s => { s with msix := s.msix.putD (msixReset i) i (BitVec.ofNat 32 v) })) ∧
  (∀ a, a % 8 ≠ 0 → wr a id) ∧ (∀ a, a % 4 ≠ 0 → half a id) ∧
  (∀ a src h, 2 ^ 22 ≤ a → s.fabcfg.getLsbD 12 = true → s.fabNext = none → s.fabcfg.getLsbD (8 + src % 4) = true →
    exec (.registerPacket true src a v h) s = .next s) ∧
  (∀ a h, s.life.optN = false → 2 ^ 22 ≤ a → a < 2 ^ 24 →
    let dev := (bits s.fabcfg.toNat 0 2 + a / 2 ^ 22) % 4
    (∀ p, s.peerOk dev 0 = true → s.peerRoute dev 0 = some p → exec (.registerWrite a v h) s =
      .next ({ s with hostErr := false }.send p none (.reg dev true (a % 2 ^ 22) v h))) ∧
    (s.peerOk dev 0 = false → exec (.registerWrite a v h) s = .next { s with hostErr := true }))
end

