-- ==== Sys2Proof/Laws/Table.lean ====
section
/-! SUPPORT. Tables and memory: what a read sees after a write, and that every memory operation keeps the canonical form. -/

namespace Sys2Proof.Machine

variable {α : Type}

theorem Tbl.look_put_self (t : Tbl α) (k : Nat) (v : α) : (t.put k v).look k = some v := by
  induction t with
  | nil => simp [Tbl.put, Tbl.look]
  | cons x r ih =>
    obtain ⟨j, w⟩ := x
    unfold Tbl.put
    split
    · simp [Tbl.look]
    · split
      · simp [Tbl.look]
      · next h1 h2 => simp [Tbl.look, h2, ih]

theorem Tbl.look_put_ne (t : Tbl α) {k j : Nat} (v : α) (h : j ≠ k) : (t.put k v).look j = t.look j := by
  induction t with
  | nil => simp [Tbl.put, Tbl.look, Ne.symm h]
  | cons x r ih =>
    obtain ⟨i, w⟩ := x
    unfold Tbl.put
    split
    · simp [Tbl.look, Ne.symm h]
    · split
      · next h2 => subst h2; simp [Tbl.look, Ne.symm h]
      · simp only [Tbl.look, ih]

@[simp] theorem Tbl.lookD_put_self (t : Tbl α) (d : α) (k : Nat) (v : α) : (t.put k v).lookD d k = v := by
  simp [Tbl.lookD, Tbl.look_put_self]

theorem Tbl.lookD_put_ne (t : Tbl α) (d : α) {k j : Nat} (v : α) (h : j ≠ k) : (t.put k v).lookD d j = t.lookD d j := by
  simp [Tbl.lookD, Tbl.look_put_ne t v h]

@[simp] theorem Tbl.put_put (t : Tbl α) (k : Nat) (v w : α) : (t.put k v).put k w = t.put k w := by
  induction t with
  | nil => simp [Tbl.put]
  | cons x r ih =>
    obtain ⟨j, u⟩ := x
    by_cases h1 : k < j
    · simp [Tbl.put, h1]
    · by_cases h2 : j = k
      · simp [Tbl.put, h2]
      · simp [Tbl.put, h1, h2, ih]

/-- Every key of a table lies above a bound. -/
def Tbl.above (t : Tbl α) (k : Nat) : Prop := ∀ x ∈ t, k < x.1

theorem Tbl.sorted_cons (x : Nat × α) (t : Tbl α) : Tbl.sorted (x :: t) = true ↔ Tbl.above t x.1 ∧ Tbl.sorted t = true := by
  induction t generalizing x with
  | nil => simp [Tbl.sorted, Tbl.above]
  | cons y r ih =>
    simp only [Tbl.sorted, Bool.and_eq_true, decide_eq_true_eq]
    constructor
    · rintro ⟨h, hs⟩
      refine ⟨?_, hs⟩
      intro z hz
      rcases List.mem_cons.1 hz with rfl | hz
      · exact h
      · exact Nat.lt_trans h (((ih y).1 hs).1 z hz)
    · rintro ⟨h, hs⟩
      exact ⟨h y (by simp), hs⟩

theorem Tbl.above_put {t : Tbl α} {b k : Nat} (v : α) (h : t.above b) (hk : b < k) : (t.put k v).above b := by
  induction t with
  | nil => intro x hx; simp [Tbl.put] at hx; subst hx; exact hk
  | cons y r ih =>
    have hr : Tbl.above r b := fun x hx => h x (by simp [hx])
    have hy := h y (by simp)
    intro x hx
    unfold Tbl.put at hx
    split at hx
    · rcases List.mem_cons.1 hx with rfl | hx
      · exact hk
      · exact h x hx
    · split at hx
      · rcases List.mem_cons.1 hx with rfl | hx
        · exact hk
        · exact hr x hx
      · rcases List.mem_cons.1 hx with rfl | hx
        · exact hy
        · exact ih hr x hx

theorem Tbl.sorted_put {t : Tbl α} (k : Nat) (v : α) (h : Tbl.sorted t = true) : Tbl.sorted (t.put k v) = true := by
  induction t with
  | nil => simp [Tbl.put, Tbl.sorted]
  | cons y r ih =>
    obtain ⟨j, w⟩ := y
    rw [Tbl.sorted_cons] at h
    unfold Tbl.put
    split
    · next h1 =>
      rw [Tbl.sorted_cons, Tbl.sorted_cons]
      refine ⟨?_, h⟩
      intro x hx
      rcases List.mem_cons.1 hx with rfl | hx
      · exact h1
      · exact Nat.lt_trans h1 (h.1 x hx)
    · split
      · next h2 => subst h2; rw [Tbl.sorted_cons]; exact h
      · next h1 h2 =>
        rw [Tbl.sorted_cons]
        exact ⟨Tbl.above_put v h.1 (by simp only; omega), ih h.2⟩

theorem Tbl.mem_del {t : Tbl α} {k : Nat} {x : Nat × α} (h : x ∈ t.del k) : x ∈ t := by
  induction t with
  | nil => simp [Tbl.del] at h
  | cons y r ih =>
    unfold Tbl.del at h
    split at h
    · simp [ih h]
    · rcases List.mem_cons.1 h with rfl | h
      · simp
      · simp [ih h]

theorem Tbl.sorted_del {t : Tbl α} (k : Nat) (h : Tbl.sorted t = true) : Tbl.sorted (t.del k) = true := by
  induction t with
  | nil => simp [Tbl.del, Tbl.sorted]
  | cons y r ih =>
    rw [Tbl.sorted_cons] at h
    unfold Tbl.del
    split
    · exact ih h.2
    · rw [Tbl.sorted_cons]
      exact ⟨fun x hx => h.1 x (Tbl.mem_del hx), ih h.2⟩

theorem Tbl.sorted_filter {t : Tbl α} (p : Nat × α → Bool) (h : Tbl.sorted t = true) : Tbl.sorted (t.filter p) = true := by
  induction t with
  | nil => simp [Tbl.sorted]
  | cons y r ih =>
    rw [Tbl.sorted_cons] at h
    rw [List.filter_cons]
    split
    · rw [Tbl.sorted_cons]
      exact ⟨fun x hx => h.1 x (List.mem_filter.1 hx).1, ih h.2⟩
    · exact ih h.2

theorem Tbl.look_above {t : Tbl α} {k : Nat} (h : t.above k) : t.look k = none := by
  induction t with
  | nil => rfl
  | cons y r ih =>
    have := h y (by simp)
    obtain ⟨j, w⟩ := y
    have hj : j ≠ k := by simp only at this; omega
    simp only [Tbl.look, hj, if_false]
    exact ih fun x hx => h x (by simp [hx])

@[simp] theorem Tbl.look_del_self (t : Tbl α) (k : Nat) : (t.del k).look k = none := by
  induction t with
  | nil => rfl
  | cons y r ih =>
    obtain ⟨j, w⟩ := y
    unfold Tbl.del
    split
    · exact ih
    · next e => simp only [Tbl.look, e, if_false]; exact ih

theorem Tbl.look_del_ne (t : Tbl α) {k j : Nat} (h : j ≠ k) : (t.del k).look j = t.look j := by
  induction t with
  | nil => rfl
  | cons y r ih =>
    obtain ⟨i, w⟩ := y
    unfold Tbl.del
    split
    · next e => subst e; simp only [Tbl.look, Ne.symm h, if_false, ih]
    · simp only [Tbl.look, ih]

/-- A key that was set to a value, be it the default, reads as set. -/
@[simp] theorem Tbl.lookD_putD_self [DecidableEq α] (t : Tbl α) (d : α) (k : Nat) (v : α) : (t.putD d k v).lookD d k = v := by
  unfold Tbl.putD
  split
  · next h => simp [Tbl.lookD, h]
  · exact Tbl.lookD_put_self ..

/-- Every other key reads as before. -/
theorem Tbl.lookD_putD_ne [DecidableEq α] (t : Tbl α) (d : α) {k j : Nat} (v : α) (h : j ≠ k) :
    (t.putD d k v).lookD d j = t.lookD d j := by
  unfold Tbl.putD
  split
  · simp only [Tbl.lookD, Tbl.look_del_ne t h]
  · exact Tbl.lookD_put_ne t d v h

/-- A byte that was written reads as written. -/
theorem Memory.read_write_self (m : List Host.Cell) (a : Nat) (b : Byte) : Memory.read (Memory.write m a b) a = b :=
  Tbl.lookD_putD_self m 0 a b

/-- Every other byte reads as before. -/
theorem Memory.read_write_ne (m : List Host.Cell) {a x : Nat} (b : Byte) (h : x ≠ a) :
    Memory.read (Memory.write m a b) x = Memory.read m x :=
  Tbl.lookD_putD_ne m 0 b h

theorem Tbl.all_put {t : Tbl α} {p : Nat × α → Bool} (k : Nat) (v : α) (h : t.all p = true) (hv : p (k, v) = true) :
    (t.put k v).all p = true := by
  induction t with
  | nil => simp [Tbl.put, hv]
  | cons y r ih =>
    rw [List.all_cons, Bool.and_eq_true] at h
    unfold Tbl.put
    split
    · rw [List.all_cons, List.all_cons, hv, h.1, h.2]; rfl
    · split
      · rw [List.all_cons, hv, h.2]; rfl
      · rw [List.all_cons, h.1, ih h.2]; rfl

theorem Tbl.all_del {t : Tbl α} {p : Nat × α → Bool} (k : Nat) (h : t.all p = true) : (t.del k).all p = true :=
  List.all_eq_true.2 fun x hx => List.all_eq_true.1 h x (Tbl.mem_del hx)

/-- Writing one byte keeps the canonical form. -/
theorem Memory.wf_write {m : List Host.Cell} (a : Nat) (b : Byte) (h : Memory.wf m = true) :
    Memory.wf (Memory.write m a b) = true := by
  simp only [Memory.wf, Bool.and_eq_true] at h ⊢
  simp only [Memory.write, Tbl.putD]
  split
  · exact ⟨Tbl.sorted_del a h.1, Tbl.all_del a h.2⟩
  · next hb => exact ⟨Tbl.sorted_put a b h.1, Tbl.all_put a b h.2 (by simpa using hb)⟩

/-- Writing several bytes keeps the canonical form. -/
theorem Memory.wf_writes {m : List Host.Cell} (cells : List (Nat × Byte)) (h : Memory.wf m = true) :
    Memory.wf (Memory.writes m cells) = true := by
  induction cells generalizing m with
  | nil => exact h
  | cons c r ih => exact ih (Memory.wf_write c.1 c.2 h)

/-- Forgetting the bytes of some addresses keeps the canonical form. -/
theorem Memory.wf_filter {m : List Host.Cell} (p : Host.Cell → Bool) (h : Memory.wf m = true) : Memory.wf (m.filter p) = true := by
  simp only [Memory.wf, Bool.and_eq_true] at h ⊢
  exact ⟨Tbl.sorted_filter p h.1, List.all_eq_true.2 fun x hx => List.all_eq_true.1 h.2 x (List.mem_filter.1 hx).1⟩

/-- An address that no cell names reads as before. -/
theorem Memory.read_writes_ne {m : List Host.Cell} {cells : List (Nat × Byte)} {x : Nat} (h : ∀ c ∈ cells, c.1 ≠ x) :
    Memory.read (Memory.writes m cells) x = Memory.read m x := by
  induction cells generalizing m with
  | nil => rfl
  | cons c r ih =>
    have : Memory.read (Memory.writes (Memory.write m c.1 c.2) r) x = Memory.read (Memory.write m c.1 c.2) x :=
      ih fun d hd => h d (by simp [hd])
    exact this.trans (Memory.read_write_ne m c.2 (Ne.symm (h c (by simp))))

theorem getLsbD_one_shiftLeft (l i : Nat) : ((1 : DWord) <<< l).getLsbD i = (decide (i < 64) && decide (i = l)) := by
  rw [BitVec.getLsbD_shiftLeft]
  by_cases h : i < 64 <;> by_cases h2 : i < l <;> simp [h, h2]
  · omega
  · constructor
    · intro h3; omega
    · intro h3; omega

/-- The bits of the mask of some lanes. -/
theorem getLsbD_maskOf (ls : List Nat) (i : Nat) : (maskOf ls).getLsbD i = (decide (i < 64) && decide (i ∈ ls)) := by
  have : ∀ (m : DWord), (ls.foldl (fun (m : DWord) l => m ||| ((1 : DWord) <<< l)) m).getLsbD i = (m.getLsbD i || (decide (i < 64) && decide (i ∈ ls))) := by
    induction ls with
    | nil => simp
    | cons a r ih =>
      intro m
      rw [List.foldl_cons, ih, BitVec.getLsbD_or, getLsbD_one_shiftLeft]
      by_cases h : i < 64 <;> by_cases h2 : i = a <;> simp_all
  rw [maskOf, this]
  simp

theorem mem_lanesOf {m : DWord} {i : Nat} : i ∈ lanesOf m ↔ m.getLsbD i = true := by
  rw [lanesOf, List.mem_filter, List.mem_range]
  constructor
  · exact fun h => h.2
  · exact fun h => ⟨Nat.lt_of_not_le (fun h2 => by rw [BitVec.getLsbD_of_ge _ _ h2] at h; cases h), h⟩

theorem maskOf_ne_zero {ls : List Nat} {l : Nat} (h : l ∈ ls) (h2 : l < 64) : maskOf ls ≠ 0 := by
  intro h3
  have := getLsbD_maskOf ls l
  rw [h3] at this
  simp [h, h2] at this

end Sys2Proof.Machine
end

