-- ==== Sys2Proof/Laws/Calm.lean ====
section
/-! SUPPORT. What no operation of a step but the device's own does: each keeps the canonical form of memory and the device's
registers, and none stops the run outside base camp. One lemma per operation. -/

namespace Sys2Proof.Machine

/-- From one state to another, memory keeps its form, the device's own registers their values, and outside base camp no access
has met absent memory. -/
structure Calm (s t : State) : Prop where
  mem : s.memOk → t.memOk
  regs : t.devRegs = s.devRegs
  stuck : s.baseCamp = false → s.stuck = none → t.stuck = none

theorem Calm.rfl {s : State} : Calm s s := ⟨id, Eq.refl _, fun _ h => h⟩

theorem Calm.base {s t : State} (h : Calm s t) : t.baseCamp = s.baseCamp := by
  have := congrArg (·.1) h.regs
  simp only [State.devRegs] at this
  simp only [State.baseCamp, this]

theorem Calm.trans {s t u : State} (h : Calm s t) (k : Calm t u) : Calm s u :=
  ⟨fun m => k.mem (h.mem m), k.regs.trans h.regs, fun b m => k.stuck (h.base.trans b) (h.stuck b m)⟩

theorem Calm.ite {s a b : State} {c : Prop} [Decidable c] (ha : Calm s a) (hb : Calm s b) : Calm s (if c then a else b) := by
  split <;> assumption

theorem Calm.ite1 {β : Type} {s : State} {p q : State × β} {c : Prop} [Decidable c] (hp : Calm s p.1) (hq : Calm s q.1) :
    Calm s (if c then p else q).1 := by
  split <;> assumption

theorem Calm.fst {s t : State} {β : Type} {p : State × β} {b : β} (h : p = (t, b)) (k : Calm s p.1) : Calm s t := by
  subst h; exact k

theorem Calm.fold {α : Type} {s t : State} {f : State → α → State} {l : List α} (h : Calm s t) (hf : ∀ x a, Calm x (f x a)) :
    Calm s (l.foldl f t) := by
  induction l generalizing t with
  | nil => exact h
  | cons a r ih => exact ih (h.trans (hf t a))

theorem Calm.fold1 {α β : Type} {s : State} {p : State × β} {f : State × β → α → State × β} {l : List α} (h : Calm s p.1)
    (hf : ∀ x a, Calm x.1 (f x a).1) : Calm s (l.foldl f p).1 := by
  induction l generalizing p with
  | nil => exact h
  | cons a r ih => exact ih (h.trans (hf p a))

theorem Calm.upd_iff {s t : State} {a50 : List Nat} {a2 : Tbl Nat} {a3 : Tbl Nat} {a4 : Nat} {a5 : List Nat} {a51 : Bool} {a52 : List Nat} {a6 : Tbl Group} {a7 : Tbl Core} {a8 : Tbl Cluster} {a9 : Tbl Launch} {a10 : Tbl Wg} {a11 : Tbl Rope} {a12 : List GenLine} {a13 : Tbl Tracker} {a14 : Tbl Nat} {a15 : Tbl (Nat × Nat)} {a16 : BitVec 32} {a17 : List OutFault} {a18 : List (Nat × Nat × Nat × Nat)} {a19 : List (Nat × Nat × Bool)} {a20 : Tbl Ring} {a21 : BitVec 32} {a23 : Tbl QState} {a24 : List Packet} {a25 : List Inval} {a26 : Tbl Chan} {a27 : Tbl Port} {a28 : List PeerReq} {a33 : BitVec 64} {a38 : BitVec 64} {a39 : BitVec 64} {a40 : Option (BitVec 64)} {a41 : Tbl Word} {a42 : List Nat} {a43 : List Nat} {a53 : Bool} {a54 : Tbl (Word × Word)} {a44 : Tbl Word} {a45 : Tbl Word} {a47 : Nat} {a48 : List Turn} {a49 : Cur} :
    Calm s (State.mk t.mem t.peerMem a50 a2 a3 a4 a5 a51 a52 a6 a7 a8 a9 a10 a11 a12 a13 a14 a15 a16 a17 a18 a19 a20 a21 t.wps a23 a24 a25 a26 a27 a28 t.devstate t.plim t.qtabbase t.ctxbase a33 t.cntbase t.sampper t.vsbase t.vssize a38 a39 a40 a41 a42 a43 a53 a54 a44 a45 t.life a47 a48 a49 t.stuck) ↔ Calm s t :=
  ⟨fun h => ⟨h.mem, h.regs, h.stuck⟩, fun h => ⟨h.mem, h.regs, h.stuck⟩⟩


theorem calm_fireLine (s : State) (k : Nat) : Calm s (State.fireLine s k) := by
  unfold State.fireLine
  repeat' first
    | with_reducible exact Calm.rfl
    | simp only [↓Calm.upd_iff]

theorem calm_leaveLine (s : State) (key : Nat) : Calm s (State.leaveLine s key) := by
  unfold State.leaveLine
  repeat' first
    | with_reducible exact Calm.rfl
    | with_reducible refine Calm.trans ?_ (calm_fireLine _ _)
    | simp only [↓Calm.upd_iff]

theorem calm_dropGen (s : State) (asid : Nat) (vline : Nat) : Calm s (State.dropGen s asid vline) := by
  unfold State.dropGen
  repeat' first
    | with_reducible exact Calm.rfl
    | simp only [↓Calm.upd_iff]

theorem calm_count (s : State) (unit : Nat) (event : Nat) (n : Nat) : Calm s (State.count s unit event n) := by
  unfold State.count
  repeat' first
    | with_reducible exact Calm.rfl
    | simp only [↓Calm.upd_iff]

theorem calm_vsInsert (s : State) (asid : Nat) (vline : Nat) (d : LineData) (pol : Nat) : Calm s (State.vsInsert s asid vline d pol) := by
  unfold State.vsInsert
  split
  · exact Calm.rfl
  · exact ⟨fun k => ⟨Memory.wf_writes _ k.1, k.2⟩, Eq.refl _, fun _ k => k⟩

theorem calm_leaveGen (s : State) (asid : Nat) (vline : Nat) : Calm s (State.leaveGen s asid vline) := by
  unfold State.leaveGen
  repeat' first
    | with_reducible exact Calm.rfl
    | with_reducible refine Calm.trans ?_ (calm_fireLine _ _)
    | with_reducible refine Calm.trans ?_ (calm_dropGen _ _ _)
    | with_reducible refine Calm.trans ?_ (calm_vsInsert _ _ _ _ _)
    | with_reducible refine Calm.ite ?_ ?_
    | dsimp only
    | split

theorem calm_llcRoom (s : State) (place : Nat × Nat) : Calm s (State.llcRoom s place) := by
  unfold State.llcRoom
  repeat' first
    | with_reducible exact Calm.rfl
    | with_reducible refine Calm.trans ?_ (calm_leaveLine _ _)
    | with_reducible refine Calm.trans ?_ (calm_leaveGen _ _ _)
    | with_reducible refine Calm.ite ?_ ?_
    | dsimp only
    | split

theorem calm_sectors (s : State) (n : Nat) : Calm s (State.sectors s n) := by
  unfold State.sectors
  repeat' first
    | with_reducible exact Calm.rfl
    | with_reducible refine Calm.trans ?_ (calm_count _ _ _ _)
    | with_reducible refine Calm.ite ?_ ?_

theorem calm_enterLine (s : State) (k : Nat) : Calm s (State.enterLine s k) := by
  unfold State.enterLine
  repeat' first
    | with_reducible exact Calm.rfl
    | with_reducible refine Calm.trans ?_ (calm_llcRoom _ _)
    | with_reducible refine Calm.trans ?_ (calm_sectors _ _)
    | with_reducible refine Calm.ite ?_ ?_
    | simp only [↓Calm.upd_iff]
    | split

theorem calm_bumpLine (s : State) (k : Nat) : Calm s (State.bumpLine s k) := by
  unfold State.bumpLine
  repeat' first
    | with_reducible exact Calm.rfl
    | with_reducible refine Calm.trans ?_ (calm_enterLine _ _)
    | with_reducible refine Calm.ite ?_ ?_
    | simp only [↓Calm.upd_iff]

theorem calm_cohWrite (s : State) (peer : Bool) (cells : List (Nat × Byte)) : Calm s (State.cohWrite s peer cells) := by
  unfold State.cohWrite
  extract_lets t0 t u
  have h1 : Calm s t :=
    (Calm.fold Calm.rfl fun x a => (calm_bumpLine x a).trans (calm_fireLine _ a) : Calm s t0).trans (calm_sectors ..)
  have h2 : t.memOk → u.memOk := by
    simp only [u]
    split <;> exact id
  have h3 : u.devRegs = t.devRegs := by
    simp only [u]
    split <;> rfl
  have h4 : t.baseCamp = false → t.stuck = none → u.stuck = none := by
    intro hb hs
    simp only [u]
    split
    · next hh =>
      simp only [Bool.and_eq_true, List.any_eq_true] at hh
      obtain ⟨-, c, -, hc⟩ := hh
      simp only [State.hole, Bool.and_eq_true] at hc
      rw [hb] at hc
      exact absurd hc.1.1 (by simp)
    · exact hs
  have h5 : Calm s u := h1.trans ⟨h2, h3, h4⟩
  clear_value u
  refine h5.trans ?_
  split
  · exact ⟨fun h => ⟨h.1, Memory.wf_writes _ h.2⟩, Eq.refl _, fun _ h => h⟩
  · exact ⟨fun h => ⟨Memory.wf_writes _ h.1, h.2⟩, Eq.refl _, fun _ h => h⟩

theorem calm_modCore (s : State) (c : Nat) (f : Core → Core) : Calm s (State.modCore s c f) := by
  unfold State.modCore
  repeat' first
    | with_reducible exact Calm.rfl
    | simp only [↓Calm.upd_iff]

theorem calm_forgetOp (s : State) (key : Nat) : Calm s (State.forgetOp s key) := by
  unfold State.forgetOp
  repeat' first
    | with_reducible exact Calm.rfl
    | simp only [↓Calm.upd_iff]

theorem calm_modGroup (s : State) (c : Nat) (ctx : Nat) (f : Group → Group) : Calm s (State.modGroup s c ctx f) := by
  unfold State.modGroup
  repeat' first
    | with_reducible exact Calm.rfl
    | simp only [↓Calm.upd_iff]

theorem calm_complete (s : State) (c : Nat) (o : Op) : Calm s (State.complete s c o) := by
  unfold State.complete
  repeat' first
    | with_reducible exact Calm.rfl
    | with_reducible refine Calm.trans ?_ (calm_modCore _ _ _)
    | with_reducible refine Calm.trans ?_ (calm_forgetOp _ _)
    | with_reducible refine Calm.trans ?_ (calm_modGroup _ _ _ _)
    | dsimp only
    | split

theorem calm_countNest (s : State) (cause : Nat) : Calm s (State.countNest s cause) := by
  unfold State.countNest
  repeat' first
    | with_reducible exact Calm.rfl
    | with_reducible refine Calm.trans ?_ (calm_count _ _ _ _)
    | with_reducible refine Calm.ite ?_ ?_

theorem calm_dropOp (s : State) (c : Nat) (id : Nat) : Calm s (State.dropOp s c id) := by
  unfold State.dropOp
  repeat' first
    | with_reducible exact Calm.rfl
    | with_reducible refine Calm.trans ?_ (calm_modCore _ _ _)
    | with_reducible refine Calm.trans ?_ (calm_forgetOp _ _)

theorem calm_dropTileStores (s : State) (l : Nat) : Calm s (State.dropTileStores s l) := by
  unfold State.dropTileStores
  repeat' first
    | with_reducible exact Calm.rfl
    | simp only [↓Calm.upd_iff]

theorem calm_ringPut (s : State) (k : Nat) (rec_ : List Byte) : Calm s (State.ringPut s k rec_) := by
  unfold State.ringPut
  repeat' first
    | with_reducible exact Calm.rfl
    | with_reducible refine Calm.trans ?_ (calm_count _ _ _ _)
    | with_reducible refine Calm.ite ?_ ?_
    | simp only [↓Calm.upd_iff]

theorem calm_report (s : State) (type : Nat) (cause : Nat) (asid : Nat) (faddr : DWord) (ffirst : DWord) (status : Nat) (flags : Nat) (stamp : Nat) (clk : Nat) : Calm s (State.report s type cause asid faddr ffirst status flags stamp clk) := by
  unfold State.report
  repeat' first
    | with_reducible exact Calm.rfl
    | with_reducible refine Calm.trans ?_ (calm_ringPut _ _ _)
    | simp only [↓Calm.upd_iff]

theorem calm_modWg (s : State) (w : Nat) (f : Wg → Wg) : Calm s (State.modWg s w f) := by
  unfold State.modWg
  repeat' first
    | with_reducible exact Calm.rfl
    | simp only [↓Calm.upd_iff]

theorem calm_fixThrottle (s : State) (c : Nat) : Calm s (State.fixThrottle s c) := by
  unfold State.fixThrottle
  repeat' first
    | with_reducible exact Calm.rfl
    | with_reducible refine Calm.trans ?_ (calm_modCore _ _ _)

theorem calm_removeGroup (s : State) (c : Nat) (ctx : Nat) : Calm s (State.removeGroup s c ctx) := by
  unfold State.removeGroup
  repeat' first
    | with_reducible exact Calm.rfl
    | with_reducible refine Calm.trans ?_ (calm_modCore _ _ _)
    | with_reducible refine Calm.trans ?_ (calm_modWg _ _ _)
    | with_reducible refine Calm.trans ?_ (calm_fixThrottle _ _)
    | with_reducible refine Calm.ite ?_ ?_
    | simp only [↓Calm.upd_iff]
    | split

theorem calm_lowerBoundary (s : State) (c : Nat) : Calm s (State.lowerBoundary s c) := by
  unfold State.lowerBoundary
  repeat' first
    | with_reducible exact Calm.rfl
    | with_reducible refine Calm.trans ?_ (calm_modCore _ _ _)

theorem calm_removeWgs (s : State) (p : Nat → Wg → Bool) : Calm s (State.removeWgs s p) := by
  unfold State.removeWgs
  repeat' first
    | with_reducible exact Calm.rfl
    | with_reducible refine Calm.trans ?_ (calm_lowerBoundary _ _)
    | with_reducible refine Calm.fold ?_ (fun s a => ?_)
    | simp only [↓Calm.upd_iff]

theorem calm_modLaunch (s : State) (l : Nat) (f : Launch → Launch) : Calm s (State.modLaunch s l f) := by
  unfold State.modLaunch
  repeat' first
    | with_reducible exact Calm.rfl
    | simp only [↓Calm.upd_iff]

theorem calm_endLaunch (s : State) (l : Nat) (status : Nat) (cause : Nat) (faddr : DWord) (ffirst : DWord) (flags : Nat) (stamp : Nat) (clk : Nat) : Calm s (State.endLaunch s l status cause faddr ffirst flags stamp clk) := by
  unfold State.endLaunch
  split
  · exact Calm.rfl
  · split
    · exact Calm.rfl
    · extract_lets s1 s2 gs s3 s4 s5 s6
      have h1 : Calm s s1 := Calm.ite (calm_report ..) Calm.rfl
      have h2 : Calm s s2 := h1.trans (calm_dropTileStores ..)
      have h3 : Calm s s3 := Calm.fold h2 fun x a => calm_removeGroup ..
      clear_value s3
      have h4 : Calm s s4 := by simp only [s4, ↓Calm.upd_iff]; exact h3
      have h5 : Calm s s5 := h4.trans (calm_removeWgs ..)
      clear_value s5
      have h6 : Calm s s6 := by simp only [s6, ↓Calm.upd_iff]; exact h5
      exact h6.trans (calm_modLaunch ..)

theorem calm_forget (s : State) (uid : Nat) (n : Nat) : Calm s (State.forget s uid n) := by
  unfold State.forget
  repeat' first
    | with_reducible exact Calm.rfl
    | simp only [↓Calm.upd_iff]

theorem calm_modSlot (s : State) (c : Nat) (ctx : Nat) (n : Nat) (f : Slot → Slot) : Calm s (State.modSlot s c ctx n f) := by
  unfold State.modSlot
  repeat' first
    | with_reducible exact Calm.rfl
    | with_reducible refine Calm.trans ?_ (calm_modGroup _ _ _ _)

theorem calm_goOn (s : State) (e : Env) (stall : Nat) : Calm s (State.goOn s e stall) := by
  unfold State.goOn
  repeat' first
    | with_reducible exact Calm.rfl
    | with_reducible refine Calm.trans ?_ (calm_modSlot _ _ _ _ _)
    | simp only [↓Calm.upd_iff]

theorem calm_hold (s : State) (e : Env) (w : Wait) : Calm s (State.hold s e w) := by
  unfold State.hold
  repeat' first
    | with_reducible exact Calm.rfl
    | with_reducible refine Calm.trans ?_ (calm_modSlot _ _ _ _ _)

theorem calm_reachHome (s : State) (key : Nat) : Calm s (State.reachHome s key) := by
  unfold State.reachHome
  repeat' first
    | with_reducible exact Calm.rfl
    | with_reducible refine Calm.trans ?_ (calm_enterLine _ _)
    | with_reducible refine Calm.trans ?_ (calm_count _ _ _ _)
    | with_reducible refine Calm.ite ?_ ?_

theorem calm_homeWrite (s : State) (cells : List (Nat × Byte)) : Calm s (State.homeWrite s cells) := by
  unfold State.homeWrite
  repeat' first
    | with_reducible exact Calm.rfl
    | with_reducible refine Calm.trans ?_ (calm_cohWrite _ _ _)
    | with_reducible refine Calm.trans ?_ (calm_reachHome _ _)
    | with_reducible refine Calm.fold ?_ (fun s a => ?_)

theorem calm_modCluster (s : State) (k : Nat) (f : Cluster → Cluster) : Calm s (State.modCluster s k f) := by
  unfold State.modCluster
  repeat' first
    | with_reducible exact Calm.rfl
    | simp only [↓Calm.upd_iff]

theorem calm_l2Enter (s : State) (cl : Nat) (key : Nat) : Calm s (State.l2Enter s cl key) := by
  unfold State.l2Enter
  repeat' first
    | with_reducible exact Calm.rfl
    | with_reducible refine Calm.trans ?_ (calm_modCluster _ _ _)
    | with_reducible refine Calm.ite ?_ ?_
    | simp only [↓Calm.upd_iff]
    | split

theorem calm_land (s : State) (pline : Nat) : Calm s (State.land s pline) := by
  unfold State.land
  repeat' first
    | with_reducible exact Calm.rfl
    | with_reducible refine Calm.trans ?_ (calm_cohWrite _ _ _)
    | with_reducible refine Calm.ite ?_ ?_
    | with_reducible refine Calm.fold ?_ (fun s a => ?_)
    | simp only [↓Calm.upd_iff]

theorem calm_reachLine (s : State) (cl : Nat) (key : Nat) : Calm s (State.reachLine s cl key) := by
  unfold State.reachLine
  repeat' first
    | with_reducible exact Calm.rfl
    | with_reducible refine Calm.trans ?_ (calm_count _ _ _ _)
    | with_reducible refine Calm.trans ?_ (calm_l2Enter _ _ _)
    | with_reducible refine Calm.trans ?_ (calm_enterLine _ _)
    | with_reducible refine Calm.ite ?_ ?_

theorem calm_l2Write (s : State) (cl : Nat) (peer : Bool) (cells : List (Nat × Byte)) : Calm s (State.l2Write s cl peer cells) := by
  unfold State.l2Write
  repeat' first
    | with_reducible exact Calm.rfl
    | with_reducible refine Calm.trans ?_ (calm_cohWrite _ _ _)
    | with_reducible refine Calm.trans ?_ (calm_land _ _)
    | with_reducible refine Calm.trans ?_ (calm_l2Enter _ _ _)
    | with_reducible refine Calm.trans ?_ (calm_reachLine _ _ _)
    | with_reducible refine Calm.ite ?_ ?_
    | with_reducible refine Calm.fold ?_ (fun s a => ?_)

theorem calm_modRope (s : State) (r : Nat) (f : Rope → Rope) : Calm s (State.modRope s r f) := by
  unfold State.modRope
  repeat' first
    | with_reducible exact Calm.rfl
    | simp only [↓Calm.upd_iff]

theorem calm_roundEnd (s : State) : Calm s (State.roundEnd s) := by
  unfold State.roundEnd
  repeat' first
    | with_reducible exact Calm.rfl
    | with_reducible refine Calm.ite ?_ ?_
    | simp only [↓Calm.upd_iff]

theorem calm_peersRound (s : State) : Calm s (State.peersRound s) := by
  unfold State.peersRound
  repeat' first
    | with_reducible exact Calm.rfl
    | with_reducible refine Calm.trans ?_ (calm_roundEnd _)
    | with_reducible refine Calm.ite ?_ ?_
    | simp only [↓Calm.upd_iff]

theorem calm_retire (s : State) (e : Env) (h : Hdr) : Calm s (State.retire s e h) := by
  unfold State.retire
  repeat' first
    | with_reducible exact Calm.rfl
    | with_reducible refine Calm.trans ?_ (calm_count _ _ _ _)
    | with_reducible refine Calm.trans ?_ (calm_goOn _ _ _)

theorem calm_roundStep (s : State) (c : Nat) : Calm s (State.roundStep s c) := by
  unfold State.roundStep
  repeat' first
    | with_reducible exact Calm.rfl
    | with_reducible refine Calm.trans ?_ (calm_roundEnd _)
    | simp only [↓Calm.upd_iff]

theorem calm_setOp (s : State) (c : Nat) (o : Op) : Calm s (State.setOp s c o) := by
  unfold State.setOp
  repeat' first
    | with_reducible exact Calm.rfl
    | with_reducible refine Calm.trans ?_ (calm_modCore _ _ _)

theorem calm_start (s : State) (e : Env) (o : Op) : Calm s (State.start s e o) := by
  unfold State.start
  repeat' first
    | with_reducible exact Calm.rfl
    | with_reducible refine Calm.trans ?_ (calm_modGroup _ _ _ _)
    | with_reducible refine Calm.trans ?_ (calm_modCore _ _ _)

theorem calm_takeTrap (s : State) (c : Nat) (ctx : Nat) (n : Nat) (cause0 : Nat) (mask : DWord) (faddr : DWord) (ffirst : DWord) (atHeader : Bool) (isMem : Bool) : Calm s (State.takeTrap s c ctx n cause0 mask faddr ffirst atHeader isMem) := by
  unfold State.takeTrap
  repeat' first
    | with_reducible exact Calm.rfl
    | with_reducible refine Calm.trans ?_ (calm_modGroup _ _ _ _)
    | with_reducible refine Calm.trans ?_ (calm_forget _ _ _)
    | with_reducible refine Calm.trans ?_ (calm_countNest _ _)
    | with_reducible refine Calm.trans ?_ (calm_endLaunch _ _ _ _ _ _ _ _ _)
    | with_reducible refine Calm.ite ?_ ?_
    | dsimp only
    | split

theorem calm_trapAt (s : State) (e : Env) (cause : Nat) (mask : DWord) (faddr : DWord) (isMem : Bool) : Calm s (State.trapAt s e cause mask faddr isMem) := by
  unfold State.trapAt
  repeat' first
    | with_reducible exact Calm.rfl
    | with_reducible refine Calm.trans ?_ (calm_takeTrap _ _ _ _ _ _ _ _ _ _)

theorem calm_trapReturn (s : State) (c : Nat) (ctx : Nat) (skip : Bool) : Calm s (State.trapReturn s c ctx skip) := by
  unfold State.trapReturn
  repeat' first
    | with_reducible exact Calm.rfl
    | with_reducible refine Calm.trans ?_ (calm_modGroup _ _ _ _)

theorem calm_trapSlot (s : State) (c : Nat) (ctx : Nat) (n : Nat) (cause : Nat) (len : Nat) (mask : DWord) (faddr : DWord) (ffirst : DWord) : Calm s (State.trapSlot s c ctx n cause len mask faddr ffirst) := by
  unfold State.trapSlot
  repeat' first
    | with_reducible exact Calm.rfl
    | with_reducible refine Calm.trans ?_ (calm_takeTrap _ _ _ _ _ _ _ _ _ _)
    | simp only [↓Calm.upd_iff]

theorem calm_orEntry (s : State) (a : Nat) (b : Byte) : Calm s (State.orEntry s a b) := by
  unfold State.orEntry
  repeat' first
    | with_reducible exact Calm.rfl
    | with_reducible refine Calm.trans ?_ (calm_cohWrite _ _ _)

theorem calm_dirty (s : State) (cl : Nat) (t : Tlb) (asid : Nat) (va : Nat) : Calm s (State.dirty s cl t asid va) := by
  unfold State.dirty
  repeat' first
    | with_reducible exact Calm.rfl
    | with_reducible refine Calm.trans ?_ (calm_modCluster _ _ _)
    | with_reducible refine Calm.trans ?_ (calm_orEntry _ _ _)
    | with_reducible refine Calm.ite ?_ ?_
    | split

theorem calm_raiseFault (s : State) (asid : Nat) (va : DWord) (acc : Acc) (engine : Bool) (ffirst : DWord) (stamp : Nat) (clk : Nat) : Calm s (State.raiseFault s asid va acc engine ffirst stamp clk).1 := by
  unfold State.raiseFault
  repeat' first
    | with_reducible exact Calm.rfl
    | with_reducible refine Calm.trans ?_ (calm_report _ _ _ _ _ _ _ _ _ _)
    | simp only [↓Calm.upd_iff]
    | split

theorem calm_send (s : State) (p : Nat) (id : Option Nat) (m : PMsg) : Calm s (State.send s p id m) := by
  unfold State.send
  repeat' first
    | with_reducible exact Calm.rfl
    | simp only [↓Calm.upd_iff]

theorem State.baseCamp_of_hole {s : State} {a : Nat} (h : s.hole a = true) : s.baseCamp = true := by
  simp only [State.hole, Bool.and_eq_true] at h
  exact h.1.1

theorem State.walkFrom_hole {s : State} {n table va : Nat} (h : s.walkFrom n table va = .hole) : s.baseCamp = true := by
  induction n generalizing table with
  | zero => simp [State.walkFrom] at h
  | succ n ih =>
    unfold State.walkFrom at h
    simp only at h
    split at h
    · next hh => exact State.baseCamp_of_hole hh
    · repeat' split at h
      all_goals first | exact ih h | cases h

theorem State.walk_hole {s : State} {asid va : Nat} (h : s.walk asid va = .hole) : s.baseCamp = true := by
  unfold State.walk at h
  split at h
  · next hh => exact State.baseCamp_of_hole hh
  · split at h
    · cases h
    · exact State.walkFrom_hole h

theorem Calm.ofMem {s : State} {m : List Host.Cell} (h : Memory.wf s.mem = true → Memory.wf m = true) : Calm s { s with mem := m } :=
  ⟨fun k => ⟨h k.1, k.2⟩, Eq.refl _, fun _ k => k⟩

theorem Calm.stick {s : State} (f : Fault) (h : s.baseCamp = true) : Calm s { s with stuck := some f } :=
  ⟨id, Eq.refl _, fun k => by simp [h] at k⟩

theorem calm_translate (s : State) (cl : Nat) (asid : Nat) (va : DWord) (acc : Acc) : Calm s (State.translate s cl asid va acc).1 := by
  unfold State.translate
  split
  · exact Calm.rfl
  · extract_lets v fin
    have hfin : ∀ x t, Calm x (fin x t).1 := by
      intro x t
      simp only [fin]
      split
      · split
        · split
          · next hh =>
            simp only [Bool.and_eq_true] at hh
            exact (calm_dirty ..).trans (Calm.stick _ (State.baseCamp_of_hole hh.2))
          · exact calm_dirty ..
        · split
          · next hh =>
            simp only [Bool.and_eq_true] at hh
            exact Calm.stick _ (State.baseCamp_of_hole hh.2)
          · exact Calm.rfl
      · exact Calm.rfl
    have hy : Calm s ((s.count (192 + cl) 2 1).count (192 + cl) 3 1) := (calm_count ..).trans (calm_count ..)
    split
    · exact hfin ..
    · split
      · exact hy
      · exact hy
      · next hw => exact hy.trans (Calm.stick _ (State.walk_hole hw))
      · exact (hy.trans (calm_orEntry ..)).trans ((calm_modCluster ..).trans (hfin ..))

theorem calm_setGen (s : State) (l : GenLine) : Calm s (State.setGen s l) := by
  unfold State.setGen
  repeat' first
    | with_reducible exact Calm.rfl
    | with_reducible refine Calm.trans ?_ (calm_llcRoom _ _)
    | with_reducible refine Calm.trans ?_ (calm_dropGen _ _ _)
    | with_reducible refine Calm.trans ?_ (calm_fireLine _ _)
    | simp only [↓Calm.upd_iff]

theorem calm_wake (s : State) (t : Tracker) : Calm s (State.wake s t) := by
  unfold State.wake
  repeat' first
    | with_reducible exact Calm.rfl
    | with_reducible refine Calm.trans ?_ (calm_modSlot _ _ _ _ _)
    | with_reducible refine Calm.fold ?_ (fun s a => ?_)
    | simp only [↓Calm.upd_iff]

theorem calm_decideBlock (s : State) (k : Nat) (data : Option (List Byte)) : Calm s (State.decideBlock s k data) := by
  unfold State.decideBlock
  repeat' first
    | with_reducible exact Calm.rfl
    | with_reducible refine Calm.trans ?_ (calm_setGen _ _)
    | with_reducible refine Calm.trans ?_ (calm_wake _ _)
    | with_reducible refine Calm.fold ?_ (fun s a => ?_)
    | simp only [↓Calm.upd_iff]
    | split

theorem calm_eccError (s : State) (key : Nat) (on : Bool) : Calm s (State.eccError s key on) := by
  unfold State.eccError
  exact Calm.upd_iff.2 Calm.rfl

theorem calm_modTracker (s : State) (k : Nat) (f : Tracker → Tracker) : Calm s (State.modTracker s k f) := by
  unfold State.modTracker
  repeat' first
    | with_reducible exact Calm.rfl
    | simp only [↓Calm.upd_iff]

theorem calm_raisePrio (s : State) (k p : Nat) : Calm s (State.raisePrio s k p) := by
  unfold State.raisePrio
  exact calm_modTracker ..

theorem calm_park (s : State) (k : Nat) (r : Req) : Calm s (State.park s k r) := by
  unfold State.park
  repeat' first
    | with_reducible exact Calm.rfl
    | with_reducible refine Calm.trans ?_ (calm_modTracker _ _ _)
    | simp only [↓Calm.upd_iff]
    | split

theorem calm_post (s : State) (r : Req) : Calm s (State.post s r).1 := by
  unfold State.post
  repeat' first
    | with_reducible exact Calm.rfl
    | with_reducible refine Calm.trans ?_ (calm_count _ _ _ _)
    | simp only [↓Calm.upd_iff]
    | split

theorem calm_vsHit {s t : State} {asid vline slice : Nat} {d : LineData} (h : s.vsHit asid vline slice = some (t, d)) : Calm s t := by
  unfold State.vsHit at h
  split at h
  · cases h
  · injection h with h
    injection h with h1 h2
    rw [← h1]
    exact ((calm_count ..).trans (calm_count ..)).trans (calm_setGen ..)

theorem calm_homeMiss (s : State) (r : Req) : Calm s (State.homeMiss s r).1 := by
  unfold State.homeMiss
  repeat' first
    | with_reducible exact Calm.rfl
    | with_reducible refine Calm.fst (by assumption) ?_
    | with_reducible refine Calm.trans ?_ (calm_vsHit (by assumption))
    | with_reducible refine Calm.trans ?_ (calm_count _ _ _ _)
    | with_reducible refine Calm.trans ?_ (calm_park _ _ _)
    | with_reducible refine Calm.trans ?_ (calm_post _ _)
    | with_reducible refine Calm.trans ?_ (calm_modTracker _ _ _)
    | split
    | dsimp only

theorem calm_homePref (s : State) (r : Req) : Calm s (State.homePref s r) := by
  unfold State.homePref
  repeat' first
    | with_reducible exact Calm.rfl
    | with_reducible refine Calm.trans ?_ (calm_vsHit (by assumption))
    | with_reducible refine Calm.trans ?_ (calm_raisePrio _ _ _)
    | with_reducible refine Calm.trans ?_ (calm_post _ _)
    | simp only [↓Calm.upd_iff]
    | split

theorem calm_passPrio (s : State) (k : Nat) : Calm s (State.passPrio s k) := by
  unfold State.passPrio
  split
  · exact Calm.rfl
  · split
    · exact Calm.rfl
    · refine Calm.ite Calm.rfl ?_
      refine Calm.fold ?_ fun x a => calm_raisePrio ..
      exact Calm.trans (Calm.upd_iff.2 Calm.rfl) (calm_modLaunch ..)

theorem calm_vsClear (s : State) : Calm s (State.vsClear s) := Calm.ofMem (Memory.wf_filter _)

theorem calm_vsFree (s : State) (asid : Nat) (vline : Nat) : Calm s (State.vsFree s asid vline) := by
  unfold State.vsFree
  split
  · exact Calm.rfl
  · exact Calm.ofMem (Memory.wf_write _ _)

theorem calm_vsError (s : State) (ins : Bool) (asid vline : Nat) : Calm s (State.vsError s ins asid vline) := by
  have h : Calm s (if ins = true then (s.dropGen asid vline).fireLine (genKey asid vline) else s.vsFree asid vline) := by
    split
    · exact (calm_dropGen ..).trans (calm_fireLine ..)
    · exact calm_vsFree ..
  unfold State.vsError
  dsimp only
  with_reducible refine Calm.ite Calm.rfl ?_
  exact Calm.upd_iff.2 h

theorem calm_beginStop (s : State) (r : Nat) (st : RopeStop) : Calm s (State.beginStop s r st) := by
  unfold State.beginStop
  repeat' first
    | with_reducible exact Calm.rfl
    | with_reducible refine Calm.trans ?_ (calm_modRope _ _ _)
    | simp only [↓Calm.upd_iff]
    | split

theorem calm_emptyLog (s : State) (e : Env) : Calm s (State.emptyLog s e) := by
  unfold State.emptyLog
  repeat' first
    | with_reducible exact Calm.rfl
    | with_reducible refine Calm.trans ?_ (calm_modGroup _ _ _ _)

theorem calm_logLine (s : State) (e : Env) (va : Nat) (ffirst : DWord) (d : LineData) : Calm s (State.logLine s e va ffirst d) := by
  unfold State.logLine
  repeat' first
    | with_reducible exact Calm.rfl
    | with_reducible refine Calm.trans ?_ (calm_ringPut _ _ _)

theorem calm_logRead (s : State) (e : Env) (va : Nat) (copy : Option Nat) (d : LineData) : Calm s (State.logRead s e va copy d) := by
  unfold State.logRead
  repeat' first
    | with_reducible exact Calm.rfl
    | with_reducible refine Calm.trans ?_ (calm_logLine _ _ _ _ _)
    | with_reducible refine Calm.trans ?_ (calm_modGroup _ _ _ _)
    | with_reducible refine Calm.ite ?_ ?_
    | dsimp only
    | split

theorem calm_sampleRecord (s : State) (c : Nat) (o : Op) (x : Sample) (trapped : Bool) : Calm s (State.sampleRecord s c o x trapped) := by
  unfold State.sampleRecord
  repeat' first
    | with_reducible exact Calm.rfl
    | with_reducible refine Calm.trans ?_ (calm_ringPut _ _ _)

theorem calm_sampleDone (s : State) (c : Nat) (o : Op) : Calm s (State.sampleDone s c o) := by
  unfold State.sampleDone
  repeat' first
    | with_reducible exact Calm.rfl
    | with_reducible refine Calm.trans ?_ (calm_sampleRecord _ _ _ _ _)
    | split

theorem calm_dropClean (s : State) (c : Nat) : Calm s (State.dropClean s c) := by
  unfold State.dropClean
  repeat' first
    | with_reducible exact Calm.rfl
    | with_reducible refine Calm.trans ?_ (calm_modCore _ _ _)
    | with_reducible refine Calm.trans ?_ (calm_roundStep _ _)
    | with_reducible refine Calm.ite ?_ ?_

theorem calm_acquire (s : State) (c : Nat) (ctx : Nat) (scope : Nat) : Calm s (State.acquire s c ctx scope) := by
  unfold State.acquire
  repeat' first
    | with_reducible exact Calm.rfl
    | with_reducible refine Calm.trans ?_ (calm_modGroup _ _ _ _)
    | with_reducible refine Calm.trans ?_ (calm_dropClean _ _)
    | with_reducible refine Calm.ite ?_ ?_

theorem calm_performWt (s : State) (c : Nat) (w : Wt) : Calm s (State.performWt s c w) := by
  unfold State.performWt
  repeat' first
    | with_reducible exact Calm.rfl
    | with_reducible refine Calm.trans ?_ (calm_l2Write _ _ _ _)
    | with_reducible refine Calm.trans ?_ (calm_homeWrite _ _)
    | with_reducible refine Calm.ite ?_ ?_

theorem calm_request (s : State) (r : PeerReq) (m : PMsg) : Calm s (State.request s r m) := by
  unfold State.request
  repeat' first
    | with_reducible exact Calm.rfl
    | with_reducible refine Calm.trans ?_ (calm_send _ _ _ _)
    | simp only [↓Calm.upd_iff]

theorem calm_sendWrite (s : State) (c : Nat) (uid : Nat) (op : Option Nat) (p : Nat) (va : Nat) (cells : List (Nat × Byte)) (sent : Bool) : Calm s (State.sendWrite s c uid op p va cells sent) := by
  unfold State.sendWrite
  repeat' first
    | with_reducible exact Calm.rfl
    | with_reducible refine Calm.trans ?_ (calm_request _ _ _)

theorem calm_leaveWt (s : State) (c : Nat) (w : Wt) : Calm s (State.leaveWt s c w) := by
  unfold State.leaveWt
  repeat' first
    | with_reducible exact Calm.rfl
    | with_reducible refine Calm.trans ?_ (calm_performWt _ _ _)
    | with_reducible refine Calm.trans ?_ (calm_sendWrite _ _ _ _ _ _ _ _)
    | simp only [↓Calm.upd_iff]
    | split

theorem calm_flushLine (s : State) (c : Nat) (tgt : Nat) : Calm s (State.flushLine s c tgt) := by
  unfold State.flushLine
  repeat' first
    | with_reducible exact Calm.rfl
    | with_reducible refine Calm.trans ?_ (calm_leaveWt _ _ _)
    | with_reducible refine Calm.trans ?_ (calm_modCore _ _ _)
    | with_reducible refine Calm.trans ?_ (calm_land _ _)
    | with_reducible refine Calm.ite ?_ ?_
    | with_reducible refine Calm.fold ?_ (fun s a => ?_)

theorem calm_flushVa (s : State) (c : Nat) (asid : Nat) (vline : Nat) : Calm s (State.flushVa s c asid vline) := by
  unfold State.flushVa
  repeat' first
    | with_reducible exact Calm.rfl
    | with_reducible refine Calm.trans ?_ (calm_flushLine _ _ _)
    | with_reducible refine Calm.fold ?_ (fun s a => ?_)

theorem calm_validate (s : State) (c : Nat) (idx : Nat) (genr : Nat) (l : L1Line) : Calm s (State.validate s c idx genr l) := by
  unfold State.validate
  repeat' first
    | with_reducible exact Calm.rfl
    | with_reducible refine Calm.trans ?_ (calm_count _ _ _ _)
    | with_reducible refine Calm.trans ?_ (calm_modCore _ _ _)
    | with_reducible refine Calm.trans ?_ (calm_send _ _ _ _)
    | simp only [↓Calm.upd_iff]
    | split

theorem calm_belayLine (s : State) (e : Env) (vline : Nat) : Calm s (State.belayLine s e vline).1 := by
  unfold State.belayLine
  extract_lets s1 k
  have h1 : Calm s s1 := calm_flushVa ..
  clear_value s1
  split
  · exact h1
  · split
    · have ht := calm_translate s1 (clusterOf e.core) e.asid (lineVa vline) .read
      split <;> next hh => rw [hh] at ht; exact h1.trans ht
    · split
      · exact h1
      · split
        · split
          · exact h1.trans (calm_validate ..)
          · split
            · exact h1
            · exact h1.trans ((calm_modCore ..).trans (calm_validate ..))
        · split
          · exact h1
          · split
            · exact h1
            · exact h1.trans ((calm_modCore ..).trans (calm_validate ..))

theorem calm_dropAllClean (s : State) (c : Nat) : Calm s (State.dropAllClean s c) := by
  unfold State.dropAllClean
  repeat' first
    | with_reducible exact Calm.rfl
    | with_reducible refine Calm.trans ?_ (calm_roundStep _ _)
    | with_reducible refine Calm.trans ?_ (calm_modCore _ _ _)

theorem calm_loseBack (s : State) (c : Nat) (l : L1Line) (cause : Nat) : Calm s (State.loseBack s c l cause) := by
  unfold State.loseBack
  repeat' first
    | with_reducible exact Calm.rfl
    | with_reducible refine Calm.trans ?_ (calm_report _ _ _ _ _ _ _ _ _ _)
    | with_reducible refine Calm.trans ?_ (calm_modCore _ _ _)

theorem calm_writeBack (s : State) (c : Nat) (l : L1Line) (unresolved : Bool) : Calm s (State.writeBack s c l unresolved).1 := by
  unfold State.writeBack
  split
  · exact Calm.rfl
  · extract_lets va
    have ht := calm_translate s (clusterOf c) l.asid va .write
    split
    · next h =>
      rw [h] at ht
      split
      · exact ht.trans (calm_loseBack ..)
      · dsimp only
        exact (ht.trans (calm_performWt ..)).trans (calm_modCore ..)
    · next h =>
      rw [h] at ht
      split
      · exact ht.trans (calm_loseBack ..)
      · exact ht.trans (calm_raiseFault ..)
    · next h =>
      rw [h] at ht
      exact ht.trans (calm_loseBack ..)

theorem calm_tryBack (s : State) (core : Nat) (asid : Nat) (line : Nat) : Calm s (State.tryBack s core asid line) := by
  unfold State.tryBack
  repeat' first
    | with_reducible exact Calm.rfl
    | with_reducible refine Calm.trans ?_ (calm_writeBack _ _ _ _)
    | with_reducible refine Calm.ite ?_ ?_
    | with_reducible refine Calm.fst (by assumption) ?_
    | simp only [↓Calm.upd_iff]
    | split

theorem calm_evictL1 (s : State) (core : Nat) (asid : Nat) (line : Nat) : Calm s (State.evictL1 s core asid line) := by
  unfold State.evictL1
  repeat' first
    | with_reducible exact Calm.rfl
    | with_reducible refine Calm.trans ?_ (calm_tryBack _ _ _ _)
    | with_reducible refine Calm.trans ?_ (calm_modCore _ _ _)
    | with_reducible refine Calm.ite ?_ ?_
    | dsimp only
    | split

theorem calm_fetchReq (s : State) (r : Req) (x : Xl) : Calm s (State.fetchReq s r x).1 := by
  unfold State.fetchReq
  repeat' first
    | with_reducible exact Calm.rfl
    | with_reducible refine Calm.trans ?_ (calm_count _ _ _ _)
    | with_reducible refine Calm.trans ?_ (calm_homeMiss _ _)
    | with_reducible refine Calm.trans ?_ (calm_l2Enter _ _ _)
    | with_reducible refine Calm.trans ?_ (calm_land _ _)
    | with_reducible refine Calm.trans ?_ (calm_reachHome _ _)
    | with_reducible refine Calm.trans ?_ (calm_reachLine _ _ _)
    | with_reducible refine Calm.ite ?_ ?_
    | with_reducible refine Calm.fst (by assumption) ?_
    | dsimp only
    | split

theorem calm_fetchLine (s : State) (e : Env) (va : Nat) (x : Xl) : Calm s (State.fetchLine s e va x).1 := by
  unfold State.fetchLine
  repeat' first
    | with_reducible exact Calm.rfl
    | with_reducible refine Calm.trans ?_ (calm_fetchReq _ _ _)

theorem calm_l1Alloc (s : State) (c : Nat) (l : L1Line) : Calm s (State.l1Alloc s c l).1 := by
  unfold State.l1Alloc
  repeat' first
    | with_reducible exact Calm.rfl
    | with_reducible refine Calm.trans ?_ (calm_evictL1 _ _ _ _)
    | with_reducible refine Calm.trans ?_ (calm_modCore _ _ _)
    | dsimp only
    | split

theorem calm_peerAsk (s : State) (core : Nat) (uid : Nat) (n : Nat) (op : Option Nat) (atom : Bool) (pline : Nat) (va : Nat) : Calm s (State.peerAsk s core uid n op atom pline va).1 := by
  unfold State.peerAsk
  repeat' first
    | with_reducible exact Calm.rfl
    | with_reducible refine Calm.trans ?_ (calm_land _ _)
    | with_reducible refine Calm.trans ?_ (calm_request _ _ _)
    | dsimp only
    | split

theorem calm_laneLine (s : State) (e : Env) (fly : Bool) (v : Nat) (x : Xl) : Calm s (State.laneLine s e fly v x).1 := by
  unfold State.laneLine
  repeat' first
    | with_reducible exact Calm.rfl
    | with_reducible refine Calm.trans ?_ (calm_peerAsk _ _ _ _ _ _ _ _)
    | with_reducible refine Calm.trans ?_ (calm_fetchLine _ _ _ _)
    | with_reducible refine Calm.fst (by assumption) ?_
    | split

theorem calm_victimHit (s : State) (e : Env) (vline : Nat) : Calm s (State.victimHit s e vline) := by
  unfold State.victimHit
  repeat' first
    | with_reducible exact Calm.rfl
    | with_reducible refine Calm.trans ?_ (calm_count _ _ _ _)
    | with_reducible refine Calm.trans ?_ (calm_modCore _ _ _)
    | with_reducible refine Calm.ite ?_ ?_

theorem calm_loadBytes (s : State) (e : Env) (va : DWord) (n : Nat) (w : LoadHow) : Calm s (State.loadBytes s e va n w).1 := by
  unfold State.loadBytes
  split
  · exact Calm.rfl
  · extract_lets v vline pick log s1 s2
    have hlog : ∀ s copy d, Calm s (log s copy d) := fun s copy d => Calm.ite Calm.rfl (calm_logRead ..)
    clear_value log pick
    split
    · split
      · exact Calm.rfl
      · exact (calm_count ..).trans (hlog ..)
    · have h2 : Calm s s2 := Calm.ite ((calm_count ..).trans (calm_victimHit ..)) (calm_count ..)
      clear_value s2
      have ht := calm_translate s2 (clusterOf e.core) e.asid va .read
      split
      · next s3 x hx =>
        rw [hx] at ht
        extract_lets tline keep s4 s5 own
        have h4 : Calm s s4 := Calm.ite ((h2.trans ht).trans (calm_flushVa ..)) (h2.trans ht)
        have h5 : Calm s s5 := Calm.ite (h4.trans (calm_flushLine ..)) h4
        clear_value s5 keep own
        have hl := calm_laneLine s5 e w.fly v x
        split
        · next hh => rw [hh] at hl; exact h5.trans hl
        · next hh =>
          rw [hh] at hl
          split
          · exact (h5.trans hl).trans ((calm_modCore ..).trans (hlog ..))
          · extract_lets d2 l r
            exact (h5.trans hl).trans ((Calm.trans (Calm.upd_iff.2 Calm.rfl) (calm_l1Alloc ..) : Calm _ r.1).trans (hlog ..))
      · next hx => rw [hx] at ht; exact h2.trans ht

theorem calm_scrWrite (s : State) (cells : List (Nat × Byte)) : Calm s (State.scrWrite s cells) := by
  unfold State.scrWrite
  repeat' first
    | with_reducible exact Calm.rfl
    | with_reducible refine Calm.trans ?_ (calm_modCore _ _ _)
    | with_reducible refine Calm.fold ?_ (fun s a => ?_)

theorem calm_startAlu (s : State) (e : Env) (h : Hdr) (f : AluForm) (due : Option Nat) (what : What) (rs : List (Nat × LaneOut)) :
    Calm s (State.startAlu s e h f due what rs) := by
  unfold State.startAlu
  exact (calm_start ..).trans (calm_modGroup ..)

theorem calm_runAlu (s : State) (e : Env) (h : Hdr) (f : AluForm) (due : Option Nat) (what : What) (rs : List (Nat × LaneOut)) : Calm s (State.runAlu s e h f due what rs) := by
  unfold State.runAlu
  repeat' first
    | with_reducible exact Calm.rfl
    | with_reducible refine Calm.trans ?_ (calm_retire _ _ _)
    | with_reducible refine Calm.trans ?_ (calm_trapAt _ _ _ _ _ _)
    | with_reducible refine Calm.trans ?_ (calm_startAlu _ _ _ _ _ _ _)
    | with_reducible refine Calm.ite ?_ ?_

theorem calm_loadRuns (s : State) (e : Env) (w : LoadHow) (ps : List (DWord × Nat)) : Calm s (State.loadRuns s e w ps).1 := by
  unfold State.loadRuns
  repeat' first
    | with_reducible exact Calm.rfl
    | with_reducible refine Calm.trans ?_ (calm_loadBytes _ _ _ _ _)
    | with_reducible refine Calm.fold1 ?_ (fun s a => ?_)
    | with_reducible refine Calm.fst (by assumption) ?_
    | split

theorem calm_storeRuns (s : State) (e : Env) (acc : Acc) (l : MLane) (bs : List Byte) (ps : List (DWord × Nat)) : Calm s (State.storeRuns s e acc l bs ps).1 := by
  unfold State.storeRuns
  repeat' first
    | with_reducible exact Calm.rfl
    | with_reducible refine Calm.trans ?_ (calm_translate _ _ _ _ _)
    | with_reducible refine Calm.fold1 ?_ (fun s a => ?_)
    | with_reducible refine Calm.fst (by assumption) ?_
    | dsimp only
    | split

theorem calm_cctlLine (s : State) (c : Nat) (asid : Nat) (vline : Nat) (inv : Bool) (unresolved : Bool) : Calm s (State.cctlLine s c asid vline inv unresolved).1 := by
  unfold State.cctlLine
  repeat' first
    | with_reducible exact Calm.rfl
    | with_reducible refine Calm.trans ?_ (calm_writeBack _ _ _ _)
    | with_reducible refine Calm.trans ?_ (calm_modCore _ _ _)
    | with_reducible refine Calm.ite ?_ ?_
    | with_reducible refine Calm.fst (by assumption) ?_
    | split

theorem calm_MemOp_access (m : MemOp) (s : State) (e : Env) (byp : List Nat) (unres : Bool) (l : MLane) : Calm s (MemOp.access m s e byp unres l).1 := by
  unfold MemOp.access
  repeat' first
    | with_reducible exact Calm.rfl
    | with_reducible refine Calm.trans ?_ (calm_loadRuns _ _ _ _)
    | with_reducible refine Calm.trans ?_ (calm_loadBytes _ _ _ _ _)
    | with_reducible refine Calm.trans ?_ (calm_modGroup _ _ _ _)
    | with_reducible refine Calm.trans ?_ (calm_storeRuns _ _ _ _ _ _)
    | with_reducible refine Calm.trans ?_ (calm_peerAsk _ _ _ _ _ _ _ _)
    | with_reducible refine Calm.trans ?_ (calm_cctlLine _ _ _ _ _ _)
    | with_reducible refine Calm.trans ?_ (calm_translate _ _ _ _ _)
    | with_reducible refine Calm.fold1 ?_ (fun s a => ?_)
    | with_reducible refine Calm.fst (by assumption) ?_
    | dsimp only
    | split

theorem calm_MemOp_laneRun (m : MemOp) (s : State) (e : Env) (byp : List Nat) (unresolved : List (Nat × Nat)) (l : MLane) : Calm s (MemOp.laneRun m s e byp unresolved l).1 := by
  unfold MemOp.laneRun
  repeat' first
    | with_reducible exact Calm.rfl
    | with_reducible refine Calm.trans ?_ (calm_MemOp_access _ _ _ _ _ _)
    | dsimp only
    | split

theorem calm_MemOp_runLanes (m : MemOp) (s : State) (e : Env) (byp : List Nat) (unresolved : List (Nat × Nat)) : Calm s (MemOp.runLanes m s e byp unresolved).1 := by
  unfold MemOp.runLanes
  repeat' first
    | with_reducible exact Calm.rfl
    | with_reducible refine Calm.trans ?_ (calm_MemOp_access _ _ _ _ _ _)
    | with_reducible refine Calm.trans ?_ (calm_MemOp_laneRun _ _ _ _ _ _)
    | with_reducible refine Calm.fold1 ?_ (fun s a => ?_)
    | dsimp only
    | split

theorem calm_byLanes (s : State) (c : Nat) (id : Nat) : Calm s (State.byLanes s c id) := by
  unfold State.byLanes
  repeat' first
    | with_reducible exact Calm.rfl
    | with_reducible refine Calm.trans ?_ (calm_modCore _ _ _)

theorem calm_enqueue (s : State) (e : Env) (opId : Option Nat) (w : SqWhat) : Calm s (State.enqueue s e opId w) := by
  unfold State.enqueue
  repeat' first
    | with_reducible exact Calm.rfl
    | with_reducible refine Calm.trans ?_ (calm_modCore _ _ _)
    | simp only [↓Calm.upd_iff]

theorem calm_commitLanes (s : State) (e : Env) (m : MemOp) (id : Nat) (rs : List LaneRes) : Calm s (State.commitLanes s e m id rs) := by
  unfold State.commitLanes
  repeat' first
    | with_reducible exact Calm.rfl
    | with_reducible refine Calm.trans ?_ (calm_modCore _ _ _)
    | with_reducible refine Calm.trans ?_ (calm_enqueue _ _ _ _)
    | with_reducible refine Calm.fold ?_ (fun s a => ?_)

theorem calm_endOp (s : State) (c : Nat) (id : Nat) : Calm s (State.endOp s c id) := by
  unfold State.endOp
  repeat' first
    | with_reducible exact Calm.rfl
    | with_reducible refine Calm.trans ?_ (calm_complete _ _ _)
    | with_reducible refine Calm.trans ?_ (calm_sampleDone _ _ _)
    | split

theorem calm_watchAccess (s : State) (e : Env) (write : Bool) (read : Bool) (ranges : List (Nat × Nat)) : Calm s (State.watchAccess s e write read ranges).1 := by
  unfold State.watchAccess
  repeat' first
    | with_reducible exact Calm.rfl
    | with_reducible refine Calm.trans ?_ (calm_beginStop _ _ _)
    | with_reducible refine Calm.trans ?_ (calm_report _ _ _ _ _ _ _ _ _ _)
    | dsimp only
    | split

theorem calm_watchMem (s : State) (e : Env) (m : MemOp) : Calm s (State.watchMem s e m).1 := by
  unfold State.watchMem
  repeat' first
    | with_reducible exact Calm.rfl
    | with_reducible refine Calm.trans ?_ (calm_watchAccess _ _ _ _ _)

theorem calm_memCounted (s : State) (e : Env) : Calm s (State.memCounted s e) := by
  unfold State.memCounted
  repeat' first
    | with_reducible exact Calm.rfl
    | with_reducible refine Calm.trans ?_ (calm_modSlot _ _ _ _ _)
    | with_reducible refine Calm.trans ?_ (calm_modCore _ _ _)

theorem calm_waitFor (s : State) (e : Env) (m : MemOp) (rs : List LaneRes) : Calm s (State.waitFor s e m rs).1 := by
  unfold State.waitFor
  repeat' first
    | with_reducible exact Calm.rfl
    | with_reducible refine Calm.trans ?_ (calm_raiseFault _ _ _ _ _ _ _ _)
    | with_reducible refine Calm.fold1 ?_ (fun s a => ?_)
    | dsimp only
    | split

theorem calm_runMem (s : State) (e : Env) (m : MemOp) (id : Nat) (stall : Nat) (replays : Nat) (bypassed : Bool) (unresolved : List (Nat × Nat)) : Calm s (State.runMem s e m id stall replays bypassed unresolved) := by
  unfold State.runMem
  extract_lets lines b s1 r s2 pend s3 s4 fmask s5 s6 w out rp
  have hb : Calm s b.1 := Calm.fold1 Calm.rfl (fun x a => calm_belayLine ..)
  have h1 : Calm s s1 := by
    simp only [s1]
    split
    · exact hb
    · exact hb.trans ((calm_modGroup ..).trans (calm_count ..))
  have h2 : Calm s s2 := (h1.trans (calm_MemOp_runLanes ..)).trans (calm_commitLanes ..)
  clear_value s2
  split
  · have h3 : Calm s s3 := by
      simp only [s3]
      split
      · exact h2.trans (calm_acquire ..)
      · exact h2.trans (calm_endOp ..)
      · exact h2
    clear_value s3
    exact (Calm.ite (h3.trans (calm_endOp ..)) h3 : Calm s s4).trans (calm_goOn ..)
  · split
    ·
      have h5 : Calm s s5 := by
        simp only [s5]
        split
        · exact h2
        · next o _ =>
          have h7 := h2.trans (calm_modGroup s2 e.core e.ctx (fun g => g.flagDown o.flag))
          have h6 : Calm s (match o.sample with
              | some x => (s2.modGroup e.core e.ctx (fun g => g.flagDown o.flag)).sampleRecord e.core o { x with replays := replays } true
              | none => s2.modGroup e.core e.ctx (fun g => g.flagDown o.flag)) := by
            split
            · exact h7.trans (calm_sampleRecord ..)
            · exact h7
          exact Calm.ite (h6.trans (calm_dropOp ..)) (h6.trans (calm_setOp ..))
      dsimp only
      exact h5.trans (calm_trapAt ..)
    · have h6 : Calm s s6 := h2.trans (calm_byLanes ..)
      have h7 : Calm s w.1 := by
        simp only [w]
        split
        · exact h6
        · exact h6.trans (calm_waitFor ..)
      exact (h7.trans (calm_modGroup ..)).trans (calm_modSlot ..)

theorem calm_issueMem (s : State) (e : Env) (h : Hdr) (m : MemOp) (fl : Flg) : Calm s (State.issueMem s e h m fl) := by
  unfold State.issueMem
  repeat' first
    | with_reducible exact Calm.rfl
    | with_reducible refine Calm.trans ?_ (calm_trapAt _ _ _ _ _ _)
    | with_reducible refine Calm.trans ?_ (calm_watchMem _ _ _)
    | with_reducible refine Calm.trans ?_ (calm_count _ _ _ _)
    | with_reducible refine Calm.trans ?_ (calm_start _ _ _)
    | with_reducible refine Calm.trans ?_ (calm_modGroup _ _ _ _)
    | with_reducible refine Calm.trans ?_ (calm_modCore _ _ _)
    | with_reducible refine Calm.trans ?_ (calm_runMem _ _ _ _ _ _ _ _)
    | with_reducible refine Calm.fst (by assumption) ?_
    | simp only [↓Calm.upd_iff]
    | split

theorem calm_addWrites (s : State) (c : Nat) (opId : Option Nat) (ws : List RegWrite) : Calm s (State.addWrites s c opId ws) := by
  unfold State.addWrites
  repeat' first
    | with_reducible exact Calm.rfl
    | with_reducible refine Calm.trans ?_ (calm_modCore _ _ _)
    | with_reducible refine Calm.ite ?_ ?_

theorem calm_logAtom (s : State) (c : Nat) (o : Option Op) (on : Bool) (va : Nat) (d : LineData) : Calm s (State.logAtom s c o on va d) := by
  unfold State.logAtom
  repeat' first
    | with_reducible exact Calm.rfl
    | with_reducible refine Calm.trans ?_ (calm_ringPut _ _ _)
    | with_reducible refine Calm.ite ?_ ?_
    | split

theorem calm_l1Get (s : State) (c : Nat) (asid : Nat) (va : Nat) (tgt : Nat) (kind : LineKind) : Calm s (State.l1Get s c asid va tgt kind).1 := by
  unfold State.l1Get
  repeat' first
    | with_reducible exact Calm.rfl
    | with_reducible refine Calm.trans ?_ (calm_reachLine _ _ _)
    | with_reducible refine Calm.trans ?_ (calm_l1Alloc _ _ _)
    | simp only [↓Calm.upd_iff]
    | split

theorem calm_storeThrough (s : State) (c : Nat) (id : Nat) (uid : Nat) (asid : Nat) (cells : List SCell) : Calm s (State.storeThrough s c id uid asid cells) := by
  unfold State.storeThrough
  repeat' first
    | with_reducible exact Calm.rfl
    | with_reducible refine Calm.trans ?_ (calm_modCore _ _ _)

theorem calm_atomLane (s : State) (c : Nat) (q : SqEntry) (a : AtomInfo) (log : Bool) (l : ALane) : Calm s (State.atomLane s c q a log l).1 := by
  unfold State.atomLane
  repeat' first
    | with_reducible exact Calm.rfl
    | with_reducible refine Calm.trans ?_ (calm_flushLine _ _ _)
    | with_reducible refine Calm.trans ?_ (calm_reachHome _ _)
    | with_reducible refine Calm.trans ?_ (calm_logAtom _ _ _ _ _ _)
    | with_reducible refine Calm.trans ?_ (calm_modCore _ _ _)
    | with_reducible refine Calm.trans ?_ (calm_cohWrite _ _ _)
    | with_reducible refine Calm.trans ?_ (calm_l1Get _ _ _ _ _ _)
    | with_reducible refine Calm.trans ?_ (calm_storeThrough _ _ _ _ _ _)
    | with_reducible refine Calm.fst (by assumption) ?_
    | dsimp only
    | split

theorem calm_atomLanes (s : State) (f : State → ALane → State × Option Nat) (a : AtomInfo) (dst : Option Opd) (lanes : List ALane) (hf : ∀ x0 x1, Calm x0 (f x0 x1).1) : Calm s (State.atomLanes s f a dst lanes).1 := by
  unfold State.atomLanes
  repeat' first
    | with_reducible exact Calm.rfl
    | with_reducible refine Calm.trans ?_ (hf _ _)
    | with_reducible refine Calm.fold1 ?_ (fun s a => ?_)
    | with_reducible refine Calm.fst (by assumption) ?_
    | simp only [↓Calm.upd_iff]
    | split

theorem calm_atomsLane (s : State) (a : AtomInfo) (l : ALane) : Calm s (State.atomsLane s a l).1 := by
  unfold State.atomsLane
  repeat' first
    | with_reducible exact Calm.rfl
    | with_reducible refine Calm.trans ?_ (calm_scrWrite _ _)

theorem calm_storeDone (s : State) (c : Nat) (opId : Option Nat) : Calm s (State.storeDone s c opId) := by
  unfold State.storeDone
  repeat' first
    | with_reducible exact Calm.rfl
    | with_reducible refine Calm.trans ?_ (calm_complete _ _ _)
    | with_reducible refine Calm.trans ?_ (calm_sampleDone _ _ _)
    | with_reducible refine Calm.ite ?_ ?_
    | dsimp only
    | split

theorem calm_storeLocal (s : State) (c : Nat) (asid : Nat) (cells : List SCell) : Calm s (State.storeLocal s c asid cells).1 := by
  unfold State.storeLocal
  repeat' first
    | with_reducible exact Calm.rfl
    | with_reducible refine Calm.trans ?_ (calm_l1Get _ _ _ _ _ _)
    | with_reducible refine Calm.trans ?_ (calm_modCore _ _ _)
    | with_reducible refine Calm.fold1 ?_ (fun s a => ?_)
    | with_reducible refine Calm.fst (by assumption) ?_
    | split

theorem calm_leaveQueue (s : State) (c : Nat) (q : SqEntry) : Calm s (State.leaveQueue s c q) := by
  unfold State.leaveQueue
  repeat' first
    | with_reducible exact Calm.rfl
    | with_reducible refine Calm.trans ?_ (calm_modCore _ _ _)
    | with_reducible refine Calm.trans ?_ (calm_addWrites _ _ _ _)
    | with_reducible refine Calm.trans ?_ (calm_storeDone _ _ _)
    | with_reducible refine Calm.trans ?_ (calm_acquire _ _ _ _)
    | with_reducible refine Calm.trans ?_ (calm_storeLocal _ _ _ _)
    | with_reducible refine Calm.trans ?_ (calm_scrWrite _ _)
    | with_reducible refine Calm.trans ?_ (calm_atomLanes _ _ _ _ _ ?_)
    | with_reducible refine Calm.trans ?_ (calm_atomLane _ _ _ _ _ _)
    | with_reducible refine Calm.ite ?_ ?_
    | dsimp only
    | split
    | intro x

theorem calm_drainCore (s : State) (c : Nat) : Calm s (State.drainCore s c) := by
  unfold State.drainCore
  repeat' first
    | with_reducible exact Calm.rfl
    | with_reducible refine Calm.trans ?_ (calm_leaveQueue _ _ _)
    | with_reducible refine Calm.trans ?_ (calm_leaveWt _ _ _)
    | with_reducible refine Calm.trans ?_ (calm_modCore _ _ _)
    | with_reducible refine Calm.fold ?_ (fun s a => ?_)

theorem calm_drainGroup (s : State) (c : Nat) (uid : Nat) : Calm s (State.drainGroup s c uid) := by
  unfold State.drainGroup
  repeat' first
    | with_reducible exact Calm.rfl
    | with_reducible refine Calm.trans ?_ (calm_leaveQueue _ _ _)
    | with_reducible refine Calm.trans ?_ (calm_flushLine _ _ _)
    | with_reducible refine Calm.fold ?_ (fun s a => ?_)

theorem calm_splitSq (s : State) (c : Nat) (id : Nat) (k : Nat) : Calm s (State.splitSq s c id k) := by
  unfold State.splitSq
  repeat' first
    | with_reducible exact Calm.rfl
    | with_reducible refine Calm.trans ?_ (calm_modCore _ _ _)

theorem calm_readEntry (s : State) (e : Env) (n : Nat) : Calm s (State.readEntry s e n).1 := by
  unfold State.readEntry
  repeat' first
    | with_reducible exact Calm.rfl
    | with_reducible refine Calm.trans ?_ (calm_translate _ _ _ _ _)
    | with_reducible refine Calm.trans ?_ (calm_fetchLine _ _ _ _)
    | with_reducible refine Calm.fst (by assumption) ?_
    | dsimp only
    | split

theorem calm_entryPlace (s : State) (e : Env) (n : Nat) : Calm s (State.entryPlace s e n).1 := by
  unfold State.entryPlace
  repeat' first
    | with_reducible exact Calm.rfl
    | with_reducible refine Calm.trans ?_ (calm_translate _ _ _ _ _)
    | with_reducible refine Calm.fst (by assumption) ?_
    | split

theorem calm_takeEntry (s : State) (e : Env) (n : Nat) : Calm s (State.takeEntry s e n).1 := by
  unfold State.takeEntry
  repeat' first
    | with_reducible exact Calm.rfl
    | with_reducible refine Calm.trans ?_ (calm_readEntry _ _ _)
    | with_reducible refine Calm.trans ?_ (calm_entryPlace _ _ _)
    | with_reducible refine Calm.fst (by assumption) ?_
    | split

theorem calm_fetchWord (s : State) (e : Env) (a : DWord) : Calm s (State.fetchWord s e a).1 := by
  unfold State.fetchWord
  repeat' first
    | with_reducible exact Calm.rfl
    | with_reducible refine Calm.trans ?_ (calm_translate _ _ _ _ _)
    | with_reducible refine Calm.trans ?_ (calm_peerAsk _ _ _ _ _ _ _ _)
    | with_reducible refine Calm.trans ?_ (calm_fetchLine _ _ _ _)
    | with_reducible refine Calm.fst (by assumption) ?_
    | dsimp only
    | split

theorem calm_writeEntry (s : State) (e : Env) (n : Nat) (x : Xl) (en : Entry) : Calm s (State.writeEntry s e n x en) := by
  unfold State.writeEntry
  repeat' first
    | with_reducible exact Calm.rfl
    | with_reducible refine Calm.trans ?_ (calm_modCore _ _ _)
    | with_reducible refine Calm.trans ?_ (calm_cohWrite _ _ _)

theorem calm_headerTrap (s : State) (e : Env) (cause : Nat) (faddr : DWord) : Calm s (State.headerTrap s e cause faddr) := by
  unfold State.headerTrap
  repeat' first
    | with_reducible exact Calm.rfl
    | with_reducible refine Calm.trans ?_ (calm_takeTrap _ _ _ _ _ _ _ _ _ _)

theorem calm_faultWait (s : State) (e : Env) (va : DWord) (acc : Acc) (ffirst : DWord) : Calm s (State.faultWait s e va acc ffirst) := by
  unfold State.faultWait
  repeat' first
    | with_reducible exact Calm.rfl
    | with_reducible refine Calm.trans ?_ (calm_raiseFault _ _ _ _ _ _ _ _)
    | with_reducible refine Calm.trans ?_ (calm_modSlot _ _ _ _ _)

theorem calm_headerFault (s : State) (e : Env) (n : Nat) (acc : Acc) (r : StackRes) : Calm s (State.headerFault s e n acc r) := by
  unfold State.headerFault
  repeat' first
    | with_reducible exact Calm.rfl
    | with_reducible refine Calm.trans ?_ (calm_headerTrap _ _ _ _)
    | with_reducible refine Calm.trans ?_ (calm_faultWait _ _ _ _ _)
    | with_reducible refine Calm.trans ?_ (calm_hold _ _ _)
    | with_reducible refine Calm.ite ?_ ?_
    | dsimp only
    | split

theorem calm_arriveStep (s : State) (e : Env) (w : Word) : Calm s (State.arriveStep s e w).1 := by
  unfold State.arriveStep
  extract_lets g sl o x atX put mine free top
  have hp : ∀ f s, Calm s (put f s) := fun f s => calm_modGroup ..
  split
  · have hr := calm_takeEntry s e top
    split
    · next s2 pl en hh =>
      rw [hh] at hr
      split
      · extract_lets t
        have hf := calm_fetchWord s2 e t
        split
        · next hh3 =>
          rw [hh3] at hf
          split
          · exact (hr.trans hf).trans ((calm_writeEntry ..).trans (hp ..))
          · exact (hr.trans hf).trans (calm_headerTrap ..)
        · next hh3 =>
          rw [hh3] at hf
          exact (hr.trans hf).trans (Calm.ite (calm_headerTrap ..) (calm_faultWait ..))
        · next hh3 => rw [hh3] at hf; exact (hr.trans hf).trans (calm_headerTrap ..)
        · next hh3 => rw [hh3] at hf; exact (hr.trans hf).trans (calm_hold ..)
      · exact hr.trans (hp ..)
    · next hh => rw [hh] at hr; exact hr.trans (calm_headerFault ..)
  · split
    · exact calm_hold ..
    · split
      · exact (hp ..).trans (hp ..)
      · split
        · exact hp ..
        · exact hp ..

theorem calm_arriveLoop (k : Nat) (s : State) (c ctx n : Nat) : Calm s (State.arriveLoop k s c ctx n) := by
  induction k generalizing s with
  | zero => exact Calm.rfl
  | succ k ih =>
    unfold State.arriveLoop
    split
    · exact Calm.rfl
    · next e _ =>
      have hf := calm_fetchWord s e e.sl.clause
      split
      · next hh =>
        rw [hh] at hf
        split
        · split
          · next hs =>
            have := calm_arriveStep _ e _ |> (hs ▸ ·)
            exact (hf.trans this).trans (ih _)
          · next hs =>
            have := calm_arriveStep _ e _ |> (hs ▸ ·)
            exact hf.trans this
        · exact hf.trans (calm_headerTrap ..)
      · next hh =>
        rw [hh] at hf
        split
        · exact hf.trans (calm_headerTrap ..)
        · exact hf.trans (calm_faultWait ..)
      · next hh => rw [hh] at hf; exact hf.trans (calm_headerTrap ..)
      · next hh => rw [hh] at hf; exact hf.trans (calm_hold ..)

theorem calm_arrive (s : State) (c : Nat) (ctx : Nat) (n : Nat) : Calm s (State.arrive s c ctx n) := by
  unfold State.arrive
  repeat' first
    | with_reducible exact Calm.rfl
    | with_reducible refine Calm.trans ?_ (calm_arriveLoop _ _ _ _ _)

theorem calm_jump (s : State) (e : Env) (h : Hdr) (target : DWord) (reg : Bool) (eff : State → State) (heff : ∀ x, Calm x (eff x)) :
    Calm s (State.jump s e h target reg eff) := by
  unfold State.jump
  extract_lets bad go trapThere
  have hb : ∀ x, Calm x (bad x) := fun x => calm_trapAt ..
  have hg : ∀ x, Calm x (go x) := fun x => ((calm_retire ..).trans (heff _)).trans (calm_modSlot ..)
  have ht : ∀ x k, Calm x (trapThere x k) := fun x k => (hg x).trans (calm_takeTrap ..)
  split
  · exact hb s
  · have hf := calm_fetchWord s e target
    split
    · next hh =>
      rw [hh] at hf
      split
      · exact hf.trans (hg _)
      · exact hf.trans (hb _)
    · next hh =>
      rw [hh] at hf
      split
      · exact hf.trans (ht ..)
      · exact hf.trans (calm_faultWait ..)
    · next hh => rw [hh] at hf; exact hf.trans (ht ..)
    · next hh => rw [hh] at hf; exact hf.trans (calm_hold ..)

theorem calm_branch (s : State) (e : Env) (h : Hdr) (taken : Bool) (off : BitVec 27) (eff : State → State) (heff : ∀ x0, Calm x0 (eff x0)) : Calm s (State.branch s e h taken off eff) := by
  unfold State.branch
  repeat' first
    | with_reducible exact Calm.rfl
    | with_reducible assumption
    | with_reducible refine Calm.trans ?_ (heff _)
    | with_reducible refine Calm.trans ?_ (calm_jump _ _ _ _ _ _ ?_)
    | with_reducible refine Calm.trans ?_ (calm_retire _ _ _)
    | with_reducible refine Calm.ite ?_ ?_

theorem calm_endCheck (s : State) (c : Nat) (ctx : Nat) : Calm s (State.endCheck s c ctx) := by
  unfold State.endCheck
  repeat' first
    | with_reducible exact Calm.rfl
    | with_reducible refine Calm.trans ?_ (calm_modGroup _ _ _ _)
    | with_reducible refine Calm.trans ?_ (calm_modCore _ _ _)
    | with_reducible refine Calm.ite ?_ ?_
    | split

theorem calm_laneFault (s : State) (e : Env) (va : DWord) (acc : Acc) : Calm s (State.laneFault s e va acc) := by
  unfold State.laneFault
  repeat' first
    | with_reducible exact Calm.rfl
    | with_reducible refine Calm.trans ?_ (calm_raiseFault _ _ _ _ _ _ _ _)
    | with_reducible refine Calm.trans ?_ (calm_modSlot _ _ _ _ _)

theorem calm_preRead (a0 : Nat) (a1 : State) (a2 : Env) (a3 : List Nat) (a4 : DWord) (a5 : List Nat) (a6 : Bool) :
    Calm a1 (State.preRead a0 a1 a2 a3 a4 a5 a6).1 := by
  induction a0 generalizing a1 a3 a5 a6 with
  | zero => exact Calm.rfl
  | succ k ih =>
    unfold State.preRead
    split
    · exact Calm.rfl
    · next n rest =>
      split
      · exact Calm.rfl
      · split
        · exact ih ..
        · extract_lets top a bad
          have hr := calm_takeEntry a1 a2 top
          split
          · next hh => rw [hh] at hr; exact hr
          · next s2 p en hh =>
            rw [hh] at hr
            extract_lets t
            have hf := calm_fetchWord s2 a2 t
            split
            · next hh3 => rw [hh3] at hf; exact hr.trans hf
            · next hh3 => rw [hh3] at hf; exact hr.trans hf
            · next hh3 => rw [hh3] at hf; exact hr.trans hf
            · next hh3 =>
              rw [hh3] at hf
              split
              · exact hr.trans hf
              · exact (hr.trans hf).trans (ih ..)

theorem calm_resumeTrap (s : State) (e : Env) (n : Nat) (t : DWord) : Calm s (State.resumeTrap s e n t) := by
  unfold State.resumeTrap
  repeat' first
    | with_reducible exact Calm.rfl
    | with_reducible refine Calm.trans ?_ (calm_takeTrap _ _ _ _ _ _ _ _ _ _)

theorem calm_settleSlot (a0 : Nat) (a1 : State) (a2 : Nat) (a3 : Nat) (a4 : Nat) : Calm a1 (State.settleSlot a0 a1 a2 a3 a4) := by
  induction a0 generalizing a1 with
  | zero => exact Calm.rfl
  | succ k ih =>
    unfold State.settleSlot
    split
    · exact Calm.rfl
    · next e _ =>
      split
      · exact Calm.rfl
      · split
        · have hr := calm_takeEntry a1 e (e.g.depth - 1)
          split
          · next hh =>
            rw [hh] at hr
            extract_lets t sl0 s2
            have h2 : Calm a1 s2 := hr.trans (calm_modGroup ..)
            split
            · split
              · exact h2.trans (ih ..)
              · exact h2.trans (calm_takeTrap ..)
            · exact h2.trans (ih ..)
          · next hh => rw [hh] at hr; exact hr.trans (calm_headerFault ..)
        · split
          · exact calm_modSlot ..
          · exact calm_modGroup ..

theorem calm_endWindow (s : State) (core : Nat) : Calm s (State.endWindow s core) := by
  unfold State.endWindow
  repeat' first
    | with_reducible exact Calm.rfl
    | with_reducible refine Calm.trans ?_ (calm_count _ _ _ _)
    | with_reducible refine Calm.trans ?_ (calm_modCore _ _ _)
    | with_reducible refine Calm.ite ?_ ?_

theorem calm_leaveBarrier (s : State) (c : Nat) (ctx : Nat) (n : Nat) (sl : Slot) : Calm s (State.leaveBarrier s c ctx n sl) := by
  unfold State.leaveBarrier
  repeat' first
    | with_reducible exact Calm.rfl
    | with_reducible refine Calm.trans ?_ (calm_modSlot _ _ _ _ _)
    | with_reducible refine Calm.trans ?_ (calm_acquire _ _ _ _)
    | with_reducible refine Calm.trans ?_ (calm_modGroup _ _ _ _)
    | with_reducible refine Calm.trans ?_ (calm_complete _ _ _)
    | dsimp only
    | split

theorem calm_openBarrier (s : State) (inWg : Nat → Bool) (n : Nat) : Calm s (State.openBarrier s inWg n) := by
  unfold State.openBarrier
  repeat' first
    | with_reducible exact Calm.rfl
    | with_reducible refine Calm.trans ?_ (calm_leaveBarrier _ _ _ _ _)
    | with_reducible refine Calm.trans ?_ (calm_modGroup _ _ _ _)
    | with_reducible refine Calm.ite ?_ ?_
    | with_reducible refine Calm.fold ?_ (fun s a => ?_)

theorem calm_wgBarrier (s : State) (wg : Nat) (n : Nat) : Calm s (State.wgBarrier s wg n) := by
  unfold State.wgBarrier
  repeat' first
    | with_reducible exact Calm.rfl
    | with_reducible refine Calm.trans ?_ (calm_modWg _ _ _)
    | with_reducible refine Calm.trans ?_ (calm_openBarrier _ _ _)
    | with_reducible refine Calm.ite ?_ ?_

theorem calm_ropeBarrier (s : State) (wg : Nat) (n : Nat) : Calm s (State.ropeBarrier s wg n) := by
  unfold State.ropeBarrier
  repeat' first
    | with_reducible exact Calm.rfl
    | with_reducible refine Calm.trans ?_ (calm_modRope _ _ _)
    | with_reducible refine Calm.trans ?_ (calm_openBarrier _ _ _)
    | with_reducible refine Calm.ite ?_ ?_
    | dsimp only
    | split

theorem calm_checkBarriers (s : State) (wg : Nat) : Calm s (State.checkBarriers s wg) := by
  unfold State.checkBarriers
  repeat' first
    | with_reducible exact Calm.rfl
    | with_reducible refine Calm.trans ?_ (calm_wgBarrier _ _ _)
    | with_reducible refine Calm.trans ?_ (calm_ropeBarrier _ _ _)

theorem calm_leaveGate (s : State) (c : Nat) (a : GateArrival) : Calm s (State.leaveGate s c a) := by
  unfold State.leaveGate
  repeat' first
    | with_reducible exact Calm.rfl
    | with_reducible refine Calm.trans ?_ (calm_modCore _ _ _)

theorem calm_gateTrap (s : State) (c : Nat) (a : GateArrival) : Calm s (State.gateTrap s c a) := by
  unfold State.gateTrap
  repeat' first
    | with_reducible exact Calm.rfl
    | with_reducible refine Calm.trans ?_ (calm_leaveGate _ _ _)
    | with_reducible refine Calm.trans ?_ (calm_modGroup _ _ _ _)
    | with_reducible refine Calm.trans ?_ (calm_dropOp _ _ _)
    | with_reducible refine Calm.trans ?_ (calm_trapSlot _ _ _ _ _ _ _ _ _)
    | dsimp only
    | split

theorem calm_gatePass (s : State) (c : Nat) (a : GateArrival) : Calm s (State.gatePass s c a) := by
  unfold State.gatePass
  repeat' first
    | with_reducible exact Calm.rfl
    | with_reducible refine Calm.trans ?_ (calm_leaveGate _ _ _)
    | with_reducible refine Calm.trans ?_ (calm_complete _ _ _)
    | with_reducible refine Calm.trans ?_ (calm_goOn _ _ _)
    | with_reducible refine Calm.ite ?_ ?_
    | dsimp only
    | split

theorem calm_gateOpen (s : State) (c : Nat) (as : List GateArrival) : Calm s (State.gateOpen s c as) := by
  unfold State.gateOpen
  repeat' first
    | with_reducible exact Calm.rfl
    | with_reducible refine Calm.trans ?_ (calm_setOp _ _ _)
    | with_reducible refine Calm.trans ?_ (calm_gatePass _ _ _)
    | with_reducible refine Calm.fold ?_ (fun s a => ?_)
    | simp only [↓Calm.upd_iff]
    | split

theorem calm_decideGate (s : State) (c : Nat) (wg : Nat) (quart : Nat) : Calm s (State.decideGate s c wg quart) := by
  unfold State.decideGate
  extract_lets as here ops
  clear_value as here ops
  refine Calm.ite Calm.rfl (Calm.ite (Calm.fold Calm.rfl fun x a => calm_gateTrap ..) (Calm.ite Calm.rfl
    (Calm.ite (Calm.fold Calm.rfl fun x a => calm_gatePass ..) (Calm.ite (calm_gateOpen ..) (Calm.fold Calm.rfl fun x a => ?_)))))
  exact Calm.ite (calm_gateTrap ..) (calm_gatePass ..)

theorem calm_decideGates (s : State) (c : Nat) (wg : Nat) (quart : Nat) : Calm s (State.decideGates s c wg quart) := by
  unfold State.decideGates
  repeat' first
    | with_reducible exact Calm.rfl
    | with_reducible refine Calm.trans ?_ (calm_decideGate _ _ _ _)

theorem calm_afterExit (s : State) (c : Nat) (ctx : Nat) : Calm s (State.afterExit s c ctx) := by
  unfold State.afterExit
  split
  · exact Calm.rfl
  · extract_lets s2
    have h2 : Calm s s2 := calm_checkBarriers ..
    clear_value s2
    split
    · exact h2
    · exact Calm.ite (h2.trans ((calm_fixThrottle ..).trans (calm_decideGates ..))) h2

theorem calm_afterLeave (s : State) (c : Nat) (ctx : Nat) (n : Nat) : Calm s (State.afterLeave s c ctx n) := by
  unfold State.afterLeave
  extract_lets s1 s2
  have h1 : Calm s s1 := calm_modGroup ..
  have h2 : Calm s s2 := (h1.trans (calm_settleSlot ..)).trans (calm_settleSlot ..)
  exact h2.trans ((calm_endCheck ..).trans (calm_afterExit ..))

theorem calm_diverge (s : State) (e : Env) (h : Hdr) (t : DWord) (off : BitVec 27) (rc : BitVec 32) : Calm s (State.diverge s e h t off rc) := by
  unfold State.diverge
  extract_lets n f put
  have hp : ∀ f s, Calm s (put f s) := fun f s => calm_modGroup ..
  split
  · exact calm_jump _ _ _ _ _ _ (fun x => hp ..)
  · split
    · exact calm_trapAt ..
    · have hx := calm_entryPlace s e e.g.depth
      split
      · next hh =>
        rw [hh] at hx
        exact hx.trans (calm_jump _ _ _ _ _ _ (fun x => (calm_writeEntry ..).trans (hp ..)))
      · next hh => rw [hh] at hx; exact hx.trans (calm_trapAt ..)
      · next hh =>
        rw [hh] at hx
        exact Calm.ite (hx.trans (calm_trapAt ..)) (hx.trans (calm_faultWait ..))

theorem calm_helpDone (s : State) (c : Nat) (ctx : Nat) (n : Nat) (lanes : DWord) : Calm s (State.helpDone s c ctx n lanes) := by
  unfold State.helpDone
  repeat' first
    | with_reducible exact Calm.rfl
    | with_reducible refine Calm.trans ?_ (calm_afterLeave _ _ _ _)
    | with_reducible refine Calm.trans ?_ (calm_modGroup _ _ _ _)
    | with_reducible refine Calm.ite ?_ ?_

theorem calm_mark (s : State) (e : Env) (h : Hdr) (code : BitVec 8) (imm : Word) : Calm s (State.mark s e h code imm) := by
  unfold State.mark
  repeat' first
    | with_reducible exact Calm.rfl
    | with_reducible refine Calm.trans ?_ (calm_retire _ _ _)
    | with_reducible refine Calm.trans ?_ (calm_ringPut _ _ _)
    | with_reducible refine Calm.ite ?_ ?_

theorem calm_sWrite (s : State) (e : Env) (h : Hdr) (ws : List (Nat × Word)) : Calm s (State.sWrite s e h ws) := by
  unfold State.sWrite
  repeat' first
    | with_reducible exact Calm.rfl
    | with_reducible refine Calm.trans ?_ (calm_start _ _ _)

theorem calm_stopRope (s : State) (e : Env) (cause : Nat) (code : Nat) : Calm s (State.stopRope s e cause code) := by
  unfold State.stopRope
  repeat' first
    | with_reducible exact Calm.rfl
    | with_reducible refine Calm.trans ?_ (calm_beginStop _ _ _)
    | split

theorem calm_tret (s : State) (e : Env) (h : Hdr) (skip : Bool) : Calm s (State.tret s e h skip) := by
  unfold State.tret
  repeat' first
    | with_reducible exact Calm.rfl
    | with_reducible refine Calm.trans ?_ (calm_retire _ _ _)
    | with_reducible refine Calm.trans ?_ (calm_modGroup _ _ _ _)
    | with_reducible refine Calm.trans ?_ (calm_settleSlot _ _ _ _ _)
    | with_reducible refine Calm.ite ?_ ?_

theorem calm_turnHelp (s : State) (e : Env) (h : Hdr) (f : AluForm) (act : List Nat) (turn gone : DWord)
    (hp : ∀ t, (s.preRead 65 e ((e.g.toHelpers turn).dropHelpers gone).emptySlots ((e.g.toHelpers turn).dropHelpers gone).live
      e.g.owners false).2 = some t → Calm s t) : Calm s (State.turnHelp s e h f act turn gone) := by
  unfold State.turnHelp
  have hr := calm_preRead 65 s e ((e.g.toHelpers turn).dropHelpers gone).emptySlots ((e.g.toHelpers turn).dropHelpers gone).live
    e.g.owners false
  split
  · next hh => rw [hh] at hp; exact hp _ rfl
  · next hh =>
    rw [hh] at hr
    exact ((hr.trans (calm_startAlu ..)).trans (calm_modGroup ..)).trans (calm_retire ..)

theorem calm_uniWrite (s : State) (e : Env) (h : Hdr) (ws : List RegWrite) : Calm s (State.uniWrite s e h ws) := by
  unfold State.uniWrite
  repeat' first
    | with_reducible exact Calm.rfl
    | with_reducible refine Calm.trans ?_ (calm_start _ _ _)

theorem calm_clearBelay (s : State) (e : Env) : Calm s (State.clearBelay s e) := by
  unfold State.clearBelay
  repeat' first
    | with_reducible exact Calm.rfl
    | with_reducible refine Calm.trans ?_ (calm_modGroup _ _ _ _)
    | with_reducible refine Calm.trans ?_ (calm_modCore _ _ _)

theorem calm_memDone (s : State) (e : Env) (lanes : List (Nat × DWord)) : Calm s (State.memDone s e lanes) := by
  unfold State.memDone
  repeat' first
    | with_reducible exact Calm.rfl
    | with_reducible refine Calm.trans ?_ (calm_memCounted _ _)
    | with_reducible refine Calm.trans ?_ (calm_sampleRecord _ _ _ _ _)
    | dsimp only
    | split

theorem calm_memGo (s : State) (e : Env) (h : Hdr) (m : MemOp) (fl : Flg) : Calm s (State.memGo s e h m fl) := by
  unfold State.memGo
  repeat' first
    | with_reducible exact Calm.rfl
    | with_reducible refine Calm.trans ?_ (calm_retire _ _ _)
    | with_reducible refine Calm.trans ?_ (calm_hold _ _ _)
    | with_reducible refine Calm.trans ?_ (calm_modCore _ _ _)
    | with_reducible refine Calm.trans ?_ (calm_issueMem _ _ _ _ _)
    | with_reducible refine Calm.ite ?_ ?_

theorem calm_memRelease (s : State) (e : Env) (h : Hdr) (m : MemOp) (scope : Nat) : Calm s (State.memRelease s e h m scope) := by
  unfold State.memRelease
  repeat' first
    | with_reducible exact Calm.rfl
    | with_reducible refine Calm.trans ?_ (calm_memGo _ _ _ _ _)
    | with_reducible refine Calm.trans ?_ (calm_hold _ _ _)
    | with_reducible refine Calm.trans ?_ (calm_trapAt _ _ _ _ _ _)
    | with_reducible refine Calm.ite ?_ ?_
    | split

theorem calm_prefL2 (s : State) (r : Req) (x : Xl) : Calm s (State.prefL2 s r x) := by
  unfold State.prefL2
  repeat' first
    | with_reducible exact Calm.rfl
    | with_reducible refine Calm.trans ?_ (calm_fetchReq _ _ _)
    | with_reducible refine Calm.ite ?_ ?_

theorem calm_keepFlag (s : State) (e : Env) (f : Option Nat) : Calm s (State.keepFlag s e f) := by
  unfold State.keepFlag
  repeat' first
    | with_reducible exact Calm.rfl
    | with_reducible refine Calm.trans ?_ (calm_modGroup _ _ _ _)

theorem calm_l2Read (s : State) (e : Env) (va : DWord) (n : Nat) : Calm s (State.l2Read s e va n).1 := by
  unfold State.l2Read
  repeat' first
    | with_reducible exact Calm.rfl
    | with_reducible refine Calm.trans ?_ (calm_translate _ _ _ _ _)
    | with_reducible refine Calm.trans ?_ (calm_laneLine _ _ _ _ _)
    | with_reducible refine Calm.trans ?_ (calm_flushVa _ _ _ _)
    | with_reducible refine Calm.fst (by assumption) ?_
    | dsimp only
    | split

theorem calm_markWork (s : State) (q : Nat) : Calm s (State.markWork s q) := by
  unfold State.markWork
  repeat' first
    | with_reducible exact Calm.rfl
    | with_reducible refine Calm.ite ?_ ?_
    | simp only [↓Calm.upd_iff]

theorem calm_oneLane (s : State) (e : Env) (f : Option Nat) (o : Outcome1) (va : DWord) (acc : Acc) (go : State → List Byte → State) (hgo : ∀ x0 x1, Calm x0 (go x0 x1)) : Calm s (State.oneLane s e f o va acc go) := by
  unfold State.oneLane
  repeat' first
    | with_reducible exact Calm.rfl
    | with_reducible refine Calm.trans ?_ (hgo _ _)
    | with_reducible refine Calm.trans ?_ (calm_trapAt _ _ _ _ _ _)
    | with_reducible refine Calm.trans ?_ (calm_keepFlag _ _ _)
    | with_reducible refine Calm.trans ?_ (calm_laneFault _ _ _ _)
    | with_reducible refine Calm.trans ?_ (calm_hold _ _ _)
    | with_reducible refine Calm.ite ?_ ?_
    | split

theorem calm_writePlace (s : State) (e : Env) (va : DWord) : Calm s (State.writePlace s e va).1 := by
  unfold State.writePlace
  repeat' first
    | with_reducible exact Calm.rfl
    | with_reducible refine Calm.trans ?_ (calm_translate _ _ _ _ _)
    | with_reducible refine Calm.fst (by assumption) ?_
    | split

theorem calm_arriveBarrier (h : Hdr) (s : State) (e : Env) (k : Nat) (scope : Nat) (belay : Bool) (w : Wait) :
    Calm s (State.arriveBarrier h s e k scope belay w) := by
  unfold State.arriveBarrier
  split
  · exact calm_retire ..
  · split
    · exact calm_hold ..
    · exact calm_trapAt ..
    · exact ((((calm_start ..).trans (calm_retire ..)).trans (calm_modGroup ..)).trans (calm_modSlot ..)).trans (calm_checkBarriers ..)

theorem calm_dataWrite (s : State) (e : Env) (h : Hdr) (ws : List RegWrite) : Calm s (State.dataWrite s e h ws) := by
  unfold State.dataWrite
  repeat' first
    | with_reducible exact Calm.rfl
    | with_reducible refine Calm.trans ?_ (calm_start _ _ _)

theorem calm_homeStore (s : State) (e : Env) (va : DWord) (x : Xl) (bs : List Byte) : Calm s (State.homeStore s e va x bs) := by
  unfold State.homeStore
  repeat' first
    | with_reducible exact Calm.rfl
    | with_reducible refine Calm.trans ?_ (calm_modCore _ _ _)
    | with_reducible refine Calm.trans ?_ (calm_cohWrite _ _ _)
    | with_reducible refine Calm.trans ?_ (calm_flushLine _ _ _)

theorem calm_setObj (s : State) (t : Nat) (o : BarObj) : Calm s (State.setObj s t o) := by
  unfold State.setObj
  repeat' first
    | with_reducible exact Calm.rfl
    | with_reducible refine Calm.trans ?_ (calm_scrWrite _ _)

theorem calm_wakeObj (s : State) (t : Nat) (bad : Bool) : Calm s (State.wakeObj s t bad) := by
  unfold State.wakeObj
  repeat' first
    | with_reducible exact Calm.rfl
    | with_reducible refine Calm.trans ?_ (calm_trapSlot _ _ _ _ _ _ _ _ _)
    | with_reducible refine Calm.trans ?_ (calm_modSlot _ _ _ _ _)
    | with_reducible refine Calm.ite ?_ ?_
    | with_reducible refine Calm.fold ?_ (fun s a => ?_)
    | dsimp only
    | split

theorem calm_objEvent (s : State) (t : Nat) (v : BarEvent) : Calm s (State.objEvent s t v) := by
  unfold State.objEvent
  extract_lets o o2
  clear_value o o2
  split
  · exact (calm_scrWrite ..).trans (calm_setObj ..)
  · exact ((calm_scrWrite ..).trans (calm_setObj ..)).trans (calm_wakeObj ..)
  · exact Calm.ite Calm.rfl (Calm.ite ((calm_setObj ..).trans (calm_wakeObj ..)) (calm_setObj ..))

theorem calm_engLine (s : State) (w : EngWho) (va : Nat) : Calm s (State.engLine s w va).1 := by
  unfold State.engLine
  repeat' first
    | with_reducible exact Calm.rfl
    | with_reducible refine Calm.trans ?_ (calm_translate _ _ _ _ _)
    | with_reducible refine Calm.trans ?_ (calm_peerAsk _ _ _ _ _ _ _ _)
    | with_reducible refine Calm.trans ?_ (calm_fetchReq _ _ _)
    | with_reducible refine Calm.fst (by assumption) ?_
    | dsimp only
    | split

theorem calm_engLines (l : List Nat) (s : State) (w : EngWho) (acc : List (Nat × LineData)) : Calm s (State.engLines l s w acc).1 := by
  induction l generalizing s acc with
  | nil => exact Calm.rfl
  | cons va r ih =>
    unfold State.engLines
    have hl := calm_engLine s w va
    split
    · next hh => rw [hh] at hl; exact hl.trans (ih ..)
    · next hh => rw [hh] at hl; exact hl
    · next hh => rw [hh] at hl; exact hl
    · next hh => rw [hh] at hl; exact hl

theorem calm_engRead (s : State) (w : EngWho) (va : Nat) (n : Nat) : Calm s (State.engRead s w va n).1 := by
  unfold State.engRead
  repeat' first
    | with_reducible exact Calm.rfl
    | with_reducible refine Calm.trans ?_ (calm_engLines _ _ _ _)
    | with_reducible refine Calm.fst (by assumption) ?_
    | split

theorem calm_capture (kind : Nat) (a0 : List Nat) (a1 : State) (a2 : EngWho) (a3 : List (Nat × List Byte)) : Calm a1 (State.capture kind a0 a1 a2 a3).1 := by
  induction a0 generalizing a1 a3 with
  | nil => exact Calm.rfl
  | cons u r ih =>
    unfold State.capture
    split
    · exact ih ..
    · have hr := calm_engRead a1 a2 (16 * u) 16
      split <;> next hh =>
        rw [hh] at hr
        first | exact hr.trans (ih ..) | exact hr

theorem calm_engineFault (s : State) (c : Nat) (o : Op) (cause : Nat) (va : Nat) (write : Bool) : Calm s (State.engineFault s c o cause va write) := by
  unfold State.engineFault
  repeat' first
    | with_reducible exact Calm.rfl
    | with_reducible refine Calm.trans ?_ (calm_countNest _ _)
    | with_reducible refine Calm.trans ?_ (calm_dropOp _ _ _)
    | with_reducible refine Calm.trans ?_ (calm_endLaunch _ _ _ _ _ _ _ _ _)
    | dsimp only
    | split

theorem calm_engDone {α : Type} (s : State) (c : Nat) (o : Op) (r : EngRes α) (go : State → α → State) (hgo : ∀ x0 x1, Calm x0 (go x0 x1)) : Calm s (State.engDone s c o r go) := by
  unfold State.engDone
  repeat' first
    | with_reducible exact Calm.rfl
    | with_reducible refine Calm.trans ?_ (hgo _ _)
    | with_reducible refine Calm.trans ?_ (calm_engineFault _ _ _ _ _ _)
    | with_reducible refine Calm.trans ?_ (calm_raiseFault _ _ _ _ _ _ _ _)
    | with_reducible refine Calm.trans ?_ (calm_setOp _ _ _)
    | dsimp only
    | split

theorem calm_engPlaces (l : List Nat) (s : State) (w : EngWho) (acc : List (Nat × Nat)) : Calm s (State.engPlaces l s w acc).1 := by
  induction l generalizing s acc with
  | nil => exact Calm.rfl
  | cons va r ih =>
    unfold State.engPlaces
    have hl := calm_translate s (clusterOf w.core) w.asid (va64 va) .write
    split
    · next hh => rw [hh] at hl; exact hl.trans (ih ..)
    · next hh => rw [hh] at hl; exact hl

theorem calm_engWriteLine (s : State) (w : EngWho) (cells : List SCell) (sent : Bool) : Calm s (State.engWriteLine s w cells sent) := by
  unfold State.engWriteLine
  repeat' first
    | with_reducible exact Calm.rfl
    | with_reducible refine Calm.trans ?_ (calm_performWt _ _ _)
    | with_reducible refine Calm.trans ?_ (calm_sendWrite _ _ _ _ _ _ _ _)
    | with_reducible refine Calm.ite ?_ ?_
    | split

theorem calm_engWrite (s : State) (w : EngWho) (ps : List (Nat × Nat)) (cells : List (Nat × Byte)) : Calm s (State.engWrite s w ps cells) := by
  unfold State.engWrite
  repeat' first
    | with_reducible exact Calm.rfl
    | with_reducible refine Calm.trans ?_ (calm_engWriteLine _ _ _ _)
    | with_reducible refine Calm.fold ?_ (fun s a => ?_)

theorem calm_watchEngine (s : State) (w : EngWho) (reads : List (Nat × Nat)) (writes : List (Nat × Nat)) : Calm s (State.watchEngine s w reads writes) := by
  unfold State.watchEngine
  repeat' first
    | with_reducible exact Calm.rfl
    | with_reducible refine Calm.trans ?_ (calm_report _ _ _ _ _ _ _ _ _ _)
    | with_reducible refine Calm.trans ?_ (calm_beginStop _ _ _)
    | with_reducible refine Calm.ite ?_ ?_
    | dsimp only
    | split

theorem calm_copyStarts (s : State) (w : EngWho) (ps : List (Nat × List Byte)) (k : CopyOp) : Calm s (State.copyStarts s w ps k).1 := by
  unfold State.copyStarts
  repeat' first
    | with_reducible exact Calm.rfl
    | with_reducible refine Calm.trans ?_ (calm_capture _ _ _ _ _)
    | with_reducible refine Calm.fst (by assumption) ?_
    | dsimp only
    | split

theorem calm_moveCopy (s : State) (c : Nat) (o : Op) (k : CopyOp) (t : Nat) (starts : List (Option (List Int))) (ps : List (Nat × List Byte)) (pick : Nat → Bool) (fin : State → Op → State) (hfin : ∀ x0 x1, Calm x0 (fin x0 x1)) : Calm s (State.moveCopy s c o k t starts ps pick fin) := by
  unfold State.moveCopy
  repeat' first
    | with_reducible exact Calm.rfl
    | with_reducible refine Calm.trans ?_ (hfin _ _)
    | with_reducible refine Calm.trans ?_ (calm_capture _ _ _ _ _)
    | with_reducible refine Calm.trans ?_ (calm_engDone _ _ _ _ _ ?_)
    | with_reducible refine Calm.trans ?_ (calm_scrWrite _ _)
    | with_reducible refine Calm.trans ?_ (calm_engPlaces _ _ _ _)
    | with_reducible refine Calm.trans ?_ (calm_engWrite _ _ _ _)
    | with_reducible refine Calm.trans ?_ (calm_performWt _ _ _)
    | with_reducible refine Calm.trans ?_ (calm_engWriteLine _ _ _ _)
    | with_reducible refine Calm.ite ?_ ?_
    | with_reducible refine Calm.fold ?_ (fun s a => ?_)
    | dsimp only
    | split
    | intro x

theorem calm_copyRun (s : State) (c : Nat) (o : Op) (k : CopyOp) (pick : Nat → Bool) (fin : State → Op → List (Option (List Int)) → State) (hfin : ∀ x0 x1 x2, Calm x0 (fin x0 x1 x2)) : Calm s (State.copyRun s c o k pick fin) := by
  unfold State.copyRun
  repeat' first
    | with_reducible exact Calm.rfl
    | with_reducible refine Calm.trans ?_ (hfin _ _ _)
    | with_reducible refine Calm.trans ?_ (calm_engineFault _ _ _ _ _ _)
    | with_reducible refine Calm.trans ?_ (calm_dropOp _ _ _)
    | with_reducible refine Calm.trans ?_ (calm_copyStarts _ _ _ _)
    | with_reducible refine Calm.trans ?_ (calm_engDone _ _ _ _ _ ?_)
    | with_reducible refine Calm.trans ?_ (calm_moveCopy _ _ _ _ _ _ _ _ _ ?_)
    | with_reducible refine Calm.ite ?_ ?_
    | dsimp only
    | split
    | intro x

theorem calm_copyComplete (s : State) (c : Nat) (o : Op) (k : CopyOp) : Calm s (State.copyComplete s c o k) := by
  unfold State.copyComplete
  repeat' first
    | with_reducible exact Calm.rfl
    | with_reducible refine Calm.trans ?_ (calm_copyRun _ _ _ _ _ _ ?_)
    | with_reducible refine Calm.trans ?_ (calm_setOp _ _ _)
    | with_reducible refine Calm.trans ?_ (calm_watchEngine _ _ _ _)
    | with_reducible refine Calm.trans ?_ (calm_objEvent _ _ _)
    | with_reducible refine Calm.trans ?_ (calm_complete _ _ _)
    | dsimp only
    | split
    | intro x

theorem calm_copyPart (s : State) (c : Nat) (o : Op) (k : CopyOp) (p : Nat) : Calm s (State.copyPart s c o k p) := by
  unfold State.copyPart
  repeat' first
    | with_reducible exact Calm.rfl
    | with_reducible refine Calm.trans ?_ (calm_copyRun _ _ _ _ _ _ ?_)
    | with_reducible refine Calm.trans ?_ (calm_setOp _ _ _)
    | with_reducible refine Calm.trans ?_ (calm_capture _ _ _ _ _)
    | with_reducible refine Calm.trans ?_ (calm_engDone _ _ _ _ _ ?_)
    | with_reducible refine Calm.ite ?_ ?_
    | dsimp only
    | split
    | intro x

theorem calm_keepUnit (s : State) (e : Env) (units : List (Nat × Nat)) : Calm s (State.keepUnit s e units) := by
  unfold State.keepUnit
  repeat' first
    | with_reducible exact Calm.rfl
    | with_reducible refine Calm.trans ?_ (calm_modSlot _ _ _ _ _)

theorem calm_getRecord (s : State) (e : Env) (f : Option Nat) (va : DWord) (go : State → Layout → State) (hgo : ∀ x0 x1, Calm x0 (go x0 x1)) : Calm s (State.getRecord s e f va go) := by
  unfold State.getRecord
  repeat' first
    | with_reducible exact Calm.rfl
    | with_reducible refine Calm.trans ?_ (hgo _ _)
    | with_reducible refine Calm.trans ?_ (calm_hold _ _ _)
    | with_reducible refine Calm.trans ?_ (calm_l2Read _ _ _ _)
    | with_reducible refine Calm.trans ?_ (calm_oneLane _ _ _ _ _ _ _ ?_)
    | with_reducible refine Calm.trans ?_ (calm_keepUnit _ _ _)
    | with_reducible refine Calm.trans ?_ (calm_trapAt _ _ _ _ _ _)
    | with_reducible refine Calm.ite ?_ ?_
    | dsimp only
    | split
    | intro x

theorem calm_startCopy (s : State) (e : Env) (h : Hdr) (tok : Nat) (k : CopyOp) (ws : List Word) (barA : Option Nat) : Calm s (State.startCopy s e h tok k ws barA) := by
  unfold State.startCopy
  repeat' first
    | with_reducible exact Calm.rfl
    | with_reducible refine Calm.trans ?_ (calm_trapAt _ _ _ _ _ _)
    | with_reducible refine Calm.trans ?_ (calm_retire _ _ _)
    | with_reducible refine Calm.trans ?_ (calm_start _ _ _)
    | with_reducible refine Calm.ite ?_ ?_
    | dsimp only
    | split

theorem calm_setChan (s : State) (ch : Nat) (k : Chan) : Calm s (State.setChan s ch k) := by
  unfold State.setChan
  repeat' first
    | with_reducible exact Calm.rfl
    | simp only [↓Calm.upd_iff]

theorem calm_acceptChain (s : State) (ch : Nat) : Calm s (State.acceptChain s ch) := by
  unfold State.acceptChain
  repeat' first
    | with_reducible exact Calm.rfl
    | with_reducible refine Calm.trans ?_ (calm_complete _ _ _)
    | with_reducible refine Calm.trans ?_ (calm_setChan _ _ _)
    | with_reducible refine Calm.ite ?_ ?_
    | dsimp only
    | split

theorem calm_bpopDone (s : State) (c : Nat) (o : Op) (q : Nat) (dst : Nat) (lanes : DWord) : Calm s (State.bpopDone s c o q dst lanes) := by
  unfold State.bpopDone
  repeat' first
    | with_reducible exact Calm.rfl
    | with_reducible refine Calm.trans ?_ (calm_complete _ _ _)
    | with_reducible refine Calm.trans ?_ (calm_modCore _ _ _)
    | with_reducible refine Calm.ite ?_ ?_
    | dsimp only
    | split

theorem calm_chanPage (s : State) (ch : Nat) (va : Nat) (wr : Bool) : Calm s (State.chanPage s ch va wr) := by
  unfold State.chanPage
  repeat' first
    | with_reducible exact Calm.rfl
    | with_reducible refine Calm.trans ?_ (calm_raiseFault _ _ _ _ _ _ _ _)
    | with_reducible refine Calm.trans ?_ (calm_setChan _ _ _)

theorem calm_stopChan (s : State) (ch : Nat) (err : Option Nat) : Calm s (State.stopChan s ch err) := by
  unfold State.stopChan
  repeat' first
    | with_reducible exact Calm.rfl
    | with_reducible refine Calm.trans ?_ (calm_setChan _ _ _)
    | with_reducible refine Calm.trans ?_ (calm_forgetOp _ _)
    | simp only [↓Calm.upd_iff]

theorem calm_chanFatal (s : State) (ch cause : Nat) (sig : Option Nat) : Calm s (State.chanFatal s ch cause sig) := by
  unfold State.chanFatal
  extract_lets k
  split
  · exact calm_stopChan ..
  · next a =>
    split
    · exact calm_stopChan ..
    · have hl := calm_engPlaces [a] s k.who []
      split
      · next hh => rw [hh] at hl; exact (hl.trans (calm_engWrite ..)).trans (calm_stopChan ..)
      · next hh => rw [hh] at hl; exact (hl.trans (calm_setChan ..)).trans (calm_chanPage ..)
      · next hh => rw [hh] at hl; exact hl.trans (calm_stopChan ..)

theorem calm_chanDone {α : Type} (s : State) (ch : Nat) (sig : Option Nat) (r : EngRes α) (go : State → α → State)
    (hgo : ∀ x0 x1, Calm x0 (go x0 x1)) : Calm s (State.chanDone s ch sig r go) := by
  unfold State.chanDone
  split
  · exact hgo ..
  · exact Calm.rfl
  · exact calm_chanPage ..
  · exact calm_chanFatal ..

theorem calm_readRecord (s : State) (ch : Nat) (go : State → ChanRec → State) (hgo : ∀ x0 x1, Calm x0 (go x0 x1)) : Calm s (State.readRecord s ch go) := by
  unfold State.readRecord
  extract_lets k x
  refine Calm.ite (calm_stopChan ..) ?_
  refine (calm_capture ..).trans (calm_chanDone _ _ _ _ _ fun s ps => ?_)
  refine Calm.trans (t := s.setChan ch { s.chan ch with parts := ps }) (calm_setChan ..) ?_
  exact Calm.ite (calm_stopChan ..) (Calm.ite (calm_stopChan ..) (hgo ..))

theorem calm_copyUnits (s : State) (ch : Nat) (r : ChanRec) (pick : Nat → Bool) (go : State → State) (hgo : ∀ x0, Calm x0 (go x0)) : Calm s (State.copyUnits s ch r pick go) := by
  unfold State.copyUnits
  repeat' first
    | with_reducible exact Calm.rfl
    | with_reducible refine Calm.trans ?_ (hgo _)
    | with_reducible refine Calm.trans ?_ (calm_capture _ _ _ _ _)
    | with_reducible refine Calm.trans ?_ (calm_chanDone _ _ _ _ _ ?_)
    | with_reducible refine Calm.trans ?_ (calm_engPlaces _ _ _ _)
    | with_reducible refine Calm.trans ?_ (calm_engWrite _ _ _ _)
    | with_reducible refine Calm.trans ?_ (calm_setChan _ _ _)
    | dsimp only
    | intro x

theorem calm_chanPart (s : State) (ch : Nat) (p : Nat) : Calm s (State.chanPart s ch p) := by
  unfold State.chanPart
  split
  · exact Calm.rfl
  · extract_lets k
    split
    · split
      · exact (calm_capture ..).trans (calm_chanDone _ _ _ _ _ fun _ _ => calm_setChan ..)
      · exact Calm.rfl
    · refine calm_readRecord _ _ _ fun x r => ?_
      split
      · exact calm_copyUnits _ _ _ _ _ fun _ => Calm.rfl
      · split
        · exact (calm_capture ..).trans (calm_chanDone _ _ _ _ _ fun _ _ => calm_setChan ..)
        · exact Calm.rfl

theorem calm_chanStage (s : State) (ch : Nat) (r : ChanRec) : Calm s (State.chanStage s ch r) := by
  unfold State.chanStage
  repeat' first
    | with_reducible exact Calm.rfl
    | with_reducible refine Calm.trans ?_ (calm_copyUnits _ _ _ _ _ ?_)
    | with_reducible refine Calm.trans ?_ (calm_setChan _ _ _)
    | with_reducible refine Calm.trans ?_ (calm_watchEngine _ _ _ _)
    | with_reducible refine Calm.trans ?_ (calm_engPlaces _ _ _ _)
    | with_reducible refine Calm.trans ?_ (calm_chanDone _ _ _ _ _ ?_)
    | with_reducible refine Calm.trans ?_ (calm_engWrite _ _ _ _)
    | with_reducible refine Calm.trans ?_ (calm_forgetOp _ _)
    | with_reducible refine Calm.ite ?_ ?_
    | dsimp only
    | split
    | intro x

theorem calm_chanStages (a0 : Nat) (a1 : State) (a2 : Nat) : Calm a1 (State.chanStages a0 a1 a2) := by
  induction a0 generalizing a1 with
  | zero => exact Calm.rfl
  | succ k ih =>
    unfold State.chanStages
    split
    · extract_lets c t
      split
      · exact calm_chanFatal ..
      · exact calm_readRecord _ _ _ fun _ _ => calm_chanFatal ..
      · have ht : Calm a1 t := calm_readRecord _ _ _ fun _ _ => calm_chanStage ..
        split
        · exact ht
        · exact ht.trans (ih ..)
    · exact Calm.rfl

theorem calm_decodeComplete (s : State) (c : Nat) (o : Op) : Calm s (State.decodeComplete s c o) := by
  unfold State.decodeComplete
  repeat' first
    | with_reducible exact Calm.rfl
    | with_reducible refine Calm.trans ?_ (calm_trapSlot _ _ _ _ _ _ _ _ _)
    | with_reducible refine Calm.trans ?_ (calm_modGroup _ _ _ _)
    | with_reducible refine Calm.trans ?_ (calm_dropOp _ _ _)
    | with_reducible refine Calm.trans ?_ (calm_setOp _ _ _)
    | with_reducible refine Calm.ite ?_ ?_
    | simp only [↓Calm.upd_iff]
    | split

theorem calm_residOut (s : State) (c : Nat) (o : Op) (a : Nat) (n : Nat) (slot : Nat) (flush : Bool) : Calm s (State.residOut s c o a n slot flush) := by
  unfold State.residOut
  repeat' first
    | with_reducible exact Calm.rfl
    | with_reducible refine Calm.trans ?_ (calm_dropOp _ _ _)
    | with_reducible refine Calm.trans ?_ (calm_modCore _ _ _)
    | with_reducible refine Calm.trans ?_ (calm_scrWrite _ _)
    | with_reducible refine Calm.trans ?_ (calm_complete _ _ _)
    | with_reducible refine Calm.ite ?_ ?_
    | dsimp only
    | split

theorem calm_topk (s : State) (c : Nat) (o : Op) (inp : Nat) (k : Nat) (n : Nat) (slot : Nat) (res : Bool) (out : Nat) : Calm s (State.topk s c o inp k n slot res out) := by
  unfold State.topk
  split
  · refine Calm.ite Calm.rfl ?_
    exact ((calm_modCore ..).trans ((calm_scrWrite ..).trans (calm_modCore ..))).trans (calm_complete ..)
  · exact calm_dropOp ..

theorem calm_topkPart (s : State) (c : Nat) (o : Op) (p : Nat) : Calm s (State.topkPart s c o p) := by
  unfold State.topkPart
  repeat' first
    | with_reducible exact Calm.rfl
    | with_reducible refine Calm.trans ?_ (calm_setOp _ _ _)
    | with_reducible refine Calm.trans ?_ (calm_scrWrite _ _)
    | with_reducible refine Calm.trans ?_ (calm_modCore _ _ _)
    | with_reducible refine Calm.ite ?_ ?_
    | dsimp only
    | split

theorem calm_cbldAgain (s : State) (c : Nat) (o : Op) (slot : Nat) (book : List Nat) (src u : Nat) :
    Calm s (State.cbldAgain s c o slot book src u) := by
  unfold State.cbldAgain
  extract_lets mine
  refine Calm.ite Calm.rfl ?_
  split
  · exact Calm.rfl
  · exact calm_setOp ..

theorem calm_cbldDone (s : State) (c : Nat) (o : Op) (slot : Nat) (book : List Nat) : Calm s (State.cbldDone s c o slot book) := by
  unfold State.cbldDone
  repeat' first
    | with_reducible exact Calm.rfl
    | with_reducible refine Calm.trans ?_ (calm_complete _ _ _)
    | with_reducible refine Calm.trans ?_ (calm_modCore _ _ _)
    | with_reducible refine Calm.ite ?_ ?_

theorem calm_cbldPart (s : State) (c : Nat) (o : Op) (slot : Nat) (book : List Nat) (i : Nat) : Calm s (State.cbldPart s c o slot book i) := by
  unfold State.cbldPart
  repeat' first
    | with_reducible exact Calm.rfl
    | with_reducible refine Calm.trans ?_ (calm_setOp _ _ _)
    | with_reducible refine Calm.trans ?_ (calm_modCore _ _ _)
    | with_reducible refine Calm.ite ?_ ?_
    | split

theorem calm_gather (s : State) (e : Env) (sp : Bool) (fly : Bool) (cs : List (Nat × Nat)) : Calm s (State.gather s e sp fly cs).1 := by
  unfold State.gather
  repeat' first
    | with_reducible exact Calm.rfl
    | with_reducible refine Calm.trans ?_ (calm_loadBytes _ _ _ _ _)
    | with_reducible refine Calm.fold1 ?_ (fun s a => ?_)
    | dsimp only
    | split

theorem calm_gatherPlaces (s : State) (e : Env) (sp : Bool) (cs : List (Nat × Nat)) : Calm s (State.gatherPlaces s e sp cs).1 := by
  unfold State.gatherPlaces
  repeat' first
    | with_reducible exact Calm.rfl
    | with_reducible refine Calm.trans ?_ (calm_translate _ _ _ _ _)
    | with_reducible refine Calm.fold1 ?_ (fun s a => ?_)
    | with_reducible refine Calm.fst (by assumption) ?_
    | dsimp only
    | split

theorem calm_modEnvGroup (s : State) (e : Env) (f : Group → Group) : Calm s (State.modEnvGroup s e f) := by
  unfold State.modEnvGroup
  repeat' first
    | with_reducible exact Calm.rfl
    | with_reducible refine Calm.trans ?_ (calm_modGroup _ _ _ _)

theorem calm_startTile (s : State) (e : Env) (h : Hdr) (us : List TileUse) (w : What) : Calm s (State.startTile s e h us w) := by
  unfold State.startTile
  repeat' first
    | with_reducible exact Calm.rfl
    | with_reducible refine Calm.trans ?_ (calm_start _ _ _)

theorem calm_tileAgain (s : State) (e : Env) (x : TileSrc) (bytes : List Byte) (k : Nat) : Calm s (State.tileAgain s e x bytes k).1 := by
  unfold State.tileAgain
  repeat' first
    | with_reducible exact Calm.rfl
    | with_reducible refine Calm.trans ?_ (calm_gather _ _ _ _ _)
    | dsimp only
    | split

theorem calm_tileTrapped (s : State) (e : Env) (h : Hdr) (write : Bool) (cs : List (Nat × Nat)) : Calm s (State.tileTrapped s e h write cs) := by
  unfold State.tileTrapped
  repeat' first
    | with_reducible exact Calm.rfl
    | with_reducible refine Calm.trans ?_ (calm_memCounted _ _)
    | with_reducible refine Calm.trans ?_ (calm_sampleRecord _ _ _ _ _)
    | dsimp only
    | split

theorem calm_tileLane (s : State) (e : Env) (h : Hdr) (write : Bool) (cs : List (Nat × Nat)) (bad : Option (Nat × Outcome1)) (go : State → State) (hgo : ∀ x0, Calm x0 (go x0)) : Calm s (State.tileLane s e h write cs bad go) := by
  unfold State.tileLane
  repeat' first
    | with_reducible exact Calm.rfl
    | with_reducible refine Calm.trans ?_ (hgo _)
    | with_reducible refine Calm.trans ?_ (calm_tileTrapped _ _ _ _ _)
    | with_reducible refine Calm.trans ?_ (calm_oneLane _ _ _ _ _ _ _ ?_)
    | dsimp only
    | split
    | intro x

theorem calm_tileWatch (s : State) (e : Env) (write : Bool) (sp : Bool) (cs : List (Nat × Nat)) (go : State → State) (hgo : ∀ x0, Calm x0 (go x0)) : Calm s (State.tileWatch s e write sp cs go) := by
  unfold State.tileWatch
  repeat' first
    | with_reducible exact Calm.rfl
    | with_reducible refine Calm.trans ?_ (hgo _)
    | with_reducible refine Calm.trans ?_ (calm_watchAccess _ _ _ _ _)
    | with_reducible refine Calm.fst (by assumption) ?_
    | split

theorem calm_trapHere (s : State) (e : Env) (cause : Nat) : Calm s (State.trapHere s e cause) := by
  unfold State.trapHere
  repeat' first
    | with_reducible exact Calm.rfl
    | with_reducible refine Calm.trans ?_ (calm_trapAt _ _ _ _ _ _)

theorem calm_fillcDone (s : State) (c : Nat) (o : Op) (k : Nat) (place : Nat) : Calm s (State.fillcDone s c o k place) := by
  unfold State.fillcDone
  repeat' first
    | with_reducible exact Calm.rfl
    | with_reducible refine Calm.trans ?_ (calm_complete _ _ _)
    | with_reducible refine Calm.trans ?_ (calm_decideBlock _ _ _)
    | split

theorem calm_commitDue (s : State) (c : Nat) : Calm s (State.commitDue s c) := by
  unfold State.commitDue
  repeat' first
    | with_reducible exact Calm.rfl
    | with_reducible refine Calm.trans ?_ (calm_complete _ _ _)
    | with_reducible refine Calm.trans ?_ (calm_helpDone _ _ _ _ _)
    | with_reducible refine Calm.fold ?_ (fun s a => ?_)
    | dsimp only
    | split

theorem calm_evictL2 (s : State) (cluster : Nat) (asid : Nat) (line : Nat) : Calm s (State.evictL2 s cluster asid line) := by
  unfold State.evictL2
  repeat' first
    | with_reducible exact Calm.rfl
    | with_reducible refine Calm.trans ?_ (calm_modCluster _ _ _)
    | simp only [↓Calm.upd_iff]

theorem calm_evictLlc (s : State) (key : Nat) : Calm s (State.evictLlc s key) := by
  unfold State.evictLlc
  repeat' first
    | with_reducible exact Calm.rfl
    | with_reducible refine Calm.trans ?_ (calm_fireLine _ _)
    | simp only [↓Calm.upd_iff]

theorem calm_evictTlb (s : State) (cluster : Nat) (asid : Nat) (va : Nat) : Calm s (State.evictTlb s cluster asid va) := by
  unfold State.evictTlb
  repeat' first
    | with_reducible exact Calm.rfl
    | with_reducible refine Calm.trans ?_ (calm_modCluster _ _ _)

theorem calm_untagged (s : State) (c : Nat) : Calm s (State.untagged s c) := by
  unfold State.untagged
  repeat' first
    | with_reducible exact Calm.rfl
    | with_reducible refine Calm.trans ?_ (calm_modCore _ _ _)

theorem calm_uncounted (t : State) (s : State) (c : Nat) : Calm t (State.uncounted t s c) := by
  unfold State.uncounted
  repeat' first
    | with_reducible exact Calm.rfl
    | with_reducible refine Calm.trans ?_ (calm_modCore _ _ _)
    | simp only [↓Calm.upd_iff]

theorem calm_lateRead (s : State) (c : Nat) (o : Op) (m : MemOp) (pick : Nat → Bool) : Calm s (State.lateRead s c o m pick).1 := by
  unfold State.lateRead
  repeat' first
    | with_reducible exact Calm.rfl
    | with_reducible refine Calm.trans ?_ (calm_MemOp_runLanes _ _ _ _ _)
    | with_reducible refine Calm.trans ?_ (calm_untagged _ _)
    | with_reducible refine Calm.trans ?_ (calm_uncounted _ _ _)
    | dsimp only
    | split

theorem calm_movePart (s : State) (c : Nat) (id : Nat) (k : Nat) : Calm s (State.movePart s c id k) := by
  unfold State.movePart
  split
  · exact Calm.rfl
  · extract_lets take
    have ht : Calm s take := calm_setOp ..
    clear_value take
    split
    · exact calm_copyPart ..
    · exact Calm.ite ht Calm.rfl
    · exact Calm.ite ht Calm.rfl
    · exact Calm.ite (calm_topkPart ..) Calm.rfl
    · exact Calm.ite (calm_topkPart ..) Calm.rfl
    · exact Calm.ite (calm_cbldPart ..) (calm_cbldAgain ..)
    · split
      · exact Calm.rfl
      · next e _ =>
        split
        · next x _ _ _ hh =>
          exact ((((calm_untagged ..).trans (Calm.fst hh (calm_tileAgain ..))).trans (calm_uncounted ..)).trans (calm_setOp ..))
        · exact Calm.rfl
    · exact (calm_lateRead ..).trans (calm_setOp ..)
    · exact Calm.rfl

theorem calm_peerUsed (s : State) (c : Nat) (uid : Nat) (back : Bool) : Calm s (State.peerUsed s c uid back) := by
  unfold State.peerUsed
  repeat' first
    | with_reducible exact Calm.rfl
    | with_reducible refine Calm.trans ?_ (calm_drainGroup _ _ _)
    | with_reducible refine Calm.ite ?_ ?_

theorem calm_replay (s : State) (c : Nat) (ctx : Nat) (n : Nat) (r : Replay) : Calm s (State.replay s c ctx n r) := by
  unfold State.replay
  repeat' first
    | with_reducible exact Calm.rfl
    | with_reducible refine Calm.trans ?_ (calm_watchMem _ _ _)
    | with_reducible refine Calm.trans ?_ (calm_modCore _ _ _)
    | with_reducible refine Calm.trans ?_ (calm_modSlot _ _ _ _ _)
    | with_reducible refine Calm.trans ?_ (calm_peerUsed _ _ _ _)
    | with_reducible refine Calm.trans ?_ (calm_runMem _ _ _ _ _ _ _ _)
    | with_reducible refine Calm.fst (by assumption) ?_
    | simp only [↓Calm.upd_iff]
    | split

theorem calm_readHeader (s : State) (w : EngWho) (va : Nat) : Calm s (State.readHeader s w va).1 := by
  unfold State.readHeader
  repeat' first
    | with_reducible exact Calm.rfl
    | with_reducible refine Calm.trans ?_ (calm_engRead _ _ _ _)
    | with_reducible refine Calm.fst (by assumption) ?_
    | split

theorem calm_ageLaunches (s : State) : Calm s (State.ageLaunches s) := by
  unfold State.ageLaunches
  repeat' first
    | with_reducible exact Calm.rfl
    | simp only [↓Calm.upd_iff]

theorem calm_cleanCore (s : State) (l : Nat) (c : Nat) : Calm s (State.cleanCore s l c) := by
  unfold State.cleanCore
  repeat' first
    | with_reducible exact Calm.rfl
    | with_reducible refine Calm.trans ?_ (calm_modLaunch _ _ _)
    | with_reducible refine Calm.trans ?_ (calm_modCore _ _ _)
    | with_reducible refine Calm.ite ?_ ?_
    | split

theorem calm_clearRows (s : State) (c : Nat) (top : Nat) : Calm s (State.clearRows s c top).1 := by
  unfold State.clearRows
  repeat' first
    | with_reducible exact Calm.rfl
    | with_reducible refine Calm.trans ?_ (calm_tryBack _ _ _ _)
    | with_reducible refine Calm.trans ?_ (calm_modCore _ _ _)
    | with_reducible refine Calm.fold ?_ (fun s a => ?_)
    | dsimp only
    | split

theorem calm_clearAll (s : State) (gran : Nat) (bases : List (Nat × List Nat)) : Calm s (State.clearAll s gran bases).1 := by
  unfold State.clearAll
  repeat' first
    | with_reducible exact Calm.rfl
    | with_reducible refine Calm.trans ?_ (calm_clearRows _ _ _)
    | with_reducible refine Calm.fold1 ?_ (fun s a => ?_)

theorem calm_dieTick (s : State) : Calm s (State.dieTick s) := by
  unfold State.dieTick
  repeat' first
    | with_reducible exact Calm.rfl
    | with_reducible refine Calm.trans ?_ (calm_passPrio _ _)
    | with_reducible refine Calm.trans ?_ (calm_ageLaunches _)
    | with_reducible refine Calm.fold ?_ (fun s a => ?_)

theorem calm_fillPlan (s : State) (t : Tracker) : Calm s (State.fillPlan s t).1 := by
  unfold State.fillPlan
  repeat' first
    | with_reducible exact Calm.rfl
    | with_reducible refine Calm.trans ?_ (calm_engRead _ _ _ _)
    | with_reducible refine Calm.trans ?_ (calm_readHeader _ _ _)
    | with_reducible refine Calm.fst (by assumption) ?_
    | dsimp only
    | split

theorem calm_readyRows (s : State) (c : Nat) (asid : Nat) (base : Nat) (gran : Nat) : Calm s (State.readyRows s c asid base gran) := by
  unfold State.readyRows
  repeat' first
    | with_reducible exact Calm.rfl
    | with_reducible refine Calm.trans ?_ (calm_modCore _ _ _)
    | simp only [↓Calm.upd_iff]

theorem calm_putWg (s : State) (l : Nat) (linear : Nat) (c : Nat) (b : Nat) (wgidx : Nat) (cx : Nat) (cy : Nat) (rope : Nat) (rounds : Tbl Nat) (mk : Launch → Nat → Nat → Option Group) : Calm s (State.putWg s l linear c b wgidx cx cy rope rounds mk).1 := by
  unfold State.putWg
  split
  · exact Calm.rfl
  · extract_lets k s1 id gs w s2 s3
    have h1 : Calm s s1 := (calm_cleanCore ..).trans (calm_readyRows ..)
    clear_value s1
    have h2 : Calm s s2 := by simp only [s2, ↓Calm.upd_iff]; exact h1
    clear_value s2
    have h3 : Calm s s3 := Calm.fold h2 fun x a => by simp only [↓Calm.upd_iff]; exact Calm.rfl
    clear_value s3
    exact h3.trans ((calm_modLaunch ..).trans (calm_fixThrottle ..))

theorem calm_putOne (s : State) (l : Nat) (linear : Nat) (c : Nat) (b : Nat) (rounds : Tbl Nat) (mk : Launch → Nat → Nat → Option Group) : Calm s (State.putOne s l linear c b rounds mk).1 := by
  unfold State.putOne
  repeat' first
    | with_reducible exact Calm.rfl
    | with_reducible refine Calm.trans ?_ (calm_putWg _ _ _ _ _ _ _ _ _ _ _)
    | simp only [↓Calm.upd_iff]

theorem calm_putRope (s : State) (l : Nat) (first : Nat) (cl : Nat) (px : Nat) (py : Nat) (bases : List (Nat × List Nat)) (rounds : Nat → Tbl Nat) (mk : Nat → Launch → Nat → Nat → Option Group) : Calm s (State.putRope s l first cl px py bases rounds mk) := by
  unfold State.putRope
  repeat' first
    | with_reducible exact Calm.rfl
    | with_reducible refine Calm.trans ?_ (calm_putWg _ _ _ _ _ _ _ _ _ _ _)
    | with_reducible refine Calm.trans ?_ (calm_modRope _ _ _)
    | with_reducible refine Calm.fold ?_ (fun s a => ?_)
    | simp only [↓Calm.upd_iff]
    | split

theorem calm_wgEnded (s : State) (w : Wg) : Calm s (State.wgEnded s w) := by
  unfold State.wgEnded
  repeat' first
    | with_reducible exact Calm.rfl
    | with_reducible refine Calm.trans ?_ (calm_modLaunch _ _ _)
    | with_reducible refine Calm.trans ?_ (calm_endLaunch _ _ _ _ _ _ _ _ _)
    | with_reducible refine Calm.ite ?_ ?_
    | dsimp only
    | split

theorem calm_reap (s : State) : Calm s (State.reap s) := by
  unfold State.reap
  repeat' first
    | with_reducible exact Calm.rfl
    | with_reducible refine Calm.trans ?_ (calm_removeWgs _ _)
    | with_reducible refine Calm.trans ?_ (calm_wgEnded _ _)
    | with_reducible refine Calm.ite ?_ ?_
    | with_reducible refine Calm.fold ?_ (fun s a => ?_)
    | simp only [↓Calm.upd_iff]

theorem calm_settlePreempt (s : State) : Calm s (State.settlePreempt s) := by
  unfold State.settlePreempt
  repeat' first
    | with_reducible exact Calm.rfl
    | with_reducible refine Calm.ite ?_ ?_
    | simp only [↓Calm.upd_iff]

theorem calm_tookTurn (s : State) (l : Nat) : Calm s (State.tookTurn s l) := by
  unfold State.tookTurn
  repeat' first
    | with_reducible exact Calm.rfl
    | with_reducible refine Calm.trans ?_ (calm_modLaunch _ _ _)
    | simp only [↓Calm.upd_iff]

theorem calm_answer (s : State) (seq : Nat) (bad : Bool) : Calm s (State.answer s seq bad) := by
  unfold State.answer
  repeat' first
    | with_reducible exact Calm.rfl
    | simp only [↓Calm.upd_iff]

theorem calm_dropStore (s : State) : Calm s (State.dropStore s) := by
  unfold State.dropStore
  repeat' first
    | with_reducible exact Calm.rfl
    | with_reducible refine Calm.trans ?_ (calm_leaveGen _ _ _)
    | with_reducible refine Calm.trans ?_ (calm_vsClear _)
    | with_reducible refine Calm.ite ?_ ?_
    | with_reducible refine Calm.fold ?_ (fun s a => ?_)

theorem calm_failChan (s : State) (ch : Nat) : Calm s (State.failChan s ch) := by
  unfold State.failChan
  extract_lets k
  split
  · exact calm_stopChan ..
  · exact Calm.ite (calm_chanFatal ..) (calm_stopChan ..)

theorem calm_raiseMsi (s : State) (vec : Nat) : Calm s (State.raiseMsi s vec) := by
  unfold State.raiseMsi
  repeat' first
    | with_reducible exact Calm.rfl
    | with_reducible refine Calm.trans ?_ (calm_send _ _ _ _)
    | with_reducible refine Calm.ite ?_ ?_
    | simp only [↓Calm.upd_iff]
    | split

theorem calm_resend (s : State) (e : Env) (va : DWord) : Calm s (State.resend s e va).1 := by
  unfold State.resend
  repeat' first
    | with_reducible exact Calm.rfl
    | with_reducible refine Calm.trans ?_ (calm_translate _ _ _ _ _)
    | with_reducible refine Calm.trans ?_ (calm_homeMiss _ _)
    | with_reducible refine Calm.fst (by assumption) ?_
    | split

theorem calm_resendSlot (s : State) (c : Nat) (ctx : Nat) (n : Nat) (p : Nat → Bool) : Calm s (State.resendSlot s c ctx n p) := by
  unfold State.resendSlot
  repeat' first
    | with_reducible exact Calm.rfl
    | with_reducible refine Calm.trans ?_ (calm_resend _ _ _)
    | with_reducible refine Calm.trans ?_ (calm_modSlot _ _ _ _ _)
    | with_reducible refine Calm.fold1 ?_ (fun s a => ?_)
    | dsimp only
    | split

theorem calm_ringIdle (s : State) (k : Nat) : Calm s (State.ringIdle s k) := by
  unfold State.ringIdle
  repeat' first
    | with_reducible exact Calm.rfl
    | with_reducible refine Calm.trans ?_ (calm_count _ _ _ _)
    | with_reducible refine Calm.ite ?_ ?_
    | simp only [↓Calm.upd_iff]

theorem calm_ringOff (s : State) (k : Nat) : Calm s (State.ringOff s k) := by
  unfold State.ringOff
  repeat' first
    | with_reducible exact Calm.rfl
    | with_reducible refine Calm.trans ?_ (calm_ringIdle _ _)
    | simp only [↓Calm.upd_iff]

theorem calm_devHold (s : State) (c : Nat) (asid : Nat) (va : Nat) (write : Bool) (key : Nat × Bool) : Calm s (State.devHold s c asid va write key) := by
  unfold State.devHold
  repeat' first
    | with_reducible exact Calm.rfl
    | with_reducible refine Calm.trans ?_ (calm_raiseFault _ _ _ _ _ _ _ _)
    | simp only [↓Calm.upd_iff]

theorem calm_devWrite (s : State) (c : Nat) (asid : Nat) (va : Nat) (bs : List Byte) (key : Nat × Bool) (go : State → State) (bad : State → State) (hgo : ∀ x0, Calm x0 (go x0)) (hbad : ∀ x0, Calm x0 (bad x0)) : Calm s (State.devWrite s c asid va bs key go bad) := by
  unfold State.devWrite
  repeat' first
    | with_reducible exact Calm.rfl
    | with_reducible refine Calm.trans ?_ (hgo _)
    | with_reducible refine Calm.trans ?_ (hbad _)
    | with_reducible refine Calm.trans ?_ (calm_engPlaces _ _ _ _)
    | with_reducible refine Calm.trans ?_ (calm_engWrite _ _ _ _)
    | with_reducible refine Calm.trans ?_ (calm_devHold _ _ _ _ _ _)
    | with_reducible refine Calm.fst (by assumption) ?_
    | dsimp only
    | split

theorem calm_afterResume (s : State) (x : Launch) (linear : Nat) (bs : List Byte) : Calm s (State.afterResume s x linear bs) := by
  unfold State.afterResume
  split
  · exact Calm.rfl
  · next id w _ =>
    extract_lets s1
    have h1 : Calm s s1 := Calm.ite Calm.rfl (calm_modCore ..)
    clear_value s1
    refine Calm.fold h1 fun s g => ?_
    extract_lets c ctx s2
    have h2 : Calm s s2 := by
      simp only [s2]
      split
      · exact Calm.rfl
      · refine Calm.fold Calm.rfl fun s b => ?_
        split
        · exact Calm.rfl
        · exact (calm_start ..).trans (Calm.upd_iff.2 Calm.rfl)
    exact h2.trans (calm_acquire ..)

theorem calm_askLaunch (s : State) (l : Nat) : Calm s (State.askLaunch s l) := by
  unfold State.askLaunch
  repeat' first
    | with_reducible exact Calm.rfl
    | with_reducible refine Calm.trans ?_ (calm_modLaunch _ _ _)
    | simp only [↓Calm.upd_iff]

theorem calm_discardWg (s : State) (wg : Nat) : Calm s (State.discardWg s wg) := by
  unfold State.discardWg
  repeat' first
    | with_reducible exact Calm.rfl
    | with_reducible refine Calm.trans ?_ (calm_drainGroup _ _ _)
    | with_reducible refine Calm.trans ?_ (calm_modCore _ _ _)
    | with_reducible refine Calm.trans ?_ (calm_removeGroup _ _ _)
    | with_reducible refine Calm.trans ?_ (calm_modLaunch _ _ _)
    | with_reducible refine Calm.fold ?_ (fun s a => ?_)
    | dsimp only
    | split

theorem calm_takeOff (s : State) (wg : Nat) : Calm s (State.takeOff s wg) := by
  unfold State.takeOff
  repeat' first
    | with_reducible exact Calm.rfl
    | with_reducible refine Calm.trans ?_ (calm_removeGroup _ _ _)
    | with_reducible refine Calm.trans ?_ (calm_removeWgs _ _)
    | with_reducible refine Calm.trans ?_ (calm_modLaunch _ _ _)
    | with_reducible refine Calm.fold ?_ (fun s a => ?_)
    | dsimp only
    | split

theorem calm_finishWg (s : State) (wg : Nat) : Calm s (State.finishWg s wg) := by
  unfold State.finishWg
  repeat' first
    | with_reducible exact Calm.rfl
    | with_reducible refine Calm.trans ?_ (calm_devWrite _ _ _ _ _ _ _ _ ?_ ?_)
    | with_reducible refine Calm.trans ?_ (calm_takeOff _ _)
    | with_reducible refine Calm.trans ?_ (calm_endLaunch _ _ _ _ _ _ _ _ _)
    | split
    | intro x

theorem calm_readBlocks (x : Launch) (core : Nat) (l : List Nat) (s : State) (acc : List (Nat × List Byte)) :
    Calm s (State.readBlocks x core l s acc).1 := by
  induction l generalizing s acc with
  | nil => exact Calm.rfl
  | cons i r ih =>
    unfold State.readBlocks
    split
    · have hr := calm_engRead s { procWho x.asid with core := core } (x.blockAt i) x.hdr.blockSize
      split
      · next hh => rw [hh] at hr; exact hr.trans (ih ..)
      · next hh => rw [hh] at hr; exact hr
      · next hh => rw [hh] at hr; exact hr
      · next hh => rw [hh] at hr; exact hr
    · exact ih ..

theorem calm_startSave (s : State) (c : Nat) (ctx : Nat) (n : Nat) (save : BitVec 32) (area : Nat) : Calm s (State.startSave s c ctx n save area) := by
  unfold State.startSave
  repeat' first
    | with_reducible exact Calm.rfl
    | with_reducible refine Calm.trans ?_ (calm_modGroup _ _ _ _)

theorem calm_stopOrArrive (s : State) (c : Nat) (ctx : Nat) (n : Nat) : Calm s (State.stopOrArrive s c ctx n) := by
  unfold State.stopOrArrive
  repeat' first
    | with_reducible exact Calm.rfl
    | with_reducible refine Calm.trans ?_ (calm_arrive _ _ _ _)
    | with_reducible refine Calm.trans ?_ (calm_fetchWord _ _ _)
    | with_reducible refine Calm.trans ?_ (calm_modSlot _ _ _ _ _)
    | with_reducible refine Calm.ite ?_ ?_
    | with_reducible refine Calm.fst (by assumption) ?_
    | dsimp only
    | split

theorem calm_tryDiscard (s : State) (wg : Nat) : Calm s (State.tryDiscard s wg).1 := by
  unfold State.tryDiscard
  repeat' first
    | with_reducible exact Calm.rfl
    | with_reducible refine Calm.trans ?_ (calm_reap _)
    | with_reducible refine Calm.trans ?_ (calm_discardWg _ _)
    | with_reducible refine Calm.fold ?_ (fun s a => ?_)
    | dsimp only
    | split

theorem calm_tryFinish (s : State) (wg : Nat) : Calm s (State.tryFinish s wg) := by
  unfold State.tryFinish
  repeat' first
    | with_reducible exact Calm.rfl
    | with_reducible refine Calm.trans ?_ (calm_drainGroup _ _ _)
    | with_reducible refine Calm.trans ?_ (calm_finishWg _ _)
    | with_reducible refine Calm.trans ?_ (calm_settlePreempt _)
    | with_reducible refine Calm.trans ?_ (calm_modRope _ _ _)
    | with_reducible refine Calm.ite ?_ ?_
    | with_reducible refine Calm.fold ?_ (fun s a => ?_)
    | simp only [↓Calm.upd_iff]
    | split

theorem calm_resumeRope (s : State) (r : Nat) : Calm s (State.resumeRope s r) := by
  unfold State.resumeRope
  repeat' first
    | with_reducible exact Calm.rfl
    | with_reducible refine Calm.trans ?_ (calm_modRope _ _ _)
    | with_reducible refine Calm.ite ?_ ?_
    | simp only [↓Calm.upd_iff]
    | split

theorem calm_declare (s : State) (p : Packet) (status : Nat) : Calm s (State.declare s p status) := by
  unfold State.declare
  repeat' first
    | with_reducible exact Calm.rfl
    | with_reducible refine Calm.ite ?_ ?_
    | simp only [↓Calm.upd_iff]

theorem calm_setQ (s : State) (q : Nat) (x : QState) : Calm s (State.setQ s q x) := by
  unfold State.setQ
  repeat' first
    | with_reducible exact Calm.rfl
    | simp only [↓Calm.upd_iff]

theorem calm_unblock (s : State) (q : Nat) : Calm s (State.unblock s q) := by
  unfold State.unblock
  repeat' first
    | with_reducible exact Calm.rfl
    | with_reducible refine Calm.trans ?_ (calm_setQ _ _ _)
    | with_reducible refine Calm.ite ?_ ?_

theorem calm_setPacket (s : State) (p : Packet) : Calm s (State.setPacket s p) := by
  unfold State.setPacket
  repeat' first
    | with_reducible exact Calm.rfl
    | with_reducible refine Calm.trans ?_ (calm_unblock _ _)
    | simp only [↓Calm.upd_iff]

theorem calm_procWord (s : State) (asid : Nat) (va : Nat) (n : Nat) (f : Nat → Nat) : Calm s (State.procWord s asid va n f).1 := by
  unfold State.procWord
  repeat' first
    | with_reducible exact Calm.rfl
    | with_reducible refine Calm.trans ?_ (calm_engPlaces _ _ _ _)
    | with_reducible refine Calm.trans ?_ (calm_engWrite _ _ _ _)
    | with_reducible refine Calm.trans ?_ (calm_raiseFault _ _ _ _ _ _ _ _)
    | with_reducible refine Calm.fst (by assumption) ?_
    | dsimp only
    | split

theorem calm_finishPacket (s : State) (p : Packet) : Calm s (State.finishPacket s p) := by
  unfold State.finishPacket
  repeat' first
    | with_reducible exact Calm.rfl
    | with_reducible refine Calm.trans ?_ (calm_declare _ _ _)
    | with_reducible refine Calm.trans ?_ (calm_setPacket _ _)
    | with_reducible refine Calm.trans ?_ (calm_procWord _ _ _ _ _)
    | with_reducible refine Calm.ite ?_ ?_
    | with_reducible refine Calm.fst (by assumption) ?_
    | dsimp only
    | split

theorem calm_endPacket (s : State) (p : Packet) (status : Nat) : Calm s (State.endPacket s p status) := by
  unfold State.endPacket
  repeat' first
    | with_reducible exact Calm.rfl
    | with_reducible refine Calm.trans ?_ (calm_finishPacket _ _)
    | with_reducible refine Calm.trans ?_ (calm_setPacket _ _)

theorem calm_abortLater (s : State) (q i : Nat) : Calm s (s.abortLater q i) := by
  unfold State.abortLater
  exact Calm.fold Calm.rfl (fun s a => calm_endPacket s a 11)

theorem calm_holdNext (s : State) (q : Nat) (asid : Nat) (va : Nat) : Calm s (State.holdNext s q asid va) := by
  unfold State.holdNext
  repeat' first
    | with_reducible exact Calm.rfl
    | with_reducible refine Calm.trans ?_ (calm_raiseFault _ _ _ _ _ _ _ _)
    | with_reducible refine Calm.trans ?_ (calm_setQ _ _ _)

theorem calm_drainQueue (k : Nat) (s : State) (q : Nat) : Calm s (State.drainQueue k s q) := by
  induction k generalizing s with
  | zero => exact Calm.rfl
  | succ k ih =>
    unfold State.drainQueue
    extract_lets d x
    split
    · exact Calm.rfl
    · have hr := calm_engRead s (procWho d.asid) (d.slotVa x.next).toNat 64
      split
      · next s2 bs hh =>
        rw [hh] at hr
        extract_lets p src src2 s3
        have h3 : Calm s s3 := Calm.upd_iff.2 (Calm.trans (t := s2) hr (calm_setQ ..))
        exact (h3.trans (calm_finishPacket ..)).trans (ih _)
      · next hh => rw [hh] at hr; exact Calm.ite (hr.trans (calm_setQ ..)) (hr.trans (calm_holdNext ..))
      · next hh => rw [hh] at hr; exact hr

theorem calm_tellDone (s : State) (q : Nat) : Calm s (State.tellDone s q) := by
  unfold State.tellDone
  repeat' first
    | with_reducible exact Calm.rfl
    | with_reducible refine Calm.trans ?_ (calm_setQ _ _ _)
    | with_reducible refine Calm.trans ?_ (calm_procWord _ _ _ _ _)
    | with_reducible refine Calm.ite ?_ ?_
    | with_reducible refine Calm.fst (by assumption) ?_
    | dsimp only
    | split

theorem calm_abortQueue (s : State) (p : Packet) (status : Nat) : Calm s (State.abortQueue s p status) := by
  unfold State.abortQueue
  extract_lets d ctl s1 s2 s3
  have h3 : Calm s s3 :=
    (((calm_cohWrite ..).trans (calm_endPacket ..)).trans (calm_abortLater ..)).trans (calm_drainQueue ..)
  exact Calm.ite h3 ((h3.trans (calm_setQ ..)).trans (calm_tellDone ..))

theorem calm_bindLanes (s : State) : Calm s (State.bindLanes s) := by
  unfold State.bindLanes
  repeat' first
    | with_reducible exact Calm.rfl
    | with_reducible refine Calm.trans ?_ (calm_setQ _ _ _)
    | with_reducible refine Calm.fold ?_ (fun s a => ?_)

theorem calm_release1 (s : State) (q : Nat) (work : Bool) : Calm s (State.release1 s q work) := by
  unfold State.release1
  repeat' first
    | with_reducible exact Calm.rfl
    | with_reducible refine Calm.trans ?_ (calm_setQ _ _ _)
    | simp only [↓Calm.upd_iff]

theorem calm_holdQueue (s : State) (q : Nat) (asid : Nat) (va : Nat) : Calm s (State.holdQueue s q asid va) := by
  unfold State.holdQueue
  repeat' first
    | with_reducible exact Calm.rfl
    | with_reducible refine Calm.trans ?_ (calm_raiseFault _ _ _ _ _ _ _ _)
    | with_reducible refine Calm.trans ?_ (calm_release1 _ _ _)
    | with_reducible refine Calm.trans ?_ (calm_setQ _ _ _)

theorem calm_invalLine (s : State) (l : GenLine) : Calm s (State.invalLine s l) := by
  unfold State.invalLine
  repeat' first
    | with_reducible exact Calm.rfl
    | with_reducible refine Calm.trans ?_ (calm_leaveGen _ _ _)
    | with_reducible refine Calm.trans ?_ (calm_fireLine _ _)
    | with_reducible refine Calm.trans ?_ (calm_dropGen _ _ _)
    | with_reducible refine Calm.ite ?_ ?_

theorem calm_publish (s : State) (q : Nat) : Calm s (State.publish s q) := by
  unfold State.publish
  repeat' first
    | with_reducible exact Calm.rfl
    | with_reducible refine Calm.trans ?_ (calm_setQ _ _ _)
    | with_reducible refine Calm.trans ?_ (calm_cohWrite _ _ _)
    | with_reducible refine Calm.ite ?_ ?_
    | simp only [↓Calm.upd_iff]

theorem calm_publishAll (s : State) : Calm s (State.publishAll s) := by
  unfold State.publishAll
  repeat' first
    | with_reducible exact Calm.rfl
    | with_reducible refine Calm.trans ?_ (calm_publish _ _)
    | with_reducible refine Calm.fold ?_ (fun s a => ?_)

theorem calm_readBlock (s : State) (q : Nat) (asid : Nat) (va : Nat) (n : Nat) (go : State → Option Nat → State × Option Taken) (hgo : ∀ x0 x1, Calm x0 (go x0 x1).1) : Calm s (State.readBlock s q asid va n go).1 := by
  unfold State.readBlock
  repeat' first
    | with_reducible exact Calm.rfl
    | with_reducible refine Calm.trans ?_ (hgo _ _)
    | with_reducible refine Calm.trans ?_ (calm_engRead _ _ _ _)
    | with_reducible refine Calm.trans ?_ (calm_release1 _ _ _)
    | with_reducible refine Calm.fst (by assumption) ?_
    | split

theorem calm_readSigs (l : List Nat) (s : State) (asid : Nat) (acc : List Nat) : Calm s (State.readSigs l s asid acc).1 := by
  induction l generalizing s acc with
  | nil => exact Calm.rfl
  | cons a r ih =>
    unfold State.readSigs
    have hr := calm_engRead s (procWho asid) a 8
    split
    · next hh => rw [hh] at hr; exact hr.trans (ih ..)
    · next hh => rw [hh] at hr; exact hr
    · next hh => rw [hh] at hr; exact hr
    · next hh => rw [hh] at hr; exact hr

theorem calm_rereadFlags (s : State) (asid : Nat) : Calm s (State.rereadFlags s asid) := by
  unfold State.rereadFlags
  repeat' first
    | with_reducible exact Calm.rfl
    | with_reducible refine Calm.ite ?_ ?_
    | simp only [↓Calm.upd_iff]

theorem calm_serveBarrier (s : State) (p : Packet) : Calm s (State.serveBarrier s p) := by
  unfold State.serveBarrier
  repeat' first
    | with_reducible exact Calm.rfl
    | with_reducible refine Calm.trans ?_ (calm_abortQueue _ _ _)
    | with_reducible refine Calm.trans ?_ (calm_readSigs _ _ _ _)
    | with_reducible refine Calm.trans ?_ (calm_endPacket _ _ _)
    | with_reducible refine Calm.trans ?_ (calm_raiseFault _ _ _ _ _ _ _ _)
    | with_reducible refine Calm.trans ?_ (calm_setPacket _ _)
    | with_reducible refine Calm.ite ?_ ?_
    | with_reducible refine Calm.fst (by assumption) ?_
    | dsimp only
    | split

theorem calm_serveCopy (s : State) (p : Packet) (any : Option Nat) : Calm s (State.serveCopy s p any) := by
  unfold State.serveCopy
  repeat' first
    | with_reducible exact Calm.rfl
    | with_reducible refine Calm.trans ?_ (calm_setPacket _ _)
    | with_reducible refine Calm.trans ?_ (calm_setChan _ _ _)
    | with_reducible refine Calm.ite ?_ ?_
    | dsimp only
    | split

theorem calm_serveDispatch (s : State) (p : Packet) (prio : Nat) (args : Nat) (h : Option KHdr) : Calm s (State.serveDispatch s p prio args h) := by
  unfold State.serveDispatch
  repeat' first
    | with_reducible exact Calm.rfl
    | with_reducible refine Calm.trans ?_ (calm_endPacket _ _ _)
    | with_reducible refine Calm.trans ?_ (calm_setPacket _ _)
    | with_reducible refine Calm.ite ?_ ?_
    | simp only [↓Calm.upd_iff]
    | split

theorem calm_vsDropRange (s : State) (asid : Nat) (lo : Nat) (hi : Nat) : Calm s (State.vsDropRange s asid lo hi) := by
  unfold State.vsDropRange
  split
  · exact Calm.rfl
  · exact Calm.ofMem (Memory.wf_writes _)

theorem calm_serveInval (s : State) (p : Packet) : Calm s (State.serveInval s p) := by
  unfold State.serveInval
  repeat' first
    | with_reducible exact Calm.rfl
    | with_reducible refine Calm.trans ?_ (calm_invalLine _ _)
    | with_reducible refine Calm.trans ?_ (calm_vsDropRange _ _ _ _)
    | with_reducible refine Calm.trans ?_ (calm_endPacket _ _ _)
    | with_reducible refine Calm.trans ?_ (calm_rereadFlags _ _)
    | with_reducible refine Calm.trans ?_ (calm_homePref _ _)
    | with_reducible refine Calm.ite ?_ ?_
    | with_reducible refine Calm.fold ?_ (fun s a => ?_)
    | simp only [↓Calm.upd_iff]
    | split

theorem calm_serveSignal (s : State) (p : Packet) : Calm s (State.serveSignal s p) := by
  unfold State.serveSignal
  repeat' first
    | with_reducible exact Calm.rfl
    | with_reducible refine Calm.trans ?_ (calm_endPacket _ _ _)
    | with_reducible refine Calm.trans ?_ (calm_procWord _ _ _ _ _)
    | with_reducible refine Calm.trans ?_ (calm_setPacket _ _)
    | with_reducible refine Calm.ite ?_ ?_
    | with_reducible refine Calm.fst (by assumption) ?_
    | split

theorem calm_startInval (s : State) (p : Packet) : Calm s (State.startInval s p) := by
  unfold State.startInval
  repeat' first
    | with_reducible exact Calm.rfl
    | with_reducible refine Calm.trans ?_ (calm_serveInval _ _)
    | simp only [↓Calm.upd_iff]

theorem calm_servePacket (s : State) (p : Packet) (bad : Bool) (prio : Nat) (args : Nat) (h : Option KHdr) : Calm s (State.servePacket s p bad prio args h) := by
  unfold State.servePacket
  repeat' first
    | with_reducible exact Calm.rfl
    | with_reducible refine Calm.trans ?_ (calm_endPacket _ _ _)
    | with_reducible refine Calm.trans ?_ (calm_serveDispatch _ _ _ _ _)
    | with_reducible refine Calm.trans ?_ (calm_count _ _ _ _)
    | with_reducible refine Calm.trans ?_ (calm_serveBarrier _ _)
    | with_reducible refine Calm.trans ?_ (calm_serveSignal _ _)
    | with_reducible refine Calm.trans ?_ (calm_serveCopy _ _ _)
    | with_reducible refine Calm.trans ?_ (calm_startInval _ _)
    | with_reducible refine Calm.trans ?_ (calm_ringPut _ _ _)
    | with_reducible refine Calm.ite ?_ ?_
    | dsimp only
    | split

theorem calm_syncQueue (s : State) (q : Nat) : Calm s (State.syncQueue s q) := by
  unfold State.syncQueue
  repeat' first
    | with_reducible exact Calm.rfl
    | with_reducible refine Calm.trans ?_ (calm_setQ _ _ _)
    | with_reducible refine Calm.ite ?_ ?_

theorem calm_took (s : State) (q : Nat) (t : Taken) : Calm s (State.took s q t).1 := by
  unfold State.took
  repeat' first
    | with_reducible exact Calm.rfl
    | with_reducible refine Calm.trans ?_ (calm_setQ _ _ _)
    | with_reducible refine Calm.ite ?_ ?_
    | simp only [↓Calm.upd_iff]

theorem calm_takeNext (s : State) (q : Nat) : Calm s (State.takeNext s q).1 := by
  unfold State.takeNext
  extract_lets d s1 x va later
  have h1 : Calm s s1 := (calm_syncQueue ..).trans (calm_tellDone ..)
  have hl : ∀ s, Calm s (later s).1 := fun s => (calm_setQ ..).trans (calm_release1 ..)
  clear_value s1 x later
  refine Calm.ite1 (calm_release1 ..) (h1.trans ?_)
  clear h1
  refine Calm.ite1 ((calm_drainQueue ..).trans (calm_release1 ..)) ?_
  · · refine Calm.ite1 (calm_release1 ..) ?_
      · refine Calm.ite1 (calm_release1 ..) ?_
        · have hr := calm_engRead s1 (procWho d.asid) (d.slotVa x.next).toNat 64
          split
          · next hh =>
            rw [hh] at hr
            split
            · exact (hr.trans (calm_setQ ..)).trans (calm_release1 ..)
            · exact hr.trans (calm_holdQueue ..)
          · next hh => rw [hh] at hr; exact hr.trans (calm_release1 ..)
          · next hh => rw [hh] at hr; exact hr.trans (calm_release1 ..)
          · next s2 bs hh =>
            rw [hh] at hr
            refine hr.trans ?_
            clear hr hh
            extract_lets p earlier start rest
            clear_value p earlier
            have hs : ∀ s p b a h, Calm s (start s p b a h).1 := by
              intro s p b a h
              simp only [start]
              split
              · exact hl s
              · exact calm_took ..
            clear_value start
            have hrest : ∀ s p, Calm s (rest s p).1 := by
              intro s p
              simp only [rest]
              split
              · exact hl s
              · refine calm_readBlock _ _ _ _ _ _ fun s a => ?_
                split
                · exact hs ..
                · split
                  · exact hs ..
                  · have hk := calm_readHeader s (procWho d.asid) (p.f 0x10 8)
                    split
                    · next hh => rw [hh] at hk; exact hk.trans (hs ..)
                    · next hh => rw [hh] at hk; exact hk.trans (hs ..)
                    · next hh =>
                      rw [hh] at hk
                      split
                      · exact hk.trans (hs ..)
                      · exact hk.trans (calm_holdQueue ..)
                    · next hh => rw [hh] at hk; exact hk.trans (calm_release1 ..)
            clear_value rest
            split
            · exact calm_release1 ..
            · split
              · exact hl _
              · split
                · exact hs ..
                · split
                  · exact hrest ..
                  · refine calm_readBlock _ _ _ _ _ _ fun s a => ?_
                    split
                    · exact hs ..
                    · exact hrest ..

theorem calm_setPort (s : State) (p : Nat) (x : Port) : Calm s (State.setPort s p x) := by
  unfold State.setPort
  repeat' first
    | with_reducible exact Calm.rfl
    | with_reducible refine Calm.trans ?_ (calm_raiseMsi _ _)
    | with_reducible refine Calm.ite ?_ ?_
    | simp only [↓Calm.upd_iff]

theorem calm_trainPorts (s : State) : Calm s (State.trainPorts s) := by
  unfold State.trainPorts
  repeat' first
    | with_reducible exact Calm.rfl
    | with_reducible refine Calm.trans ?_ (calm_setPort _ _ _)
    | with_reducible refine Calm.ite ?_ ?_
    | with_reducible refine Calm.fold ?_ (fun s a => ?_)

theorem calm_configure (s : State) (w : DWord) : Calm s (State.configure s w) := by
  unfold State.configure
  repeat' first
    | with_reducible exact Calm.rfl
    | with_reducible refine Calm.trans ?_ (calm_trainPorts _)
    | simp only [↓Calm.upd_iff]

theorem calm_peerOut (s : State) (id : Nat) (p : Pend) : Calm s (State.peerOut s id p) := by
  unfold State.peerOut
  repeat' first
    | with_reducible exact Calm.rfl
    | simp only [↓Calm.upd_iff]

theorem calm_peerTold (s : State) (r : PeerReq) (bad : Bool) : Calm s (State.peerTold s r bad) := by
  unfold State.peerTold
  repeat' first
    | with_reducible exact Calm.rfl
    | with_reducible refine Calm.trans ?_ (calm_peerOut _ _ _)
    | with_reducible refine Calm.ite ?_ ?_
    | simp only [↓Calm.upd_iff]

theorem calm_failReq (s : State) (r : PeerReq) : Calm s (State.failReq s r) := by
  unfold State.failReq
  repeat' first
    | with_reducible exact Calm.rfl
    | with_reducible refine Calm.trans ?_ (calm_peerTold _ _ _)
    | with_reducible refine Calm.trans ?_ (calm_setPort _ _ _)
    | with_reducible refine Calm.ite ?_ ?_
    | simp only [↓Calm.upd_iff]

theorem calm_reroute (s : State) (r : PeerReq) : Calm s (State.reroute s r) := by
  unfold State.reroute
  repeat' first
    | with_reducible exact Calm.rfl
    | with_reducible refine Calm.trans ?_ (calm_send _ _ _ _)
    | with_reducible refine Calm.trans ?_ (calm_failReq _ _)
    | simp only [↓Calm.upd_iff]
    | split

theorem calm_settleFabric (s : State) : Calm s (State.settleFabric s) := by
  unfold State.settleFabric
  repeat' first
    | with_reducible exact Calm.rfl
    | with_reducible refine Calm.trans ?_ (calm_trainPorts _)
    | with_reducible refine Calm.ite ?_ ?_
    | simp only [↓Calm.upd_iff]
    | split

theorem calm_failPort (s : State) (p : Nat) (before : State) : Calm s (State.failPort s p before) := by
  unfold State.failPort
  repeat' first
    | with_reducible exact Calm.rfl
    | with_reducible refine Calm.trans ?_ (calm_failReq _ _)
    | with_reducible refine Calm.trans ?_ (calm_setPort _ _ _)
    | with_reducible refine Calm.trans ?_ (calm_reroute _ _)
    | with_reducible refine Calm.trans ?_ (calm_settleFabric _)
    | with_reducible refine Calm.fold ?_ (fun s a => ?_)
    | simp only [↓Calm.upd_iff]

theorem calm_failVal (s : State) (v : Validation) : Calm s (State.failVal s v) := by
  unfold State.failVal
  repeat' first
    | with_reducible exact Calm.rfl
    | with_reducible refine Calm.trans ?_ (calm_setPort _ _ _)
    | simp only [↓Calm.upd_iff]
    | split

theorem calm_flitSend (s : State) (p : Nat) (n : Nat) : Calm s (State.flitSend s p n) := by
  unfold State.flitSend
  repeat' first
    | with_reducible exact Calm.rfl
    | with_reducible refine Calm.trans ?_ (calm_setPort _ _ _)
    | with_reducible refine Calm.ite ?_ ?_
    | dsimp only
    | split

theorem calm_forwardOn (s : State) (p : Nat) (n : Nat) : Calm s (State.forwardOn s p n) := by
  unfold State.forwardOn
  repeat' first
    | with_reducible exact Calm.rfl
    | with_reducible refine Calm.trans ?_ (calm_send _ _ _ _)
    | with_reducible refine Calm.trans ?_ (calm_setPort _ _ _)
    | with_reducible refine Calm.ite ?_ ?_

theorem calm_reply (s : State) (dev : Nat) (addr : Nat) (m : PMsg) : Calm s (State.reply s dev addr m) := by
  unfold State.reply
  repeat' first
    | with_reducible exact Calm.rfl
    | with_reducible refine Calm.trans ?_ (calm_send _ _ _ _)
    | split

theorem calm_inboundRead (s : State) (src : Nat) (addr : Nat) : Calm s (State.inboundRead s src addr) := by
  unfold State.inboundRead
  repeat' first
    | with_reducible exact Calm.rfl
    | with_reducible refine Calm.trans ?_ (calm_reply _ _ _ _)
    | with_reducible refine Calm.trans ?_ (calm_reachHome _ _)
    | with_reducible refine Calm.ite ?_ ?_

theorem calm_inboundValidate (s : State) (src : Nat) (addr : Nat) (ver : Nat) : Calm s (State.inboundValidate s src addr ver) := by
  unfold State.inboundValidate
  repeat' first
    | with_reducible exact Calm.rfl
    | with_reducible refine Calm.trans ?_ (calm_reply _ _ _ _)
    | with_reducible refine Calm.trans ?_ (calm_count _ _ _ _)

theorem calm_retrain (s : State) (p : Nat) : Calm s (State.retrain s p) := by
  unfold State.retrain
  repeat' first
    | with_reducible exact Calm.rfl
    | with_reducible refine Calm.trans ?_ (calm_setPort _ _ _)
    | with_reducible refine Calm.ite ?_ ?_

theorem calm_nak (s : State) (p : Nat) (seq : Nat) : Calm s (State.nak s p seq) := by
  unfold State.nak
  repeat' first
    | with_reducible exact Calm.rfl
    | with_reducible refine Calm.trans ?_ (calm_setPort _ _ _)
    | with_reducible refine Calm.trans ?_ (calm_retrain _ _)
    | with_reducible refine Calm.ite ?_ ?_

theorem calm_peerAck (s : State) (id : Nat) : Calm s (State.peerAck s id) := by
  unfold State.peerAck
  repeat' first
    | with_reducible exact Calm.rfl
    | with_reducible refine Calm.trans ?_ (calm_settleFabric _)
    | with_reducible refine Calm.trans ?_ (calm_peerTold _ _ _)
    | with_reducible refine Calm.trans ?_ (calm_land _ _)
    | split

theorem calm_peerFails (s : State) (id : Nat) : Calm s (State.peerFails s id) := by
  unfold State.peerFails
  repeat' first
    | with_reducible exact Calm.rfl
    | with_reducible refine Calm.trans ?_ (calm_settleFabric _)
    | with_reducible refine Calm.trans ?_ (calm_failReq _ _)
    | with_reducible refine Calm.trans ?_ (calm_failVal _ _)
    | split

theorem calm_peerWrites (s : State) (addr : Nat) (bytes : List Byte) : Calm s (State.peerWrites s addr bytes) := by
  unfold State.peerWrites
  repeat' first
    | with_reducible exact Calm.rfl
    | with_reducible refine Calm.trans ?_ (calm_cohWrite _ _ _)
    | with_reducible refine Calm.ite ?_ ?_

theorem calm_hostError (s : State) (line : Nat) (on : Bool) : Calm s (State.hostError s line on) := by
  unfold State.hostError
  repeat' first
    | with_reducible exact Calm.rfl
    | simp only [↓Calm.upd_iff]

theorem calm_msixWrite (s : State) (i : Nat) (w : Word) : Calm s (State.msixWrite s i w) := by
  unfold State.msixWrite
  repeat' first
    | with_reducible exact Calm.rfl
    | with_reducible refine Calm.trans ?_ (calm_raiseMsi _ _)
    | with_reducible refine Calm.ite ?_ ?_
    | simp only [↓Calm.upd_iff]

theorem calm_arriveTurn (s : State) (c : Nat) (ctx : Nat) (n : Nat) : Calm s (State.arriveTurn s c ctx n) := by
  unfold State.arriveTurn
  repeat' first
    | with_reducible exact Calm.rfl
    | with_reducible refine Calm.trans ?_ (calm_endCheck _ _ _)
    | with_reducible refine Calm.trans ?_ (calm_settleSlot _ _ _ _ _)
    | with_reducible refine Calm.trans ?_ (calm_stopOrArrive _ _ _ _)
    | with_reducible refine Calm.ite ?_ ?_
    | split

theorem calm_enterClause (s : State) (c : Nat) (ctx : Nat) (n : Nat) : Calm s (State.enterClause s c ctx n) := by
  unfold State.enterClause
  repeat' first
    | with_reducible exact Calm.rfl
    | with_reducible refine Calm.trans ?_ (calm_modSlot _ _ _ _ _)

theorem calm_fetchRest (s : State) (e : Env) (n : Nat) (w0 : Word) : Calm s (State.fetchRest s e n w0).1 := by
  unfold State.fetchRest
  repeat' first
    | with_reducible exact Calm.rfl
    | with_reducible refine Calm.trans ?_ (calm_fetchWord _ _ _)
    | with_reducible refine Calm.fst (by assumption) ?_
    | dsimp only
    | split

theorem calm_fetchInstr (s : State) (e : Env) : Calm s (State.fetchInstr s e).1 := by
  unfold State.fetchInstr
  repeat' first
    | with_reducible exact Calm.rfl
    | with_reducible refine Calm.trans ?_ (calm_fetchWord _ _ _)
    | with_reducible refine Calm.trans ?_ (calm_fetchRest _ _ _ _)
    | with_reducible refine Calm.fst (by assumption) ?_
    | split

theorem calm_nextInstr (s : State) (c : Nat) (ctx : Nat) (n : Nat) : Calm s (State.nextInstr s c ctx n).1 := by
  unfold State.nextInstr
  repeat' first
    | with_reducible exact Calm.rfl
    | with_reducible refine Calm.trans ?_ (calm_enterClause _ _ _ _)
    | with_reducible refine Calm.trans ?_ (calm_fetchInstr _ _)
    | with_reducible refine Calm.trans ?_ (calm_forget _ _ _)
    | with_reducible refine Calm.trans ?_ (calm_trapAt _ _ _ _ _ _)
    | with_reducible refine Calm.trans ?_ (calm_faultWait _ _ _ _ _)
    | with_reducible refine Calm.trans ?_ (calm_hold _ _ _)
    | with_reducible refine Calm.ite ?_ ?_
    | with_reducible refine Calm.fst (by assumption) ?_
    | simp only [↓Calm.upd_iff]
    | split

theorem calm_arriveGate (s : State) (e : Env) (h : Hdr) (us : List TileUse) (op : Option (MatOp × Int)) :
    Calm s (State.arriveGate s e h us op) := by
  unfold State.arriveGate
  extract_lets src o a s1 s2
  have h0 : Calm s { s with serial := s.serial + 1 } := Calm.upd_iff.2 Calm.rfl
  have h1 : Calm s s1 := (h0.trans (calm_start ..)).trans (calm_count ..)
  have h2 : Calm s s2 := (h1.trans (calm_modCore ..)).trans (calm_hold ..)
  exact h2.trans (calm_decideGates ..)

theorem calm_roundDone (s : State) (c : Nat) (r : Nat) : Calm s (State.roundDone s c r) := by
  unfold State.roundDone
  repeat' first
    | with_reducible exact Calm.rfl
    | with_reducible refine Calm.trans ?_ (calm_complete _ _ _)
    | with_reducible refine Calm.trans ?_ (calm_modGroup _ _ _ _)
    | with_reducible refine Calm.trans ?_ (calm_count _ _ _ _)
    | with_reducible refine Calm.trans ?_ (calm_dropOp _ _ _)
    | with_reducible refine Calm.fold ?_ (fun s a => ?_)
    | dsimp only
    | split

theorem calm_lowerKept (s : State) (c : Nat) (ctx : Nat) (n : Nat) : Calm s (State.lowerKept s c ctx n) := by
  unfold State.lowerKept
  repeat' first
    | with_reducible exact Calm.rfl
    | with_reducible refine Calm.trans ?_ (calm_modGroup _ _ _ _)
    | dsimp only
    | split

theorem calm_tickCore (s : State) (c : Nat) : Calm s (State.tickCore s c) := by
  unfold State.tickCore
  repeat' first
    | with_reducible exact Calm.rfl
    | with_reducible refine Calm.trans ?_ (calm_modCore _ _ _)
    | with_reducible refine Calm.ite ?_ ?_
    | simp only [↓Calm.upd_iff]

theorem calm_afterEvent (i : Instr) (t : State) : Calm t (State.afterEvent i t) := by
  unfold State.afterEvent
  repeat' first
    | with_reducible exact Calm.rfl
    | with_reducible refine Calm.trans ?_ (calm_tickCore _ _)
    | with_reducible refine Calm.trans ?_ (calm_settleFabric _)
    | split

theorem calm_raiseKept (s : State) (c : Nat) (ctx : Nat) (n : Nat) (f : Option Nat) : Calm s (State.raiseKept s c ctx n f) := by
  unfold State.raiseKept
  repeat' first
    | with_reducible exact Calm.rfl
    | with_reducible refine Calm.trans ?_ (calm_modGroup _ _ _ _)
    | with_reducible refine Calm.ite ?_ ?_
    | dsimp only
    | split

theorem calm_stopDiscard (s : State) (c : Nat) (ctx : Nat) (n : Nat) : Calm s (State.stopDiscard s c ctx n) := by
  unfold State.stopDiscard
  repeat' first
    | with_reducible exact Calm.rfl
    | with_reducible refine Calm.trans ?_ (calm_settlePreempt _)
    | with_reducible refine Calm.trans ?_ (calm_tryDiscard _ _)
    | with_reducible refine Calm.ite ?_ ?_
    | dsimp only
    | split

theorem calm_usePort (t : State) (s : State) (c : Nat) (part : Nat) (ctx : Nat) (n : Nat) (i : Instr) : Calm t (State.usePort t s c part ctx n i) := by
  unfold State.usePort
  repeat' first
    | with_reducible exact Calm.rfl
    | with_reducible refine Calm.trans ?_ (calm_count _ _ _ _)
    | with_reducible refine Calm.trans ?_ (calm_modCore _ _ _)
    | with_reducible refine Calm.ite ?_ ?_
    | dsimp only
    | split

theorem calm_afterIssue (s : State) (c : Nat) (part : Nat) (ctx : Nat) (n : Nat) (i : Instr) (t : State) : Calm t (State.afterIssue s c part ctx n i t) := by
  unfold State.afterIssue
  extract_lets u
  have h1 : Calm t u := calm_raiseKept ..
  exact (Calm.ite h1 (h1.trans (calm_usePort ..))).trans (calm_stopDiscard ..)

end Sys2Proof.Machine
end

