-- ==== Sys2Proof/Laws/Goes.lean ====
section
/-! SUPPORT. Each meaning goes on: it ends in a state reached calmly from the one before it (Laws/Calm.lean). -/

namespace Sys2Proof.Machine

/-- A meaning ends in a state reached calmly, or in the fault that state is stuck with. -/
def Onward (s : State) (o : Out) : Prop := ∃ u, Calm s u ∧ (o = finish u ∨ o = .next u)

/-- So, or for want of a stream. -/
def Goes (s : State) (o : Out) : Prop := (s.env? = none ∧ o = .fault .noStream) ∨ Onward s o

theorem Onward.next {s u : State} (h : Calm s u) : Onward s (.next u) := ⟨u, h, .inr rfl⟩
theorem Onward.finish {s u : State} (h : Calm s u) : Onward s (finish u) := ⟨u, h, .inl rfl⟩
theorem Onward.ite {s : State} {a b : Out} {c : Prop} [Decidable c] (ha : Onward s a) (hb : Onward s b) :
    Onward s (if c then a else b) := by
  split <;> assumption

theorem Goes.next {s u : State} (h : Calm s u) : Goes s (.next u) := .inr ⟨u, h, .inr rfl⟩
theorem Goes.finish {s u : State} (h : Calm s u) : Goes s (finish u) := .inr ⟨u, h, .inl rfl⟩
theorem Goes.ite {s : State} {a b : Out} {c : Prop} [Decidable c] (ha : Goes s a) (hb : Goes s b) : Goes s (if c then a else b) := by
  split <;> assumption

theorem goes_issue (h : Hdr) (chk : Env → Chk) (eff : Env → State → State) (s : State) (he : ∀ e x, Calm x (eff e x)) :
    Goes s (issue h chk eff s) := by
  unfold issue
  split
  · next hh => exact .inl ⟨hh, rfl⟩
  · dsimp only
    split
    · exact .next (calm_trapAt ..)
    · exact Goes.ite (.next (calm_hold ..)) (Goes.ite (.next (calm_trapAt ..)) (.finish (he ..)))

theorem Calm.unstick {s t : State} (h : Calm s t) : Calm s { t with stuck := s.stuck } :=
  ⟨h.mem, h.regs, fun _ k => k⟩

theorem calm_preRead_some {n : Nat} {s u t : State} {e : Env} {xs ys : List Nat} {m : DWord} {b : Bool}
    (h : State.preRead n s e xs m ys b = (u, some t)) : Calm s t := by
  induction n generalizing s xs ys b with
  | zero => exact nomatch congrArg Prod.snd h
  | succ k ih =>
    have told : ∀ {s u : State} {x : State} {b : Bool}, (u, if b then none else some x) = (u, some t) → Calm s x → Calm s t := by
      intro s u x b hh hx
      cases b
      · obtain ⟨-, rfl⟩ := by simpa using hh
        exact hx
      · simp at hh
    unfold State.preRead at h
    split at h
    · simp at h
    · next o rest =>
      split at h
      · simp at h
      · split at h
        · exact ih h
        · extract_lets top a bad at h
          have hr := calm_takeEntry s e top
          have hb : ∀ s acc r, Calm s (bad s acc r) := by
            intro s acc r
            simp only [bad]
            split
            · exact calm_trapAt ..
            · exact Calm.ite (calm_trapAt ..) (calm_faultWait ..)
            · exact calm_hold ..
          split at h
          · next hh =>
            rw [hh] at hr
            obtain ⟨rfl, -⟩ := Prod.mk.inj h
            exact told h (hr.trans (hb ..))
          · next s2 p en hh =>
            rw [hh] at hr
            extract_lets t at h
            have hf := calm_fetchWord s2 e t
            split at h
            · next hh3 =>
              rw [hh3] at hf
              obtain ⟨rfl, -⟩ := Prod.mk.inj h
              exact told h ((hr.trans hf).trans (Calm.ite (calm_trapAt ..) (calm_faultWait ..)))
            · next hh3 =>
              rw [hh3] at hf
              obtain ⟨rfl, -⟩ := Prod.mk.inj h
              exact told h ((hr.trans hf).trans (calm_trapAt ..))
            · next hh3 =>
              rw [hh3] at hf
              obtain ⟨rfl, -⟩ := Prod.mk.inj h
              exact told h ((hr.trans hf).trans (calm_hold ..))
            · next hh3 =>
              rw [hh3] at hf
              split at h
              · obtain ⟨-, rfl⟩ := by simpa using h
                exact (hr.trans hf).trans (calm_resumeTrap ..)
              · exact (hr.trans hf).trans (ih h)

theorem calm_preRead_none {n : Nat} {s u : State} {e : Env} {xs ys : List Nat} {m : DWord} {b : Bool}
    (h : State.preRead n s e xs m ys b = (u, none)) : Calm s u := by
  have := calm_preRead n s e xs m ys b
  rwa [h] at this

theorem calm_preRead_snd {n : Nat} {s t : State} {e : Env} {xs ys : List Nat} {m : DWord} {b : Bool}
    (h : (State.preRead n s e xs m ys b).2 = some t) : Calm s t :=
  calm_preRead_some (u := (State.preRead n s e xs m ys b).1) (by rw [← h])

theorem goes_alu (h : Hdr) (lat : Nat) (f : AluForm) (g : LaneIn → LaneOut) (a0 : State) : Goes a0 (alu h lat f g a0) := by
  unfold alu
  repeat' first
    | with_reducible exact Calm.rfl
    | with_reducible refine goes_issue _ _ _ _ ?_
    | with_reducible refine Calm.trans ?_ (calm_runAlu _ _ _ _ _ _ _)
    | intro x

theorem goes_aluAll (h : Hdr) (lat : Nat) (f : AluForm) (g : Word → List LaneIn → List (Nat × LaneOut)) (a0 : State) : Goes a0 (aluAll h lat f g a0) := by
  unfold aluAll
  repeat' first
    | with_reducible exact Calm.rfl
    | with_reducible refine goes_issue _ _ _ _ ?_
    | with_reducible refine Calm.trans ?_ (calm_runAlu _ _ _ _ _ _ _)
    | intro x

theorem goes_aluGrp (h : Hdr) (lat : Nat) (f : AluForm) (g : Word → Nat → List LaneIn → List (Nat × LaneOut)) (a0 : State) : Goes a0 (aluGrp h lat f g a0) := by
  unfold aluGrp
  repeat' first
    | with_reducible exact Calm.rfl
    | with_reducible refine goes_issue _ _ _ _ ?_
    | with_reducible refine Calm.trans ?_ (calm_runAlu _ _ _ _ _ _ _)
    | intro x

theorem goes_fpu (h : Hdr) (f : AluForm) (g : LaneIn → LaneOut) (a0 : State) : Goes a0 (fpu h f g a0) := by
  unfold fpu
  repeat' first
    | with_reducible exact Calm.rfl
    | with_reducible refine goes_issue _ _ _ _ ?_
    | with_reducible refine Calm.trans ?_ (calm_runAlu _ _ _ _ _ _ _)
    | intro x

theorem goes_sfu (h : Hdr) (f : AluForm) (g : LaneIn → LaneOut) (a0 : State) : Goes a0 (sfu h f g a0) := by
  unfold sfu
  repeat' first
    | with_reducible exact Calm.rfl
    | with_reducible refine goes_issue _ _ _ _ ?_
    | with_reducible refine Calm.trans ?_ (calm_runAlu _ _ _ _ _ _ _)
    | intro x

theorem goes_execThrottleWindowEnd (core : Nat) (s : State) : Onward s (execThrottleWindowEnd core s) := by
  unfold execThrottleWindowEnd
  repeat' first
    | with_reducible exact Calm.rfl
    | with_reducible refine Calm.trans ?_ (calm_endWindow _ _)
    | with_reducible refine Onward.next ?_
    | with_reducible refine Onward.ite ?_ ?_

theorem goes_execBkpt (h : Hdr) (code : BitVec 8) (s : State) : Goes s (execBkpt h code s) := by
  unfold execBkpt
  repeat' first
    | with_reducible exact Calm.rfl
    | with_reducible refine goes_issue _ _ _ _ ?_
    | with_reducible refine Calm.trans ?_ (calm_retire _ _ _)
    | with_reducible refine Calm.trans ?_ (calm_stopRope _ _ _ _)
    | with_reducible refine Calm.trans ?_ (calm_trapAt _ _ _ _ _ _)
    | with_reducible refine Calm.ite ?_ ?_
    | dsimp only
    | split
    | intro x

theorem goes_execBra (h : Hdr) (any : Bool) (off : BitVec 27) (s : State) : Goes s (execBra h any off s) := by
  unfold execBra
  repeat' first
    | with_reducible exact Calm.rfl
    | exact fun x => Calm.rfl (s := x)
    | with_reducible refine goes_issue _ _ _ _ ?_
    | with_reducible refine Calm.trans ?_ (calm_branch _ _ _ _ _ _ ?_)
    | dsimp only
    | split
    | intro x

theorem goes_execBraDivergent (h : Hdr) (off : BitVec 27) (rc : BitVec 23) (s : State) : Goes s (execBraDivergent h off rc s) := by
  unfold execBraDivergent
  refine goes_issue _ _ _ _ fun e s => ?_
  extract_lets t
  clear_value t
  exact Calm.ite (calm_retire ..) (Calm.ite (calm_jump _ _ _ _ _ _ fun _ => Calm.rfl) (calm_diverge ..))

theorem goes_execBrau (h : Hdr) (off : BitVec 27) (s : State) : Goes s (execBrau h off s) := by
  unfold execBrau
  repeat' first
    | with_reducible exact Calm.rfl
    | exact fun x => Calm.rfl (s := x)
    | with_reducible refine goes_issue _ _ _ _ ?_
    | with_reducible refine Calm.trans ?_ (calm_branch _ _ _ _ _ _ ?_)
    | intro x

theorem goes_execBrx (h : Hdr) (a : Opd) (s : State) : Goes s (execBrx h a s) := by
  unfold execBrx
  repeat' first
    | with_reducible exact Calm.rfl
    | exact fun x => Calm.rfl (s := x)
    | with_reducible refine goes_issue _ _ _ _ ?_
    | with_reducible refine Calm.trans ?_ (calm_jump _ _ _ _ _ _ ?_)
    | with_reducible refine Calm.trans ?_ (calm_retire _ _ _)
    | split
    | intro x

theorem goes_execCall (h : Hdr) (l : BitVec 6) (off : BitVec 27) (s : State) : Goes s (execCall h l off s) := by
  unfold execCall
  repeat' first
    | with_reducible exact Calm.rfl
    | with_reducible refine goes_issue _ _ _ _ ?_
    | with_reducible refine Calm.trans ?_ (calm_jump _ _ _ _ _ _ ?_)
    | with_reducible refine Calm.trans ?_ (calm_sWrite _ _ _ _)
    | with_reducible refine Calm.trans ?_ (calm_retire _ _ _)
    | split
    | intro x

theorem goes_execCallx (h : Hdr) (l : BitVec 6) (a : Opd) (s : State) : Goes s (execCallx h l a s) := by
  unfold execCallx
  repeat' first
    | with_reducible exact Calm.rfl
    | with_reducible refine goes_issue _ _ _ _ ?_
    | with_reducible refine Calm.trans ?_ (calm_jump _ _ _ _ _ _ ?_)
    | with_reducible refine Calm.trans ?_ (calm_sWrite _ _ _ _)
    | with_reducible refine Calm.trans ?_ (calm_retire _ _ _)
    | split
    | intro x

theorem goes_execExit (h : Hdr) (s : State) : Goes s (execExit h s) := by
  unfold execExit
  refine goes_issue _ _ _ _ fun e s => ?_
  extract_lets m
  clear_value m
  split
  · exact calm_retire ..
  · split
    · next hh => exact calm_preRead_some hh
    · next hh => exact ((calm_preRead_none hh).trans (calm_retire ..)).trans ((calm_modGroup ..).trans (calm_afterLeave ..))

theorem goes_execJoin (h : Hdr) (s : State) : Goes s (execJoin h s) := by
  unfold execJoin
  repeat' first
    | with_reducible exact Calm.rfl
    | exact fun x => Calm.rfl (s := x)
    | with_reducible refine goes_issue _ _ _ _ ?_
    | with_reducible refine Calm.trans ?_ (calm_jump _ _ _ _ _ _ ?_)
    | with_reducible refine Calm.trans ?_ (calm_retire _ _ _)
    | split
    | intro x

theorem goes_execLoop (h : Hdr) (c : BitVec 6) (off : BitVec 27) (s : State) : Goes s (execLoop h c off s) := by
  unfold execLoop
  repeat' first
    | with_reducible exact Calm.rfl
    | with_reducible refine goes_issue _ _ _ _ ?_
    | with_reducible refine Calm.trans ?_ (calm_branch _ _ _ _ _ _ ?_)
    | with_reducible refine Calm.trans ?_ (calm_sWrite _ _ _ _)
    | with_reducible refine Calm.trans ?_ (calm_retire _ _ _)
    | dsimp only
    | split
    | intro x

theorem goes_execMark (h : Hdr) (code : BitVec 8) (s : State) : Goes s (execMark h code s) := by
  unfold execMark
  repeat' first
    | with_reducible exact Calm.rfl
    | with_reducible refine goes_issue _ _ _ _ ?_
    | with_reducible refine Calm.trans ?_ (calm_mark _ _ _ _ _)
    | intro x

theorem goes_execMarkImm (h : Hdr) (code : BitVec 8) (imm : Word) (s : State) : Goes s (execMarkImm h code imm s) := by
  unfold execMarkImm
  repeat' first
    | with_reducible exact Calm.rfl
    | with_reducible refine goes_issue _ _ _ _ ?_
    | with_reducible refine Calm.trans ?_ (calm_mark _ _ _ _ _)
    | intro x

theorem goes_execNop (h : Hdr) (s : State) : Goes s (execNop h s) := by
  unfold execNop
  repeat' first
    | with_reducible exact Calm.rfl
    | with_reducible refine goes_issue _ _ _ _ ?_
    | with_reducible refine Calm.trans ?_ (calm_retire _ _ _)
    | intro x

theorem goes_execQhelp (h : Hdr) (o : DA) (s : State) : Goes s (execQhelp h o s) := by
  unfold execQhelp
  extract_lets f
  clear_value f
  exact goes_issue _ _ _ _ fun e s => Calm.ite (calm_retire ..) (calm_turnHelp _ _ _ _ _ _ _ fun t ht => calm_preRead_snd ht)

theorem goes_execRet (h : Hdr) (l : BitVec 6) (s : State) : Goes s (execRet h l s) := by
  unfold execRet
  repeat' first
    | with_reducible exact Calm.rfl
    | exact fun x => Calm.rfl (s := x)
    | with_reducible refine goes_issue _ _ _ _ ?_
    | with_reducible refine Calm.trans ?_ (calm_jump _ _ _ _ _ _ ?_)
    | with_reducible refine Calm.trans ?_ (calm_retire _ _ _)
    | split
    | intro x

theorem goes_execTrap (h : Hdr) (code : BitVec 8) (s : State) : Goes s (execTrap h code s) := by
  unfold execTrap
  repeat' first
    | with_reducible exact Calm.rfl
    | with_reducible refine goes_issue _ _ _ _ ?_
    | with_reducible refine Calm.trans ?_ (calm_trapAt _ _ _ _ _ _)
    | with_reducible refine Calm.trans ?_ (calm_retire _ _ _)
    | split
    | intro x

theorem goes_execTret (h : Hdr) (s : State) : Goes s (execTret h s) := by
  unfold execTret
  repeat' first
    | with_reducible exact Calm.rfl
    | with_reducible refine goes_issue _ _ _ _ ?_
    | with_reducible refine Calm.trans ?_ (calm_tret _ _ _ _)
    | with_reducible refine Calm.trans ?_ (calm_retire _ _ _)
    | split
    | intro x

theorem goes_execTretSkip (h : Hdr) (s : State) : Goes s (execTretSkip h s) := by
  unfold execTretSkip
  repeat' first
    | with_reducible exact Calm.rfl
    | with_reducible refine goes_issue _ _ _ _ ?_
    | with_reducible refine Calm.trans ?_ (calm_tret _ _ _ _)
    | with_reducible refine Calm.trans ?_ (calm_retire _ _ _)
    | split
    | intro x

theorem goes_execYield (h : Hdr) (s : State) : Goes s (execYield h s) := by
  unfold execYield
  repeat' first
    | with_reducible exact Calm.rfl
    | with_reducible refine goes_issue _ _ _ _ ?_
    | with_reducible refine Calm.trans ?_ (calm_retire _ _ _)
    | with_reducible refine Calm.trans ?_ (calm_hold _ _ _)
    | with_reducible refine Calm.ite ?_ ?_
    | dsimp only
    | intro x

theorem goes_execBfeS (h o s) : Goes s (execBfeS h o s) := by unfold execBfeS; exact goes_alu ..

theorem goes_execBfeU (h o s) : Goes s (execBfeU h o s) := by unfold execBfeU; exact goes_alu ..

theorem goes_execBfi (h o s) : Goes s (execBfi h o s) := by unfold execBfi; exact goes_alu ..

theorem goes_execBrev (h o s) : Goes s (execBrev h o s) := by unfold execBrev; exact goes_alu ..

theorem goes_execClz (h o s) : Goes s (execClz h o s) := by unfold execClz; exact goes_alu ..

theorem goes_execCtz (h o s) : Goes s (execCtz h o s) := by unfold execCtz; exact goes_alu ..

theorem goes_execIabs (h sat o s) : Goes s (execIabs h sat o s) := by unfold execIabs; exact goes_alu ..

theorem goes_execIadd (h m o s) : Goes s (execIadd h m o s) := by unfold execIadd; exact goes_alu ..

theorem goes_execIadd3 (h m o s) : Goes s (execIadd3 h m o s) := by unfold execIadd3; exact goes_alu ..

theorem goes_execIadd64 (h o s) : Goes s (execIadd64 h o s) := by unfold execIadd64; exact goes_alu ..

theorem goes_execIaddH2 (h m o s) : Goes s (execIaddH2 h m o s) := by unfold execIaddH2; exact goes_alu ..

theorem goes_execIaddc (h o pco s) : Goes s (execIaddc h o pco s) := by unfold execIaddc; exact goes_alu ..

theorem goes_execIclampS (h o s) : Goes s (execIclampS h o s) := by unfold execIclampS; exact goes_alu ..

theorem goes_execIclampU (h o s) : Goes s (execIclampU h o s) := by unfold execIclampU; exact goes_alu ..

theorem goes_execIdp2 (h u o s) : Goes s (execIdp2 h u o s) := by unfold execIdp2; exact goes_alu ..

theorem goes_execIdp4S (h o s) : Goes s (execIdp4S h o s) := by unfold execIdp4S; exact goes_alu ..

theorem goes_execIdp4U (h o s) : Goes s (execIdp4U h o s) := by unfold execIdp4U; exact goes_alu ..

theorem goes_execImad (h o s) : Goes s (execImad h o s) := by unfold execImad; exact goes_alu ..

theorem goes_execImadH2 (h o s) : Goes s (execImadH2 h o s) := by unfold execImadH2; exact goes_alu ..

theorem goes_execImadwS (h o s) : Goes s (execImadwS h o s) := by unfold execImadwS; exact goes_alu ..

theorem goes_execImadwU (h o s) : Goes s (execImadwU h o s) := by unfold execImadwU; exact goes_alu ..

theorem goes_execImaxH2 (h u o s) : Goes s (execImaxH2 h u o s) := by unfold execImaxH2; exact goes_alu ..

theorem goes_execImaxS (h o s) : Goes s (execImaxS h o s) := by unfold execImaxS; exact goes_alu ..

theorem goes_execImaxU (h o s) : Goes s (execImaxU h o s) := by unfold execImaxU; exact goes_alu ..

theorem goes_execIminH2 (h u o s) : Goes s (execIminH2 h u o s) := by unfold execIminH2; exact goes_alu ..

theorem goes_execIminS (h o s) : Goes s (execIminS h o s) := by unfold execIminS; exact goes_alu ..

theorem goes_execIminU (h o s) : Goes s (execIminU h o s) := by unfold execIminU; exact goes_alu ..

theorem goes_execImov (h o s) : Goes s (execImov h o s) := by unfold execImov; exact goes_alu ..

theorem goes_execImul (h o s) : Goes s (execImul h o s) := by unfold execImul; exact goes_alu ..

theorem goes_execImulH2 (h o s) : Goes s (execImulH2 h o s) := by unfold execImulH2; exact goes_alu ..

theorem goes_execImulhiS (h o s) : Goes s (execImulhiS h o s) := by unfold execImulhiS; exact goes_alu ..

theorem goes_execImulhiU (h o s) : Goes s (execImulhiU h o s) := by unfold execImulhiU; exact goes_alu ..

theorem goes_execIrot (h o s) : Goes s (execIrot h o s) := by unfold execIrot; exact goes_alu ..

theorem goes_execIsad (h u o s) : Goes s (execIsad h u o s) := by unfold execIsad; exact goes_alu ..

theorem goes_execIset64 (h cc u o s) : Goes s (execIset64 h cc u o s) := by unfold execIset64; exact goes_alu ..

theorem goes_execIsetH2 (h cc u o s) : Goes s (execIsetH2 h cc u o s) := by unfold execIsetH2; exact goes_alu ..

theorem goes_execIsetS (h cc o s) : Goes s (execIsetS h cc o s) := by unfold execIsetS; exact goes_alu ..

theorem goes_execIsetU (h cc o s) : Goes s (execIsetU h cc o s) := by unfold execIsetU; exact goes_alu ..

theorem goes_execIshl (h o s) : Goes s (execIshl h o s) := by unfold execIshl; exact goes_alu ..

theorem goes_execIshlH2 (h o s) : Goes s (execIshlH2 h o s) := by unfold execIshlH2; exact goes_alu ..

theorem goes_execIshr (h o s) : Goes s (execIshr h o s) := by unfold execIshr; exact goes_alu ..

theorem goes_execIshra (h o s) : Goes s (execIshra h o s) := by unfold execIshra; exact goes_alu ..

theorem goes_execIsub (h m o s) : Goes s (execIsub h m o s) := by unfold execIsub; exact goes_alu ..

theorem goes_execIsub64 (h o s) : Goes s (execIsub64 h o s) := by unfold execIsub64; exact goes_alu ..

theorem goes_execIsubH2 (h m o s) : Goes s (execIsubH2 h m o s) := by unfold execIsubH2; exact goes_alu ..

theorem goes_execIsubb (h o pco s) : Goes s (execIsubb h o pco s) := by unfold execIsubb; exact goes_alu ..

theorem goes_execLea (h sh o s) : Goes s (execLea h sh o s) := by unfold execLea; exact goes_alu ..

theorem goes_execLea64 (h u sh o s) : Goes s (execLea64 h u sh o s) := by unfold execLea64; exact goes_alu ..

theorem goes_execLogt (h o lut s) : Goes s (execLogt h o lut s) := by unfold execLogt; exact goes_alu ..

theorem goes_execMovi (h d imm s) : Goes s (execMovi h d imm s) := by unfold execMovi; exact goes_alu ..

theorem goes_execPopc (h o s) : Goes s (execPopc h o s) := by unfold execPopc; exact goes_alu ..

theorem goes_execPrmt (h o s) : Goes s (execPrmt h o s) := by unfold execPrmt; exact goes_alu ..

theorem goes_execPset (h o lut s) : Goes s (execPset h o lut s) := by unfold execPset; exact goes_alu ..

theorem goes_execSel (h o s) : Goes s (execSel h o s) := by unfold execSel; exact goes_alu ..

theorem goes_execShfL (h o s) : Goes s (execShfL h o s) := by unfold execShfL; exact goes_alu ..

theorem goes_execShfR (h o s) : Goes s (execShfR h o s) := by unfold execShfR; exact goes_alu ..

theorem goes_execS2v (h : Hdr) (o : DA) (a0 : State) : Goes a0 (execS2v h o a0) := by
  unfold execS2v
  repeat' first
    | with_reducible exact Calm.rfl
    | with_reducible refine goes_issue _ _ _ _ ?_
    | with_reducible refine Calm.trans ?_ (calm_retire _ _ _)
    | with_reducible refine Calm.trans ?_ (calm_uniWrite _ _ _ _)
    | dsimp only
    | split
    | intro x

theorem goes_uni (h : Hdr) (f : UForm) (g : LaneIn → DWord) (a0 : State) : Goes a0 (uni h f g a0) := by
  unfold uni
  repeat' first
    | with_reducible exact Calm.rfl
    | with_reducible refine goes_issue _ _ _ _ ?_
    | with_reducible refine Calm.trans ?_ (calm_retire _ _ _)
    | with_reducible refine Calm.trans ?_ (calm_uniWrite _ _ _ _)
    | split
    | intro x

theorem goes_uni32 (h : Hdr) (f : UForm) (g : LaneIn → Word) (a0 : State) : Goes a0 (uni32 h f g a0) := by
  unfold uni32
  repeat' first
    | with_reducible refine goes_uni _ _ _ _

theorem goes_execSrdsr (h : Hdr) (sr : BitVec 8) (d : Opd) (s : State) : Goes s (execSrdsr h sr d s) := by
  unfold execSrdsr
  refine goes_issue _ _ _ _ fun e s => ?_
  split
  · exact calm_retire ..
  · extract_lets ws t
    have ht : Calm s t := (calm_uniWrite ..).trans (calm_retire ..)
    clear_value t ws
    exact Calm.ite (ht.trans (calm_modGroup ..)) ht

theorem goes_execSwrsr (h : Hdr) (sr : BitVec 8) (b : SrcB) (s : State) : Goes s (execSwrsr h sr b s) := by
  unfold execSwrsr
  refine goes_issue _ _ _ _ fun e s => ?_
  split
  · exact calm_retire ..
  · exact ((calm_uniWrite ..).trans (calm_modGroup ..)).trans (calm_retire ..)

theorem goes_execV2s (h : Hdr) (o : DA) (a0 : State) : Goes a0 (execV2s h o a0) := by
  unfold execV2s
  repeat' first
    | with_reducible exact Calm.rfl
    | with_reducible refine goes_issue _ _ _ _ ?_
    | with_reducible refine Calm.trans ?_ (calm_retire _ _ _)
    | with_reducible refine Calm.trans ?_ (calm_uniWrite _ _ _ _)
    | split
    | intro x

theorem goes_atomic (h : Hdr) (scr : Bool) (op : Option AtomOp) (m : AtomMods) (f : AtomForm) (a0 : State) : Goes a0 (atomic h scr op m f a0) := by
  unfold atomic
  repeat' first
    | with_reducible exact Calm.rfl
    | with_reducible refine goes_issue _ _ _ _ ?_
    | with_reducible refine Calm.trans ?_ (calm_memRelease _ _ _ _ _)
    | with_reducible refine Calm.trans ?_ (calm_memGo _ _ _ _ _)
    | dsimp only
    | split
    | intro x

theorem goes_cctl (h : Hdr) (inv : Bool) (all : Bool) (a : Addr) (a0 : State) : Goes a0 (cctl h inv all a a0) := by
  unfold cctl
  repeat' first
    | with_reducible exact Calm.rfl
    | with_reducible refine goes_issue _ _ _ _ ?_
    | with_reducible refine Calm.trans ?_ (calm_memGo _ _ _ _ _)
    | dsimp only
    | split
    | intro x

theorem goes_execAcqr (h : Hdr) (sc : BitVec 3) (b : SrcB) (s : State) : Goes s (execAcqr h sc b s) := by
  unfold execAcqr
  refine goes_issue _ _ _ _ fun e s => ?_
  exact Calm.ite (calm_retire ..) (Calm.ite (calm_hold ..)
    ((((calm_drainCore ..).trans (calm_dropClean ..)).trans (calm_acquire ..)).trans (calm_retire ..)))

theorem goes_execAnch (h : Hdr) (d : Opd) (a : Addr) (a0 : State) : Goes a0 (execAnch h d a a0) := by
  unfold execAnch
  repeat' first
    | with_reducible exact Calm.rfl
    | with_reducible refine goes_issue _ _ _ _ ?_
    | with_reducible refine Calm.trans ?_ (calm_memGo _ _ _ _ _)
    | dsimp only
    | intro x

theorem goes_execAwait (h : Hdr) (a0 : State) : Goes a0 (execAwait h a0) := by
  unfold execAwait
  repeat' first
    | with_reducible exact Calm.rfl
    | with_reducible refine goes_issue _ _ _ _ ?_
    | with_reducible refine Calm.trans ?_ (calm_retire _ _ _)
    | with_reducible refine Calm.trans ?_ (calm_hold _ _ _)
    | with_reducible refine Calm.trans ?_ (calm_modGroup _ _ _ _)
    | dsimp only
    | split
    | intro x

theorem goes_execBchk (h : Hdr) (off : BitVec 27) (a0 : State) : Goes a0 (execBchk h off a0) := by
  unfold execBchk
  repeat' first
    | with_reducible exact Calm.rfl
    | with_reducible refine goes_issue _ _ _ _ ?_
    | with_reducible refine Calm.trans ?_ (calm_retire _ _ _)
    | with_reducible refine Calm.trans ?_ (calm_hold _ _ _)
    | with_reducible refine Calm.trans ?_ (calm_branch _ _ _ _ _ _ ?_)
    | with_reducible refine Calm.trans ?_ (calm_emptyLog _ _)
    | with_reducible refine Calm.trans ?_ (calm_clearBelay _ _)
    | with_reducible refine Calm.ite ?_ ?_
    | dsimp only
    | split
    | intro x

theorem goes_execBclr (h : Hdr) (a0 : State) : Goes a0 (execBclr h a0) := by
  unfold execBclr
  repeat' first
    | with_reducible exact Calm.rfl
    | with_reducible refine goes_issue _ _ _ _ ?_
    | with_reducible refine Calm.trans ?_ (calm_clearBelay _ _)
    | with_reducible refine Calm.trans ?_ (calm_retire _ _ _)
    | split
    | intro x

theorem goes_execFence (h : Hdr) (ord : BitVec 2) (sc : BitVec 3) (a0 : State) : Goes a0 (execFence h ord sc a0) := by
  unfold execFence
  repeat' first
    | with_reducible exact Calm.rfl
    | with_reducible refine goes_issue _ _ _ _ ?_
    | with_reducible refine Calm.trans ?_ (calm_retire _ _ _)
    | with_reducible refine Calm.trans ?_ (calm_hold _ _ _)
    | with_reducible refine Calm.trans ?_ (calm_trapAt _ _ _ _ _ _)
    | with_reducible refine Calm.trans ?_ (calm_acquire _ _ _ _)
    | with_reducible refine Calm.ite ?_ ?_
    | dsimp only
    | split
    | intro x

theorem goes_prefetch (h : Hdr) (a : Addr) (f : Env → Nat → Xl → State → State) (s : State) (hf : ∀ x0 x1 x2 x3, Calm x3 (f x0 x1 x2 x3)) :
    Goes s (prefetch h a f s) := by
  unfold prefetch
  refine goes_issue _ _ _ _ fun e s => ?_
  extract_lets lanes t
  have ht : Calm s t := by
    refine Calm.fold Calm.rfl fun s l => ?_
    have h2 := (calm_translate s (clusterOf e.core) e.asid l.2 .read).unstick
    extract_lets r a s2
    change Calm s s2 at h2
    clear_value s2 r
    split
    · exact Calm.ite h2 (h2.trans (hf ..))
    · exact h2
  clear_value t lanes
  exact (Calm.ite ht (ht.trans (calm_memDone ..))).trans (calm_retire ..)

theorem goes_execGpref (h : Hdr) (a : Addr) (a0 : State) : Goes a0 (execGpref h a a0) := by
  unfold execGpref
  repeat' first
    | with_reducible exact Calm.rfl
    | exact fun x => Calm.rfl (s := x)
    | with_reducible refine goes_prefetch _ _ _ _ ?_
    | with_reducible refine Calm.trans ?_ (calm_homePref _ _)
    | split
    | intro x

theorem goes_execLdacq (h : Hdr) (vsz : BitVec 3) (sc : BitVec 3) (d : Opd) (a : Addr) (a0 : State) : Goes a0 (execLdacq h vsz sc d a a0) := by
  unfold execLdacq
  repeat' first
    | with_reducible exact Calm.rfl
    | with_reducible refine goes_issue _ _ _ _ ?_
    | with_reducible refine Calm.trans ?_ (calm_memGo _ _ _ _ _)
    | dsimp only
    | intro x

theorem goes_execLdb (h : Hdr) (m : MemMods) (d : Opd) (a : Addr) (a0 : State) : Goes a0 (execLdb h m d a a0) := by
  unfold execLdb
  repeat' first
    | with_reducible exact Calm.rfl
    | with_reducible refine goes_issue _ _ _ _ ?_
    | with_reducible refine Calm.trans ?_ (calm_memGo _ _ _ _ _)
    | intro x

theorem goes_execLdc (h : Hdr) (m : MemMods) (d : Opd) (a : Addr) (a0 : State) : Goes a0 (execLdc h m d a a0) := by
  unfold execLdc
  repeat' first
    | with_reducible exact Calm.rfl
    | with_reducible refine goes_issue _ _ _ _ ?_
    | with_reducible refine Calm.trans ?_ (calm_memGo _ _ _ _ _)
    | intro x

theorem goes_execLdg (h : Hdr) (m : MemMods) (d : Opd) (a : Addr) (a0 : State) : Goes a0 (execLdg h m d a a0) := by
  unfold execLdg
  repeat' first
    | with_reducible exact Calm.rfl
    | with_reducible refine goes_issue _ _ _ _ ?_
    | with_reducible refine Calm.trans ?_ (calm_memGo _ _ _ _ _)
    | intro x

theorem goes_execLdgNc (h : Hdr) (m : MemMods) (d : Opd) (a : Addr) (a0 : State) : Goes a0 (execLdgNc h m d a a0) := by
  unfold execLdgNc
  repeat' first
    | with_reducible exact Calm.rfl
    | with_reducible refine goes_issue _ _ _ _ ?_
    | with_reducible refine Calm.trans ?_ (calm_memGo _ _ _ _ _)
    | intro x

theorem goes_execLdl (h : Hdr) (m : MemMods) (d : Opd) (a : Addr) (a0 : State) : Goes a0 (execLdl h m d a a0) := by
  unfold execLdl
  repeat' first
    | with_reducible exact Calm.rfl
    | with_reducible refine goes_issue _ _ _ _ ?_
    | with_reducible refine Calm.trans ?_ (calm_memGo _ _ _ _ _)
    | intro x

theorem goes_execLds (h : Hdr) (m : MemMods) (d : Opd) (a : Addr) (a0 : State) : Goes a0 (execLds h m d a a0) := by
  unfold execLds
  repeat' first
    | with_reducible exact Calm.rfl
    | with_reducible refine goes_issue _ _ _ _ ?_
    | with_reducible refine Calm.trans ?_ (calm_memGo _ _ _ _ _)
    | intro x

theorem goes_execLdsX (h : Hdr) (vsz : BitVec 3) (swz : BitVec 2) (d : Opd) (a : Addr) (a0 : State) : Goes a0 (execLdsX h vsz swz d a a0) := by
  unfold execLdsX
  repeat' first
    | with_reducible exact Calm.rfl
    | with_reducible refine goes_issue _ _ _ _ ?_
    | with_reducible refine Calm.trans ?_ (calm_memGo _ _ _ _ _)
    | dsimp only
    | intro x

theorem goes_execPrefL2 (h : Hdr) (a : Addr) (a0 : State) : Goes a0 (execPrefL2 h a a0) := by
  unfold execPrefL2
  repeat' first
    | with_reducible exact Calm.rfl
    | with_reducible refine goes_prefetch _ _ _ _ ?_
    | with_reducible refine Calm.trans ?_ (calm_prefL2 _ _ _)
    | intro x

theorem goes_execPrefLlc (h : Hdr) (a : Addr) (a0 : State) : Goes a0 (execPrefLlc h a a0) := by
  unfold execPrefLlc
  repeat' first
    | with_reducible exact Calm.rfl
    | exact fun x => Calm.rfl (s := x)
    | with_reducible refine goes_prefetch _ _ _ _ ?_
    | with_reducible refine Calm.trans ?_ (calm_reachHome _ _)
    | split
    | intro x

theorem goes_execStg (h : Hdr) (m : MemMods) (d : Opd) (a : Addr) (a0 : State) : Goes a0 (execStg h m d a a0) := by
  unfold execStg
  repeat' first
    | with_reducible exact Calm.rfl
    | with_reducible refine goes_issue _ _ _ _ ?_
    | with_reducible refine Calm.trans ?_ (calm_memGo _ _ _ _ _)
    | dsimp only
    | intro x

theorem goes_execStl (h : Hdr) (m : MemMods) (d : Opd) (a : Addr) (a0 : State) : Goes a0 (execStl h m d a a0) := by
  unfold execStl
  repeat' first
    | with_reducible exact Calm.rfl
    | with_reducible refine goes_issue _ _ _ _ ?_
    | with_reducible refine Calm.trans ?_ (calm_memGo _ _ _ _ _)
    | dsimp only
    | intro x

theorem goes_execStrel (h : Hdr) (vsz : BitVec 3) (sc : BitVec 3) (d : Opd) (a : Addr) (a0 : State) : Goes a0 (execStrel h vsz sc d a a0) := by
  unfold execStrel
  repeat' first
    | with_reducible exact Calm.rfl
    | with_reducible refine goes_issue _ _ _ _ ?_
    | with_reducible refine Calm.trans ?_ (calm_memRelease _ _ _ _ _)
    | intro x

theorem goes_execSts (h : Hdr) (m : MemMods) (d : Opd) (a : Addr) (a0 : State) : Goes a0 (execSts h m d a a0) := by
  unfold execSts
  repeat' first
    | with_reducible exact Calm.rfl
    | with_reducible refine goes_issue _ _ _ _ ?_
    | with_reducible refine Calm.trans ?_ (calm_memGo _ _ _ _ _)
    | dsimp only
    | intro x

theorem goes_execBarrp (h : Hdr) (n : BitVec 2) (a0 : State) : Goes a0 (execBarrp h n a0) := by
  unfold execBarrp
  repeat' first
    | with_reducible exact Calm.rfl
    | with_reducible refine goes_issue _ _ _ _ ?_
    | with_reducible refine Calm.trans ?_ (calm_arriveBarrier _ _ _ _ _ _ _)
    | intro x

theorem goes_onObject (h : Hdr) (a : Opd) (mem : Bool) (chk : Env → Chk) (eff : Env → Nat → State → State) (a0 : State) (heff : ∀ x0 x1 x2, Calm x2 (eff x0 x1 x2)) : Goes a0 (onObject h a mem chk eff a0) := by
  unfold onObject
  repeat' first
    | with_reducible exact Calm.rfl
    | with_reducible refine Calm.trans ?_ (heff _ _ _)
    | with_reducible refine goes_issue _ _ _ _ ?_
    | with_reducible refine Calm.trans ?_ (calm_retire _ _ _)
    | with_reducible refine Calm.trans ?_ (calm_trapAt _ _ _ _ _ _)
    | with_reducible refine Calm.trans ?_ (calm_hold _ _ _)
    | with_reducible refine Calm.ite ?_ ?_
    | dsimp only
    | split
    | intro x

theorem goes_execBarv (h : Hdr) (rd : Bool) (sc : BitVec 3) (d : Opd) (a : Opd) (b : SrcB) (s : State) : Goes s (execBarv h rd sc d a b s) := by
  unfold execBarv
  refine goes_onObject _ _ _ _ _ _ fun e t s => ?_
  split
  · exact calm_hold ..
  · exact calm_trapAt ..
  · extract_lets n ws s2
    have h2 : Calm s s2 := Calm.ite Calm.rfl (calm_dataWrite ..)
    exact (h2.trans (Calm.ite Calm.rfl (calm_objEvent ..))).trans (calm_retire ..)

theorem goes_execBarwg (h : Hdr) (n : BitVec 2) (sc : BitVec 3) (a0 : State) : Goes a0 (execBarwg h n sc a0) := by
  unfold execBarwg
  repeat' first
    | with_reducible exact Calm.rfl
    | with_reducible refine goes_issue _ _ _ _ ?_
    | with_reducible refine Calm.trans ?_ (calm_arriveBarrier _ _ _ _ _ _ _)
    | intro x

theorem goes_execBexp (h : Hdr) (a : Opd) (b : SrcB) (a0 : State) : Goes a0 (execBexp h a b a0) := by
  unfold execBexp
  repeat' first
    | with_reducible exact Calm.rfl
    | with_reducible refine goes_onObject _ _ _ _ _ _ ?_
    | with_reducible refine Calm.trans ?_ (calm_retire _ _ _)
    | with_reducible refine Calm.trans ?_ (calm_objEvent _ _ _)
    | intro x

theorem goes_execBinit (h : Hdr) (a : Opd) (b : SrcB) (s : State) : Goes s (execBinit h a b s) := by
  unfold execBinit
  exact goes_onObject _ _ _ _ _ _ fun e t s => (calm_objEvent ..).trans (calm_retire ..)

theorem goes_execBinval (h : Hdr) (a : Opd) (s : State) : Goes s (execBinval h a s) := by
  unfold execBinval
  exact goes_onObject _ _ _ _ _ _ fun e t s => (calm_objEvent ..).trans (calm_retire ..)

theorem goes_execBtry (h : Hdr) (sc : BitVec 3) (d : Opd) (a : Opd) (b : Opd) (a0 : State) : Goes a0 (execBtry h sc d a b a0) := by
  unfold execBtry
  repeat' first
    | with_reducible exact Calm.rfl
    | with_reducible refine goes_onObject _ _ _ _ _ _ ?_
    | with_reducible refine Calm.trans ?_ (calm_trapAt _ _ _ _ _ _)
    | with_reducible refine Calm.trans ?_ (calm_dataWrite _ _ _ _)
    | with_reducible refine Calm.trans ?_ (calm_retire _ _ _)
    | with_reducible refine Calm.trans ?_ (calm_acquire _ _ _ _)
    | with_reducible refine Calm.ite ?_ ?_
    | dsimp only
    | intro x

theorem goes_execBwait (h : Hdr) (sc : BitVec 3) (a : Opd) (b : Opd) (a0 : State) : Goes a0 (execBwait h sc a b a0) := by
  unfold execBwait
  repeat' first
    | with_reducible exact Calm.rfl
    | with_reducible refine goes_onObject _ _ _ _ _ _ ?_
    | with_reducible refine Calm.trans ?_ (calm_trapAt _ _ _ _ _ _)
    | with_reducible refine Calm.trans ?_ (calm_hold _ _ _)
    | with_reducible refine Calm.trans ?_ (calm_retire _ _ _)
    | with_reducible refine Calm.trans ?_ (calm_acquire _ _ _ _)
    | with_reducible refine Calm.ite ?_ ?_
    | dsimp only
    | intro x

theorem goes_execQcommit (h : Hdr) (sc : BitVec 3) (a : Opd) (b : Opd) (d : Opd) (s : State) : Goes s (execQcommit h sc a b d s) := by
  unfold execQcommit
  refine goes_issue _ _ _ _ fun e s => ?_
  extract_lets q va w
  clear_value q
  refine Calm.ite (calm_retire ..) (Calm.ite (calm_trapAt ..) ?_)
  split
  · exact calm_hold ..
  · exact calm_trapAt ..
  · refine (calm_writePlace s e va).trans (calm_oneLane w.1 _ _ _ _ _ _ fun s _ => ?_)
    split
    · exact ((calm_homeStore ..).trans (calm_markWork ..)).trans (calm_retire ..)
    · exact Calm.rfl

theorem goes_execQput (h : Hdr) (a : Opd) (b : Opd) (c : Opd) (s : State) : Goes s (execQput h a b c s) := by
  unfold execQput
  refine goes_issue _ _ _ _ fun e s => ?_
  extract_lets q img r
  clear_value q img
  refine Calm.ite (calm_retire ..) (Calm.ite (calm_trapAt ..) (Calm.ite (calm_trapAt ..) (Calm.ite (calm_hold ..) ?_)))
  refine (calm_loadBytes s e _ _ _).trans (calm_oneLane r.1 _ _ _ _ _ _ fun s bs => ?_)
  extract_lets va w
  refine (calm_writePlace s e va).trans (calm_oneLane w.1 _ _ _ _ _ _ fun s _ => ?_)
  split
  · exact ((calm_start ..).trans (calm_enqueue ..)).trans (calm_retire ..)
  · exact Calm.rfl

theorem goes_execQresv (h : Hdr) (pd : BitVec 7) (d a : Opd) (b : SrcB) (s : State) : Goes s (execQresv h pd d a b s) := by
  unfold execQresv
  refine goes_issue _ _ _ _ fun e s => ?_
  extract_lets q x n ok s2 ws
  have h2 : Calm s s2 := Calm.ite (calm_cohWrite ..) Calm.rfl
  clear_value s2 ws
  exact Calm.ite (calm_retire ..) (Calm.ite (calm_trapAt ..) (Calm.ite (calm_hold ..)
    ((h2.trans (calm_dataWrite ..)).trans (calm_retire ..))))

theorem goes_execQsig (h : Hdr) (store : Bool) (sc : BitVec 3) (a : Opd) (c : Opd) (s : State) : Goes s (execQsig h store sc a c s) := by
  unfold execQsig
  refine goes_issue _ _ _ _ fun e s => ?_
  extract_lets va w
  clear_value va
  refine Calm.ite (calm_retire ..) (Calm.ite (calm_trapAt ..) ?_)
  split
  · exact calm_hold ..
  · exact calm_trapAt ..
  · refine (calm_writePlace s e va).trans (calm_oneLane w.1 _ _ _ _ _ _ fun s _ => ?_)
    split
    · exact ((calm_flushLine ..).trans (calm_homeStore ..)).trans (calm_retire ..)
    · exact Calm.rfl

theorem goes_execCopyComplete (core : Nat) (id : Nat) (s : State) : Onward s (execCopyComplete core id s) := by
  unfold execCopyComplete
  repeat' first
    | with_reducible exact Calm.rfl
    | with_reducible refine Calm.trans ?_ (calm_copyComplete _ _ _ _)
    | with_reducible refine Onward.next ?_
    | with_reducible refine Onward.finish ?_
    | split

theorem goes_tensorCopy (kind : Nat) (h : Hdr) (tok : BitVec 3) (bar : Bool) (d : Opd) (a : Opd) (b : Opd) (c : Opd) (off : BitVec 23) (s : State) :
    Goes s (tensorCopy kind h tok bar d a b c off s) := by
  unfold tensorCopy
  refine goes_issue _ _ _ _ fun e s => ?_
  refine Calm.ite (calm_retire ..) (Calm.ite (calm_hold ..) ?_)
  extract_lets va ws dst barA k
  clear_value va ws dst barA k
  refine Calm.ite (calm_trapAt ..) (calm_getRecord _ _ _ _ _ fun s r => ?_)
  exact Calm.ite (calm_getRecord _ _ _ _ _ fun s r2 => calm_startCopy ..) (calm_startCopy ..)

theorem goes_decodeIssue (h : Hdr) (form : Nat) (tok : BitVec 3) (sg : Bool) (d : Opd) (a : Opd) (c : Opd) (nb : BitVec 4) (a0 : State) : Goes a0 (decodeIssue h form tok sg d a c nb a0) := by
  unfold decodeIssue
  repeat' first
    | with_reducible exact Calm.rfl
    | with_reducible refine goes_issue _ _ _ _ ?_
    | with_reducible refine Calm.trans ?_ (calm_retire _ _ _)
    | with_reducible refine Calm.trans ?_ (calm_hold _ _ _)
    | with_reducible refine Calm.trans ?_ (calm_count _ _ _ _)
    | with_reducible refine Calm.trans ?_ (calm_start _ _ _)
    | simp only [↓Calm.upd_iff]
    | split
    | intro x

theorem goes_execBpop (h : Hdr) (q : BitVec 2) (d : Opd) (a0 : State) : Goes a0 (execBpop h q d a0) := by
  unfold execBpop
  repeat' first
    | with_reducible exact Calm.rfl
    | with_reducible refine goes_issue _ _ _ _ ?_
    | with_reducible refine Calm.trans ?_ (calm_retire _ _ _)
    | with_reducible refine Calm.trans ?_ (calm_start _ _ _)
    | dsimp only
    | split
    | intro x

theorem goes_execBpush (h : Hdr) (q : BitVec 2) (a : Opd) (a0 : State) : Goes a0 (execBpush h q a a0) := by
  unfold execBpush
  repeat' first
    | with_reducible exact Calm.rfl
    | with_reducible refine goes_issue _ _ _ _ ?_
    | with_reducible refine Calm.trans ?_ (calm_retire _ _ _)
    | with_reducible refine Calm.trans ?_ (calm_hold _ _ _)
    | with_reducible refine Calm.trans ?_ (calm_modCore _ _ _)
    | with_reducible refine Calm.ite ?_ ?_
    | dsimp only
    | split
    | intro x

theorem goes_execBstart (h : Hdr) (d : Opd) (a : Opd) (b : Opd) (a0 : State) : Goes a0 (execBstart h d a b a0) := by
  unfold execBstart
  repeat' first
    | with_reducible exact Calm.rfl
    | with_reducible refine goes_issue _ _ _ _ ?_
    | with_reducible refine Calm.trans ?_ (calm_retire _ _ _)
    | with_reducible refine Calm.trans ?_ (calm_dataWrite _ _ _ _)
    | with_reducible refine Calm.trans ?_ (calm_modCore _ _ _)
    | with_reducible refine Calm.ite ?_ ?_
    | simp only [↓Calm.upd_iff]
    | split
    | intro x

theorem goes_execBstop (h : Hdr) (a0 : State) : Goes a0 (execBstop h a0) := by
  unfold execBstop
  repeat' first
    | with_reducible exact Calm.rfl
    | with_reducible refine goes_issue _ _ _ _ ?_
    | with_reducible refine Calm.trans ?_ (calm_retire _ _ _)
    | with_reducible refine Calm.trans ?_ (calm_removeGroup _ _ _)
    | with_reducible refine Calm.ite ?_ ?_
    | dsimp only
    | split
    | intro x

theorem goes_execChain (h : Hdr) (tok : BitVec 3) (ch : BitVec 4) (a : Opd) (a0 : State) : Goes a0 (execChain h tok ch a a0) := by
  unfold execChain
  repeat' first
    | with_reducible exact Calm.rfl
    | with_reducible refine goes_issue _ _ _ _ ?_
    | with_reducible refine Calm.trans ?_ (calm_retire _ _ _)
    | with_reducible refine Calm.trans ?_ (calm_hold _ _ _)
    | with_reducible refine Calm.trans ?_ (calm_start _ _ _)
    | split
    | intro x

theorem goes_execChainRecord (ch : Nat) (phase : Nat) (s : State) : Onward s (execChainRecord ch phase s) := by
  unfold execChainRecord
  repeat' first
    | with_reducible exact Calm.rfl
    | with_reducible refine Calm.trans ?_ (calm_acceptChain _ _)
    | with_reducible refine Calm.trans ?_ (calm_chanStages _ _ _)
    | with_reducible refine Onward.next ?_
    | with_reducible refine Onward.finish ?_
    | with_reducible refine Onward.ite ?_ ?_

theorem goes_execChstat (h : Hdr) (ch : BitVec 4) (d : Opd) (a0 : State) : Goes a0 (execChstat h ch d a0) := by
  unfold execChstat
  repeat' first
    | with_reducible exact Calm.rfl
    | with_reducible refine goes_issue _ _ _ _ ?_
    | with_reducible refine Calm.trans ?_ (calm_retire _ _ _)
    | with_reducible refine Calm.trans ?_ (calm_dataWrite _ _ _ _)
    | dsimp only
    | split
    | intro x

theorem goes_execDecodeComplete (core : Nat) (s : State) : Onward s (execDecodeComplete core s) := by
  unfold execDecodeComplete
  repeat' first
    | with_reducible exact Calm.rfl
    | with_reducible refine Calm.trans ?_ (calm_decodeComplete _ _ _)
    | with_reducible refine Onward.next ?_
    | with_reducible refine Onward.finish ?_
    | split

theorem goes_execResid (h : Hdr) (tok : BitVec 3) (flush : Bool) (slot : BitVec 2) (a : Opd) (b : SrcB) (a0 : State) : Goes a0 (execResid h tok flush slot a b a0) := by
  unfold execResid
  repeat' first
    | with_reducible exact Calm.rfl
    | with_reducible refine goes_issue _ _ _ _ ?_
    | with_reducible refine Calm.trans ?_ (calm_retire _ _ _)
    | with_reducible refine Calm.trans ?_ (calm_trapAt _ _ _ _ _ _)
    | with_reducible refine Calm.trans ?_ (calm_hold _ _ _)
    | with_reducible refine Calm.trans ?_ (calm_start _ _ _)
    | dsimp only
    | split
    | intro x

theorem goes_execTopk (h : Hdr) (tok : BitVec 3) (n : BitVec 4) (slot : BitVec 2) (res : Bool) (a : Opd) (b : SrcB) (c : Opd) (a0 : State) : Goes a0 (execTopk h tok n slot res a b c a0) := by
  unfold execTopk
  repeat' first
    | with_reducible exact Calm.rfl
    | with_reducible refine goes_issue _ _ _ _ ?_
    | with_reducible refine Calm.trans ?_ (calm_retire _ _ _)
    | with_reducible refine Calm.trans ?_ (calm_trapAt _ _ _ _ _ _)
    | with_reducible refine Calm.trans ?_ (calm_hold _ _ _)
    | with_reducible refine Calm.trans ?_ (calm_start _ _ _)
    | dsimp only
    | split
    | intro x

theorem goes_execTopkComplete (core : Nat) (s : State) : Onward s (execTopkComplete core s) := by
  unfold execTopkComplete
  repeat' first
    | with_reducible exact Calm.rfl
    | with_reducible refine Calm.trans ?_ (calm_topk _ _ _ _ _ _ _ _ _)
    | with_reducible refine Calm.trans ?_ (calm_residOut _ _ _ _ _ _ _)
    | with_reducible refine Onward.next ?_
    | with_reducible refine Onward.finish ?_
    | with_reducible refine Onward.ite ?_ ?_
    | split

theorem goes_execAccout (h : Hdr) (fmt : BitVec 5) (n : BitVec 3) (td : BitVec 4) (a : Opd) (a0 : State) : Goes a0 (execAccout h fmt n td a a0) := by
  unfold execAccout
  repeat' first
    | with_reducible exact Calm.rfl
    | with_reducible refine goes_issue _ _ _ _ ?_
    | with_reducible refine Calm.trans ?_ (calm_retire _ _ _)
    | with_reducible refine Calm.trans ?_ (calm_trapHere _ _ _)
    | with_reducible refine Calm.trans ?_ (calm_startTile _ _ _ _ _)
    | dsimp only
    | split
    | intro x

theorem goes_execAccrd (h : Hdr) (colb : BitVec 3) (n : BitVec 3) (d : Opd) (b : SrcB) (a0 : State) : Goes a0 (execAccrd h colb n d b a0) := by
  unfold execAccrd
  repeat' first
    | with_reducible exact Calm.rfl
    | with_reducible refine goes_issue _ _ _ _ ?_
    | with_reducible refine Calm.trans ?_ (calm_retire _ _ _)
    | with_reducible refine Calm.trans ?_ (calm_start _ _ _)
    | dsimp only
    | split
    | intro x

theorem goes_execAccwr (h : Hdr) (colb : BitVec 3) (n : BitVec 3) (a : Opd) (b : SrcB) (a0 : State) : Goes a0 (execAccwr h colb n a b a0) := by
  unfold execAccwr
  repeat' first
    | with_reducible exact Calm.rfl
    | with_reducible refine goes_issue _ _ _ _ ?_
    | with_reducible refine Calm.trans ?_ (calm_retire _ _ _)
    | with_reducible refine Calm.trans ?_ (calm_modEnvGroup _ _ _)
    | dsimp only
    | split
    | intro x

theorem goes_execCbld (h : Hdr) (slot : BitVec 2) (a : Opd) (b : SrcB) (a0 : State) : Goes a0 (execCbld h slot a b a0) := by
  unfold execCbld
  repeat' first
    | with_reducible exact Calm.rfl
    | with_reducible refine goes_issue _ _ _ _ ?_
    | with_reducible refine Calm.trans ?_ (calm_retire _ _ _)
    | with_reducible refine Calm.trans ?_ (calm_trapAt _ _ _ _ _ _)
    | with_reducible refine Calm.trans ?_ (calm_hold _ _ _)
    | with_reducible refine Calm.trans ?_ (calm_start _ _ _)
    | with_reducible refine Calm.ite ?_ ?_
    | dsimp only
    | split
    | intro x

theorem goes_execCbldTakeover (core : Nat) (id : Nat) (s : State) : Onward s (execCbldTakeover core id s) := by
  unfold execCbldTakeover
  repeat' first
    | with_reducible exact Calm.rfl
    | with_reducible refine Calm.trans ?_ (calm_modCore _ _ _)
    | with_reducible refine Onward.next ?_
    | with_reducible refine Onward.ite ?_ ?_
    | dsimp only
    | split

theorem goes_tileNow (h : Hdr) (us : List TileUse) (bad : Env → Bool) (f : Group → Group) (a0 : State) : Goes a0 (tileNow h us bad f a0) := by
  unfold tileNow
  repeat' first
    | with_reducible exact Calm.rfl
    | with_reducible refine goes_issue _ _ _ _ ?_
    | with_reducible refine Calm.trans ?_ (calm_retire _ _ _)
    | with_reducible refine Calm.trans ?_ (calm_trapHere _ _ _)
    | with_reducible refine Calm.trans ?_ (calm_modEnvGroup _ _ _)
    | split
    | intro x

theorem goes_tileLoad (h : Hdr) (r : TileArg) (s : State) : Goes s (tileLoad h r s) := by
  unfold tileLoad
  refine goes_issue _ _ _ _ fun e s => ?_
  refine Calm.ite (calm_retire ..) ?_
  split
  · exact calm_trapAt ..
  · extract_lets rows head cs
    clear_value rows head cs
    refine Calm.ite (calm_hold ..) (calm_tileWatch _ _ _ _ _ _ fun s => ?_)
    extract_lets y tag src tag'
    refine (calm_gather s e _ _ _).trans (calm_tileLane y.1 _ _ _ _ _ _ fun s => ?_)
    clear_value tag' src tag
    split
    · exact (calm_tileTrapped ..).trans (calm_trapHere ..)
    · extract_lets x data
      refine (calm_gather s e _ _ _).trans (calm_tileLane x.1 _ _ _ _ _ _ fun s => ?_)
      exact ((calm_start ..).trans (calm_memCounted ..)).trans (calm_retire ..)

theorem goes_tileStore (h : Hdr) (r : TileArg) (s : State) : Goes s (tileStore h r s) := by
  unfold tileStore
  refine goes_issue _ _ _ _ fun e s => ?_
  refine Calm.ite (calm_retire ..) (Calm.ite (calm_trapHere ..) ?_)
  split
  · exact calm_trapAt ..
  · refine Calm.ite (calm_hold ..) ?_
    extract_lets cs
    clear_value cs
    refine calm_tileWatch _ _ _ _ _ _ fun s => ?_
    extract_lets x
    refine (calm_gatherPlaces s e _ _).trans (calm_tileLane x.1 _ _ _ _ _ _ fun s => ?_)
    exact ((calm_start ..).trans (calm_enqueue ..)).trans ((calm_memCounted ..).trans (calm_retire ..))

theorem goes_execTtagRd (h : Hdr) (acc : Bool) (n : BitVec 4) (d : Opd) (a0 : State) : Goes a0 (execTtagRd h acc n d a0) := by
  unfold execTtagRd
  repeat' first
    | with_reducible exact Calm.rfl
    | with_reducible refine goes_issue _ _ _ _ ?_
    | with_reducible refine Calm.trans ?_ (calm_retire _ _ _)
    | with_reducible refine Calm.trans ?_ (calm_start _ _ _)
    | dsimp only
    | split
    | intro x

theorem goes_execTtagWr (h : Hdr) (acc : Bool) (n : BitVec 4) (a : Opd) (a0 : State) : Goes a0 (execTtagWr h acc n a a0) := by
  unfold execTtagWr
  repeat' first
    | with_reducible exact Calm.rfl
    | with_reducible refine goes_issue _ _ _ _ ?_
    | with_reducible refine Calm.trans ?_ (calm_retire _ _ _)
    | with_reducible refine Calm.trans ?_ (calm_trapHere _ _ _)
    | with_reducible refine Calm.trans ?_ (calm_modEnvGroup _ _ _)
    | dsimp only
    | split
    | intro x

theorem goes_execFilla (h : Hdr) (s : State) : Goes s (execFilla h s) := by
  unfold execFilla
  repeat' first
    | with_reducible exact Calm.rfl
    | with_reducible refine goes_issue _ _ _ _ ?_
    | with_reducible refine Calm.trans ?_ (calm_retire _ _ _)
    | with_reducible refine Calm.trans ?_ (calm_decideBlock _ _ _)
    | with_reducible refine Calm.trans ?_ (calm_dataWrite _ _ _ _)
    | with_reducible refine Calm.trans ?_ (calm_hold _ _ _)
    | with_reducible refine Calm.ite ?_ ?_
    | split
    | intro x

theorem goes_execFillc (h : Hdr) (a : Opd) (s : State) : Goes s (execFillc h a s) := by
  unfold execFillc
  repeat' first
    | with_reducible exact Calm.rfl
    | with_reducible refine goes_issue _ _ _ _ ?_
    | with_reducible refine Calm.trans ?_ (calm_retire _ _ _)
    | with_reducible refine Calm.trans ?_ (calm_trapAt _ _ _ _ _ _)
    | with_reducible refine Calm.trans ?_ (calm_hold _ _ _)
    | with_reducible refine Calm.trans ?_ (calm_modTracker _ _ _)
    | with_reducible refine Calm.trans ?_ (calm_start _ _ _)
    | with_reducible refine Calm.ite ?_ ?_
    | dsimp only
    | split
    | intro x

theorem goes_execFillq (h : Hdr) (d : Opd) (adr : Addr) (s : State) : Goes s (execFillq h d adr s) := by
  unfold execFillq
  repeat' first
    | with_reducible exact Calm.rfl
    | with_reducible refine goes_issue _ _ _ _ ?_
    | with_reducible refine Calm.trans ?_ (calm_retire _ _ _)
    | with_reducible refine Calm.trans ?_ (calm_dataWrite _ _ _ _)
    | dsimp only
    | split
    | intro x

theorem goes_execFillv (h : Hdr) (b : SrcB) (s : State) : Goes s (execFillv h b s) := by
  unfold execFillv
  repeat' first
    | with_reducible exact Calm.rfl
    | with_reducible refine goes_issue _ _ _ _ ?_
    | with_reducible refine Calm.trans ?_ (calm_retire _ _ _)
    | with_reducible refine Calm.trans ?_ (calm_modTracker _ _ _)
    | split
    | intro x

theorem goes_execFtinfo (h : Hdr) (which : BitVec 3) (d : Opd) (b : SrcB) (s : State) : Goes s (execFtinfo h which d b s) := by
  unfold execFtinfo
  repeat' first
    | with_reducible exact Calm.rfl
    | with_reducible refine goes_issue _ _ _ _ ?_
    | with_reducible refine Calm.trans ?_ (calm_retire _ _ _)
    | with_reducible refine Calm.trans ?_ (calm_dataWrite _ _ _ _)
    | dsimp only
    | split
    | intro x

theorem goes_execAwaitTimeout (core : Nat) (ctx : Nat) (s : State) : Onward s (execAwaitTimeout core ctx s) := by
  unfold execAwaitTimeout
  repeat' first
    | with_reducible exact Calm.rfl
    | with_reducible refine Calm.trans ?_ (calm_modGroup _ _ _ _)
    | with_reducible refine Onward.next ?_
    | with_reducible refine Onward.ite ?_ ?_
    | dsimp only
    | split

theorem goes_execBelayAnswer (core : Nat) (id : Nat) (s : State) : Onward s (execBelayAnswer core id s) := by
  unfold execBelayAnswer
  repeat' first
    | with_reducible exact Calm.rfl
    | with_reducible refine Calm.trans ?_ (calm_modCore _ _ _)
    | with_reducible refine Calm.trans ?_ (calm_count _ _ _ _)
    | with_reducible refine Onward.next ?_
    | with_reducible refine Onward.ite ?_ ?_
    | with_reducible refine Calm.ite ?_ ?_
    | dsimp only
    | split

theorem goes_execBelayRoundSelfInvalidate (core : Nat) (s : State) : Onward s (execBelayRoundSelfInvalidate core s) := by
  unfold execBelayRoundSelfInvalidate
  repeat' first
    | with_reducible exact Calm.rfl
    | with_reducible refine Calm.trans ?_ (calm_dropAllClean _ _)
    | with_reducible refine Onward.next ?_
    | with_reducible refine Onward.ite ?_ ?_

theorem goes_execClauseWaitRelease (core : Nat) (ctx : Nat) (slot : Nat) (s : State) : Onward s (execClauseWaitRelease core ctx slot s) := by
  unfold execClauseWaitRelease
  repeat' first
    | with_reducible exact Calm.rfl
    | with_reducible refine Calm.trans ?_ (calm_modSlot _ _ _ _ _)
    | with_reducible refine Onward.next ?_
    | with_reducible refine Onward.ite ?_ ?_
    | dsimp only
    | split

theorem goes_execHomeValidate (core : Nat) (id : Nat) (falseStrike : Bool) (s : State) : Onward s (execHomeValidate core id falseStrike s) := by
  unfold execHomeValidate
  repeat' first
    | with_reducible exact Calm.rfl
    | with_reducible refine Calm.trans ?_ (calm_flushLine _ _ _)
    | with_reducible refine Calm.trans ?_ (calm_count _ _ _ _)
    | with_reducible refine Calm.trans ?_ (calm_modCore _ _ _)
    | with_reducible refine Onward.next ?_
    | with_reducible refine Onward.finish ?_
    | dsimp only
    | split

theorem goes_execLoadComplete (core : Nat) (id : Nat) (late : Bool) (s : State) : Onward s (execLoadComplete core id late s) := by
  unfold execLoadComplete
  repeat' first
    | with_reducible exact Calm.rfl
    | with_reducible refine Calm.trans ?_ (calm_lateRead _ _ _ _ _)
    | with_reducible refine Calm.trans ?_ (calm_complete _ _ _)
    | with_reducible refine Calm.trans ?_ (calm_sampleDone _ _ _)
    | with_reducible refine Calm.trans ?_ (calm_bpopDone _ _ _ _ _ _)
    | with_reducible refine Calm.trans ?_ (calm_modGroup _ _ _ _)
    | with_reducible refine Calm.trans ?_ (calm_cbldDone _ _ _ _ _)
    | with_reducible refine Calm.trans ?_ (calm_fillcDone _ _ _ _ _)
    | with_reducible refine Onward.next ?_
    | with_reducible refine Onward.finish ?_
    | with_reducible refine Onward.ite ?_ ?_
    | dsimp only
    | split

theorem goes_execLocalWriteback (core : Nat) (asid : Nat) (line : Nat) (s : State) : Onward s (execLocalWriteback core asid line s) := by
  unfold execLocalWriteback
  repeat' first
    | with_reducible exact Calm.rfl
    | with_reducible refine Calm.trans ?_ (calm_tryBack _ _ _ _)
    | with_reducible refine Onward.finish ?_

theorem goes_execMemoryReplay (core : Nat) (ctx : Nat) (slot : Nat) (s : State) : Onward s (execMemoryReplay core ctx slot s) := by
  unfold execMemoryReplay
  repeat' first
    | with_reducible exact Calm.rfl
    | with_reducible refine Calm.trans ?_ (calm_replay _ _ _ _ _)
    | with_reducible refine Onward.next ?_
    | with_reducible refine Onward.finish ?_
    | with_reducible refine Onward.ite ?_ ?_
    | dsimp only
    | split

theorem goes_execSfuComplete (core : Nat) (part : Nat) (s : State) : Onward s (execSfuComplete core part s) := by
  unfold execSfuComplete
  repeat' first
    | with_reducible exact Calm.rfl
    | with_reducible refine Calm.trans ?_ (calm_complete _ _ _)
    | with_reducible refine Onward.next ?_
    | split

theorem goes_execStarvationPromote (core : Nat) (ctx : Nat) (slot : Nat) (s : State) : Onward s (execStarvationPromote core ctx slot s) := by
  unfold execStarvationPromote
  repeat' first
    | with_reducible exact Calm.rfl
    | with_reducible refine Calm.trans ?_ (calm_modSlot _ _ _ _ _)
    | with_reducible refine Onward.next ?_
    | with_reducible refine Onward.ite ?_ ?_
    | split

theorem goes_execStoreQueueLeave (core : Nat) (which : Nat) (arg : Nat) (s : State) : Onward s (execStoreQueueLeave core which arg s) := by
  unfold execStoreQueueLeave
  repeat' first
    | with_reducible exact Calm.rfl
    | with_reducible refine Calm.trans ?_ (calm_leaveQueue _ _ _)
    | with_reducible refine Calm.trans ?_ (calm_leaveWt _ _ _)
    | with_reducible refine Calm.trans ?_ (calm_modCore _ _ _)
    | with_reducible refine Onward.next ?_
    | with_reducible refine Onward.finish ?_
    | with_reducible refine Onward.ite ?_ ?_
    | dsimp only
    | split

theorem goes_execYieldExpiry (core : Nat) (ctx : Nat) (slot : Nat) (s : State) : Onward s (execYieldExpiry core ctx slot s) := by
  unfold execYieldExpiry
  repeat' first
    | with_reducible exact Calm.rfl
    | with_reducible refine Calm.trans ?_ (calm_modSlot _ _ _ _ _)
    | with_reducible refine Onward.next ?_
    | with_reducible refine Onward.ite ?_ ?_
    | split

theorem goes_execAllotmentRelease (core : Nat) (ctx : Nat) (s : State) : Onward s (execAllotmentRelease core ctx s) := by
  unfold execAllotmentRelease
  repeat' first
    | with_reducible exact Calm.rfl
    | with_reducible refine Calm.trans ?_ (calm_reap _)
    | with_reducible refine Calm.trans ?_ (calm_removeGroup _ _ _)
    | with_reducible refine Onward.next ?_
    | with_reducible refine Onward.ite ?_ ?_
    | split

theorem goes_execClkAdvance (core : Nat) (s : State) : Onward s (execClkAdvance core s) := by
  unfold execClkAdvance
  extract_lets t s1 s2 s3
  have h0 : Calm s t := calm_modCore ..
  have h1 : Calm s s1 := Calm.ite (h0.trans (calm_dieTick _)) h0
  have h2 : Calm s s2 := Calm.ite (h1.trans (calm_endWindow ..)) h1
  have h3 : Calm s s3 := ((h2.trans (calm_commitDue ..)).trans (calm_reap _)).trans (calm_settlePreempt _)
  clear_value s3
  exact .finish (Calm.upd_iff.2 h3)

theorem goes_execFillLaunch (tracker : Nat) (core : Nat) (s : State) : Onward s (execFillLaunch tracker core s) := by
  unfold execFillLaunch
  repeat' first
    | with_reducible exact Calm.rfl
    | with_reducible refine Calm.trans ?_ (calm_fillPlan _ _)
    | with_reducible refine Calm.trans ?_ (calm_decideBlock _ _ _)
    | with_reducible refine Calm.trans ?_ (calm_clearAll _ _ _)
    | with_reducible refine Calm.trans ?_ (calm_modTracker _ _ _)
    | with_reducible refine Calm.trans ?_ (calm_count _ _ _ _)
    | with_reducible refine Calm.trans ?_ (calm_putOne _ _ _ _ _ _ _)
    | with_reducible refine Onward.next ?_
    | with_reducible refine Onward.finish ?_
    | with_reducible refine Onward.ite ?_ ?_
    | with_reducible refine Calm.ite ?_ ?_
    | with_reducible refine Calm.fst (by assumption) ?_
    | simp only [↓Calm.upd_iff]
    | split

theorem goes_execLaunchAging (launch : Nat) (s : State) : Onward s (execLaunchAging launch s) := by
  unfold execLaunchAging
  repeat' first
    | with_reducible exact Calm.rfl
    | with_reducible refine Calm.trans ?_ (calm_modLaunch _ _ _)
    | with_reducible refine Onward.next ?_
    | with_reducible refine Onward.ite ?_ ?_
    | split

theorem goes_execRopePlace (launch : Nat) (cluster : Nat) (x : Nat) (y : Nat) (s : State) : Onward s (execRopePlace launch cluster x y s) := by
  unfold execRopePlace
  repeat' first
    | with_reducible exact Calm.rfl
    | with_reducible refine Calm.trans ?_ (calm_clearAll _ _ _)
    | with_reducible refine Calm.trans ?_ (calm_tookTurn _ _)
    | with_reducible refine Calm.trans ?_ (calm_count _ _ _ _)
    | with_reducible refine Calm.trans ?_ (calm_putRope _ _ _ _ _ _ _ _ _)
    | with_reducible refine Onward.next ?_
    | with_reducible refine Onward.finish ?_
    | with_reducible refine Onward.ite ?_ ?_
    | with_reducible refine Calm.fst (by assumption) ?_
    | dsimp only
    | split

theorem goes_execRopeWaitReserve (launch : Nat) (cluster : Nat) (x : Nat) (y : Nat) (s : State) : Onward s (execRopeWaitReserve launch cluster x y s) := by
  unfold execRopeWaitReserve
  repeat' first
    | with_reducible exact Calm.rfl
    | with_reducible refine Calm.trans ?_ (calm_modLaunch _ _ _)
    | with_reducible refine Onward.next ?_
    | with_reducible refine Onward.ite ?_ ?_
    | split

theorem goes_execWorkgroupPlace (launch : Nat) (core : Nat) (s : State) : Onward s (execWorkgroupPlace launch core s) := by
  unfold execWorkgroupPlace
  repeat' first
    | with_reducible exact Calm.rfl
    | with_reducible refine Calm.trans ?_ (calm_clearAll _ _ _)
    | with_reducible refine Calm.trans ?_ (calm_tookTurn _ _)
    | with_reducible refine Calm.trans ?_ (calm_putOne _ _ _ _ _ _ _)
    | with_reducible refine Onward.next ?_
    | with_reducible refine Onward.finish ?_
    | with_reducible refine Onward.ite ?_ ?_
    | with_reducible refine Calm.fst (by assumption) ?_
    | split

theorem goes_execCounterSweep (s : State) : Onward s (execCounterSweep s) := by
  unfold execCounterSweep
  repeat' first
    | with_reducible exact Calm.rfl
    | with_reducible refine Calm.trans ?_ (calm_cohWrite _ _ _)
    | with_reducible refine Onward.next ?_
    | with_reducible refine Onward.finish ?_
    | with_reducible refine Onward.ite ?_ ?_
    | with_reducible refine Calm.ite ?_ ?_
    | with_reducible refine Calm.fold ?_ (fun s a => ?_)
    | simp only [↓Calm.upd_iff]

theorem goes_execFltrespRetry (seq : Nat) (s : State) : Onward s (execFltrespRetry seq s) := by
  unfold execFltrespRetry
  repeat' first
    | with_reducible exact Calm.rfl
    | with_reducible refine Calm.trans ?_ (calm_answer _ _ _)
    | with_reducible refine Calm.trans ?_ (calm_tryBack _ _ _ _)
    | with_reducible refine Onward.next ?_
    | with_reducible refine Onward.finish ?_
    | with_reducible refine Onward.ite ?_ ?_
    | with_reducible refine Calm.fold ?_ (fun s a => ?_)
    | simp only [↓Calm.upd_iff]

theorem goes_execFltrespUnresolved (seq : Nat) (s : State) : Onward s (execFltrespUnresolved seq s) := by
  unfold execFltrespUnresolved
  split
  · exact .next Calm.rfl
  · next f hf =>
    extract_lets s1 ops s2 s3 dev s4 wb s5
    have h1 : Calm s s1 := calm_answer ..
    have h2 : Calm s s2 := Calm.fold h1 fun s x => calm_engineFault ..
    have h3 : Calm s s3 := Calm.fold h2 fun s x => (calm_setChan ..).trans (calm_failChan ..)
    have h4 : Calm s s4 := Calm.fold (Calm.upd_iff.2 h3) fun s x => Calm.ite (calm_modRope ..) (calm_endLaunch ..)
    have h5 : Calm s s5 := Calm.upd_iff.2 h4
    clear_value s5
    refine .finish (Calm.fold h5 fun s w => ?_)
    split
    · exact Calm.ite Calm.rfl (calm_loseBack ..)
    · exact Calm.rfl

theorem goes_execHeldRequesterResend (slice : Nat) (s : State) : Onward s (execHeldRequesterResend slice s) := by
  unfold execHeldRequesterResend
  repeat' first
    | with_reducible exact Calm.rfl
    | with_reducible refine Calm.trans ?_ (calm_resendSlot _ _ _ _ _)
    | with_reducible refine Onward.finish ?_
    | with_reducible refine Calm.fold ?_ (fun s a => ?_)

theorem goes_execHomeMiss (core : Nat) (ctx : Nat) (slot : Nat) (s : State) : Onward s (execHomeMiss core ctx slot s) := by
  unfold execHomeMiss
  repeat' first
    | with_reducible exact Calm.rfl
    | with_reducible refine Calm.trans ?_ (calm_resendSlot _ _ _ _ _)
    | with_reducible refine Onward.finish ?_

theorem goes_execImplicitFilla (launch : Nat) (s : State) : Onward s (execImplicitFilla launch s) := by
  unfold execImplicitFilla
  repeat' first
    | with_reducible exact Calm.rfl
    | with_reducible refine Calm.trans ?_ (calm_decideBlock _ _ _)
    | with_reducible refine Onward.next ?_
    | with_reducible refine Onward.ite ?_ ?_
    | split

theorem goes_execLlcEviction (asid : Nat) (line : Nat) (s : State) : Onward s (execLlcEviction asid line s) := by
  unfold execLlcEviction
  repeat' first
    | with_reducible exact Calm.rfl
    | with_reducible refine Calm.trans ?_ (calm_leaveGen _ _ _)
    | with_reducible refine Onward.next ?_
    | with_reducible refine Onward.ite ?_ ?_
    | split

theorem goes_execPageWalk (cluster : Nat) (asid : Nat) (va : Nat) (s : State) : Onward s (execPageWalk cluster asid va s) := by
  unfold execPageWalk
  repeat' first
    | with_reducible exact Calm.rfl
    | with_reducible refine Calm.trans ?_ (calm_translate _ _ _ _ _)
    | with_reducible refine Onward.finish ?_

theorem goes_execRingRecordWrite (ring : Nat) (s : State) : Onward s (execRingRecordWrite ring s) := by
  unfold execRingRecordWrite
  repeat' first
    | with_reducible exact Calm.rfl
    | with_reducible refine Calm.trans ?_ (calm_ringIdle _ _)
    | with_reducible refine Calm.trans ?_ (calm_count _ _ _ _)
    | with_reducible refine Calm.trans ?_ (calm_engPlaces _ _ _ _)
    | with_reducible refine Calm.trans ?_ (calm_engWrite _ _ _ _)
    | with_reducible refine Calm.trans ?_ (calm_raiseMsi _ _)
    | with_reducible refine Onward.next ?_
    | with_reducible refine Onward.finish ?_
    | with_reducible refine Onward.ite ?_ ?_
    | with_reducible refine Calm.fst (by assumption) ?_
    | simp only [↓Calm.upd_iff]
    | split

theorem goes_execGroupResume (launch : Nat) (core : Nat) (s : State) : Onward s (execGroupResume launch core s) := by
  unfold execGroupResume
  refine Onward.ite (.next Calm.rfl) ?_
  split
  · exact .next Calm.rfl
  · next x _ =>
    split
    · exact .next Calm.rfl
    · next i _ =>
      refine Onward.ite (.next Calm.rfl) ?_
      extract_lets cl px py bases first all rounds
      clear_value cl px py bases first all rounds
      split
      · exact .next Calm.rfl
      · next _ _ bs =>
        have hc := calm_clearAll s x.hdr.gran bs
        split
        · next hh => rw [hh] at hc; exact .finish hc
        · next s2 hh =>
          rw [hh] at hc
          have hr := calm_readBlocks x core all s2 []
          split
          · next s3 _ h3 =>
            rw [h3] at hr
            extract_lets block mk s4 s5
            have h4 : Calm s s4 := (hc.trans hr).trans
              (Calm.ite ((calm_putRope ..).trans (calm_count ..)) (calm_putOne ..))
            clear_value s4
            have h5 : Calm s s5 := (Calm.fold h4 fun s j => calm_afterResume ..).trans (calm_tookTurn ..)
            exact .finish (Calm.fold h5 fun s w => calm_checkBarriers ..)
          · next h3 => rw [h3] at hr; exact .finish ((hc.trans hr).trans (calm_devHold ..))
          · next h3 => rw [h3] at hr; exact .finish ((hc.trans hr).trans (calm_endLaunch ..))
          · next h3 => rw [h3] at hr; exact .next (hc.trans hr)

theorem goes_execGroupSave (core : Nat) (ctx : Nat) (s : State) : Onward s (execGroupSave core ctx s) := by
  unfold execGroupSave
  split
  · exact .next Calm.rfl
  · next g _ =>
    split
    · next x w _ _ =>
      split
      · exact .next Calm.rfl
      · extract_lets slot fail wrote
        have hf : ∀ s, Calm s (fail s) := fun s => calm_endLaunch ..
        have hw : ∀ s, Calm s (wrote s) := fun s => (calm_modGroup ..).trans (calm_tryFinish ..)
        have hd : ∀ s c a n bs k, Onward s (finish (s.devWrite c a n bs k wrote fail)) := fun s c a n bs k =>
          .finish (calm_devWrite _ _ _ _ _ _ _ _ hw hf)
        clear_value fail wrote slot
        split
        · exact Onward.ite (hd ..) (.next Calm.rfl)
        · exact .finish (calm_tryFinish ..)
        · refine Onward.ite (.finish (calm_tryFinish ..)) (Onward.ite (.next Calm.rfl) ?_)
          have ht := calm_tryDiscard s g.wg
          split
          · next hh => rw [hh] at ht; exact .finish (ht.trans (calm_settlePreempt ..))
          · split
            · exact Onward.ite (.next (calm_startSave ..)) (Onward.ite (hd ..) (.next Calm.rfl))
            · exact Onward.ite (hd ..) (.next Calm.rfl)
        · exact .next Calm.rfl
    · exact .next Calm.rfl

theorem goes_execPreemptKill (asid : Nat) (s : State) : Onward s (execPreemptKill asid s) := by
  unfold execPreemptKill
  repeat' first
    | with_reducible exact Calm.rfl
    | with_reducible refine Calm.trans ?_ (calm_endLaunch _ _ _ _ _ _ _ _ _)
    | with_reducible refine Onward.next ?_
    | with_reducible refine Onward.ite ?_ ?_
    | with_reducible refine Calm.fold ?_ (fun s a => ?_)
    | simp only [↓Calm.upd_iff]

theorem goes_execPreemptOverrun (core : Nat) (ctx : Nat) (slot : Nat) (s : State) : Onward s (execPreemptOverrun core ctx slot s) := by
  unfold execPreemptOverrun
  repeat' first
    | with_reducible exact Calm.rfl
    | with_reducible refine Calm.trans ?_ (calm_modGroup _ _ _ _)
    | with_reducible refine Calm.trans ?_ (calm_report _ _ _ _ _ _ _ _ _ _)
    | with_reducible refine Onward.next ?_
    | with_reducible refine Onward.ite ?_ ?_
    | dsimp only
    | split

theorem goes_execPreemptPre (asid : Nat) (s : State) : Onward s (execPreemptPre asid s) := by
  unfold execPreemptPre
  repeat' first
    | with_reducible exact Calm.rfl
    | with_reducible refine Calm.trans ?_ (calm_askLaunch _ _)
    | with_reducible refine Calm.trans ?_ (calm_settlePreempt _)
    | with_reducible refine Calm.trans ?_ (calm_tryDiscard _ _)
    | with_reducible refine Onward.next ?_
    | with_reducible refine Onward.finish ?_
    | with_reducible refine Onward.ite ?_ ?_
    | with_reducible refine Calm.fold ?_ (fun s a => ?_)
    | simp only [↓Calm.upd_iff]

theorem goes_execPreemptRes (asid : Nat) (s : State) : Onward s (execPreemptRes asid s) := by
  unfold execPreemptRes
  repeat' first
    | with_reducible exact Calm.rfl
    | with_reducible refine Onward.next ?_
    | with_reducible refine Onward.ite ?_ ?_
    | simp only [↓Calm.upd_iff]

theorem goes_execDbgcmdResume (cluster : Nat) (w : Nat) (s : State) : Onward s (execDbgcmdResume cluster w s) := by
  unfold execDbgcmdResume
  repeat' first
    | with_reducible exact Calm.rfl
    | with_reducible refine Calm.trans ?_ (calm_resumeRope _ _)
    | with_reducible refine Onward.next ?_
    | with_reducible refine Onward.ite ?_ ?_
    | with_reducible refine Calm.fold ?_ (fun s a => ?_)

theorem goes_execDbgcmdStop (cluster : Nat) (w : Nat) (s : State) : Onward s (execDbgcmdStop cluster w s) := by
  unfold execDbgcmdStop
  repeat' first
    | with_reducible exact Calm.rfl
    | with_reducible refine Calm.trans ?_ (calm_beginStop _ _ _)
    | with_reducible refine Onward.next ?_
    | with_reducible refine Onward.ite ?_ ?_
    | with_reducible refine Calm.fold ?_ (fun s a => ?_)

theorem goes_execRopeStop (rope : Nat) (s : State) : Onward s (execRopeStop rope s) := by
  unfold execRopeStop
  split
  · exact .next Calm.rfl
  · split
    · exact .next Calm.rfl
    · split
      · exact .next Calm.rfl
      · extract_lets mine held n done base
        split
        · exact .next Calm.rfl
        ·
          have hd : ∀ s, Calm s (done s) := fun s => calm_modRope ..
          exact .finish (calm_devWrite _ _ _ _ _ _ _ _ hd hd)

theorem goes_execBarrierPacket (q : Nat) (i : Nat) (s : State) : Onward s (execBarrierPacket q i s) := by
  unfold execBarrierPacket
  repeat' first
    | with_reducible exact Calm.rfl
    | with_reducible refine Calm.trans ?_ (calm_publishAll _)
    | with_reducible refine Calm.trans ?_ (calm_serveBarrier _ _)
    | with_reducible refine Onward.next ?_
    | with_reducible refine Onward.finish ?_
    | with_reducible refine Onward.ite ?_ ?_
    | with_reducible refine Calm.fold ?_ (fun s a => ?_)
    | dsimp only
    | split

theorem goes_execCopyPacket (q : Nat) (i : Nat) (ch : Nat) (s : State) : Onward s (execCopyPacket q i ch s) := by
  unfold execCopyPacket
  repeat' first
    | with_reducible exact Calm.rfl
    | with_reducible refine Calm.trans ?_ (calm_serveCopy _ _ _)
    | with_reducible refine Onward.next ?_
    | with_reducible refine Onward.ite ?_ ?_
    | dsimp only
    | split

theorem goes_execInval (q : Nat) (i : Nat) (s : State) : Onward s (execInval q i s) := by
  unfold execInval
  repeat' first
    | with_reducible exact Calm.rfl
    | with_reducible refine Calm.trans ?_ (calm_publishAll _)
    | with_reducible refine Calm.trans ?_ (calm_serveInval _ _)
    | with_reducible refine Onward.next ?_
    | with_reducible refine Onward.finish ?_
    | with_reducible refine Onward.ite ?_ ?_
    | split

theorem goes_execPacketComplete (q : Nat) (i : Nat) (s : State) : Onward s (execPacketComplete q i s) := by
  unfold execPacketComplete
  repeat' first
    | with_reducible exact Calm.rfl
    | with_reducible refine Calm.trans ?_ (calm_publishAll _)
    | with_reducible refine Calm.trans ?_ (calm_serveSignal _ _)
    | with_reducible refine Calm.trans ?_ (calm_endPacket _ _ _)
    | with_reducible refine Calm.trans ?_ (calm_finishPacket _ _)
    | with_reducible refine Onward.next ?_
    | with_reducible refine Onward.finish ?_
    | with_reducible refine Onward.ite ?_ ?_
    | simp only [↓Calm.upd_iff]
    | split

theorem goes_execQkick (v : Nat) (s : State) : Onward s (execQkick v s) := by
  unfold execQkick
  repeat' first
    | with_reducible exact Calm.rfl
    | with_reducible refine Calm.trans ?_ (calm_markWork _ _)
    | with_reducible refine Onward.next ?_
    | with_reducible refine Onward.ite ?_ ?_

theorem goes_execQueueStep (s : State) : Onward s (execQueueStep s) := by
  unfold execQueueStep
  repeat' first
    | with_reducible exact Calm.rfl
    | with_reducible refine Calm.trans ?_ (calm_bindLanes _)
    | with_reducible refine Calm.trans ?_ (calm_takeNext _ _)
    | with_reducible refine Calm.trans ?_ (calm_servePacket _ _ _ _ _ _)
    | with_reducible refine Calm.trans ?_ (calm_serveBarrier _ _)
    | with_reducible refine Calm.trans ?_ (calm_publishAll _)
    | with_reducible refine Onward.finish ?_
    | with_reducible refine Calm.ite ?_ ?_
    | with_reducible refine Calm.fold ?_ (fun s a => ?_)
    | with_reducible refine Calm.fold1 ?_ (fun s a => ?_)
    | with_reducible refine Calm.fst (by assumption) ?_
    | split

theorem goes_execAckTimeoutRetrain (port : Nat) (s : State) : Onward s (execAckTimeoutRetrain port s) := by
  unfold execAckTimeoutRetrain
  repeat' first
    | with_reducible exact Calm.rfl
    | with_reducible refine Calm.trans ?_ (calm_retrain _ _)
    | with_reducible refine Onward.next ?_
    | with_reducible refine Onward.ite ?_ ?_

theorem goes_execFabcfgWrite (v : Nat) (s : State) : Onward s (execFabcfgWrite v s) := by
  unfold execFabcfgWrite
  repeat' first
    | with_reducible exact Calm.rfl
    | with_reducible refine Calm.trans ?_ (calm_settleFabric _)
    | with_reducible refine Calm.trans ?_ (calm_trainPorts _)
    | with_reducible refine Onward.next ?_
    | with_reducible refine Onward.ite ?_ ?_
    | simp only [↓Calm.upd_iff]

theorem goes_execFlitReceive (port : Nat) (words : List Nat) (s : State) : Onward s (execFlitReceive port words s) := by
  unfold execFlitReceive
  repeat' first
    | with_reducible exact Calm.rfl
    | with_reducible refine Calm.trans ?_ (calm_setPort _ _ _)
    | with_reducible refine Calm.trans ?_ (calm_nak _ _ _)
    | with_reducible refine Onward.next ?_
    | with_reducible refine Onward.ite ?_ ?_
    | with_reducible refine Calm.ite ?_ ?_

theorem goes_execMsiForward (src : Nat) (vec : Nat) (s : State) : Onward s (execMsiForward src vec s) := by
  unfold execMsiForward
  repeat' first
    | with_reducible exact Calm.rfl
    | with_reducible refine Calm.trans ?_ (calm_raiseMsi _ _)
    | with_reducible refine Onward.next ?_

theorem goes_execNakReceive (port : Nat) (seq : Nat) (s : State) : Onward s (execNakReceive port seq s) := by
  unfold execNakReceive
  repeat' first
    | with_reducible exact Calm.rfl
    | with_reducible refine Calm.trans ?_ (calm_nak _ _ _)
    | with_reducible refine Onward.next ?_

theorem goes_execPeerInboundRequest (src kind addr : Nat) (data : List Byte) (s : State) :
    Onward s (execPeerInboundRequest src kind addr data s) := by
  unfold execPeerInboundRequest
  extract_lets d o w
  have hw : ∀ bs m, Onward s (w bs m) := fun bs m => .finish ((calm_cohWrite ..).trans (calm_reply ..))
  clear_value w o d
  refine Onward.ite (.next (calm_reply ..)) (Onward.ite (.next (calm_inboundRead ..)) (Onward.ite (hw ..)
    (Onward.ite (.next (calm_inboundValidate ..)) (Onward.ite (.next Calm.rfl) ?_))))
  split
  · exact hw ..
  · exact hw ..
  · exact .next Calm.rfl

theorem goes_execPeerTimeout (id : Nat) (s : State) : Onward s (execPeerTimeout id s) := by
  unfold execPeerTimeout
  repeat' first
    | with_reducible exact Calm.rfl
    | with_reducible refine Calm.trans ?_ (calm_peerFails _ _)
    | with_reducible refine Onward.next ?_

theorem goes_execPortFail (port : Nat) (down : Bool) (s : State) : Onward s (execPortFail port down s) := by
  unfold execPortFail
  repeat' first
    | with_reducible exact Calm.rfl
    | with_reducible refine Calm.trans ?_ (calm_failPort _ _ _)
    | with_reducible refine Calm.trans ?_ (calm_setPort _ _ _)
    | with_reducible refine Onward.next ?_
    | with_reducible refine Onward.ite ?_ ?_

theorem goes_execPortTrainingDone (port : Nat) (lanes : Nat) (s : State) : Onward s (execPortTrainingDone port lanes s) := by
  unfold execPortTrainingDone
  repeat' first
    | with_reducible exact Calm.rfl
    | with_reducible refine Calm.trans ?_ (calm_failPort _ _ _)
    | with_reducible refine Calm.trans ?_ (calm_setPort _ _ _)
    | with_reducible refine Onward.next ?_
    | with_reducible refine Onward.ite ?_ ?_

theorem goes_execPortstatWrite (port : Nat) (v : Nat) (s : State) : Onward s (execPortstatWrite port v s) := by
  unfold execPortstatWrite
  repeat' first
    | with_reducible exact Calm.rfl
    | with_reducible refine Calm.trans ?_ (calm_setPort _ _ _)
    | with_reducible refine Onward.next ?_

theorem goes_execFreezeDeassert (s : State) : Onward s (execFreezeDeassert s) := .next Calm.rfl

theorem goes_execHostRequest (kind : Nat) (addr : Nat) (data : List Byte) (s : State) : Onward s (execHostRequest kind addr data s) := by
  unfold execHostRequest
  repeat' first
    | with_reducible exact Calm.rfl
    | with_reducible refine Calm.trans ?_ (calm_send _ _ _ _)
    | with_reducible refine Calm.trans ?_ (calm_cohWrite _ _ _)
    | with_reducible refine Onward.next ?_
    | with_reducible refine Onward.finish ?_
    | with_reducible refine Onward.ite ?_ ?_
    | simp only [↓Calm.upd_iff]
    | split

theorem goes_execPowerThrottle (cluster mhz : Nat) (s : State) : Onward s (execPowerThrottle cluster mhz s) := by
  unfold execPowerThrottle
  exact Onward.ite (.next (calm_modCluster ..)) (.next Calm.rfl)

/-! The meanings that are one line over a shared operation. -/

theorem goes_execFcos (h t abs na o s) : Goes s (execFcos h t abs na o s) := by unfold execFcos; exact goes_sfu ..

theorem goes_execFexp2 (h t abs na o s) : Goes s (execFexp2 h t abs na o s) := by unfold execFexp2; exact goes_sfu ..

theorem goes_execFgelu (h t abs na o s) : Goes s (execFgelu h t abs na o s) := by unfold execFgelu; exact goes_sfu ..

theorem goes_execFlog2 (h t abs na o s) : Goes s (execFlog2 h t abs na o s) := by unfold execFlog2; exact goes_sfu ..

theorem goes_execFrcp (h t abs na o s) : Goes s (execFrcp h t abs na o s) := by unfold execFrcp; exact goes_sfu ..

theorem goes_execFrsq (h t abs na o s) : Goes s (execFrsq h t abs na o s) := by unfold execFrsq; exact goes_sfu ..

theorem goes_execFsigm (h t abs na o s) : Goes s (execFsigm h t abs na o s) := by unfold execFsigm; exact goes_sfu ..

theorem goes_execFsin (h t abs na o s) : Goes s (execFsin h t abs na o s) := by unfold execFsin; exact goes_sfu ..

theorem goes_execFsqrt (h t abs na o s) : Goes s (execFsqrt h t abs na o s) := by unfold execFsqrt; exact goes_sfu ..

theorem goes_execFtanh (h t abs na o s) : Goes s (execFtanh h t abs na o s) := by unfold execFtanh; exact goes_sfu ..

theorem goes_execCbdec (h slot half pair fp16 m d a c s) : Goes s (execCbdec h slot half pair fp16 m d a c s) := by unfold execCbdec; exact goes_alu ..

theorem goes_execCpack (h o s) : Goes s (execCpack h o s) := by unfold execCpack; exact goes_alu ..

theorem goes_execCpackU (h hi o s) : Goes s (execCpackU h hi o s) := by unfold execCpackU; exact goes_alu ..

theorem goes_execCvtf (h m d a c x s) : Goes s (execCvtf h m d a c x s) := by unfold execCvtf; exact goes_alu ..

theorem goes_execCvtfSr (h sat d a c x s) : Goes s (execCvtfSr h sat d a c x s) := by unfold execCvtfSr; exact goes_alu ..

theorem goes_execCvtfi (h u src m o s) : Goes s (execCvtfi h u src m o s) := by unfold execCvtfi; exact goes_alu ..

theorem goes_execCvtif (h u dst m o s) : Goes s (execCvtif h u dst m o s) := by unfold execCvtif; exact goes_alu ..

theorem goes_execCvtii (h sat src dst o s) : Goes s (execCvtii h sat src dst o s) := by unfold execCvtii; exact goes_alu ..

theorem goes_execPackb (h m o s) : Goes s (execPackb h m o s) := by unfold execPackb; exact goes_alu ..

theorem goes_execPackf8 (h e5 hi m o s) : Goes s (execPackf8 h e5 hi m o s) := by unfold execPackf8; exact goes_alu ..

theorem goes_execPackh (h m o s) : Goes s (execPackh h m o s) := by unfold execPackh; exact goes_alu ..

theorem goes_execPackmx (h blk dfmt m d a c s) : Goes s (execPackmx h blk dfmt m d a c s) := by unfold execPackmx; exact goes_aluAll ..

theorem goes_execPackt5 (h o s) : Goes s (execPackt5 h o s) := by unfold execPackt5; exact goes_alu ..

theorem goes_execUnpkmx (h scb m d a c x s) : Goes s (execUnpkmx h scb m d a c x s) := by unfold execUnpkmx; exact goes_alu ..

theorem goes_execUnpkt5 (h k o s) : Goes s (execUnpkt5 h k o s) := by unfold execUnpkt5; exact goes_alu ..

theorem goes_execFbchk (h : Hdr) (f : Bool) (d : Opd) (a : Opd) (a0 : State) : Goes a0 (execFbchk h f d a a0) := by
  unfold execFbchk
  repeat' first
    | with_reducible exact Calm.rfl
    | with_reducible refine goes_issue _ _ _ _ ?_
    | with_reducible refine Calm.trans ?_ (calm_retire _ _ _)
    | with_reducible refine Calm.trans ?_ (calm_start _ _ _)
    | dsimp only
    | split
    | intro x

theorem goes_execMatrixComplete (core : Nat) (id : Nat) (s : State) : Onward s (execMatrixComplete core id s) := by
  unfold execMatrixComplete
  repeat' first
    | with_reducible exact Calm.rfl
    | with_reducible refine Calm.trans ?_ (calm_roundDone _ _ _)
    | with_reducible refine Onward.next ?_
    | with_reducible refine Onward.ite ?_ ?_
    | split

theorem goes_quartet (opc : Nat) (h : Hdr) (base : Nat) (n : Nat) (tb : BitVec 4) (ta : BitVec 4) (sf : Opd) (s : State) :
    Goes s (quartet opc h base n tb ta sf s) := by
  unfold quartet
  refine goes_issue _ _ _ _ fun e s => ?_
  extract_lets fb
  clear_value fb
  refine Calm.ite (calm_trapHere ..) (Calm.ite (calm_arriveGate ..) ?_)
  split
  · exact calm_trapHere ..
  · split
    · exact calm_trapAt ..
    · exact Calm.ite (calm_hold ..) (calm_arriveGate ..)

theorem goes_execTransformService (core : Nat) (s : State) : Onward s (execTransformService core s) := by
  unfold execTransformService
  repeat' first
    | with_reducible exact Calm.rfl
    | with_reducible refine Calm.trans ?_ (calm_complete _ _ _)
    | with_reducible refine Calm.trans ?_ (calm_modGroup _ _ _ _)
    | with_reducible refine Onward.next ?_
    | split

theorem goes_transform (h : Hdr) (td : BitVec 4) (ts : BitVec 4) (bad : Tag → Bool) (w : What) (a0 : State) : Goes a0 (transform h td ts bad w a0) := by
  unfold transform
  repeat' first
    | with_reducible exact Calm.rfl
    | with_reducible refine goes_issue _ _ _ _ ?_
    | with_reducible refine Calm.trans ?_ (calm_retire _ _ _)
    | with_reducible refine Calm.trans ?_ (calm_trapHere _ _ _)
    | with_reducible refine Calm.trans ?_ (calm_startTile _ _ _ _ _)
    | split
    | intro x

theorem goes_execEvinc (h : Hdr) (i : BitVec 4) (b : SrcB) (s : State) : Goes s (execEvinc h i b s) := by
  unfold execEvinc
  exact goes_issue _ _ _ _ fun e s => Calm.ite ((calm_retire ..).trans (calm_count ..)) (calm_retire ..)

theorem goes_execLogfl (h : Hdr) (s : State) : Goes s (execLogfl h s) := by
  unfold execLogfl
  repeat' first
    | with_reducible exact Calm.rfl
    | with_reducible refine goes_issue _ _ _ _ ?_
    | with_reducible refine Calm.trans ?_ (calm_retire _ _ _)
    | with_reducible refine Calm.trans ?_ (calm_emptyLog _ _)
    | with_reducible refine Calm.trans ?_ (calm_start _ _ _)
    | split
    | intro x

theorem goes_execPsamp (h : Hdr) (code : BitVec 8) (s : State) : Goes s (execPsamp h code s) := by
  unfold execPsamp
  repeat' first
    | with_reducible exact Calm.rfl
    | with_reducible refine goes_issue _ _ _ _ ?_
    | with_reducible refine Calm.trans ?_ (calm_modSlot _ _ _ _ _)
    | with_reducible refine Calm.trans ?_ (calm_retire _ _ _)
    | split
    | intro x

theorem goes_execStopr (h : Hdr) (code : BitVec 8) (s : State) : Goes s (execStopr h code s) := by
  unfold execStopr
  repeat' first
    | with_reducible exact Calm.rfl
    | with_reducible refine goes_issue _ _ _ _ ?_
    | with_reducible refine Calm.trans ?_ (calm_stopRope _ _ _ _)
    | with_reducible refine Calm.trans ?_ (calm_retire _ _ _)
    | with_reducible refine Calm.ite ?_ ?_
    | intro x

theorem goes_execUnassignedOpcode (w : Word) (s : State) : Goes s (execUnassignedOpcode w s) := by
  unfold execUnassignedOpcode
  dsimp only
  split
  · next hh => exact .inl ⟨hh, rfl⟩
  · exact .next (calm_trapAt ..)

theorem goes_execCabs2 (h t m o s) : Goes s (execCabs2 h t m o s) := by unfold execCabs2; exact goes_fpu ..

theorem goes_execCadd (h t m o s) : Goes s (execCadd h t m o s) := by unfold execCadd; exact goes_fpu ..

theorem goes_execCfma (h t m o s) : Goes s (execCfma h t m o s) := by unfold execCfma; exact goes_fpu ..

theorem goes_execCmul (h t m o s) : Goes s (execCmul h t m o s) := by unfold execCmul; exact goes_fpu ..

theorem goes_execFadd (h t m o s) : Goes s (execFadd h t m o s) := by unfold execFadd; exact goes_fpu ..

theorem goes_execFadd3 (h m o s) : Goes s (execFadd3 h m o s) := by unfold execFadd3; exact goes_fpu ..

theorem goes_execFclamp (h t m o s) : Goes s (execFclamp h t m o s) := by unfold execFclamp; exact goes_fpu ..

theorem goes_execFclass (h t o s) : Goes s (execFclass h t o s) := by unfold execFclass; exact goes_fpu ..

theorem goes_execFdp2 (h t m o s) : Goes s (execFdp2 h t m o s) := by unfold execFdp2; exact goes_fpu ..

theorem goes_execFdp4 (h e5 m o s) : Goes s (execFdp4 h e5 m o s) := by unfold execFdp4; exact goes_fpu ..

theorem goes_execFfma (h t m o s) : Goes s (execFfma h t m o s) := by unfold execFfma; exact goes_fpu ..

theorem goes_execFmax (h t m o s) : Goes s (execFmax h t m o s) := by unfold execFmax; exact goes_fpu ..

theorem goes_execFmed3 (h t m o s) : Goes s (execFmed3 h t m o s) := by unfold execFmed3; exact goes_fpu ..

theorem goes_execFmin (h t m o s) : Goes s (execFmin h t m o s) := by unfold execFmin; exact goes_fpu ..

theorem goes_execFmul (h t m o s) : Goes s (execFmul h t m o s) := by unfold execFmul; exact goes_fpu ..

theorem goes_execFrnd (h t m o s) : Goes s (execFrnd h t m o s) := by unfold execFrnd; exact goes_fpu ..

theorem goes_execFscale (h t m o s) : Goes s (execFscale h t m o s) := by unfold execFscale; exact goes_fpu ..

theorem goes_execFset (h t cc m o s) : Goes s (execFset h t cc m o s) := by unfold execFset; exact goes_fpu ..

theorem goes_xchg (h : Hdr) (o : DA) (src : Nat → Nat) (a0 : State) : Goes a0 (xchg h o src a0) := by
  unfold xchg
  repeat' first
    | with_reducible refine goes_aluGrp _ _ _ _ _

theorem goes_execQswpH (h o s) : Goes s (execQswpH h o s) := by unfold execQswpH; exact goes_xchg ..

theorem goes_pairWord (h : Hdr) (f1 : Bool) (f2 : Bool) (p : PairOp) (q : PairOp) (a0 : State) : Goes a0 (pairWord h f1 f2 p q a0) := by
  unfold pairWord
  repeat' first
    | with_reducible refine goes_fpu _ _ _ _

theorem goes_execPairFF (h p q s) : Goes s (execPairFF h p q s) := by unfold execPairFF; exact goes_pairWord ..

theorem goes_execPairFI (h p q s) : Goes s (execPairFI h p q s) := by unfold execPairFI; exact goes_pairWord ..

theorem goes_execPairFX (h p q s) : Goes s (execPairFX h p q s) := by unfold execPairFX; exact goes_pairWord ..

theorem goes_execPairII (h : Hdr) (p : PairOp) (q : PairOp) (a0 : State) : Goes a0 (execPairII h p q a0) := by
  unfold execPairII
  repeat' first
    | with_reducible refine goes_pairWord _ _ _ _ _ _

theorem goes_execQswpV (h o s) : Goes s (execQswpV h o s) := by unfold execQswpV; exact goes_xchg ..
theorem goes_execQswpD (h o s) : Goes s (execQswpD h o s) := by unfold execQswpD; exact goes_xchg ..
theorem goes_execQbcst (h k o s) : Goes s (execQbcst h k o s) := by unfold execQbcst; exact goes_xchg ..
theorem goes_execQred (h op u f32 o s) : Goes s (execQred h op u f32 o s) := by unfold execQred; exact goes_aluGrp ..
theorem goes_execShfl (h mode seg o s) : Goes s (execShfl h mode seg o s) := by unfold execShfl; exact goes_aluGrp ..
theorem goes_execVoteAny (h o s) : Goes s (execVoteAny h o s) := by unfold execVoteAny; exact goes_aluGrp ..
theorem goes_execVoteAll (h o s) : Goes s (execVoteAll h o s) := by unfold execVoteAll; exact goes_aluGrp ..
theorem goes_execVoteBal (h o s) : Goes s (execVoteBal h o s) := by unfold execVoteBal; exact goes_aluGrp ..
theorem goes_execMatchLanes (h o s) : Goes s (execMatchLanes h o s) := by unfold execMatchLanes; exact goes_aluGrp ..
theorem goes_execLred (h op u f32 o s) : Goes s (execLred h op u f32 o s) := by unfold execLred; exact goes_aluGrp ..
theorem goes_execLscan (h op u exc o s) : Goes s (execLscan h op u exc o s) := by unfold execLscan; exact goes_aluGrp ..
theorem goes_execSadd (h m o s) : Goes s (execSadd h m o s) := by unfold execSadd; exact goes_uni32 ..
theorem goes_execSsub (h m o s) : Goes s (execSsub h m o s) := by unfold execSsub; exact goes_uni32 ..
theorem goes_execSadd64 (h o s) : Goes s (execSadd64 h o s) := by unfold execSadd64; exact goes_uni ..
theorem goes_execSmul (h o s) : Goes s (execSmul h o s) := by unfold execSmul; exact goes_uni32 ..
theorem goes_execSmad (h o s) : Goes s (execSmad h o s) := by unfold execSmad; exact goes_uni32 ..
theorem goes_execSmin (h u o s) : Goes s (execSmin h u o s) := by unfold execSmin; exact goes_uni32 ..
theorem goes_execSmax (h u o s) : Goes s (execSmax h u o s) := by unfold execSmax; exact goes_uni32 ..
theorem goes_execSshl (h o s) : Goes s (execSshl h o s) := by unfold execSshl; exact goes_uni32 ..
theorem goes_execSshr (h o s) : Goes s (execSshr h o s) := by unfold execSshr; exact goes_uni32 ..
theorem goes_execSshra (h o s) : Goes s (execSshra h o s) := by unfold execSshra; exact goes_uni32 ..
theorem goes_execSlogt (h o lut s) : Goes s (execSlogt h o lut s) := by unfold execSlogt; exact goes_uni32 ..
theorem goes_execSpopc (h o s) : Goes s (execSpopc h o s) := by unfold execSpopc; exact goes_uni32 ..
theorem goes_execSclz (h o s) : Goes s (execSclz h o s) := by unfold execSclz; exact goes_uni32 ..
theorem goes_execSbfe (h u o s) : Goes s (execSbfe h u o s) := by unfold execSbfe; exact goes_uni32 ..
theorem goes_execSbfi (h o s) : Goes s (execSbfi h o s) := by unfold execSbfi; exact goes_uni32 ..
theorem goes_execSset (h cc u o s) : Goes s (execSset h cc u o s) := by unfold execSset; exact goes_uni32 ..
theorem goes_execSmov (h o s) : Goes s (execSmov h o s) := by unfold execSmov; exact goes_uni32 ..
theorem goes_execSmovi (h d imm s) : Goes s (execSmovi h d imm s) := by unfold execSmovi; exact goes_uni32 ..
theorem goes_execSlea (h u sh o s) : Goes s (execSlea h u sh o s) := by unfold execSlea; exact goes_uni ..
theorem goes_execAtomg (h op m d x s) : Goes s (execAtomg h op m d x s) := by unfold execAtomg; exact goes_atomic ..
theorem goes_execAtomgCas (h m d base cmp new off s) : Goes s (execAtomgCas h m d base cmp new off s) := by unfold execAtomgCas; exact goes_atomic ..
theorem goes_execAtoms (h op m d x s) : Goes s (execAtoms h op m d x s) := by unfold execAtoms; exact goes_atomic ..
theorem goes_execAtomsCas (h m d base cmp new off s) : Goes s (execAtomsCas h m d base cmp new off s) := by unfold execAtomsCas; exact goes_atomic ..
theorem goes_execRedg (h op m x s) : Goes s (execRedg h op m x s) := by unfold execRedg; exact goes_atomic ..
theorem goes_execCctlWb (h all adr s) : Goes s (execCctlWb h all adr s) := by unfold execCctlWb; exact goes_cctl ..
theorem goes_execCctlInv (h all adr s) : Goes s (execCctlInv h all adr s) := by unfold execCctlInv; exact goes_cctl ..
theorem goes_execTcopy (h tok bar d a b c off s) : Goes s (execTcopy h tok bar d a b c off s) := by unfold execTcopy; exact goes_tensorCopy ..
theorem goes_execTcopys (h tok bar d a b c off s) : Goes s (execTcopys h tok bar d a b c off s) := by unfold execTcopys; exact goes_tensorCopy ..
theorem goes_execTcopyx (h tok bar d a b c off s) : Goes s (execTcopyx h tok bar d a b c off s) := by unfold execTcopyx; exact goes_tensorCopy ..
theorem goes_execTcopyr (h tok bar d a b c off s) : Goes s (execTcopyr h tok bar d a b c off s) := by unfold execTcopyr; exact goes_tensorCopy ..
theorem goes_execDecwBit (h tok sg d a c nb s) : Goes s (execDecwBit h tok sg d a c nb s) := by unfold execDecwBit; exact goes_decodeIssue ..
theorem goes_execDecwDlt (h tok sg d a c nb s) : Goes s (execDecwDlt h tok sg d a c nb s) := by unfold execDecwDlt; exact goes_decodeIssue ..
theorem goes_execDecwRle (h tok sg d a c nb s) : Goes s (execDecwRle h tok sg d a c nb s) := by unfold execDecwRle; exact goes_decodeIssue ..
theorem goes_execTld (h fmt hdr sp t a b off s) : Goes s (execTld h fmt hdr sp t a b off s) := by unfold execTld; exact goes_tileLoad ..
theorem goes_execTldX (h fmt hdr sp t a b off s) : Goes s (execTldX h fmt hdr sp t a b off s) := by unfold execTldX; exact goes_tileLoad ..
theorem goes_execTst (h fmt hdr sp t a b off s) : Goes s (execTst h fmt hdr sp t a b off s) := by unfold execTst; exact goes_tileStore ..
theorem goes_execTstX (h fmt hdr sp t a b off s) : Goes s (execTstX h fmt hdr sp t a b off s) := by unfold execTstX; exact goes_tileStore ..
theorem goes_execTzeroTile (h t s) : Goes s (execTzeroTile h t s) := by unfold execTzeroTile; exact goes_tileNow ..
theorem goes_execTzeroAcc (h n s) : Goes s (execTzeroAcc h n s) := by unfold execTzeroAcc; exact goes_tileNow ..
theorem goes_execTmov (h td ts s) : Goes s (execTmov h td ts s) := by unfold execTmov; exact goes_tileNow ..
theorem goes_execTtrn (h td ts s) : Goes s (execTtrn h td ts s) := by unfold execTtrn; exact goes_tileNow ..
theorem goes_execTbmp (h t s) : Goes s (execTbmp h t s) := by unfold execTbmp; exact goes_tileNow ..
theorem goes_execMma (h b4 tb ta sf s) : Goes s (execMma h b4 tb ta sf s) := by unfold execMma; exact goes_quartet ..
theorem goes_execMmas (h b4 tb ta sf s) : Goes s (execMmas h b4 tb ta sf s) := by unfold execMmas; exact goes_quartet ..
theorem goes_execMmaf (h tb ta sf s) : Goes s (execMmaf h tb ta sf s) := by unfold execMmaf; exact goes_quartet ..
theorem goes_execXfwd (h c td ts s) : Goes s (execXfwd h c td ts s) := by unfold execXfwd; exact goes_transform ..
theorem goes_execXinv (h fold sat td ts s) : Goes s (execXinv h fold sat td ts s) := by unfold execXinv; exact goes_transform ..

/-- Every instruction and event but those that set the device's own registers goes on so. -/
theorem goes_exec (s : State) (i : Instr) (hi : i.setsDevice = false) : Goes s (exec i s) := by
  cases i with
  | iadd _ _ _ => exact goes_execIadd ..
  | isub _ _ _ => exact goes_execIsub ..
  | iadd3 _ _ _ => exact goes_execIadd3 ..
  | iaddc _ _ _ => exact goes_execIaddc ..
  | isubb _ _ _ => exact goes_execIsubb ..
  | iadd64 _ _ => exact goes_execIadd64 ..
  | isub64 _ _ => exact goes_execIsub64 ..
  | imul _ _ => exact goes_execImul ..
  | imulhiS _ _ => exact goes_execImulhiS ..
  | imulhiU _ _ => exact goes_execImulhiU ..
  | imad _ _ => exact goes_execImad ..
  | imadwS _ _ => exact goes_execImadwS ..
  | imadwU _ _ => exact goes_execImadwU ..
  | iabs _ _ _ => exact goes_execIabs ..
  | iminS _ _ => exact goes_execIminS ..
  | iminU _ _ => exact goes_execIminU ..
  | imaxS _ _ => exact goes_execImaxS ..
  | imaxU _ _ => exact goes_execImaxU ..
  | iclampS _ _ => exact goes_execIclampS ..
  | iclampU _ _ => exact goes_execIclampU ..
  | ishl _ _ => exact goes_execIshl ..
  | ishr _ _ => exact goes_execIshr ..
  | ishra _ _ => exact goes_execIshra ..
  | shfL _ _ => exact goes_execShfL ..
  | shfR _ _ => exact goes_execShfR ..
  | irot _ _ => exact goes_execIrot ..
  | isad _ _ _ => exact goes_execIsad ..
  | idp4S _ _ => exact goes_execIdp4S ..
  | idp4U _ _ => exact goes_execIdp4U ..
  | idp2 _ _ _ => exact goes_execIdp2 ..
  | popc _ _ => exact goes_execPopc ..
  | clz _ _ => exact goes_execClz ..
  | ctz _ _ => exact goes_execCtz ..
  | brev _ _ => exact goes_execBrev ..
  | bfeS _ _ => exact goes_execBfeS ..
  | bfeU _ _ => exact goes_execBfeU ..
  | bfi _ _ => exact goes_execBfi ..
  | logt _ _ _ => exact goes_execLogt ..
  | prmt _ _ => exact goes_execPrmt ..
  | sel _ _ => exact goes_execSel ..
  | isetS _ _ _ => exact goes_execIsetS ..
  | isetU _ _ _ => exact goes_execIsetU ..
  | iset64 _ _ _ _ => exact goes_execIset64 ..
  | imov _ _ => exact goes_execImov ..
  | movi _ _ _ => exact goes_execMovi ..
  | lea _ _ _ => exact goes_execLea ..
  | lea64 _ _ _ _ => exact goes_execLea64 ..
  | pset _ _ _ => exact goes_execPset ..
  | iaddH2 _ _ _ => exact goes_execIaddH2 ..
  | isubH2 _ _ _ => exact goes_execIsubH2 ..
  | imulH2 _ _ => exact goes_execImulH2 ..
  | imadH2 _ _ => exact goes_execImadH2 ..
  | iminH2 _ _ _ => exact goes_execIminH2 ..
  | imaxH2 _ _ _ => exact goes_execImaxH2 ..
  | ishlH2 _ _ => exact goes_execIshlH2 ..
  | isetH2 _ _ _ _ => exact goes_execIsetH2 ..
  | fadd _ _ _ _ => exact goes_execFadd ..
  | fmul _ _ _ _ => exact goes_execFmul ..
  | ffma _ _ _ _ => exact goes_execFfma ..
  | fmin _ _ _ _ => exact goes_execFmin ..
  | fmax _ _ _ _ => exact goes_execFmax ..
  | fset _ _ _ _ _ => exact goes_execFset ..
  | fclamp _ _ _ _ => exact goes_execFclamp ..
  | fadd3 _ _ _ => exact goes_execFadd3 ..
  | fmed3 _ _ _ _ => exact goes_execFmed3 ..
  | fdp2 _ _ _ _ => exact goes_execFdp2 ..
  | fdp4 _ _ _ _ => exact goes_execFdp4 ..
  | frnd _ _ _ _ => exact goes_execFrnd ..
  | fscale _ _ _ _ => exact goes_execFscale ..
  | fclass _ _ _ => exact goes_execFclass ..
  | cadd _ _ _ _ => exact goes_execCadd ..
  | cmul _ _ _ _ => exact goes_execCmul ..
  | cfma _ _ _ _ => exact goes_execCfma ..
  | cabs2 _ _ _ _ => exact goes_execCabs2 ..
  | frcp _ _ _ _ _ => exact goes_execFrcp ..
  | frsq _ _ _ _ _ => exact goes_execFrsq ..
  | fsqrt _ _ _ _ _ => exact goes_execFsqrt ..
  | fexp2 _ _ _ _ _ => exact goes_execFexp2 ..
  | flog2 _ _ _ _ _ => exact goes_execFlog2 ..
  | fsin _ _ _ _ _ => exact goes_execFsin ..
  | fcos _ _ _ _ _ => exact goes_execFcos ..
  | ftanh _ _ _ _ _ => exact goes_execFtanh ..
  | fsigm _ _ _ _ _ => exact goes_execFsigm ..
  | fgelu _ _ _ _ _ => exact goes_execFgelu ..
  | sfuComplete _ _ => exact .inr (goes_execSfuComplete ..)
  | cvtf _ _ _ _ _ _ => exact goes_execCvtf ..
  | cvtfSr _ _ _ _ _ _ => exact goes_execCvtfSr ..
  | cvtfi _ _ _ _ _ => exact goes_execCvtfi ..
  | cvtif _ _ _ _ _ => exact goes_execCvtif ..
  | cvtii _ _ _ _ _ => exact goes_execCvtii ..
  | packh _ _ _ => exact goes_execPackh ..
  | packb _ _ _ => exact goes_execPackb ..
  | packf8 _ _ _ _ _ => exact goes_execPackf8 ..
  | packmx _ _ _ _ _ _ _ => exact goes_execPackmx ..
  | unpkmx _ _ _ _ _ _ _ => exact goes_execUnpkmx ..
  | packt5 _ _ => exact goes_execPackt5 ..
  | unpkt5 _ _ _ => exact goes_execUnpkt5 ..
  | cbdec _ _ _ _ _ _ _ _ _ => exact goes_execCbdec ..
  | cpack _ _ => exact goes_execCpack ..
  | cpackU _ _ _ => exact goes_execCpackU ..
  | pairFF _ _ _ => exact goes_execPairFF ..
  | pairFI _ _ _ => exact goes_execPairFI ..
  | pairII _ _ _ => exact goes_execPairII ..
  | pairFX _ _ _ => exact goes_execPairFX ..
  | qswpH _ _ => exact goes_execQswpH ..
  | qswpV _ _ => exact goes_execQswpV ..
  | qswpD _ _ => exact goes_execQswpD ..
  | qbcst _ _ _ => exact goes_execQbcst ..
  | qred _ _ _ _ _ => exact goes_execQred ..
  | qhelp _ _ => exact goes_execQhelp ..
  | shfl _ _ _ _ => exact goes_execShfl ..
  | voteAny _ _ => exact goes_execVoteAny ..
  | voteAll _ _ => exact goes_execVoteAll ..
  | voteBal _ _ => exact goes_execVoteBal ..
  | matchLanes _ _ => exact goes_execMatchLanes ..
  | lred _ _ _ _ _ => exact goes_execLred ..
  | lscan _ _ _ _ _ => exact goes_execLscan ..
  | sadd _ _ _ => exact goes_execSadd ..
  | ssub _ _ _ => exact goes_execSsub ..
  | sadd64 _ _ => exact goes_execSadd64 ..
  | smul _ _ => exact goes_execSmul ..
  | smad _ _ => exact goes_execSmad ..
  | smin _ _ _ => exact goes_execSmin ..
  | smax _ _ _ => exact goes_execSmax ..
  | sshl _ _ => exact goes_execSshl ..
  | sshr _ _ => exact goes_execSshr ..
  | sshra _ _ => exact goes_execSshra ..
  | slogt _ _ _ => exact goes_execSlogt ..
  | spopc _ _ => exact goes_execSpopc ..
  | sclz _ _ => exact goes_execSclz ..
  | sbfe _ _ _ => exact goes_execSbfe ..
  | sbfi _ _ => exact goes_execSbfi ..
  | sset _ _ _ _ => exact goes_execSset ..
  | smov _ _ => exact goes_execSmov ..
  | smovi _ _ _ => exact goes_execSmovi ..
  | slea _ _ _ _ => exact goes_execSlea ..
  | s2v _ _ => exact goes_execS2v ..
  | v2s _ _ => exact goes_execV2s ..
  | srdsr _ _ _ => exact goes_execSrdsr ..
  | swrsr _ _ _ => exact goes_execSwrsr ..
  | bra _ _ _ => exact goes_execBra ..
  | braDivergent _ _ _ => exact goes_execBraDivergent ..
  | brau _ _ => exact goes_execBrau ..
  | brx _ _ => exact goes_execBrx ..
  | call _ _ _ => exact goes_execCall ..
  | callx _ _ _ => exact goes_execCallx ..
  | ret _ _ => exact goes_execRet ..
  | join _ => exact goes_execJoin ..
  | loop _ _ _ => exact goes_execLoop ..
  | exit _ => exact goes_execExit ..
  | nop _ => exact goes_execNop ..
  | yield _ => exact goes_execYield ..
  | yieldExpiry _ _ _ => exact .inr (goes_execYieldExpiry ..)
  | trap _ _ => exact goes_execTrap ..
  | bkpt _ _ => exact goes_execBkpt ..
  | tret _ => exact goes_execTret ..
  | tretSkip _ => exact goes_execTretSkip ..
  | mark _ _ => exact goes_execMark ..
  | markImm _ _ _ => exact goes_execMarkImm ..
  | clauseWaitRelease _ _ _ => exact .inr (goes_execClauseWaitRelease ..)
  | ldg _ _ _ _ => exact goes_execLdg ..
  | ldgNc _ _ _ _ => exact goes_execLdgNc ..
  | ldacq _ _ _ _ _ => exact goes_execLdacq ..
  | ldb _ _ _ _ => exact goes_execLdb ..
  | stg _ _ _ _ => exact goes_execStg ..
  | strel _ _ _ _ _ => exact goes_execStrel ..
  | lds _ _ _ _ => exact goes_execLds ..
  | ldsX _ _ _ _ _ => exact goes_execLdsX ..
  | sts _ _ _ _ => exact goes_execSts ..
  | ldc _ _ _ _ => exact goes_execLdc ..
  | ldl _ _ _ _ => exact goes_execLdl ..
  | stl _ _ _ _ => exact goes_execStl ..
  | atomg _ _ _ _ _ => exact goes_execAtomg ..
  | atomgCas _ _ _ _ _ _ _ => exact goes_execAtomgCas ..
  | atoms _ _ _ _ _ => exact goes_execAtoms ..
  | atomsCas _ _ _ _ _ _ _ => exact goes_execAtomsCas ..
  | redg _ _ _ _ => exact goes_execRedg ..
  | storeQueueLeave _ _ _ => exact .inr (goes_execStoreQueueLeave ..)
  | memoryReplay _ _ _ => exact .inr (goes_execMemoryReplay ..)
  | loadComplete _ _ _ => exact .inr (goes_execLoadComplete ..)
  | bchk _ _ => exact goes_execBchk ..
  | bclr _ => exact goes_execBclr ..
  | belayAnswer _ _ => exact .inr (goes_execBelayAnswer ..)
  | homeValidate _ _ _ => exact .inr (goes_execHomeValidate ..)
  | belayRoundSelfInvalidate _ => exact .inr (goes_execBelayRoundSelfInvalidate ..)
  | fence _ _ _ => exact goes_execFence ..
  | acqr _ _ _ => exact goes_execAcqr ..
  | anch _ _ _ => exact goes_execAnch ..
  | await _ => exact goes_execAwait ..
  | awaitTimeout _ _ => exact .inr (goes_execAwaitTimeout ..)
  | prefL2 _ _ => exact goes_execPrefL2 ..
  | prefLlc _ _ => exact goes_execPrefLlc ..
  | gpref _ _ => exact goes_execGpref ..
  | cctlWb _ _ _ => exact goes_execCctlWb ..
  | cctlInv _ _ _ => exact goes_execCctlInv ..
  | localWriteback _ _ _ => exact .inr (goes_execLocalWriteback ..)
  | binit _ _ _ => exact goes_execBinit ..
  | barv _ _ _ _ _ _ => exact goes_execBarv ..
  | bexp _ _ _ => exact goes_execBexp ..
  | btry _ _ _ _ _ => exact goes_execBtry ..
  | bwait _ _ _ _ => exact goes_execBwait ..
  | binval _ _ => exact goes_execBinval ..
  | barwg _ _ _ => exact goes_execBarwg ..
  | barrp _ _ => exact goes_execBarrp ..
  | qresv _ _ _ _ _ => exact goes_execQresv ..
  | qput _ _ _ _ => exact goes_execQput ..
  | qcommit _ _ _ _ _ => exact goes_execQcommit ..
  | qsig _ _ _ _ _ => exact goes_execQsig ..
  | tcopy _ _ _ _ _ _ _ _ => exact goes_execTcopy ..
  | tcopys _ _ _ _ _ _ _ _ => exact goes_execTcopys ..
  | tcopyx _ _ _ _ _ _ _ _ => exact goes_execTcopyx ..
  | tcopyr _ _ _ _ _ _ _ _ => exact goes_execTcopyr ..
  | copyComplete _ _ => exact .inr (goes_execCopyComplete ..)
  | chain _ _ _ _ => exact goes_execChain ..
  | chstat _ _ _ => exact goes_execChstat ..
  | chainRecord _ _ => exact .inr (goes_execChainRecord ..)
  | decwBit _ _ _ _ _ _ _ => exact goes_execDecwBit ..
  | decwDlt _ _ _ _ _ _ _ => exact goes_execDecwDlt ..
  | decwRle _ _ _ _ _ _ _ => exact goes_execDecwRle ..
  | decodeComplete _ => exact .inr (goes_execDecodeComplete ..)
  | topk _ _ _ _ _ _ _ _ => exact goes_execTopk ..
  | resid _ _ _ _ _ _ => exact goes_execResid ..
  | topkComplete _ => exact .inr (goes_execTopkComplete ..)
  | bstart _ _ _ _ => exact goes_execBstart ..
  | bpop _ _ _ => exact goes_execBpop ..
  | bpush _ _ _ => exact goes_execBpush ..
  | bstop _ => exact goes_execBstop ..
  | tld _ _ _ _ _ _ _ _ => exact goes_execTld ..
  | tldX _ _ _ _ _ _ _ _ => exact goes_execTldX ..
  | tst _ _ _ _ _ _ _ _ => exact goes_execTst ..
  | tstX _ _ _ _ _ _ _ _ => exact goes_execTstX ..
  | tzeroTile _ _ => exact goes_execTzeroTile ..
  | tzeroAcc _ _ => exact goes_execTzeroAcc ..
  | tmov _ _ _ => exact goes_execTmov ..
  | ttrn _ _ _ => exact goes_execTtrn ..
  | tbmp _ _ => exact goes_execTbmp ..
  | ttagWr _ _ _ _ => exact goes_execTtagWr ..
  | ttagRd _ _ _ _ => exact goes_execTtagRd ..
  | mma _ _ _ _ _ => exact goes_execMma ..
  | mmas _ _ _ _ _ => exact goes_execMmas ..
  | mmaf _ _ _ _ => exact goes_execMmaf ..
  | matrixComplete _ _ => exact .inr (goes_execMatrixComplete ..)
  | xfwd _ _ _ _ => exact goes_execXfwd ..
  | xinv _ _ _ _ _ => exact goes_execXinv ..
  | transformService _ => exact .inr (goes_execTransformService ..)
  | accrd _ _ _ _ _ => exact goes_execAccrd ..
  | accwr _ _ _ _ _ => exact goes_execAccwr ..
  | accout _ _ _ _ _ => exact goes_execAccout ..
  | fbchk _ _ _ _ => exact goes_execFbchk ..
  | cbld _ _ _ _ => exact goes_execCbld ..
  | cbldTakeover _ _ => exact .inr (goes_execCbldTakeover ..)
  | fillc _ _ => exact goes_execFillc ..
  | filla _ => exact goes_execFilla ..
  | fillq _ _ _ => exact goes_execFillq ..
  | ftinfo _ _ _ _ => exact goes_execFtinfo ..
  | fillv _ _ => exact goes_execFillv ..
  | stopr _ _ => exact goes_execStopr ..
  | psamp _ _ => exact goes_execPsamp ..
  | logfl _ => exact goes_execLogfl ..
  | evinc _ _ _ => exact goes_execEvinc ..
  | allotmentRelease _ _ => exact .inr (goes_execAllotmentRelease ..)
  | workgroupPlace _ _ => exact .inr (goes_execWorkgroupPlace ..)
  | ropePlace _ _ _ _ => exact .inr (goes_execRopePlace ..)
  | ropeWaitReserve _ _ _ _ => exact .inr (goes_execRopeWaitReserve ..)
  | launchAging _ => exact .inr (goes_execLaunchAging ..)
  | starvationPromote _ _ _ => exact .inr (goes_execStarvationPromote ..)
  | throttleWindowEnd _ => exact .inr (goes_execThrottleWindowEnd ..)
  | pageWalk _ _ _ => exact .inr (goes_execPageWalk ..)
  | fltrespRetry _ => exact .inr (goes_execFltrespRetry ..)
  | fltrespUnresolved _ => exact .inr (goes_execFltrespUnresolved ..)
  | ringRecordWrite _ => exact .inr (goes_execRingRecordWrite ..)
  | counterSweep => exact .inr (goes_execCounterSweep ..)
  | preemptPre _ => exact .inr (goes_execPreemptPre ..)
  | preemptRes _ => exact .inr (goes_execPreemptRes ..)
  | preemptKill _ => exact .inr (goes_execPreemptKill ..)
  | groupSave _ _ => exact .inr (goes_execGroupSave ..)
  | preemptOverrun _ _ _ => exact .inr (goes_execPreemptOverrun ..)
  | groupResume _ _ => exact .inr (goes_execGroupResume ..)
  | ropeStop _ => exact .inr (goes_execRopeStop ..)
  | dbgcmdStop _ _ => exact .inr (goes_execDbgcmdStop ..)
  | dbgcmdResume _ _ => exact .inr (goes_execDbgcmdResume ..)
  | homeMiss _ _ _ => exact .inr (goes_execHomeMiss ..)
  | fillLaunch _ _ => exact .inr (goes_execFillLaunch ..)
  | implicitFilla _ => exact .inr (goes_execImplicitFilla ..)
  | heldRequesterResend _ => exact .inr (goes_execHeldRequesterResend ..)
  | llcEviction _ _ => exact .inr (goes_execLlcEviction ..)
  | vsbaseWrite _ => exact nomatch hi
  | vssizeWrite _ => exact nomatch hi
  | qkick _ => exact .inr (goes_execQkick ..)
  | queueStep => exact .inr (goes_execQueueStep ..)
  | barrierPacket _ _ => exact .inr (goes_execBarrierPacket ..)
  | copyPacket _ _ _ => exact .inr (goes_execCopyPacket ..)
  | inval _ _ => exact .inr (goes_execInval ..)
  | packetComplete _ _ => exact .inr (goes_execPacketComplete ..)
  | hostRequest _ _ _ => exact .inr (goes_execHostRequest ..)
  | peerInboundRequest _ _ _ _ => exact .inr (goes_execPeerInboundRequest ..)
  | registerPacket _ _ _ _ _ => exact nomatch hi
  | msiForward _ _ => exact .inr (goes_execMsiForward ..)
  | fabcfgWrite _ => exact .inr (goes_execFabcfgWrite ..)
  | portstatWrite p v => exact .inr (goes_execPortstatWrite p v s)
  | flitReceive _ _ => exact .inr (goes_execFlitReceive ..)
  | nakReceive _ _ => exact .inr (goes_execNakReceive ..)
  | ackTimeoutRetrain _ => exact .inr (goes_execAckTimeoutRetrain ..)
  | portTrainingDone _ _ => exact .inr (goes_execPortTrainingDone ..)
  | portFail _ _ => exact .inr (goes_execPortFail ..)
  | peerTimeout _ => exact .inr (goes_execPeerTimeout ..)
  | coldReset _ _ _ _ => exact nomatch hi
  | basecampTestResult _ => exact nomatch hi
  | enterRun => exact nomatch hi
  | freezeAssert => exact nomatch hi
  | freezeDeassert => exact .inr (goes_execFreezeDeassert ..)
  | securityAlarm _ => exact nomatch hi
  | powerThrottle _ _ => exact .inr (goes_execPowerThrottle ..)
  | thermalTrip => exact nomatch hi
  | registerWrite _ _ _ => exact nomatch hi
  | clkAdvance _ => exact .inr (goes_execClkAdvance ..)
  | unassignedOpcode w => exact goes_execUnassignedOpcode w s
  | ucieLinkTraining _ _ => exact nomatch hi
  | debugUnlock _ => exact nomatch hi

/-- An event goes on whether or not a stream is at issue. -/
theorem onward_event (s : State) (i : Instr) (hi : i.setsDevice = false) (he : isEvent i = true) : Onward s (exec i s) := by
  cases i
  case sfuComplete _ _ => exact goes_execSfuComplete ..
  case yieldExpiry _ _ _ => exact goes_execYieldExpiry ..
  case clauseWaitRelease _ _ _ => exact goes_execClauseWaitRelease ..
  case storeQueueLeave _ _ _ => exact goes_execStoreQueueLeave ..
  case memoryReplay _ _ _ => exact goes_execMemoryReplay ..
  case loadComplete _ _ _ => exact goes_execLoadComplete ..
  case belayAnswer _ _ => exact goes_execBelayAnswer ..
  case homeValidate _ _ _ => exact goes_execHomeValidate ..
  case belayRoundSelfInvalidate _ => exact goes_execBelayRoundSelfInvalidate ..
  case awaitTimeout _ _ => exact goes_execAwaitTimeout ..
  case localWriteback _ _ _ => exact goes_execLocalWriteback ..
  case copyComplete _ _ => exact goes_execCopyComplete ..
  case chainRecord _ _ => exact goes_execChainRecord ..
  case decodeComplete _ => exact goes_execDecodeComplete ..
  case topkComplete _ => exact goes_execTopkComplete ..
  case matrixComplete _ _ => exact goes_execMatrixComplete ..
  case transformService _ => exact goes_execTransformService ..
  case cbldTakeover _ _ => exact goes_execCbldTakeover ..
  case allotmentRelease _ _ => exact goes_execAllotmentRelease ..
  case workgroupPlace _ _ => exact goes_execWorkgroupPlace ..
  case ropePlace _ _ _ _ => exact goes_execRopePlace ..
  case ropeWaitReserve _ _ _ _ => exact goes_execRopeWaitReserve ..
  case launchAging _ => exact goes_execLaunchAging ..
  case starvationPromote _ _ _ => exact goes_execStarvationPromote ..
  case throttleWindowEnd _ => exact goes_execThrottleWindowEnd ..
  case pageWalk _ _ _ => exact goes_execPageWalk ..
  case fltrespRetry _ => exact goes_execFltrespRetry ..
  case fltrespUnresolved _ => exact goes_execFltrespUnresolved ..
  case ringRecordWrite _ => exact goes_execRingRecordWrite ..
  case counterSweep => exact goes_execCounterSweep ..
  case preemptPre _ => exact goes_execPreemptPre ..
  case preemptRes _ => exact goes_execPreemptRes ..
  case preemptKill _ => exact goes_execPreemptKill ..
  case groupSave _ _ => exact goes_execGroupSave ..
  case preemptOverrun _ _ _ => exact goes_execPreemptOverrun ..
  case groupResume _ _ => exact goes_execGroupResume ..
  case ropeStop _ => exact goes_execRopeStop ..
  case dbgcmdStop _ _ => exact goes_execDbgcmdStop ..
  case dbgcmdResume _ _ => exact goes_execDbgcmdResume ..
  case homeMiss _ _ _ => exact goes_execHomeMiss ..
  case fillLaunch _ _ => exact goes_execFillLaunch ..
  case implicitFilla _ => exact goes_execImplicitFilla ..
  case heldRequesterResend _ => exact goes_execHeldRequesterResend ..
  case llcEviction _ _ => exact goes_execLlcEviction ..
  case qkick _ => exact goes_execQkick ..
  case queueStep => exact goes_execQueueStep ..
  case barrierPacket _ _ => exact goes_execBarrierPacket ..
  case copyPacket _ _ _ => exact goes_execCopyPacket ..
  case inval _ _ => exact goes_execInval ..
  case packetComplete _ _ => exact goes_execPacketComplete ..
  case hostRequest _ _ _ => exact goes_execHostRequest ..
  case peerInboundRequest _ _ _ _ => exact goes_execPeerInboundRequest ..
  case msiForward _ _ => exact goes_execMsiForward ..
  case fabcfgWrite _ => exact goes_execFabcfgWrite ..
  case portstatWrite p v => exact goes_execPortstatWrite p v s
  case flitReceive _ _ => exact goes_execFlitReceive ..
  case nakReceive _ _ => exact goes_execNakReceive ..
  case ackTimeoutRetrain _ => exact goes_execAckTimeoutRetrain ..
  case portTrainingDone _ _ => exact goes_execPortTrainingDone ..
  case portFail _ _ => exact goes_execPortFail ..
  case peerTimeout _ => exact goes_execPeerTimeout ..
  case freezeDeassert => exact goes_execFreezeDeassert ..
  case powerThrottle _ _ => exact goes_execPowerThrottle ..
  case clkAdvance _ => exact goes_execClkAdvance ..
  all_goals first | exact Bool.noConfusion he | exact Bool.noConfusion hi | (simp [isEvent, Instr.toRaw] at he; done)

end Sys2Proof.Machine
end

