-- ==== Sys2Proof/Laws/State.lean ====
section
/-! SUPPORT. Each update of a part of the state leaves every other field as it was: one lemma per update and field. -/

namespace Sys2Proof.Machine

variable (s : State)

@[simp] theorem State.modCore_mem (c : Nat) (f : Core → Core) : (s.modCore c f).mem = s.mem := rfl
@[simp] theorem State.modCore_peerMem (c : Nat) (f : Core → Core) : (s.modCore c f).peerMem = s.peerMem := rfl
@[simp] theorem State.modCore_eccBad (c : Nat) (f : Core → Core) : (s.modCore c f).eccBad = s.eccBad := rfl
@[simp] theorem State.modCore_versions (c : Nat) (f : Core → Core) : (s.modCore c f).versions = s.versions := rfl
@[simp] theorem State.modCore_verRound (c : Nat) (f : Core → Core) : (s.modCore c f).verRound = s.verRound := rfl
@[simp] theorem State.modCore_roundNo (c : Nat) (f : Core → Core) : (s.modCore c f).roundNo = s.roundNo := rfl
@[simp] theorem State.modCore_roundSeen (c : Nat) (f : Core → Core) : (s.modCore c f).roundSeen = s.roundSeen := rfl
@[simp] theorem State.modCore_roundPeers (c : Nat) (f : Core → Core) : (s.modCore c f).roundPeers = s.roundPeers := rfl
@[simp] theorem State.modCore_hostBad (c : Nat) (f : Core → Core) : (s.modCore c f).hostBad = s.hostBad := rfl
@[simp] theorem State.modCore_groups (c : Nat) (f : Core → Core) : (s.modCore c f).groups = s.groups := rfl
@[simp] theorem State.modCore_clusters (c : Nat) (f : Core → Core) : (s.modCore c f).clusters = s.clusters := rfl
@[simp] theorem State.modCore_launches (c : Nat) (f : Core → Core) : (s.modCore c f).launches = s.launches := rfl
@[simp] theorem State.modCore_wgs (c : Nat) (f : Core → Core) : (s.modCore c f).wgs = s.wgs := rfl
@[simp] theorem State.modCore_ropes (c : Nat) (f : Core → Core) : (s.modCore c f).ropes = s.ropes := rfl
@[simp] theorem State.modCore_genLines (c : Nat) (f : Core → Core) : (s.modCore c f).genLines = s.genLines := rfl
@[simp] theorem State.modCore_trackers (c : Nat) (f : Core → Core) : (s.modCore c f).trackers = s.trackers := rfl
@[simp] theorem State.modCore_parkSeq (c : Nat) (f : Core → Core) : (s.modCore c f).parkSeq = s.parkSeq := rfl
@[simp] theorem State.modCore_genTables (c : Nat) (f : Core → Core) : (s.modCore c f).genTables = s.genTables := rfl
@[simp] theorem State.modCore_vsSeq (c : Nat) (f : Core → Core) : (s.modCore c f).vsSeq = s.vsSeq := rfl
@[simp] theorem State.modCore_faults (c : Nat) (f : Core → Core) : (s.modCore c f).faults = s.faults := rfl
@[simp] theorem State.modCore_wbHeld (c : Nat) (f : Core → Core) : (s.modCore c f).wbHeld = s.wbHeld := rfl
@[simp] theorem State.modCore_devHeld (c : Nat) (f : Core → Core) : (s.modCore c f).devHeld = s.devHeld := rfl
@[simp] theorem State.modCore_rings (c : Nat) (f : Core → Core) : (s.modCore c f).rings = s.rings := rfl
@[simp] theorem State.modCore_rptSeq (c : Nat) (f : Core → Core) : (s.modCore c f).rptSeq = s.rptSeq := rfl
@[simp] theorem State.modCore_wps (c : Nat) (f : Core → Core) : (s.modCore c f).wps = s.wps := rfl
@[simp] theorem State.modCore_queues (c : Nat) (f : Core → Core) : (s.modCore c f).queues = s.queues := rfl
@[simp] theorem State.modCore_packets (c : Nat) (f : Core → Core) : (s.modCore c f).packets = s.packets := rfl
@[simp] theorem State.modCore_invals (c : Nat) (f : Core → Core) : (s.modCore c f).invals = s.invals := rfl
@[simp] theorem State.modCore_chans (c : Nat) (f : Core → Core) : (s.modCore c f).chans = s.chans := rfl
@[simp] theorem State.modCore_ports (c : Nat) (f : Core → Core) : (s.modCore c f).ports = s.ports := rfl
@[simp] theorem State.modCore_peerReqs (c : Nat) (f : Core → Core) : (s.modCore c f).peerReqs = s.peerReqs := rfl
@[simp] theorem State.modCore_devstate (c : Nat) (f : Core → Core) : (s.modCore c f).devstate = s.devstate := rfl
@[simp] theorem State.modCore_plim (c : Nat) (f : Core → Core) : (s.modCore c f).plim = s.plim := rfl
@[simp] theorem State.modCore_qtabbase (c : Nat) (f : Core → Core) : (s.modCore c f).qtabbase = s.qtabbase := rfl
@[simp] theorem State.modCore_ctxbase (c : Nat) (f : Core → Core) : (s.modCore c f).ctxbase = s.ctxbase := rfl
@[simp] theorem State.modCore_preempt (c : Nat) (f : Core → Core) : (s.modCore c f).preempt = s.preempt := rfl
@[simp] theorem State.modCore_cntbase (c : Nat) (f : Core → Core) : (s.modCore c f).cntbase = s.cntbase := rfl
@[simp] theorem State.modCore_sampper (c : Nat) (f : Core → Core) : (s.modCore c f).sampper = s.sampper := rfl
@[simp] theorem State.modCore_vsbase (c : Nat) (f : Core → Core) : (s.modCore c f).vsbase = s.vsbase := rfl
@[simp] theorem State.modCore_vssize (c : Nat) (f : Core → Core) : (s.modCore c f).vssize = s.vssize := rfl
@[simp] theorem State.modCore_vserr (c : Nat) (f : Core → Core) : (s.modCore c f).vserr = s.vserr := rfl
@[simp] theorem State.modCore_fabcfg (c : Nat) (f : Core → Core) : (s.modCore c f).fabcfg = s.fabcfg := rfl
@[simp] theorem State.modCore_fabNext (c : Nat) (f : Core → Core) : (s.modCore c f).fabNext = s.fabNext := rfl
@[simp] theorem State.modCore_msix (c : Nat) (f : Core → Core) : (s.modCore c f).msix = s.msix := rfl
@[simp] theorem State.modCore_msiPend (c : Nat) (f : Core → Core) : (s.modCore c f).msiPend = s.msiPend := rfl
@[simp] theorem State.modCore_msiSent (c : Nat) (f : Core → Core) : (s.modCore c f).msiSent = s.msiSent := rfl
@[simp] theorem State.modCore_hostErr (c : Nat) (f : Core → Core) : (s.modCore c f).hostErr = s.hostErr := rfl
@[simp] theorem State.modCore_halves (c : Nat) (f : Core → Core) : (s.modCore c f).halves = s.halves := rfl
@[simp] theorem State.modCore_counters (c : Nat) (f : Core → Core) : (s.modCore c f).counters = s.counters := rfl
@[simp] theorem State.modCore_swept (c : Nat) (f : Core → Core) : (s.modCore c f).swept = s.swept := rfl
@[simp] theorem State.modCore_life (c : Nat) (f : Core → Core) : (s.modCore c f).life = s.life := rfl
@[simp] theorem State.modCore_serial (c : Nat) (f : Core → Core) : (s.modCore c f).serial = s.serial := rfl
@[simp] theorem State.modCore_agenda (c : Nat) (f : Core → Core) : (s.modCore c f).agenda = s.agenda := rfl
@[simp] theorem State.modCore_cur (c : Nat) (f : Core → Core) : (s.modCore c f).cur = s.cur := rfl
@[simp] theorem State.modCore_stuck (c : Nat) (f : Core → Core) : (s.modCore c f).stuck = s.stuck := rfl

@[simp] theorem State.modGroup_mem (c ctx : Nat) (f : Group → Group) : (s.modGroup c ctx f).mem = s.mem := rfl
@[simp] theorem State.modGroup_peerMem (c ctx : Nat) (f : Group → Group) : (s.modGroup c ctx f).peerMem = s.peerMem := rfl
@[simp] theorem State.modGroup_eccBad (c ctx : Nat) (f : Group → Group) : (s.modGroup c ctx f).eccBad = s.eccBad := rfl
@[simp] theorem State.modGroup_versions (c ctx : Nat) (f : Group → Group) : (s.modGroup c ctx f).versions = s.versions := rfl
@[simp] theorem State.modGroup_verRound (c ctx : Nat) (f : Group → Group) : (s.modGroup c ctx f).verRound = s.verRound := rfl
@[simp] theorem State.modGroup_roundNo (c ctx : Nat) (f : Group → Group) : (s.modGroup c ctx f).roundNo = s.roundNo := rfl
@[simp] theorem State.modGroup_roundSeen (c ctx : Nat) (f : Group → Group) : (s.modGroup c ctx f).roundSeen = s.roundSeen := rfl
@[simp] theorem State.modGroup_roundPeers (c ctx : Nat) (f : Group → Group) : (s.modGroup c ctx f).roundPeers = s.roundPeers := rfl
@[simp] theorem State.modGroup_hostBad (c ctx : Nat) (f : Group → Group) : (s.modGroup c ctx f).hostBad = s.hostBad := rfl
@[simp] theorem State.modGroup_cores (c ctx : Nat) (f : Group → Group) : (s.modGroup c ctx f).cores = s.cores := rfl
@[simp] theorem State.modGroup_clusters (c ctx : Nat) (f : Group → Group) : (s.modGroup c ctx f).clusters = s.clusters := rfl
@[simp] theorem State.modGroup_launches (c ctx : Nat) (f : Group → Group) : (s.modGroup c ctx f).launches = s.launches := rfl
@[simp] theorem State.modGroup_wgs (c ctx : Nat) (f : Group → Group) : (s.modGroup c ctx f).wgs = s.wgs := rfl
@[simp] theorem State.modGroup_ropes (c ctx : Nat) (f : Group → Group) : (s.modGroup c ctx f).ropes = s.ropes := rfl
@[simp] theorem State.modGroup_genLines (c ctx : Nat) (f : Group → Group) : (s.modGroup c ctx f).genLines = s.genLines := rfl
@[simp] theorem State.modGroup_trackers (c ctx : Nat) (f : Group → Group) : (s.modGroup c ctx f).trackers = s.trackers := rfl
@[simp] theorem State.modGroup_parkSeq (c ctx : Nat) (f : Group → Group) : (s.modGroup c ctx f).parkSeq = s.parkSeq := rfl
@[simp] theorem State.modGroup_genTables (c ctx : Nat) (f : Group → Group) : (s.modGroup c ctx f).genTables = s.genTables := rfl
@[simp] theorem State.modGroup_vsSeq (c ctx : Nat) (f : Group → Group) : (s.modGroup c ctx f).vsSeq = s.vsSeq := rfl
@[simp] theorem State.modGroup_faults (c ctx : Nat) (f : Group → Group) : (s.modGroup c ctx f).faults = s.faults := rfl
@[simp] theorem State.modGroup_wbHeld (c ctx : Nat) (f : Group → Group) : (s.modGroup c ctx f).wbHeld = s.wbHeld := rfl
@[simp] theorem State.modGroup_devHeld (c ctx : Nat) (f : Group → Group) : (s.modGroup c ctx f).devHeld = s.devHeld := rfl
@[simp] theorem State.modGroup_rings (c ctx : Nat) (f : Group → Group) : (s.modGroup c ctx f).rings = s.rings := rfl
@[simp] theorem State.modGroup_rptSeq (c ctx : Nat) (f : Group → Group) : (s.modGroup c ctx f).rptSeq = s.rptSeq := rfl
@[simp] theorem State.modGroup_wps (c ctx : Nat) (f : Group → Group) : (s.modGroup c ctx f).wps = s.wps := rfl
@[simp] theorem State.modGroup_queues (c ctx : Nat) (f : Group → Group) : (s.modGroup c ctx f).queues = s.queues := rfl
@[simp] theorem State.modGroup_packets (c ctx : Nat) (f : Group → Group) : (s.modGroup c ctx f).packets = s.packets := rfl
@[simp] theorem State.modGroup_invals (c ctx : Nat) (f : Group → Group) : (s.modGroup c ctx f).invals = s.invals := rfl
@[simp] theorem State.modGroup_chans (c ctx : Nat) (f : Group → Group) : (s.modGroup c ctx f).chans = s.chans := rfl
@[simp] theorem State.modGroup_ports (c ctx : Nat) (f : Group → Group) : (s.modGroup c ctx f).ports = s.ports := rfl
@[simp] theorem State.modGroup_peerReqs (c ctx : Nat) (f : Group → Group) : (s.modGroup c ctx f).peerReqs = s.peerReqs := rfl
@[simp] theorem State.modGroup_devstate (c ctx : Nat) (f : Group → Group) : (s.modGroup c ctx f).devstate = s.devstate := rfl
@[simp] theorem State.modGroup_plim (c ctx : Nat) (f : Group → Group) : (s.modGroup c ctx f).plim = s.plim := rfl
@[simp] theorem State.modGroup_qtabbase (c ctx : Nat) (f : Group → Group) : (s.modGroup c ctx f).qtabbase = s.qtabbase := rfl
@[simp] theorem State.modGroup_ctxbase (c ctx : Nat) (f : Group → Group) : (s.modGroup c ctx f).ctxbase = s.ctxbase := rfl
@[simp] theorem State.modGroup_preempt (c ctx : Nat) (f : Group → Group) : (s.modGroup c ctx f).preempt = s.preempt := rfl
@[simp] theorem State.modGroup_cntbase (c ctx : Nat) (f : Group → Group) : (s.modGroup c ctx f).cntbase = s.cntbase := rfl
@[simp] theorem State.modGroup_sampper (c ctx : Nat) (f : Group → Group) : (s.modGroup c ctx f).sampper = s.sampper := rfl
@[simp] theorem State.modGroup_vsbase (c ctx : Nat) (f : Group → Group) : (s.modGroup c ctx f).vsbase = s.vsbase := rfl
@[simp] theorem State.modGroup_vssize (c ctx : Nat) (f : Group → Group) : (s.modGroup c ctx f).vssize = s.vssize := rfl
@[simp] theorem State.modGroup_vserr (c ctx : Nat) (f : Group → Group) : (s.modGroup c ctx f).vserr = s.vserr := rfl
@[simp] theorem State.modGroup_fabcfg (c ctx : Nat) (f : Group → Group) : (s.modGroup c ctx f).fabcfg = s.fabcfg := rfl
@[simp] theorem State.modGroup_fabNext (c ctx : Nat) (f : Group → Group) : (s.modGroup c ctx f).fabNext = s.fabNext := rfl
@[simp] theorem State.modGroup_msix (c ctx : Nat) (f : Group → Group) : (s.modGroup c ctx f).msix = s.msix := rfl
@[simp] theorem State.modGroup_msiPend (c ctx : Nat) (f : Group → Group) : (s.modGroup c ctx f).msiPend = s.msiPend := rfl
@[simp] theorem State.modGroup_msiSent (c ctx : Nat) (f : Group → Group) : (s.modGroup c ctx f).msiSent = s.msiSent := rfl
@[simp] theorem State.modGroup_hostErr (c ctx : Nat) (f : Group → Group) : (s.modGroup c ctx f).hostErr = s.hostErr := rfl
@[simp] theorem State.modGroup_halves (c ctx : Nat) (f : Group → Group) : (s.modGroup c ctx f).halves = s.halves := rfl
@[simp] theorem State.modGroup_counters (c ctx : Nat) (f : Group → Group) : (s.modGroup c ctx f).counters = s.counters := rfl
@[simp] theorem State.modGroup_swept (c ctx : Nat) (f : Group → Group) : (s.modGroup c ctx f).swept = s.swept := rfl
@[simp] theorem State.modGroup_life (c ctx : Nat) (f : Group → Group) : (s.modGroup c ctx f).life = s.life := rfl
@[simp] theorem State.modGroup_serial (c ctx : Nat) (f : Group → Group) : (s.modGroup c ctx f).serial = s.serial := rfl
@[simp] theorem State.modGroup_agenda (c ctx : Nat) (f : Group → Group) : (s.modGroup c ctx f).agenda = s.agenda := rfl
@[simp] theorem State.modGroup_cur (c ctx : Nat) (f : Group → Group) : (s.modGroup c ctx f).cur = s.cur := rfl
@[simp] theorem State.modGroup_stuck (c ctx : Nat) (f : Group → Group) : (s.modGroup c ctx f).stuck = s.stuck := rfl

@[simp] theorem State.modCluster_mem (k : Nat) (f : Cluster → Cluster) : (s.modCluster k f).mem = s.mem := rfl
@[simp] theorem State.modCluster_peerMem (k : Nat) (f : Cluster → Cluster) : (s.modCluster k f).peerMem = s.peerMem := rfl
@[simp] theorem State.modCluster_eccBad (k : Nat) (f : Cluster → Cluster) : (s.modCluster k f).eccBad = s.eccBad := rfl
@[simp] theorem State.modCluster_versions (k : Nat) (f : Cluster → Cluster) : (s.modCluster k f).versions = s.versions := rfl
@[simp] theorem State.modCluster_verRound (k : Nat) (f : Cluster → Cluster) : (s.modCluster k f).verRound = s.verRound := rfl
@[simp] theorem State.modCluster_roundNo (k : Nat) (f : Cluster → Cluster) : (s.modCluster k f).roundNo = s.roundNo := rfl
@[simp] theorem State.modCluster_roundSeen (k : Nat) (f : Cluster → Cluster) : (s.modCluster k f).roundSeen = s.roundSeen := rfl
@[simp] theorem State.modCluster_roundPeers (k : Nat) (f : Cluster → Cluster) : (s.modCluster k f).roundPeers = s.roundPeers := rfl
@[simp] theorem State.modCluster_hostBad (k : Nat) (f : Cluster → Cluster) : (s.modCluster k f).hostBad = s.hostBad := rfl
@[simp] theorem State.modCluster_groups (k : Nat) (f : Cluster → Cluster) : (s.modCluster k f).groups = s.groups := rfl
@[simp] theorem State.modCluster_cores (k : Nat) (f : Cluster → Cluster) : (s.modCluster k f).cores = s.cores := rfl
@[simp] theorem State.modCluster_launches (k : Nat) (f : Cluster → Cluster) : (s.modCluster k f).launches = s.launches := rfl
@[simp] theorem State.modCluster_wgs (k : Nat) (f : Cluster → Cluster) : (s.modCluster k f).wgs = s.wgs := rfl
@[simp] theorem State.modCluster_ropes (k : Nat) (f : Cluster → Cluster) : (s.modCluster k f).ropes = s.ropes := rfl
@[simp] theorem State.modCluster_genLines (k : Nat) (f : Cluster → Cluster) : (s.modCluster k f).genLines = s.genLines := rfl
@[simp] theorem State.modCluster_trackers (k : Nat) (f : Cluster → Cluster) : (s.modCluster k f).trackers = s.trackers := rfl
@[simp] theorem State.modCluster_parkSeq (k : Nat) (f : Cluster → Cluster) : (s.modCluster k f).parkSeq = s.parkSeq := rfl
@[simp] theorem State.modCluster_genTables (k : Nat) (f : Cluster → Cluster) : (s.modCluster k f).genTables = s.genTables := rfl
@[simp] theorem State.modCluster_vsSeq (k : Nat) (f : Cluster → Cluster) : (s.modCluster k f).vsSeq = s.vsSeq := rfl
@[simp] theorem State.modCluster_faults (k : Nat) (f : Cluster → Cluster) : (s.modCluster k f).faults = s.faults := rfl
@[simp] theorem State.modCluster_wbHeld (k : Nat) (f : Cluster → Cluster) : (s.modCluster k f).wbHeld = s.wbHeld := rfl
@[simp] theorem State.modCluster_devHeld (k : Nat) (f : Cluster → Cluster) : (s.modCluster k f).devHeld = s.devHeld := rfl
@[simp] theorem State.modCluster_rings (k : Nat) (f : Cluster → Cluster) : (s.modCluster k f).rings = s.rings := rfl
@[simp] theorem State.modCluster_rptSeq (k : Nat) (f : Cluster → Cluster) : (s.modCluster k f).rptSeq = s.rptSeq := rfl
@[simp] theorem State.modCluster_wps (k : Nat) (f : Cluster → Cluster) : (s.modCluster k f).wps = s.wps := rfl
@[simp] theorem State.modCluster_queues (k : Nat) (f : Cluster → Cluster) : (s.modCluster k f).queues = s.queues := rfl
@[simp] theorem State.modCluster_packets (k : Nat) (f : Cluster → Cluster) : (s.modCluster k f).packets = s.packets := rfl
@[simp] theorem State.modCluster_invals (k : Nat) (f : Cluster → Cluster) : (s.modCluster k f).invals = s.invals := rfl
@[simp] theorem State.modCluster_chans (k : Nat) (f : Cluster → Cluster) : (s.modCluster k f).chans = s.chans := rfl
@[simp] theorem State.modCluster_ports (k : Nat) (f : Cluster → Cluster) : (s.modCluster k f).ports = s.ports := rfl
@[simp] theorem State.modCluster_peerReqs (k : Nat) (f : Cluster → Cluster) : (s.modCluster k f).peerReqs = s.peerReqs := rfl
@[simp] theorem State.modCluster_devstate (k : Nat) (f : Cluster → Cluster) : (s.modCluster k f).devstate = s.devstate := rfl
@[simp] theorem State.modCluster_plim (k : Nat) (f : Cluster → Cluster) : (s.modCluster k f).plim = s.plim := rfl
@[simp] theorem State.modCluster_qtabbase (k : Nat) (f : Cluster → Cluster) : (s.modCluster k f).qtabbase = s.qtabbase := rfl
@[simp] theorem State.modCluster_ctxbase (k : Nat) (f : Cluster → Cluster) : (s.modCluster k f).ctxbase = s.ctxbase := rfl
@[simp] theorem State.modCluster_preempt (k : Nat) (f : Cluster → Cluster) : (s.modCluster k f).preempt = s.preempt := rfl
@[simp] theorem State.modCluster_cntbase (k : Nat) (f : Cluster → Cluster) : (s.modCluster k f).cntbase = s.cntbase := rfl
@[simp] theorem State.modCluster_sampper (k : Nat) (f : Cluster → Cluster) : (s.modCluster k f).sampper = s.sampper := rfl
@[simp] theorem State.modCluster_vsbase (k : Nat) (f : Cluster → Cluster) : (s.modCluster k f).vsbase = s.vsbase := rfl
@[simp] theorem State.modCluster_vssize (k : Nat) (f : Cluster → Cluster) : (s.modCluster k f).vssize = s.vssize := rfl
@[simp] theorem State.modCluster_vserr (k : Nat) (f : Cluster → Cluster) : (s.modCluster k f).vserr = s.vserr := rfl
@[simp] theorem State.modCluster_fabcfg (k : Nat) (f : Cluster → Cluster) : (s.modCluster k f).fabcfg = s.fabcfg := rfl
@[simp] theorem State.modCluster_fabNext (k : Nat) (f : Cluster → Cluster) : (s.modCluster k f).fabNext = s.fabNext := rfl
@[simp] theorem State.modCluster_msix (k : Nat) (f : Cluster → Cluster) : (s.modCluster k f).msix = s.msix := rfl
@[simp] theorem State.modCluster_msiPend (k : Nat) (f : Cluster → Cluster) : (s.modCluster k f).msiPend = s.msiPend := rfl
@[simp] theorem State.modCluster_msiSent (k : Nat) (f : Cluster → Cluster) : (s.modCluster k f).msiSent = s.msiSent := rfl
@[simp] theorem State.modCluster_hostErr (k : Nat) (f : Cluster → Cluster) : (s.modCluster k f).hostErr = s.hostErr := rfl
@[simp] theorem State.modCluster_halves (k : Nat) (f : Cluster → Cluster) : (s.modCluster k f).halves = s.halves := rfl
@[simp] theorem State.modCluster_counters (k : Nat) (f : Cluster → Cluster) : (s.modCluster k f).counters = s.counters := rfl
@[simp] theorem State.modCluster_swept (k : Nat) (f : Cluster → Cluster) : (s.modCluster k f).swept = s.swept := rfl
@[simp] theorem State.modCluster_life (k : Nat) (f : Cluster → Cluster) : (s.modCluster k f).life = s.life := rfl
@[simp] theorem State.modCluster_serial (k : Nat) (f : Cluster → Cluster) : (s.modCluster k f).serial = s.serial := rfl
@[simp] theorem State.modCluster_agenda (k : Nat) (f : Cluster → Cluster) : (s.modCluster k f).agenda = s.agenda := rfl
@[simp] theorem State.modCluster_cur (k : Nat) (f : Cluster → Cluster) : (s.modCluster k f).cur = s.cur := rfl
@[simp] theorem State.modCluster_stuck (k : Nat) (f : Cluster → Cluster) : (s.modCluster k f).stuck = s.stuck := rfl

@[simp] theorem State.modLaunch_mem (l : Nat) (f : Launch → Launch) : (s.modLaunch l f).mem = s.mem := rfl
@[simp] theorem State.modLaunch_peerMem (l : Nat) (f : Launch → Launch) : (s.modLaunch l f).peerMem = s.peerMem := rfl
@[simp] theorem State.modLaunch_eccBad (l : Nat) (f : Launch → Launch) : (s.modLaunch l f).eccBad = s.eccBad := rfl
@[simp] theorem State.modLaunch_versions (l : Nat) (f : Launch → Launch) : (s.modLaunch l f).versions = s.versions := rfl
@[simp] theorem State.modLaunch_verRound (l : Nat) (f : Launch → Launch) : (s.modLaunch l f).verRound = s.verRound := rfl
@[simp] theorem State.modLaunch_roundNo (l : Nat) (f : Launch → Launch) : (s.modLaunch l f).roundNo = s.roundNo := rfl
@[simp] theorem State.modLaunch_roundSeen (l : Nat) (f : Launch → Launch) : (s.modLaunch l f).roundSeen = s.roundSeen := rfl
@[simp] theorem State.modLaunch_roundPeers (l : Nat) (f : Launch → Launch) : (s.modLaunch l f).roundPeers = s.roundPeers := rfl
@[simp] theorem State.modLaunch_hostBad (l : Nat) (f : Launch → Launch) : (s.modLaunch l f).hostBad = s.hostBad := rfl
@[simp] theorem State.modLaunch_groups (l : Nat) (f : Launch → Launch) : (s.modLaunch l f).groups = s.groups := rfl
@[simp] theorem State.modLaunch_cores (l : Nat) (f : Launch → Launch) : (s.modLaunch l f).cores = s.cores := rfl
@[simp] theorem State.modLaunch_clusters (l : Nat) (f : Launch → Launch) : (s.modLaunch l f).clusters = s.clusters := rfl
@[simp] theorem State.modLaunch_wgs (l : Nat) (f : Launch → Launch) : (s.modLaunch l f).wgs = s.wgs := rfl
@[simp] theorem State.modLaunch_ropes (l : Nat) (f : Launch → Launch) : (s.modLaunch l f).ropes = s.ropes := rfl
@[simp] theorem State.modLaunch_genLines (l : Nat) (f : Launch → Launch) : (s.modLaunch l f).genLines = s.genLines := rfl
@[simp] theorem State.modLaunch_trackers (l : Nat) (f : Launch → Launch) : (s.modLaunch l f).trackers = s.trackers := rfl
@[simp] theorem State.modLaunch_parkSeq (l : Nat) (f : Launch → Launch) : (s.modLaunch l f).parkSeq = s.parkSeq := rfl
@[simp] theorem State.modLaunch_genTables (l : Nat) (f : Launch → Launch) : (s.modLaunch l f).genTables = s.genTables := rfl
@[simp] theorem State.modLaunch_vsSeq (l : Nat) (f : Launch → Launch) : (s.modLaunch l f).vsSeq = s.vsSeq := rfl
@[simp] theorem State.modLaunch_faults (l : Nat) (f : Launch → Launch) : (s.modLaunch l f).faults = s.faults := rfl
@[simp] theorem State.modLaunch_wbHeld (l : Nat) (f : Launch → Launch) : (s.modLaunch l f).wbHeld = s.wbHeld := rfl
@[simp] theorem State.modLaunch_devHeld (l : Nat) (f : Launch → Launch) : (s.modLaunch l f).devHeld = s.devHeld := rfl
@[simp] theorem State.modLaunch_rings (l : Nat) (f : Launch → Launch) : (s.modLaunch l f).rings = s.rings := rfl
@[simp] theorem State.modLaunch_rptSeq (l : Nat) (f : Launch → Launch) : (s.modLaunch l f).rptSeq = s.rptSeq := rfl
@[simp] theorem State.modLaunch_wps (l : Nat) (f : Launch → Launch) : (s.modLaunch l f).wps = s.wps := rfl
@[simp] theorem State.modLaunch_queues (l : Nat) (f : Launch → Launch) : (s.modLaunch l f).queues = s.queues := rfl
@[simp] theorem State.modLaunch_packets (l : Nat) (f : Launch → Launch) : (s.modLaunch l f).packets = s.packets := rfl
@[simp] theorem State.modLaunch_invals (l : Nat) (f : Launch → Launch) : (s.modLaunch l f).invals = s.invals := rfl
@[simp] theorem State.modLaunch_chans (l : Nat) (f : Launch → Launch) : (s.modLaunch l f).chans = s.chans := rfl
@[simp] theorem State.modLaunch_ports (l : Nat) (f : Launch → Launch) : (s.modLaunch l f).ports = s.ports := rfl
@[simp] theorem State.modLaunch_peerReqs (l : Nat) (f : Launch → Launch) : (s.modLaunch l f).peerReqs = s.peerReqs := rfl
@[simp] theorem State.modLaunch_devstate (l : Nat) (f : Launch → Launch) : (s.modLaunch l f).devstate = s.devstate := rfl
@[simp] theorem State.modLaunch_plim (l : Nat) (f : Launch → Launch) : (s.modLaunch l f).plim = s.plim := rfl
@[simp] theorem State.modLaunch_qtabbase (l : Nat) (f : Launch → Launch) : (s.modLaunch l f).qtabbase = s.qtabbase := rfl
@[simp] theorem State.modLaunch_ctxbase (l : Nat) (f : Launch → Launch) : (s.modLaunch l f).ctxbase = s.ctxbase := rfl
@[simp] theorem State.modLaunch_preempt (l : Nat) (f : Launch → Launch) : (s.modLaunch l f).preempt = s.preempt := rfl
@[simp] theorem State.modLaunch_cntbase (l : Nat) (f : Launch → Launch) : (s.modLaunch l f).cntbase = s.cntbase := rfl
@[simp] theorem State.modLaunch_sampper (l : Nat) (f : Launch → Launch) : (s.modLaunch l f).sampper = s.sampper := rfl
@[simp] theorem State.modLaunch_vsbase (l : Nat) (f : Launch → Launch) : (s.modLaunch l f).vsbase = s.vsbase := rfl
@[simp] theorem State.modLaunch_vssize (l : Nat) (f : Launch → Launch) : (s.modLaunch l f).vssize = s.vssize := rfl
@[simp] theorem State.modLaunch_vserr (l : Nat) (f : Launch → Launch) : (s.modLaunch l f).vserr = s.vserr := rfl
@[simp] theorem State.modLaunch_fabcfg (l : Nat) (f : Launch → Launch) : (s.modLaunch l f).fabcfg = s.fabcfg := rfl
@[simp] theorem State.modLaunch_fabNext (l : Nat) (f : Launch → Launch) : (s.modLaunch l f).fabNext = s.fabNext := rfl
@[simp] theorem State.modLaunch_msix (l : Nat) (f : Launch → Launch) : (s.modLaunch l f).msix = s.msix := rfl
@[simp] theorem State.modLaunch_msiPend (l : Nat) (f : Launch → Launch) : (s.modLaunch l f).msiPend = s.msiPend := rfl
@[simp] theorem State.modLaunch_msiSent (l : Nat) (f : Launch → Launch) : (s.modLaunch l f).msiSent = s.msiSent := rfl
@[simp] theorem State.modLaunch_hostErr (l : Nat) (f : Launch → Launch) : (s.modLaunch l f).hostErr = s.hostErr := rfl
@[simp] theorem State.modLaunch_halves (l : Nat) (f : Launch → Launch) : (s.modLaunch l f).halves = s.halves := rfl
@[simp] theorem State.modLaunch_counters (l : Nat) (f : Launch → Launch) : (s.modLaunch l f).counters = s.counters := rfl
@[simp] theorem State.modLaunch_swept (l : Nat) (f : Launch → Launch) : (s.modLaunch l f).swept = s.swept := rfl
@[simp] theorem State.modLaunch_life (l : Nat) (f : Launch → Launch) : (s.modLaunch l f).life = s.life := rfl
@[simp] theorem State.modLaunch_serial (l : Nat) (f : Launch → Launch) : (s.modLaunch l f).serial = s.serial := rfl
@[simp] theorem State.modLaunch_agenda (l : Nat) (f : Launch → Launch) : (s.modLaunch l f).agenda = s.agenda := rfl
@[simp] theorem State.modLaunch_cur (l : Nat) (f : Launch → Launch) : (s.modLaunch l f).cur = s.cur := rfl
@[simp] theorem State.modLaunch_stuck (l : Nat) (f : Launch → Launch) : (s.modLaunch l f).stuck = s.stuck := rfl

@[simp] theorem State.modWg_mem (w : Nat) (f : Wg → Wg) : (s.modWg w f).mem = s.mem := rfl
@[simp] theorem State.modWg_peerMem (w : Nat) (f : Wg → Wg) : (s.modWg w f).peerMem = s.peerMem := rfl
@[simp] theorem State.modWg_eccBad (w : Nat) (f : Wg → Wg) : (s.modWg w f).eccBad = s.eccBad := rfl
@[simp] theorem State.modWg_versions (w : Nat) (f : Wg → Wg) : (s.modWg w f).versions = s.versions := rfl
@[simp] theorem State.modWg_verRound (w : Nat) (f : Wg → Wg) : (s.modWg w f).verRound = s.verRound := rfl
@[simp] theorem State.modWg_roundNo (w : Nat) (f : Wg → Wg) : (s.modWg w f).roundNo = s.roundNo := rfl
@[simp] theorem State.modWg_roundSeen (w : Nat) (f : Wg → Wg) : (s.modWg w f).roundSeen = s.roundSeen := rfl
@[simp] theorem State.modWg_roundPeers (w : Nat) (f : Wg → Wg) : (s.modWg w f).roundPeers = s.roundPeers := rfl
@[simp] theorem State.modWg_hostBad (w : Nat) (f : Wg → Wg) : (s.modWg w f).hostBad = s.hostBad := rfl
@[simp] theorem State.modWg_groups (w : Nat) (f : Wg → Wg) : (s.modWg w f).groups = s.groups := rfl
@[simp] theorem State.modWg_cores (w : Nat) (f : Wg → Wg) : (s.modWg w f).cores = s.cores := rfl
@[simp] theorem State.modWg_clusters (w : Nat) (f : Wg → Wg) : (s.modWg w f).clusters = s.clusters := rfl
@[simp] theorem State.modWg_launches (w : Nat) (f : Wg → Wg) : (s.modWg w f).launches = s.launches := rfl
@[simp] theorem State.modWg_ropes (w : Nat) (f : Wg → Wg) : (s.modWg w f).ropes = s.ropes := rfl
@[simp] theorem State.modWg_genLines (w : Nat) (f : Wg → Wg) : (s.modWg w f).genLines = s.genLines := rfl
@[simp] theorem State.modWg_trackers (w : Nat) (f : Wg → Wg) : (s.modWg w f).trackers = s.trackers := rfl
@[simp] theorem State.modWg_parkSeq (w : Nat) (f : Wg → Wg) : (s.modWg w f).parkSeq = s.parkSeq := rfl
@[simp] theorem State.modWg_genTables (w : Nat) (f : Wg → Wg) : (s.modWg w f).genTables = s.genTables := rfl
@[simp] theorem State.modWg_vsSeq (w : Nat) (f : Wg → Wg) : (s.modWg w f).vsSeq = s.vsSeq := rfl
@[simp] theorem State.modWg_faults (w : Nat) (f : Wg → Wg) : (s.modWg w f).faults = s.faults := rfl
@[simp] theorem State.modWg_wbHeld (w : Nat) (f : Wg → Wg) : (s.modWg w f).wbHeld = s.wbHeld := rfl
@[simp] theorem State.modWg_devHeld (w : Nat) (f : Wg → Wg) : (s.modWg w f).devHeld = s.devHeld := rfl
@[simp] theorem State.modWg_rings (w : Nat) (f : Wg → Wg) : (s.modWg w f).rings = s.rings := rfl
@[simp] theorem State.modWg_rptSeq (w : Nat) (f : Wg → Wg) : (s.modWg w f).rptSeq = s.rptSeq := rfl
@[simp] theorem State.modWg_wps (w : Nat) (f : Wg → Wg) : (s.modWg w f).wps = s.wps := rfl
@[simp] theorem State.modWg_queues (w : Nat) (f : Wg → Wg) : (s.modWg w f).queues = s.queues := rfl
@[simp] theorem State.modWg_packets (w : Nat) (f : Wg → Wg) : (s.modWg w f).packets = s.packets := rfl
@[simp] theorem State.modWg_invals (w : Nat) (f : Wg → Wg) : (s.modWg w f).invals = s.invals := rfl
@[simp] theorem State.modWg_chans (w : Nat) (f : Wg → Wg) : (s.modWg w f).chans = s.chans := rfl
@[simp] theorem State.modWg_ports (w : Nat) (f : Wg → Wg) : (s.modWg w f).ports = s.ports := rfl
@[simp] theorem State.modWg_peerReqs (w : Nat) (f : Wg → Wg) : (s.modWg w f).peerReqs = s.peerReqs := rfl
@[simp] theorem State.modWg_devstate (w : Nat) (f : Wg → Wg) : (s.modWg w f).devstate = s.devstate := rfl
@[simp] theorem State.modWg_plim (w : Nat) (f : Wg → Wg) : (s.modWg w f).plim = s.plim := rfl
@[simp] theorem State.modWg_qtabbase (w : Nat) (f : Wg → Wg) : (s.modWg w f).qtabbase = s.qtabbase := rfl
@[simp] theorem State.modWg_ctxbase (w : Nat) (f : Wg → Wg) : (s.modWg w f).ctxbase = s.ctxbase := rfl
@[simp] theorem State.modWg_preempt (w : Nat) (f : Wg → Wg) : (s.modWg w f).preempt = s.preempt := rfl
@[simp] theorem State.modWg_cntbase (w : Nat) (f : Wg → Wg) : (s.modWg w f).cntbase = s.cntbase := rfl
@[simp] theorem State.modWg_sampper (w : Nat) (f : Wg → Wg) : (s.modWg w f).sampper = s.sampper := rfl
@[simp] theorem State.modWg_vsbase (w : Nat) (f : Wg → Wg) : (s.modWg w f).vsbase = s.vsbase := rfl
@[simp] theorem State.modWg_vssize (w : Nat) (f : Wg → Wg) : (s.modWg w f).vssize = s.vssize := rfl
@[simp] theorem State.modWg_vserr (w : Nat) (f : Wg → Wg) : (s.modWg w f).vserr = s.vserr := rfl
@[simp] theorem State.modWg_fabcfg (w : Nat) (f : Wg → Wg) : (s.modWg w f).fabcfg = s.fabcfg := rfl
@[simp] theorem State.modWg_fabNext (w : Nat) (f : Wg → Wg) : (s.modWg w f).fabNext = s.fabNext := rfl
@[simp] theorem State.modWg_msix (w : Nat) (f : Wg → Wg) : (s.modWg w f).msix = s.msix := rfl
@[simp] theorem State.modWg_msiPend (w : Nat) (f : Wg → Wg) : (s.modWg w f).msiPend = s.msiPend := rfl
@[simp] theorem State.modWg_msiSent (w : Nat) (f : Wg → Wg) : (s.modWg w f).msiSent = s.msiSent := rfl
@[simp] theorem State.modWg_hostErr (w : Nat) (f : Wg → Wg) : (s.modWg w f).hostErr = s.hostErr := rfl
@[simp] theorem State.modWg_halves (w : Nat) (f : Wg → Wg) : (s.modWg w f).halves = s.halves := rfl
@[simp] theorem State.modWg_counters (w : Nat) (f : Wg → Wg) : (s.modWg w f).counters = s.counters := rfl
@[simp] theorem State.modWg_swept (w : Nat) (f : Wg → Wg) : (s.modWg w f).swept = s.swept := rfl
@[simp] theorem State.modWg_life (w : Nat) (f : Wg → Wg) : (s.modWg w f).life = s.life := rfl
@[simp] theorem State.modWg_serial (w : Nat) (f : Wg → Wg) : (s.modWg w f).serial = s.serial := rfl
@[simp] theorem State.modWg_agenda (w : Nat) (f : Wg → Wg) : (s.modWg w f).agenda = s.agenda := rfl
@[simp] theorem State.modWg_cur (w : Nat) (f : Wg → Wg) : (s.modWg w f).cur = s.cur := rfl
@[simp] theorem State.modWg_stuck (w : Nat) (f : Wg → Wg) : (s.modWg w f).stuck = s.stuck := rfl

@[simp] theorem State.modRope_mem (r : Nat) (f : Rope → Rope) : (s.modRope r f).mem = s.mem := rfl
@[simp] theorem State.modRope_peerMem (r : Nat) (f : Rope → Rope) : (s.modRope r f).peerMem = s.peerMem := rfl
@[simp] theorem State.modRope_eccBad (r : Nat) (f : Rope → Rope) : (s.modRope r f).eccBad = s.eccBad := rfl
@[simp] theorem State.modRope_versions (r : Nat) (f : Rope → Rope) : (s.modRope r f).versions = s.versions := rfl
@[simp] theorem State.modRope_verRound (r : Nat) (f : Rope → Rope) : (s.modRope r f).verRound = s.verRound := rfl
@[simp] theorem State.modRope_roundNo (r : Nat) (f : Rope → Rope) : (s.modRope r f).roundNo = s.roundNo := rfl
@[simp] theorem State.modRope_roundSeen (r : Nat) (f : Rope → Rope) : (s.modRope r f).roundSeen = s.roundSeen := rfl
@[simp] theorem State.modRope_roundPeers (r : Nat) (f : Rope → Rope) : (s.modRope r f).roundPeers = s.roundPeers := rfl
@[simp] theorem State.modRope_hostBad (r : Nat) (f : Rope → Rope) : (s.modRope r f).hostBad = s.hostBad := rfl
@[simp] theorem State.modRope_groups (r : Nat) (f : Rope → Rope) : (s.modRope r f).groups = s.groups := rfl
@[simp] theorem State.modRope_cores (r : Nat) (f : Rope → Rope) : (s.modRope r f).cores = s.cores := rfl
@[simp] theorem State.modRope_clusters (r : Nat) (f : Rope → Rope) : (s.modRope r f).clusters = s.clusters := rfl
@[simp] theorem State.modRope_launches (r : Nat) (f : Rope → Rope) : (s.modRope r f).launches = s.launches := rfl
@[simp] theorem State.modRope_wgs (r : Nat) (f : Rope → Rope) : (s.modRope r f).wgs = s.wgs := rfl
@[simp] theorem State.modRope_genLines (r : Nat) (f : Rope → Rope) : (s.modRope r f).genLines = s.genLines := rfl
@[simp] theorem State.modRope_trackers (r : Nat) (f : Rope → Rope) : (s.modRope r f).trackers = s.trackers := rfl
@[simp] theorem State.modRope_parkSeq (r : Nat) (f : Rope → Rope) : (s.modRope r f).parkSeq = s.parkSeq := rfl
@[simp] theorem State.modRope_genTables (r : Nat) (f : Rope → Rope) : (s.modRope r f).genTables = s.genTables := rfl
@[simp] theorem State.modRope_vsSeq (r : Nat) (f : Rope → Rope) : (s.modRope r f).vsSeq = s.vsSeq := rfl
@[simp] theorem State.modRope_faults (r : Nat) (f : Rope → Rope) : (s.modRope r f).faults = s.faults := rfl
@[simp] theorem State.modRope_wbHeld (r : Nat) (f : Rope → Rope) : (s.modRope r f).wbHeld = s.wbHeld := rfl
@[simp] theorem State.modRope_devHeld (r : Nat) (f : Rope → Rope) : (s.modRope r f).devHeld = s.devHeld := rfl
@[simp] theorem State.modRope_rings (r : Nat) (f : Rope → Rope) : (s.modRope r f).rings = s.rings := rfl
@[simp] theorem State.modRope_rptSeq (r : Nat) (f : Rope → Rope) : (s.modRope r f).rptSeq = s.rptSeq := rfl
@[simp] theorem State.modRope_wps (r : Nat) (f : Rope → Rope) : (s.modRope r f).wps = s.wps := rfl
@[simp] theorem State.modRope_queues (r : Nat) (f : Rope → Rope) : (s.modRope r f).queues = s.queues := rfl
@[simp] theorem State.modRope_packets (r : Nat) (f : Rope → Rope) : (s.modRope r f).packets = s.packets := rfl
@[simp] theorem State.modRope_invals (r : Nat) (f : Rope → Rope) : (s.modRope r f).invals = s.invals := rfl
@[simp] theorem State.modRope_chans (r : Nat) (f : Rope → Rope) : (s.modRope r f).chans = s.chans := rfl
@[simp] theorem State.modRope_ports (r : Nat) (f : Rope → Rope) : (s.modRope r f).ports = s.ports := rfl
@[simp] theorem State.modRope_peerReqs (r : Nat) (f : Rope → Rope) : (s.modRope r f).peerReqs = s.peerReqs := rfl
@[simp] theorem State.modRope_devstate (r : Nat) (f : Rope → Rope) : (s.modRope r f).devstate = s.devstate := rfl
@[simp] theorem State.modRope_plim (r : Nat) (f : Rope → Rope) : (s.modRope r f).plim = s.plim := rfl
@[simp] theorem State.modRope_qtabbase (r : Nat) (f : Rope → Rope) : (s.modRope r f).qtabbase = s.qtabbase := rfl
@[simp] theorem State.modRope_ctxbase (r : Nat) (f : Rope → Rope) : (s.modRope r f).ctxbase = s.ctxbase := rfl
@[simp] theorem State.modRope_preempt (r : Nat) (f : Rope → Rope) : (s.modRope r f).preempt = s.preempt := rfl
@[simp] theorem State.modRope_cntbase (r : Nat) (f : Rope → Rope) : (s.modRope r f).cntbase = s.cntbase := rfl
@[simp] theorem State.modRope_sampper (r : Nat) (f : Rope → Rope) : (s.modRope r f).sampper = s.sampper := rfl
@[simp] theorem State.modRope_vsbase (r : Nat) (f : Rope → Rope) : (s.modRope r f).vsbase = s.vsbase := rfl
@[simp] theorem State.modRope_vssize (r : Nat) (f : Rope → Rope) : (s.modRope r f).vssize = s.vssize := rfl
@[simp] theorem State.modRope_vserr (r : Nat) (f : Rope → Rope) : (s.modRope r f).vserr = s.vserr := rfl
@[simp] theorem State.modRope_fabcfg (r : Nat) (f : Rope → Rope) : (s.modRope r f).fabcfg = s.fabcfg := rfl
@[simp] theorem State.modRope_fabNext (r : Nat) (f : Rope → Rope) : (s.modRope r f).fabNext = s.fabNext := rfl
@[simp] theorem State.modRope_msix (r : Nat) (f : Rope → Rope) : (s.modRope r f).msix = s.msix := rfl
@[simp] theorem State.modRope_msiPend (r : Nat) (f : Rope → Rope) : (s.modRope r f).msiPend = s.msiPend := rfl
@[simp] theorem State.modRope_msiSent (r : Nat) (f : Rope → Rope) : (s.modRope r f).msiSent = s.msiSent := rfl
@[simp] theorem State.modRope_hostErr (r : Nat) (f : Rope → Rope) : (s.modRope r f).hostErr = s.hostErr := rfl
@[simp] theorem State.modRope_halves (r : Nat) (f : Rope → Rope) : (s.modRope r f).halves = s.halves := rfl
@[simp] theorem State.modRope_counters (r : Nat) (f : Rope → Rope) : (s.modRope r f).counters = s.counters := rfl
@[simp] theorem State.modRope_swept (r : Nat) (f : Rope → Rope) : (s.modRope r f).swept = s.swept := rfl
@[simp] theorem State.modRope_life (r : Nat) (f : Rope → Rope) : (s.modRope r f).life = s.life := rfl
@[simp] theorem State.modRope_serial (r : Nat) (f : Rope → Rope) : (s.modRope r f).serial = s.serial := rfl
@[simp] theorem State.modRope_agenda (r : Nat) (f : Rope → Rope) : (s.modRope r f).agenda = s.agenda := rfl
@[simp] theorem State.modRope_cur (r : Nat) (f : Rope → Rope) : (s.modRope r f).cur = s.cur := rfl
@[simp] theorem State.modRope_stuck (r : Nat) (f : Rope → Rope) : (s.modRope r f).stuck = s.stuck := rfl

@[simp] theorem State.count_mem (u ev n : Nat) : (s.count u ev n).mem = s.mem := rfl
@[simp] theorem State.count_peerMem (u ev n : Nat) : (s.count u ev n).peerMem = s.peerMem := rfl
@[simp] theorem State.count_eccBad (u ev n : Nat) : (s.count u ev n).eccBad = s.eccBad := rfl
@[simp] theorem State.count_versions (u ev n : Nat) : (s.count u ev n).versions = s.versions := rfl
@[simp] theorem State.count_verRound (u ev n : Nat) : (s.count u ev n).verRound = s.verRound := rfl
@[simp] theorem State.count_roundNo (u ev n : Nat) : (s.count u ev n).roundNo = s.roundNo := rfl
@[simp] theorem State.count_roundSeen (u ev n : Nat) : (s.count u ev n).roundSeen = s.roundSeen := rfl
@[simp] theorem State.count_roundPeers (u ev n : Nat) : (s.count u ev n).roundPeers = s.roundPeers := rfl
@[simp] theorem State.count_hostBad (u ev n : Nat) : (s.count u ev n).hostBad = s.hostBad := rfl
@[simp] theorem State.count_groups (u ev n : Nat) : (s.count u ev n).groups = s.groups := rfl
@[simp] theorem State.count_cores (u ev n : Nat) : (s.count u ev n).cores = s.cores := rfl
@[simp] theorem State.count_clusters (u ev n : Nat) : (s.count u ev n).clusters = s.clusters := rfl
@[simp] theorem State.count_launches (u ev n : Nat) : (s.count u ev n).launches = s.launches := rfl
@[simp] theorem State.count_wgs (u ev n : Nat) : (s.count u ev n).wgs = s.wgs := rfl
@[simp] theorem State.count_ropes (u ev n : Nat) : (s.count u ev n).ropes = s.ropes := rfl
@[simp] theorem State.count_genLines (u ev n : Nat) : (s.count u ev n).genLines = s.genLines := rfl
@[simp] theorem State.count_trackers (u ev n : Nat) : (s.count u ev n).trackers = s.trackers := rfl
@[simp] theorem State.count_parkSeq (u ev n : Nat) : (s.count u ev n).parkSeq = s.parkSeq := rfl
@[simp] theorem State.count_genTables (u ev n : Nat) : (s.count u ev n).genTables = s.genTables := rfl
@[simp] theorem State.count_vsSeq (u ev n : Nat) : (s.count u ev n).vsSeq = s.vsSeq := rfl
@[simp] theorem State.count_faults (u ev n : Nat) : (s.count u ev n).faults = s.faults := rfl
@[simp] theorem State.count_wbHeld (u ev n : Nat) : (s.count u ev n).wbHeld = s.wbHeld := rfl
@[simp] theorem State.count_devHeld (u ev n : Nat) : (s.count u ev n).devHeld = s.devHeld := rfl
@[simp] theorem State.count_rings (u ev n : Nat) : (s.count u ev n).rings = s.rings := rfl
@[simp] theorem State.count_rptSeq (u ev n : Nat) : (s.count u ev n).rptSeq = s.rptSeq := rfl
@[simp] theorem State.count_wps (u ev n : Nat) : (s.count u ev n).wps = s.wps := rfl
@[simp] theorem State.count_queues (u ev n : Nat) : (s.count u ev n).queues = s.queues := rfl
@[simp] theorem State.count_packets (u ev n : Nat) : (s.count u ev n).packets = s.packets := rfl
@[simp] theorem State.count_invals (u ev n : Nat) : (s.count u ev n).invals = s.invals := rfl
@[simp] theorem State.count_chans (u ev n : Nat) : (s.count u ev n).chans = s.chans := rfl
@[simp] theorem State.count_ports (u ev n : Nat) : (s.count u ev n).ports = s.ports := rfl
@[simp] theorem State.count_peerReqs (u ev n : Nat) : (s.count u ev n).peerReqs = s.peerReqs := rfl
@[simp] theorem State.count_devstate (u ev n : Nat) : (s.count u ev n).devstate = s.devstate := rfl
@[simp] theorem State.count_plim (u ev n : Nat) : (s.count u ev n).plim = s.plim := rfl
@[simp] theorem State.count_qtabbase (u ev n : Nat) : (s.count u ev n).qtabbase = s.qtabbase := rfl
@[simp] theorem State.count_ctxbase (u ev n : Nat) : (s.count u ev n).ctxbase = s.ctxbase := rfl
@[simp] theorem State.count_preempt (u ev n : Nat) : (s.count u ev n).preempt = s.preempt := rfl
@[simp] theorem State.count_cntbase (u ev n : Nat) : (s.count u ev n).cntbase = s.cntbase := rfl
@[simp] theorem State.count_sampper (u ev n : Nat) : (s.count u ev n).sampper = s.sampper := rfl
@[simp] theorem State.count_vsbase (u ev n : Nat) : (s.count u ev n).vsbase = s.vsbase := rfl
@[simp] theorem State.count_vssize (u ev n : Nat) : (s.count u ev n).vssize = s.vssize := rfl
@[simp] theorem State.count_vserr (u ev n : Nat) : (s.count u ev n).vserr = s.vserr := rfl
@[simp] theorem State.count_fabcfg (u ev n : Nat) : (s.count u ev n).fabcfg = s.fabcfg := rfl
@[simp] theorem State.count_fabNext (u ev n : Nat) : (s.count u ev n).fabNext = s.fabNext := rfl
@[simp] theorem State.count_msix (u ev n : Nat) : (s.count u ev n).msix = s.msix := rfl
@[simp] theorem State.count_msiPend (u ev n : Nat) : (s.count u ev n).msiPend = s.msiPend := rfl
@[simp] theorem State.count_msiSent (u ev n : Nat) : (s.count u ev n).msiSent = s.msiSent := rfl
@[simp] theorem State.count_hostErr (u ev n : Nat) : (s.count u ev n).hostErr = s.hostErr := rfl
@[simp] theorem State.count_halves (u ev n : Nat) : (s.count u ev n).halves = s.halves := rfl
@[simp] theorem State.count_swept (u ev n : Nat) : (s.count u ev n).swept = s.swept := rfl
@[simp] theorem State.count_life (u ev n : Nat) : (s.count u ev n).life = s.life := rfl
@[simp] theorem State.count_serial (u ev n : Nat) : (s.count u ev n).serial = s.serial := rfl
@[simp] theorem State.count_agenda (u ev n : Nat) : (s.count u ev n).agenda = s.agenda := rfl
@[simp] theorem State.count_cur (u ev n : Nat) : (s.count u ev n).cur = s.cur := rfl
@[simp] theorem State.count_stuck (u ev n : Nat) : (s.count u ev n).stuck = s.stuck := rfl

@[simp] theorem State.modCore_cores (c : Nat) (f : Core → Core) : (s.modCore c f).cores = s.cores.put c (f (s.core c)) := rfl
@[simp] theorem State.modCluster_clusters (k : Nat) (f : Cluster → Cluster) :
    (s.modCluster k f).clusters = s.clusters.put k (f (s.cluster k)) := rfl
@[simp] theorem State.modGroup_groups (c ctx : Nat) (f : Group → Group) :
    (s.modGroup c ctx f).groups = s.groups.adjust (gkey c ctx) f := rfl

end Sys2Proof.Machine
end

