-- ==== Sys2Proof/Laws/Issue.lean ====
section
/-! SUPPORT. What an issue comes to: the environment of a stream, an instruction that may issue, its slot going on, an operation
started. -/

namespace Sys2Proof.Machine

theorem Group.slotOf_setSlot_self (g : Group) (n : Nat) (sl : Slot) : (g.setSlot n sl).slotOf n = sl := by
  unfold Group.setSlot Group.slotOf; split <;> simp

theorem Group.setSlot_setSlot (g : Group) (n : Nat) (a b : Slot) : (g.setSlot n a).setSlot n b = g.setSlot n b := by
  unfold Group.setSlot; split <;> simp

@[simp] theorem Group.slotOf_flagUp (g : Group) (f : Option Nat) (n : Nat) : (g.flagUp f).slotOf n = g.slotOf n := by
  cases f <;> simp [Group.flagUp, Group.slotOf]

/-- What the environment of a slot is. -/
theorem State.envAt_spec {s : State} {c ctx n len : Nat} {e : Env} (h : s.envAt c ctx n len = some e) :
    s.group? e.core e.ctx = some e.g ∧ (e.core = c ∧ e.ctx = ctx ∧ e.n = n ∧ e.len = len) ∧ e.sl = e.g.slotOf e.n ∧
      e.sl.valid = true ∧ e.serial = s.serial ∧ e.clk = (s.core e.core).clk := by
  unfold State.envAt at h
  split at h
  · cases h
  · next g hg =>
    split at h
    · next hv =>
      cases h
      exact ⟨hg, ⟨rfl, rfl, rfl, rfl⟩, rfl, hv, rfl, rfl⟩
    · cases h

theorem State.env_spec {s : State} {e : Env} (h : s.env? = some e) :
    s.group? e.core e.ctx = some e.g ∧ (e.core = s.cur.core ∧ e.ctx = s.cur.ctx ∧ e.n = s.cur.slot ∧ e.len = s.cur.len) ∧
      e.sl = e.g.slotOf e.n ∧ e.sl.valid = true ∧ e.serial = s.serial ∧ e.clk = (s.core e.core).clk :=
  State.envAt_spec h

theorem finish_next {t : State} (h : t.stuck = none) : finish t = .next t := by simp [finish, h]

/-- An instruction that may issue has its effect. -/
theorem issue_ready {s : State} {e : Env} {h : Hdr} {chk : Env → Chk} (r : Ready s e h (chk e)) (eff : Env → State → State) :
    issue h chk eff s = finish (eff e s) := by
  obtain ⟨-, he, hf, hl, hh, ht⟩ := r
  simp [issue, he, hf, hl, hh, ht]

/-- An instruction that fails a check takes its trap, and does nothing else. -/
theorem issue_failed {s : State} {e : Env} {h : Hdr} {chk : Env → Chk} {x : Nat × DWord} (he : s.env? = some e)
    (hf : e.failed h (chk e) = some x) (eff : Env → State → State) : issue h chk eff s = .next (s.trapAt e x.1 x.2 e.sl.pc) := by
  simp [issue, he, hf]

theorem State.modGroup_eq {s : State} {c ctx : Nat} {g : Group} (h : s.group? c ctx = some g) (f : Group → Group) :
    s.modGroup c ctx f = { s with groups := s.groups.put (gkey c ctx) (f g) } := by
  have h' : s.groups.look (gkey c ctx) = some g := h
  simp [State.modGroup, Tbl.adjust, h']

theorem State.group?_put (s : State) (c ctx : Nat) (g : Group) :
    State.group? { s with groups := s.groups.put (gkey c ctx) g } c ctx = some g := by
  simp [State.group?, Tbl.look_put_self]

/-- A slot that has issued nothing but itself. -/
theorem State.retire_eq {s : State} {e : Env} (he : s.env? = some e) (h : Hdr) : s.retire e h = s.issued e h e.g [] := by
  obtain ⟨hg, -, hs, -, hn, -⟩ := State.env_spec he
  have hg' : State.group? { s with serial := s.serial + 1, peerReqs := s.reqsAfter e.g.uid e.n } e.core e.ctx = some e.g := hg
  unfold State.retire State.goOn State.modSlot
  rw [State.modGroup_eq hg']
  simp [State.count, State.issued, hs]

/-- The same after an operation was started, and the group changed in something but its slots. -/
theorem State.start_mod_retire_eq {s : State} {e : Env} (he : s.env? = some e) (h : Hdr) (o : Op) (f : Group → Group)
    (hf : ∀ g, (f g).slotOf e.n = g.slotOf e.n) :
    ((s.start e o).modGroup e.core e.ctx f).retire e h = s.issued e h (f (e.g.flagUp o.flag)) [o] := by
  obtain ⟨hg, -, hs, -, hn, -⟩ := State.env_spec he
  have h1 : State.group? (s.modCore e.core (fun k => { k with ops := k.ops ++ [o] })) e.core e.ctx = some e.g := hg
  unfold State.start
  rw [State.modGroup_eq h1, State.modGroup_eq (g := e.g.flagUp o.flag) (by simp [State.group?, Tbl.look_put_self])]
  unfold State.retire State.goOn State.modSlot
  rw [State.modGroup_eq (g := f (e.g.flagUp o.flag)) (by simp [State.group?, Tbl.look_put_self])]
  simp [State.count, State.issued, State.reqsAfter, hs, hf]

/-- The same after an operation was started. -/
theorem State.start_retire_eq {s : State} {e : Env} (he : s.env? = some e) (h : Hdr) (o : Op) :
    (s.start e o).retire e h = s.issued e h (e.g.flagUp o.flag) [o] := by
  have h1 := State.start_mod_retire_eq he h o id (fun _ => rfl)
  obtain ⟨hg, -⟩ := State.env_spec he
  have hg1 : (s.start e o).group? e.core e.ctx = some (e.g.flagUp o.flag) := by
    have h2 : State.group? (s.modCore e.core (fun k => { k with ops := k.ops ++ [o] })) e.core e.ctx = some e.g := hg
    unfold State.start
    rw [State.modGroup_eq h2]
    exact State.group?_put _ _ _ _
  rw [State.modGroup_eq hg1] at h1
  have h2 : s.start e o = { s.start e o with groups := (s.start e o).groups.put (gkey e.core e.ctx) (e.g.flagUp o.flag) } := by
    unfold State.start
    rw [State.modGroup_eq (s := s.modCore e.core (fun k => { k with ops := k.ops ++ [o] })) hg]
    simp
  rw [h2]
  exact h1

/-- A lane instruction started and gone on from. -/
theorem State.startAlu_retire_eq {s : State} {e : Env} (he : s.env? = some e) (h : Hdr) (f : AluForm) (due : Option Nat) (what : What)
    (rs : List (Nat × LaneOut)) : (s.startAlu e h f due what rs).retire e h = s.lanesIssued e h f due what rs :=
  State.start_mod_retire_eq he h (e.laneOp s h f due what rs) (fun g => { g with prng := drawn g.prng rs }) (fun _ => rfl) |>.trans (by
    cases hfl : e.flag h <;> simp [State.lanesIssued, Env.laneOp, Env.op, hfl, Group.flagUp])

@[simp] theorem State.issued_stuck (s : State) (e : Env) (h : Hdr) (g : Group) (ops : List Op) : (s.issued e h g ops).stuck = s.stuck := rfl

@[simp] theorem State.lanesIssued_stuck (s : State) (e : Env) (h : Hdr) (f : AluForm) (due : Option Nat) (what : What)
    (rs : List (Nat × LaneOut)) : (s.lanesIssued e h f due what rs).stuck = s.stuck := rfl

theorem foldl_stuck {α : Type} {f : State → α → State} (hf : ∀ s a, (f s a).stuck = s.stuck) (l : List α) (s : State) :
    (l.foldl f s).stuck = s.stuck := by
  induction l generalizing s with
  | nil => rfl
  | cons a r ih => exact (ih _).trans (hf s a)

theorem State.ringPut_stuck (s : State) (k : Nat) (r : List Byte) : (s.ringPut k r).stuck = s.stuck := by
  unfold State.ringPut
  dsimp only
  repeat' split
  all_goals rfl

theorem State.removeGroup_stuck (s : State) (c ctx : Nat) : (s.removeGroup c ctx).stuck = s.stuck := by
  unfold State.removeGroup
  split
  · rfl
  · dsimp only
    split <;> rfl

theorem State.removeWgs_stuck (s : State) (p : Nat → Wg → Bool) : (s.removeWgs p).stuck = s.stuck :=
  (foldl_stuck (f := State.lowerBoundary) (fun _ _ => rfl) _ _ :)

/-- The end of a launch stops no run. -/
theorem State.endLaunch_stuck (s : State) (l status cause : Nat) (faddr ffirst : DWord) (flags stamp clk : Nat) :
    (s.endLaunch l status cause faddr ffirst flags stamp clk).stuck = s.stuck := by
  unfold State.endLaunch
  split
  · rfl
  · dsimp only
    split
    · rfl
    · rw [State.modLaunch_stuck]
      refine (State.removeWgs_stuck _ _).trans ?_
      refine (foldl_stuck (fun s g => State.removeGroup_stuck _ _ _) _ _).trans ?_
      split
      · exact State.ringPut_stuck _ _ _
      · rfl

/-- Taking a trap stops no run. -/
theorem State.trapAt_stuck (s : State) (e : Env) (cause : Nat) (mask faddr : DWord) (m : Bool) :
    (s.trapAt e cause mask faddr m).stuck = s.stuck := by
  have h : ∀ (s : State) k, (s.countNest k).stuck = s.stuck := fun s k => by unfold State.countNest; split <;> rfl
  have hf : ∀ (s : State) u n, (s.forget u n).stuck = s.stuck := fun _ _ _ => rfl
  unfold State.trapAt State.takeTrap
  dsimp only
  split
  · rfl
  · repeat' split
    all_goals simp only [State.endLaunch_stuck, State.modGroup_stuck, hf, h]

/-- What a lane instruction does when it may issue. -/
theorem runAlu_ready {s : State} {e : Env} {h : Hdr} {f : AluForm} {chk : Env → Chk} (r : Ready s e h (chk e)) (due : Env → Option Nat)
    (what : Env → What) (rs : Env → List (Nat × LaneOut)) :
    issue h chk (fun e s => s.runAlu e h f (due e) (what e) (rs e)) s =
      .next (if (e.active h).isEmpty then s.issued e h e.g []
        else if e.fmtTraps (rs e) then s.trapAt e 23 (t5Lanes e (rs e)) e.sl.pc
        else s.lanesIssued e h f (due e) (what e) (rs e)) := by
  have hs : s.stuck = none := r.1
  rw [issue_ready r]
  unfold State.runAlu Env.fmtTraps
  rw [State.retire_eq r.2.1, State.startAlu_retire_eq r.2.1]
  apply finish_next
  repeat' split
  · exact hs
  · exact (State.trapAt_stuck ..).trans hs
  · exact hs

theorem Env.active_lt {e : Env} {h : Hdr} {l : Nat} (hl : l ∈ e.active h) : l < 64 := by
  rw [Env.active, List.mem_filter] at hl
  have h1 := mem_lanesOf.1 hl.1
  exact Nat.lt_of_not_le fun h2 => by rw [BitVec.getLsbD_of_ge _ _ h2] at h1; cases h1

/-- The mask of the active lanes is empty only when no lane is active. -/
theorem Env.maskOf_active_ne_zero {e : Env} {h : Hdr} (ha : e.active h ≠ []) : maskOf (e.active h) ≠ 0 := by
  obtain ⟨l, r, hr⟩ := List.exists_cons_of_ne_nil ha
  have : l ∈ e.active h := by rw [hr]; simp
  exact maskOf_ne_zero this (Env.active_lt this)

end Sys2Proof.Machine
end

