-- ==== Sys2Proof/Laws/Lanes.lean ====
section
/-! SUPPORT. What the shared course of a lane instruction gives: from its meaning, written over alu, fpu, sfu, aluAll or aluGrp, to the
rules of Safety.lean. -/

namespace Sys2Proof.Machine

theorem t5Lanes_eq_zero {e : Env} {rs : List (Nat × LaneOut)} (h : ∀ r ∈ rs, r.2.badT5 = false) : t5Lanes e rs = 0 := by
  have : rs.filter (fun r => r.2.badT5 && e.isLaunched r.1) = [] := by
    rw [List.filter_eq_nil_iff]
    intro r hr
    simp [h r hr]
  simp [t5Lanes, this, maskOf]

theorem fmtTraps_eq_false {e : Env} {rs : List (Nat × LaneOut)} (h : ∀ r ∈ rs, r.2.badT5 = false) : e.fmtTraps rs = false := by
  simp [Env.fmtTraps, t5Lanes_eq_zero h]

/-- The instruction's meaning is this course of issue. -/
def Runs (i : Instr) (x : Shape) (rs : State → Env → List (Nat × LaneOut)) : Prop :=
  i.shape? = some x ∧ ∀ s, exec i s = issue x.h x.chk (fun e s' => s'.runAlu e x.h x.f (x.due e) (x.what e) (rs s e)) s

theorem Runs.ready {i : Instr} {x : Shape} {rs : State → Env → List (Nat × LaneOut)} (r : Runs i x rs) {s : State} {e : Env}
    (hr : Ready s e x.h (x.chk e)) (ha : e.active x.h ≠ []) (ht : e.fmtTraps (rs s e) = false) :
    exec i s = .next (s.lanesIssued e x.h x.f (x.due e) (x.what e) (rs s e)) := by
  rw [r.2 s]
  exact (runAlu_ready hr x.due x.what (rs s)).trans (by simp [ha, ht])

theorem Runs.gives {i : Instr} {x : Shape} {rs : State → Env → List (Nat × LaneOut)} {rs' : Shape → State → Env → List (Nat × LaneOut)}
    (r : Runs i x rs) (h : ∀ s e, Ready s e x.h (x.chk e) → rs s e = rs' x s e) : Gives i rs' :=
  ⟨x, r.1, fun s e hr ha ht => by rw [← h s e hr] at *; exact r.ready hr ha ht⟩

theorem Runs.lane {i : Instr} {x : Shape} {g g' : LaneIn → LaneOut} (r : Runs i x (fun _ e => e.lanes x g)) (h : ∀ k, g k = g' k)
    (ht : ∀ k, (g' k).badT5 = false) : LaneRule i g' := by
  refine ⟨x, r.1, fun s e hr ha => ?_⟩
  obtain rfl : g = g' := funext h
  refine r.ready hr ha (fmtTraps_eq_false fun q hq => ?_)
  obtain ⟨l, -, rfl⟩ := List.mem_map.1 hq
  exact ht _

theorem Runs.mask {i : Instr} {x : Shape} {g g' : Word → Nat → List LaneIn → List (Nat × LaneOut)}
    (r : Runs i x (fun _ e => g e.g.fpcr e.serial (e.maskLanes x))) (h : ∀ a b c, g a b c = g' a b c)
    (ht : ∀ a b c, ∀ q ∈ g' a b c, q.2.badT5 = false) : MaskRule i g' := by
  refine ⟨x, r.1, fun s e hr ha => ?_⟩
  obtain rfl : g = g' := funext fun a => funext fun b => funext fun c => h a b c
  exact r.ready hr ha (fmtTraps_eq_false (ht _ _ _))

theorem badT5_eachActive {ls : List LaneIn} {f : LaneIn → LaneOut} (h : ∀ k, (f k).badT5 = false) :
    ∀ q ∈ eachActive ls f, q.2.badT5 = false := by
  intro q hq
  obtain ⟨l, -, rfl⟩ := List.mem_map.1 hq
  exact h l

end Sys2Proof.Machine
end

