-- ==== Sys2Proof/Laws/PerInstr.lean ====
section
/-! SUPPORT. The per-instruction laws: the words of a well-formed instruction name it again. -/

namespace Sys2Proof

theorem ofNat9 {n : Nat} (h : n < 512) : (BitVec.ofNat 9 n).toNat = n := by
  rw [BitVec.toNat_ofNat, Nat.mod_eq_of_lt h]

@[simp] theorem Opd.ofBits_bits (o : Opd) : Opd.ofBits o.bits = o := by
  cases o with
  | v n => have h := n.isLt; simp only [Opd.ofBits, Opd.bits, ofNat9 (show n.val < 512 by omega), h, dite_true]
  | s n =>
    have h := n.isLt
    simp only [Opd.ofBits, Opd.bits, ofNat9 (show 320 + n.val < 512 by omega), show ¬ 320 + n.val < 320 by omega, dite_false,
      show 320 + n.val - 320 = n.val by omega, h, dite_true]
  | p n =>
    have h := n.isLt
    simp only [Opd.ofBits, Opd.bits, ofNat9 (show 384 + n.val < 512 by omega), show ¬ 384 + n.val < 320 by omega, dite_false,
      show ¬ 384 + n.val - 320 < 64 by omega, show 384 + n.val - 384 = n.val by omega, h, dite_true]
  | k n =>
    have h := n.isLt
    simp only [Opd.ofBits, Opd.bits, ofNat9 (show 480 + n.val < 512 by omega), show ¬ 480 + n.val < 320 by omega, dite_false,
      show ¬ 480 + n.val - 320 < 64 by omega, show ¬ 480 + n.val - 384 < 96 by omega,
      show 480 + n.val - 480 = n.val by omega, h, dite_true]
  | rsv n =>
    have h := n.isLt
    simp only [Opd.ofBits, Opd.bits, ofNat9 (show 496 + n.val < 512 by omega), show ¬ 496 + n.val < 320 by omega, dite_false,
      show ¬ 496 + n.val - 320 < 64 by omega, show ¬ 496 + n.val - 384 < 96 by omega, show ¬ 496 + n.val - 480 < 16 by omega,
      show (496 + n.val - 496) % 16 = n.val by omega]

@[simp] theorem Opd.ofBits_zero : Opd.ofBits 0 = .v 0 := rfl

/-! Fields of the words -/

theorem app_nat {n m : Nat} (x : BitVec n) (y : BitVec m) : (x ++ y : BitVec (n + m)).toNat = x.toNat * 2 ^ m + y.toNat := by
  rw [BitVec.toNat_append, Nat.shiftLeft_eq, ← Nat.shiftLeft_eq, Nat.shiftLeft_add_eq_or_of_lt y.isLt]

/-- An upper and a lower part, the upper one's number known. -/
theorem app_to {n m k : Nat} {x : BitVec n} (y : BitVec m) (h : x.toNat = k) :
    (x ++ y : BitVec (n + m)).toNat = k * 2 ^ m + y.toNat := by
  rw [app_nat, h]

theorem ofBool_lt (b : Bool) : (BitVec.ofBool b).toNat < 2 := (BitVec.ofBool b).isLt

theorem mkW1_nat (i : Bool) (m : BitVec 4) (b a d : BitVec 9) : (mkW1 i m b a d).toNat =
    ((((BitVec.ofBool i).toNat * 2 ^ 4 + m.toNat) * 2 ^ 9 + b.toNat) * 2 ^ 9 + a.toNat) * 2 ^ 9 + d.toNat :=
  app_to d (app_to a (app_to b (app_nat _ m)))
theorem mkW2_nat (m : BitVec 23) (c : BitVec 9) : (mkW2 m c).toNat = m.toNat * 2 ^ 9 + c.toNat := app_nat m c

/-- A field of a word, by its number. -/
theorem field {n k w : Nat} {x : BitVec n} {y : BitVec w} (h : x.toNat / 2 ^ k % 2 ^ w = y.toNat) : x.extractLsb' k w = y := by
  apply BitVec.eq_of_toNat_eq; rw [BitVec.extractLsb'_toNat, Nat.shiftRight_eq_div_pow, h]
theorem low {n w : Nat} {x : BitVec n} {y : BitVec w} (h : x.toNat % 2 ^ w = y.toNat) : x.setWidth w = y := by
  apply BitVec.eq_of_toNat_eq; rw [BitVec.toNat_setWidth, h]
theorem bit {n k : Nat} {x : BitVec n} {b : Bool} (h : x.toNat / 2 ^ k % 2 = (BitVec.ofBool b).toNat) : x.getLsbD k = b := by
  rw [BitVec.getLsbD, Nat.testBit_eq_decide_div_mod_eq, h]; cases b <;> rfl

@[simp] theorem mkW1_d (i : Bool) (m : BitVec 4) (b a d : BitVec 9) : (mkW1 i m b a d).extractLsb' 0 9 = d :=
  field (by have := ofBool_lt i; rw [mkW1_nat]; omega)
@[simp] theorem mkW1_a (i : Bool) (m : BitVec 4) (b a d : BitVec 9) : (mkW1 i m b a d).extractLsb' 9 9 = a :=
  field (by have := ofBool_lt i; rw [mkW1_nat]; omega)
@[simp] theorem mkW1_b (i : Bool) (m : BitVec 4) (b a d : BitVec 9) : (mkW1 i m b a d).extractLsb' 18 9 = b :=
  field (by have := ofBool_lt i; rw [mkW1_nat]; omega)
@[simp] theorem mkW1_m (i : Bool) (m : BitVec 4) (b a d : BitVec 9) : (mkW1 i m b a d).extractLsb' 27 4 = m :=
  field (by have := ofBool_lt i; rw [mkW1_nat]; omega)
@[simp] theorem mkW2_c (m : BitVec 23) (c : BitVec 9) : (mkW2 m c).extractLsb' 0 9 = c :=
  field (by rw [mkW2_nat]; omega)
@[simp] theorem mkW2_imm (m : BitVec 23) (c : BitVec 9) : (mkW2 m c).extractLsb' 9 23 = m :=
  field (by rw [mkW2_nat]; omega)
@[simp] theorem mkW1_i (i : Bool) (m : BitVec 4) (b a d : BitVec 9) : (mkW1 i m b a d).getLsbD 31 = i :=
  bit (by have := ofBool_lt i; rw [mkW1_nat]; omega)

/-- A register or 9-bit B comes back from its field and flag. -/
@[simp] theorem SrcB.back {b : SrcB} (h : b.isImm32 = false) :
    (if b.isImm then SrcB.imm9 b.bits9 else .opd (.ofBits b.bits9)) = b := by
  cases b <;> simp_all [SrcB.isImm, SrcB.bits9, SrcB.isImm32]

@[simp] theorem DAB.back (o : DAB) :
    (⟨.ofBits o.d.bits, .ofBits o.a.bits, if (if o.b.isImm32 then (2 : BitVec 2) else 1) = 2 then
      .imm32 (match o.b with | .imm32 w => w | _ => 0)
      else if o.b.isImm then .imm9 o.b.bits9 else .opd (.ofBits o.b.bits9)⟩ : DAB) = o := by
  rcases o with ⟨d, a, b⟩; cases b <;> simp [SrcB.isImm, SrcB.bits9, SrcB.isImm32]

/-! Modifier fields -/

@[simp] theorem SatU.back (m : SatU) : SatU.ofBits m.bits = m := by rcases m with ⟨u, s⟩; cases u <;> cases s <;> rfl

theorem FpMods.nat (m : FpMods) : m.bits.toNat = (((((BitVec.ofBool m.abs).toNat * 2 ^ 1 + (BitVec.ofBool m.nc).toNat) * 2 ^ 1 +
    (BitVec.ofBool m.nb).toNat) * 2 ^ 1 + (BitVec.ofBool m.na).toNat) * 2 ^ 1 + (BitVec.ofBool m.sat).toNat) * 2 ^ 3 + m.rm.toNat :=
  app_to m.rm (app_to _ (app_to _ (app_to _ (app_nat _ _))))
@[simp] theorem FpMods.back (m : FpMods) : FpMods.ofBits m.bits = m := by
  have h := m.nat
  have := ofBool_lt m.abs; have := ofBool_lt m.nc; have := ofBool_lt m.nb; have := ofBool_lt m.na; have := ofBool_lt m.sat
  cases m; dsimp only at *
  simp only [FpMods.ofBits, FpMods.mk.injEq]
  exact ⟨bit (by omega), bit (by omega), bit (by omega), bit (by omega), bit (by omega), low (by omega)⟩
theorem CpxMods.nat (m : CpxMods) : m.bits.toNat = ((((0 * 2 ^ 1 + (BitVec.ofBool m.nc).toNat) * 2 ^ 1 +
    (BitVec.ofBool m.cjb).toNat) * 2 ^ 1 + (BitVec.ofBool m.cja).toNat) * 2 ^ 1 + (BitVec.ofBool m.sat).toNat) * 2 ^ 3 + m.rm.toNat :=
  app_to m.rm (app_to _ (app_to _ (app_to _ (app_to _ rfl))))
@[simp] theorem CpxMods.back (m : CpxMods) : CpxMods.ofBits m.bits = m := by
  have h := m.nat
  have := ofBool_lt m.nc; have := ofBool_lt m.cjb; have := ofBool_lt m.cja; have := ofBool_lt m.sat
  cases m; dsimp only at *
  simp only [CpxMods.ofBits, CpxMods.mk.injEq]
  exact ⟨bit (by omega), bit (by omega), bit (by omega), bit (by omega), low (by omega)⟩
theorem CvtMods.nat (m : CvtMods) : m.bits.toNat = (0 * 2 ^ 1 + (BitVec.ofBool m.sat).toNat) * 2 ^ 3 + m.rm.toNat :=
  app_to m.rm (app_to _ rfl)
@[simp] theorem CvtMods.back (m : CvtMods) : CvtMods.ofBits m.bits = m := by
  have h := m.nat
  have := ofBool_lt m.sat
  cases m; dsimp only at *
  simp only [CvtMods.ofBits, CvtMods.mk.injEq]
  exact ⟨bit (by omega), low (by omega)⟩
theorem AtomMods.nat (m : AtomMods) : m.bits.toNat = (m.order.toNat * 2 ^ 3 + m.scope.toNat) * 2 ^ 3 + m.ty.toNat :=
  app_to m.ty (app_nat _ _)
@[simp] theorem AtomMods.back (m : AtomMods) : AtomMods.ofBits m.bits = m := by
  have h := m.nat
  cases m; dsimp only at *
  simp only [AtomMods.ofBits, AtomMods.mk.injEq]
  exact ⟨field (by omega), field (by omega), low (by omega)⟩
@[simp] theorem PairOp.back (p : PairOp) : PairOp.ofBits p.bits = p := by
  have h : p.bits.toNat = (((p.mod2.toNat * 2 ^ 8 + p.b.toNat) * 2 ^ 8 + p.a.toNat) * 2 ^ 8 + p.d.toNat) * 2 ^ 6 + p.sub.toNat :=
    app_to p.sub (app_to _ (app_to _ (app_nat _ _)))
  cases p; dsimp only at *
  simp only [PairOp.ofBits, PairOp.mk.injEq]
  exact ⟨field (by omega), field (by omega), field (by omega), field (by omega), low (by omega)⟩
@[simp] theorem ElemSel.back (x : ElemSel) : ElemSel.ofBits x.bits = x := by
  have h : x.bits.toNat = ((x.didx.toNat * 2 ^ 3 + x.sidx.toNat) * 2 ^ 5 + x.dfmt.toNat) * 2 ^ 5 + x.sfmt.toNat := by
    have : (x.didx ++ x.sidx ++ x.dfmt ++ x.sfmt : BitVec (3 + 3 + 5 + 5)).toNat =
        ((x.didx.toNat * 2 ^ 3 + x.sidx.toNat) * 2 ^ 5 + x.dfmt.toNat) * 2 ^ 5 + x.sfmt.toNat :=
      app_to _ (app_to _ (app_nat _ _))
    have := x.didx.isLt; have := x.sidx.isLt; have := x.dfmt.isLt; have := x.sfmt.isLt
    rw [ElemSel.bits, BitVec.toNat_setWidth]; omega
  cases x; dsimp only at *
  simp only [ElemSel.ofBits, ElemSel.mk.injEq]
  exact ⟨low (by omega), field (by omega), field (by omega), field (by omega)⟩

/-! Operands of each shape -/

@[simp] theorem encDA_da (h : Hdr) (opc : BitVec 9) (m8 : BitVec 8) (m4 : BitVec 4) (o : DA) : (encDA h opc m8 m4 o).da = o := by
  simp only [encDA, encW, Raw.da, Raw.d, Raw.a, mkW1_d, mkW1_a, Opd.ofBits_bits]
@[simp] theorem encDAB_dab (h : Hdr) (opc : BitVec 9) (m8 : BitVec 8) (m4 : BitVec 4) {o : DAB} (hb : o.b.isImm32 = false) :
    (encDAB h opc m8 m4 o).dab = o := by
  simp only [encDAB, encW, Raw.dab, Raw.srcB, Raw.immb, Raw.b, Raw.d, Raw.a, mkW1_d, mkW1_a, mkW1_b, mkW1_i, Opd.ofBits_bits,
    SrcB.back hb]
@[simp] theorem encDAB_dabI (h : Hdr) (opc : BitVec 9) (m8 : BitVec 8) (m4 : BitVec 4) (o : DAB) :
    (encDAB h opc m8 m4 o).dabI = o := by
  simp only [encDAB, encW, Raw.dabI, Raw.srcB, Raw.immb, Raw.b, Raw.d, Raw.a, mkW1_d, mkW1_a, mkW1_b, mkW1_i, Opd.ofBits_bits]
  rcases o with ⟨d, a, b⟩; cases b <;> simp [SrcB.isImm, SrcB.bits9, SrcB.isImm32]
@[simp] theorem encDABC_dabc (h : Hdr) (opc : BitVec 9) (m8 : BitVec 8) (m4 : BitVec 4) {o : DABC} (imm : BitVec 23)
    (hb : o.b.isImm32 = false) : (encDABC h opc m8 m4 o imm).dabc = o := by
  simp only [encDABC, encW, Raw.dabc, Raw.srcB, Raw.immb, Raw.b, Raw.d, Raw.a, Raw.c, mkW1_d, mkW1_a, mkW1_b, mkW1_i, mkW2_c,
    Opd.ofBits_bits, SrcB.back hb]
@[simp] theorem encDABC_dab (h : Hdr) (opc : BitVec 9) (m8 : BitVec 8) (m4 : BitVec 4) {o : DAB} (c : Opd) (imm : BitVec 23)
    (hb : o.b.isImm32 = false) : (encDABC h opc m8 m4 (o.withC c) imm).dab = o := by
  simp only [encDABC, encW, DAB.withC, Raw.dab, Raw.srcB, Raw.immb, Raw.b, Raw.d, Raw.a, mkW1_d, mkW1_a, mkW1_b, mkW1_i,
    Opd.ofBits_bits, SrcB.back hb]
@[simp] theorem encDABC_imm23 (h : Hdr) (opc : BitVec 9) (m8 : BitVec 8) (m4 : BitVec 4) (o : DABC) (imm : BitVec 23) :
    (encDABC h opc m8 m4 o imm).imm23 = imm := by
  simp only [encDABC, encW, Raw.imm23, mkW2_imm]
@[simp] theorem encDABC_mod4 (h : Hdr) (opc : BitVec 9) (m8 : BitVec 8) (m4 : BitVec 4) (o : DABC) (imm : BitVec 23) :
    (encDABC h opc m8 m4 o imm).mod4 = m4 := by
  simp only [encDABC, encW, Raw.mod4, mkW1_m]
@[simp] theorem encDAB_mod4 (h : Hdr) (opc : BitVec 9) (m8 : BitVec 8) (m4 : BitVec 4) (o : DAB) :
    (encDAB h opc m8 m4 o).mod4 = m4 := by
  simp only [encDAB, encW, Raw.mod4, mkW1_m]
@[simp] theorem encDA_mod4 (h : Hdr) (opc : BitVec 9) (m8 : BitVec 8) (m4 : BitVec 4) (o : DA) :
    (encDA h opc m8 m4 o).mod4 = m4 := by
  simp only [encDA, encW, Raw.mod4, mkW1_m]
@[simp] theorem encDA_mod8 (h : Hdr) (opc : BitVec 9) (m8 : BitVec 8) (m4 : BitVec 4) (o : DA) : (encDA h opc m8 m4 o).mod8 = m8 := rfl
@[simp] theorem encDAB_mod8 (h : Hdr) (opc : BitVec 9) (m8 : BitVec 8) (m4 : BitVec 4) (o : DAB) :
    (encDAB h opc m8 m4 o).mod8 = m8 := rfl
@[simp] theorem encDABC_mod8 (h : Hdr) (opc : BitVec 9) (m8 : BitVec 8) (m4 : BitVec 4) (o : DABC) (imm : BitVec 23) :
    (encDABC h opc m8 m4 o imm).mod8 = m8 := rfl
@[simp] theorem encDA_h (h : Hdr) (opc : BitVec 9) (m8 : BitVec 8) (m4 : BitVec 4) (o : DA) : (encDA h opc m8 m4 o).h = h := rfl
@[simp] theorem encDAB_h (h : Hdr) (opc : BitVec 9) (m8 : BitVec 8) (m4 : BitVec 4) (o : DAB) : (encDAB h opc m8 m4 o).h = h := rfl
@[simp] theorem encDABC_h (h : Hdr) (opc : BitVec 9) (m8 : BitVec 8) (m4 : BitVec 4) (o : DABC) (imm : BitVec 23) :
    (encDABC h opc m8 m4 o imm).h = h := rfl
@[simp] theorem bit8_0 (b : Bool) : (bit8 0 b)[0] = b := by cases b <;> rfl
@[simp] theorem bit8_3 (b : Bool) : (bit8 3 b)[3] = b := by cases b <;> rfl
@[simp] theorem bit8_4 (b : Bool) : (bit8 4 b)[4] = b := by cases b <;> rfl
@[simp] theorem mkW1_31 (i : Bool) (m : BitVec 4) (b a d : BitVec 9) : (mkW1 i m b a d)[31] = i := mkW1_i i m b a d
@[simp] theorem encW_d (h : Hdr) (opc : BitVec 9) (len : BitVec 2) (m8 : BitVec 8) (w1 w2 : Word) :
    (encW h opc len m8 w1 w2).d = w1.extractLsb' 0 9 := rfl
@[simp] theorem encW_a (h : Hdr) (opc : BitVec 9) (len : BitVec 2) (m8 : BitVec 8) (w1 w2 : Word) :
    (encW h opc len m8 w1 w2).a = w1.extractLsb' 9 9 := rfl
@[simp] theorem encW_b (h : Hdr) (opc : BitVec 9) (len : BitVec 2) (m8 : BitVec 8) (w1 w2 : Word) :
    (encW h opc len m8 w1 w2).b = w1.extractLsb' 18 9 := rfl
@[simp] theorem encW_mod4 (h : Hdr) (opc : BitVec 9) (len : BitVec 2) (m8 : BitVec 8) (w1 w2 : Word) :
    (encW h opc len m8 w1 w2).mod4 = w1.extractLsb' 27 4 := rfl
@[simp] theorem encW_immb (h : Hdr) (opc : BitVec 9) (len : BitVec 2) (m8 : BitVec 8) (w1 w2 : Word) :
    (encW h opc len m8 w1 w2).immb = w1.getLsbD 31 := rfl
@[simp] theorem encW_c (h : Hdr) (opc : BitVec 9) (len : BitVec 2) (m8 : BitVec 8) (w1 w2 : Word) :
    (encW h opc len m8 w1 w2).c = w2.extractLsb' 0 9 := rfl
@[simp] theorem encW_imm23 (h : Hdr) (opc : BitVec 9) (len : BitVec 2) (m8 : BitVec 8) (w1 w2 : Word) :
    (encW h opc len m8 w1 w2).imm23 = w2.extractLsb' 9 23 := rfl
@[simp] theorem encW_off27 (h : Hdr) (opc : BitVec 9) (len : BitVec 2) (m8 : BitVec 8) (w1 w2 : Word) :
    (encW h opc len m8 w1 w2).off27 = w1.extractLsb' 0 27 := rfl
@[simp] theorem encW_w1 (h : Hdr) (opc : BitVec 9) (len : BitVec 2) (m8 : BitVec 8) (w1 w2 : Word) :
    (encW h opc len m8 w1 w2).w1 = w1 := rfl
@[simp] theorem encW_w2 (h : Hdr) (opc : BitVec 9) (len : BitVec 2) (m8 : BitVec 8) (w1 w2 : Word) :
    (encW h opc len m8 w1 w2).w2 = w2 := rfl
@[simp] theorem encW_mod8 (h : Hdr) (opc : BitVec 9) (len : BitVec 2) (m8 : BitVec 8) (w1 w2 : Word) :
    (encW h opc len m8 w1 w2).mod8 = m8 := rfl
@[simp] theorem encW_h (h : Hdr) (opc : BitVec 9) (len : BitVec 2) (m8 : BitVec 8) (w1 w2 : Word) :
    (encW h opc len m8 w1 w2).h = h := rfl
@[simp] theorem encW_len (h : Hdr) (opc : BitVec 9) (len : BitVec 2) (m8 : BitVec 8) (w1 w2 : Word) :
    (encW h opc len m8 w1 w2).len = len := rfl
@[simp] theorem off27_back (off : BitVec 27) : (off.setWidth 32).extractLsb' 0 27 = off :=
  field (by have : (off.setWidth 32).toNat = off.toNat := by { rw [BitVec.toNat_setWidth]; omega }
            rw [this]; omega)
@[simp] theorem encOff27_off27 (h : Hdr) (opc : BitVec 9) (m8 : BitVec 8) (off : BitVec 27) : (encOff27 h opc m8 off).off27 = off :=
  off27_back off
/-- The fields of UNPKMX come back where its half index is 0 or 1. -/
theorem ElemSel.backUnpk {x : ElemSel} (scb : BitVec 2) (hx : x.didx.toNat < 2) :
    ElemSel.ofUnpk (x.bitsUnpk scb) = x ∧ (x.bitsUnpk scb).extractLsb' 13 2 = scb := by
  have h : (x.bitsUnpk scb).toNat =
      (((x.didx.toNat * 2 ^ 2 + scb.toNat) * 2 ^ 3 + x.sidx.toNat) * 2 ^ 5 + x.dfmt.toNat) * 2 ^ 5 + x.sfmt.toNat := by
    have h1 : (x.didx.setWidth 1).toNat = x.didx.toNat := by rw [BitVec.toNat_setWidth]; omega
    have : (x.didx.setWidth 1 ++ scb ++ x.sidx ++ x.dfmt ++ x.sfmt : BitVec (1 + 2 + 3 + 5 + 5)).toNat =
        (((x.didx.toNat * 2 ^ 2 + scb.toNat) * 2 ^ 3 + x.sidx.toNat) * 2 ^ 5 + x.dfmt.toNat) * 2 ^ 5 + x.sfmt.toNat :=
      app_to _ (app_to _ (app_to _ (app_to _ h1)))
    have := scb.isLt; have := x.sidx.isLt; have := x.dfmt.isLt; have := x.sfmt.isLt
    rw [ElemSel.bitsUnpk, BitVec.toNat_setWidth]; omega
  cases x; dsimp only at *
  refine ⟨?_, field (by omega)⟩
  simp only [ElemSel.ofUnpk, ElemSel.mk.injEq]
  refine ⟨low (by omega), field (by omega), field (by omega), ?_⟩
  apply BitVec.eq_of_toNat_eq
  rw [BitVec.toNat_setWidth, BitVec.extractLsb'_toNat, Nat.shiftRight_eq_div_pow]; omega
@[simp] theorem encOff27_mod8 (h : Hdr) (opc : BitVec 9) (m8 : BitVec 8) (off : BitVec 27) : (encOff27 h opc m8 off).mod8 = m8 := rfl
@[simp] theorem encOff27_h (h : Hdr) (opc : BitVec 9) (m8 : BitVec 8) (off : BitVec 27) : (encOff27 h opc m8 off).h = h := rfl
/-- A register or 9-bit B of one of the plain words. -/
@[simp] theorem encW_srcB (h : Hdr) (opc : BitVec 9) (len : BitVec 2) (m8 : BitVec 8) (m4 : BitVec 4) (a d : BitVec 9) {b : SrcB}
    (w2 : Word) (hb : b.isImm32 = false) : (encW h opc len m8 (mkW1 b.isImm m4 b.bits9 a d) w2).srcB = b := by
  simp only [Raw.srcB, Raw.immb, Raw.b, encW, mkW1_i, mkW1_b, SrcB.back hb]
@[simp] theorem encDAC_d (h : Hdr) (opc : BitVec 9) (m8 : BitVec 8) (d a c : Opd) (imm : BitVec 23) :
    (encDAC h opc m8 d a c imm).d = d.bits := by
  simp only [encDAC, encW, Raw.d, mkW1_d]
@[simp] theorem encDAC_a (h : Hdr) (opc : BitVec 9) (m8 : BitVec 8) (d a c : Opd) (imm : BitVec 23) :
    (encDAC h opc m8 d a c imm).a = a.bits := by
  simp only [encDAC, encW, Raw.a, mkW1_a]
@[simp] theorem encDAC_c (h : Hdr) (opc : BitVec 9) (m8 : BitVec 8) (d a c : Opd) (imm : BitVec 23) :
    (encDAC h opc m8 d a c imm).c = c.bits := by
  simp only [encDAC, encW, Raw.c, mkW2_c]
@[simp] theorem encDAC_imm23 (h : Hdr) (opc : BitVec 9) (m8 : BitVec 8) (d a c : Opd) (imm : BitVec 23) :
    (encDAC h opc m8 d a c imm).imm23 = imm := by
  simp only [encDAC, encW, Raw.imm23, mkW2_imm]
@[simp] theorem encDAC_mod8 (h : Hdr) (opc : BitVec 9) (m8 : BitVec 8) (d a c : Opd) (imm : BitVec 23) :
    (encDAC h opc m8 d a c imm).mod8 = m8 := rfl
@[simp] theorem encDAC_h (h : Hdr) (opc : BitVec 9) (m8 : BitVec 8) (d a c : Opd) (imm : BitVec 23) :
    (encDAC h opc m8 d a c imm).h = h := rfl
/-- An address comes back from its fields. -/
@[simp] theorem encMem_addr (h : Hdr) (opc : BitVec 9) (m8 : BitVec 8) (cv : Bool) (d : Opd) {x : Addr} (hx : x.ok = true) :
    (encMem h opc m8 cv d x).addr = x := by
  rcases x with ⟨base, idx, scale, off⟩
  simp only [Addr.ok, Bool.and_eq_true, Bool.not_eq_true'] at hx
  have hs : ((BitVec.ofBool cv ++ scale : BitVec 4)).setWidth 3 = scale :=
    low (by have := app_nat (BitVec.ofBool cv) scale; have := ofBool_lt cv; omega)
  cases off <;> simp only [encMem, encW, Raw.addr, Raw.srcB, Raw.optOff, Raw.immb, Raw.a, Raw.b, Raw.mod4, Raw.imm23, mkW1_a, mkW1_b,
    mkW1_m, mkW1_i, mkW2_imm, Opd.ofBits_bits, SrcB.back hx.1.1, hs] <;> simp
@[simp] theorem encMem_d (h : Hdr) (opc : BitVec 9) (m8 : BitVec 8) (cv : Bool) (d : Opd) (x : Addr) :
    (encMem h opc m8 cv d x).d = d.bits := by
  simp only [encMem, encW, Raw.d, mkW1_d]
@[simp] theorem encMem_mod8 (h : Hdr) (opc : BitVec 9) (m8 : BitVec 8) (cv : Bool) (d : Opd) (x : Addr) :
    (encMem h opc m8 cv d x).mod8 = m8 := rfl
@[simp] theorem encMem_h (h : Hdr) (opc : BitVec 9) (m8 : BitVec 8) (cv : Bool) (d : Opd) (x : Addr) :
    (encMem h opc m8 cv d x).h = h := rfl
@[simp] theorem encMem_mods (h : Hdr) (opc : BitVec 9) (m : MemMods) (d : Opd) (x : Addr) :
    (encMem h opc m.bits m.cv d x).memMods = m := by
  rcases m with ⟨v, f, cv⟩
  have h0 : (MemMods.bits ⟨v, f, cv⟩).toNat = v.toNat * 2 ^ 5 + f.toNat := app_nat v f
  have hc : ((BitVec.ofBool cv ++ x.scale : BitVec 4)).getLsbD 3 = cv :=
    bit (by have := app_nat (BitVec.ofBool cv) x.scale; have := ofBool_lt cv; omega)
  simp only [encMem, encW, Raw.memMods, Raw.mod4, mkW1_m, hc, MemMods.mk.injEq, and_true]
  exact ⟨field (by omega), low (by omega)⟩
/-- The operands of an atomic come back. -/
@[simp] theorem encAtom_atomArg (h : Hdr) (opc : BitVec 9) (m8 : BitVec 8) (d : Opd) {x : AtomArg} (hx : x.ok = true) :
    (encAtom h opc m8 d x).atomArg = x := by
  cases x with
  | short base data =>
    have hb : data.isImm32 = false := by simpa [AtomArg.ok] using hx
    simp only [encAtom, encW, Raw.atomArg, Raw.srcB, Raw.immb, Raw.a, Raw.b, mkW1_a, mkW1_b, mkW1_i, Opd.ofBits_bits, SrcB.back hb]
    rfl
  | long y data =>
    rcases y with ⟨base, idx, scale, off⟩
    simp only [AtomArg.ok, Addr.ok, Bool.and_eq_true, Bool.not_eq_true'] at hx
    cases off with
    | none => exact absurd hx.2 (by simp)
    | some o =>
      have hs : ((0 : BitVec 1) ++ scale : BitVec 4).setWidth 3 = scale :=
        low (by have := app_nat (0 : BitVec 1) scale; omega)
      simp only [encAtom, encW, Raw.atomArg, Raw.addr, Raw.optOff, Raw.srcB, Raw.immb, Raw.a, Raw.b, Raw.c, Raw.mod4, Raw.imm23, mkW1_a,
        mkW1_b, mkW1_m, mkW1_i, mkW2_c, mkW2_imm, Opd.ofBits_bits, SrcB.back hx.1.1.1, hs, Option.getD_some, if_true]
theorem encAtom_opc (h : Hdr) (opc : BitVec 9) (m8 : BitVec 8) (d : Opd) (x : AtomArg) : (encAtom h opc m8 d x).opc = opc := by
  cases x <;> rfl
@[simp] theorem encAtom_d (h : Hdr) (opc : BitVec 9) (m8 : BitVec 8) (d : Opd) (x : AtomArg) : (encAtom h opc m8 d x).d = d.bits := by
  cases x <;> simp only [encAtom, encW, Raw.d, mkW1_d]
@[simp] theorem encAtom_mod8 (h : Hdr) (opc : BitVec 9) (m8 : BitVec 8) (d : Opd) (x : AtomArg) :
    (encAtom h opc m8 d x).mod8 = m8 := by
  cases x <;> rfl
@[simp] theorem encAtom_h (h : Hdr) (opc : BitVec 9) (m8 : BitVec 8) (d : Opd) (x : AtomArg) : (encAtom h opc m8 d x).h = h := by
  cases x <;> rfl
/-- The operands of a tile access come back. -/
@[simp] theorem encTile_srcB (h : Hdr) (opc : BitVec 9) (m8 : BitVec 8) (t : BitVec 4) (a : Opd) {b : SrcB} (off : Option (BitVec 23))
    (hb : b.isImm32 = false) : (encTile h opc m8 t a b off).srcB = b := by
  simp only [encTile, encW, Raw.srcB, Raw.immb, Raw.b, mkW1_i, mkW1_b, SrcB.back hb]
@[simp] theorem encTile_optOff (h : Hdr) (opc : BitVec 9) (m8 : BitVec 8) (t : BitVec 4) (a : Opd) (b : SrcB) (off : Option (BitVec 23)) :
    (encTile h opc m8 t a b off).optOff = off := by
  cases off <;> simp [encTile, encW, Raw.optOff, Raw.imm23]
@[simp] theorem encTile_a (h : Hdr) (opc : BitVec 9) (m8 : BitVec 8) (t : BitVec 4) (a : Opd) (b : SrcB) (off : Option (BitVec 23)) :
    (encTile h opc m8 t a b off).a = a.bits := by
  simp only [encTile, encW, Raw.a, mkW1_a]
@[simp] theorem encTile_mod4 (h : Hdr) (opc : BitVec 9) (m8 : BitVec 8) (t : BitVec 4) (a : Opd) (b : SrcB) (off : Option (BitVec 23)) :
    (encTile h opc m8 t a b off).mod4 = t := by
  simp only [encTile, encW, Raw.mod4, mkW1_m]
@[simp] theorem encTile_mod8 (h : Hdr) (opc : BitVec 9) (m8 : BitVec 8) (t : BitVec 4) (a : Opd) (b : SrcB) (off : Option (BitVec 23)) :
    (encTile h opc m8 t a b off).mod8 = m8 := rfl
@[simp] theorem encTile_h (h : Hdr) (opc : BitVec 9) (m8 : BitVec 8) (t : BitVec 4) (a : Opd) (b : SrcB) (off : Option (BitVec 23)) :
    (encTile h opc m8 t a b off).h = h := rfl
@[simp] theorem wide23 {w : Nat} (x : BitVec w) (h : w ≤ 23) : (x.setWidth 23).setWidth w = x := by
  rw [BitVec.setWidth_setWidth_of_le _ h, BitVec.setWidth_eq]
/-! The class of an opcode -/

theorem buildInt_at {r : Raw} (k : Nat) (h : r.opc.toNat = k) (hk : k < 56) : build r = buildInt r k := by
  simp (disch := omega) only [build, h, if_neg, if_pos, Nat.add_sub_cancel_left]
theorem buildFp_at {r : Raw} (k : Nat) (h : r.opc.toNat = 64 + k) (hk : k < 44) : build r = buildFp r k := by
  simp (disch := omega) only [build, h, if_neg, if_pos, Nat.add_sub_cancel_left]
theorem buildSfu_at {r : Raw} (k : Nat) (h : r.opc.toNat = 128 + k) (hk : k < 30) : build r = buildSfu r k := by
  simp (disch := omega) only [build, h, if_neg, if_pos, Nat.add_sub_cancel_left]
theorem buildCvt_at {r : Raw} (k : Nat) (h : r.opc.toNat = 160 + k) (hk : k < 16) : build r = buildCvt r k := by
  simp (disch := omega) only [build, h, if_neg, if_pos, Nat.add_sub_cancel_left]
theorem buildXchg_at {r : Raw} (k : Nat) (h : r.opc.toNat = 176 + k) (hk : k < 25) : build r = buildXchg r k := by
  simp (disch := omega) only [build, h, if_neg, if_pos, Nat.add_sub_cancel_left]
theorem buildUnif_at {r : Raw} (k : Nat) (h : r.opc.toNat = 208 + k) (hk : k < 23) : build r = buildUnif r k := by
  simp (disch := omega) only [build, h, if_neg, if_pos, Nat.add_sub_cancel_left]
theorem buildCtrl_at {r : Raw} (k : Nat) (h : r.opc.toNat = 240 + k) (hk : k < 15) : build r = buildCtrl r k := by
  simp (disch := omega) only [build, h, if_neg, if_pos, Nat.add_sub_cancel_left]
theorem buildMem_at {r : Raw} (k : Nat) (h : r.opc.toNat = 256 + k) (hk : k < 52) : build r = buildMem r k := by
  simp (disch := omega) only [build, h, if_neg, if_pos, Nat.add_sub_cancel_left]
theorem buildSync_at {r : Raw} (k : Nat) (h : r.opc.toNat = 320 + k) (hk : k < 12) : build r = buildSync r k := by
  simp (disch := omega) only [build, h, if_neg, if_pos, Nat.add_sub_cancel_left]
theorem buildAsync_at {r : Raw} (k : Nat) (h : r.opc.toNat = 336 + k) (hk : k < 15) : build r = buildAsync r k := by
  simp (disch := omega) only [build, h, if_neg, if_pos, Nat.add_sub_cancel_left]
theorem buildTile_at {r : Raw} (k : Nat) (h : r.opc.toNat = 368 + k) (hk : k < 19) : build r = buildTile r k := by
  simp (disch := omega) only [build, h, if_neg, if_pos, Nat.add_sub_cancel_left]
theorem buildGen_at {r : Raw} (k : Nat) (h : r.opc.toNat = 400 + k) (hk : k < 5) : build r = buildGen r k := by
  simp (disch := omega) only [build, h, if_neg, if_pos, Nat.add_sub_cancel_left]
theorem buildSys_at {r : Raw} (k : Nat) (h : r.opc.toNat = 408 + k) (hk : k < 4) : build r = buildSys r k := by
  simp (disch := omega) only [build, h, if_neg, if_pos, Nat.add_sub_cancel_left]
theorem buildPair_at {r : Raw} (k : Nat) (h : r.opc.toNat = 496 + k) (hk : k < 4) : build r = buildPair r k := by
  simp (disch := omega) only [build, h, if_neg, if_pos, Nat.add_sub_cancel_left]

/-! The lengths of each shape -/

/-- The opcode permits the length. -/
def Raw.lenOk (r : Raw) : Bool := r.len != 3 && (lenMask r.opc.toNat).testBit r.len.toNat

theorem lenOk_W {h : Hdr} {opc : BitVec 9} {len : BitVec 2} {m8 : BitVec 8} {w1 w2 : Word}
    (hl : (len != 3 && (lenMask opc.toNat).testBit len.toNat) = true) : (encW h opc len m8 w1 w2).lenOk = true := hl
theorem lenOk_DA {h : Hdr} {opc : BitVec 9} {m8 : BitVec 8} {m4 : BitVec 4} {o : DA} (hl : (lenMask opc.toNat).testBit 1 = true) :
    (encDA h opc m8 m4 o).lenOk = true := hl
theorem lenOk_DABC {h : Hdr} {opc : BitVec 9} {m8 : BitVec 8} {m4 : BitVec 4} {o : DABC} {i : BitVec 23}
    (hl : (lenMask opc.toNat).testBit 2 = true) : (encDABC h opc m8 m4 o i).lenOk = true := hl
theorem lenOk_DAC {h : Hdr} {opc : BitVec 9} {m8 : BitVec 8} {d a c : Opd} {i : BitVec 23}
    (hl : (lenMask opc.toNat).testBit 2 = true) : (encDAC h opc m8 d a c i).lenOk = true := hl
theorem lenOk_Off27 {h : Hdr} {opc : BitVec 9} {m8 : BitVec 8} {off : BitVec 27}
    (hl : (lenMask opc.toNat).testBit 1 = true) : (encOff27 h opc m8 off).lenOk = true := hl
theorem lenOk_DAB {h : Hdr} {opc : BitVec 9} {m8 : BitVec 8} {m4 : BitVec 4} {o : DAB}
    (h1 : (lenMask opc.toNat).testBit 1 = true) (h2 : (lenMask opc.toNat).testBit 2 = true) : (encDAB h opc m8 m4 o).lenOk = true := by
  unfold Raw.lenOk encDAB encW; cases o.b.isImm32 <;> simp [h1, h2]
theorem lenOk_DAB1 {h : Hdr} {opc : BitVec 9} {m8 : BitVec 8} {m4 : BitVec 4} {o : DAB} (hb : o.b.isImm32 = false)
    (h1 : (lenMask opc.toNat).testBit 1 = true) : (encDAB h opc m8 m4 o).lenOk = true := by
  unfold Raw.lenOk encDAB encW; simp [hb, h1]
theorem lenOk_Mem {h : Hdr} {opc : BitVec 9} {m8 : BitVec 8} {cv : Bool} {d : Opd} {x : Addr}
    (h1 : (lenMask opc.toNat).testBit 1 = true) (h2 : (lenMask opc.toNat).testBit 2 = true) : (encMem h opc m8 cv d x).lenOk = true := by
  unfold Raw.lenOk encMem encW; cases x.off.isSome <;> simp [h1, h2]
theorem lenOk_Mem1 {h : Hdr} {opc : BitVec 9} {m8 : BitVec 8} {cv : Bool} {d : Opd} {x : Addr} (hx : x.off.isNone = true)
    (h1 : (lenMask opc.toNat).testBit 1 = true) : (encMem h opc m8 cv d x).lenOk = true := by
  unfold Raw.lenOk encMem encW; cases hy : x.off <;> simp_all
theorem lenOk_Tile {h : Hdr} {opc : BitVec 9} {m8 : BitVec 8} {t : BitVec 4} {a : Opd} {b : SrcB} {off : Option (BitVec 23)}
    (h1 : (lenMask opc.toNat).testBit 1 = true) (h2 : (lenMask opc.toNat).testBit 2 = true) :
    (encTile h opc m8 t a b off).lenOk = true := by
  unfold Raw.lenOk encTile encW; cases off.isSome <;> simp [h1, h2]
theorem lenOk_Atom {h : Hdr} {opc : BitVec 9} {m8 : BitVec 8} {d : Opd} {x : AtomArg}
    (h1 : (lenMask opc.toNat).testBit 1 = true) (h2 : (lenMask opc.toNat).testBit 2 = true) : (encAtom h opc m8 d x).lenOk = true := by
  unfold Raw.lenOk; cases x <;> simp [encAtom, encW, h1, h2]

end Sys2Proof

namespace Sys2Proof.Laws

/-- The raw words of a well-formed instruction have a length its opcode permits, and name it. -/
def RoundTrip.Statement (i : Instr) : Prop := i.wf = true → ∀ r, i.toRaw = some r → r.lenOk = true ∧ build r = some i

theorem RoundTrip.iadd (h : Hdr) (m : SatU) (o : DAB) : RoundTrip.Statement (.iadd h m o) := by
  intro hw r hr; obtain rfl : (encDAB h 0x000 m.bits 0 o) = r := Option.some.inj hr
  refine ⟨lenOk_DAB rfl rfl, ?_⟩
  refine (buildInt_at 0 rfl (by decide)).trans ?_
  show some (let r : Raw := (encDAB h 0x000 m.bits 0 o); Instr.iadd r.h (.ofBits r.mod8) r.dabI) = _
  simp [*]
theorem RoundTrip.isub (h : Hdr) (m : SatU) (o : DAB) : RoundTrip.Statement (.isub h m o) := by
  intro hw r hr; obtain rfl : (encDAB h 0x001 m.bits 0 o) = r := Option.some.inj hr
  refine ⟨lenOk_DAB rfl rfl, ?_⟩
  refine (buildInt_at 1 rfl (by decide)).trans ?_
  show some (let r : Raw := (encDAB h 0x001 m.bits 0 o); Instr.isub r.h (.ofBits r.mod8) r.dabI) = _
  simp [*]
theorem RoundTrip.iadd3 (h : Hdr) (m : SatU) (o : DABC) : RoundTrip.Statement (.iadd3 h m o) := by
  intro hw r hr; obtain rfl : (encDABC h 0x002 m.bits 0 o 0) = r := Option.some.inj hr
  replace hw : (h.ok && (m.sat || !m.u) && !o.b.isImm32) = true := hw
  simp only [Bool.and_eq_true, Bool.not_eq_true'] at hw
  refine ⟨lenOk_DABC rfl, ?_⟩
  refine (buildInt_at 2 rfl (by decide)).trans ?_
  show some (let r : Raw := (encDABC h 0x002 m.bits 0 o 0); Instr.iadd3 r.h (.ofBits r.mod8) r.dabc) = _
  simp [*]
theorem RoundTrip.iaddc (h : Hdr) (o : DABC) (pco : BitVec 7) : RoundTrip.Statement (.iaddc h o pco) := by
  intro hw r hr; obtain rfl : (encDABC h 0x003 0 0 o (pco.setWidth 23)) = r := Option.some.inj hr
  replace hw : (h.ok && !o.b.isImm32 && pcoOk pco) = true := hw
  simp only [Bool.and_eq_true, Bool.not_eq_true'] at hw
  refine ⟨lenOk_DABC rfl, ?_⟩
  refine (buildInt_at 3 rfl (by decide)).trans ?_
  show some (let r : Raw := (encDABC h 0x003 0 0 o (pco.setWidth 23)); Instr.iaddc r.h r.dabc (r.imm23.setWidth 7)) = _
  simp [*]
theorem RoundTrip.isubb (h : Hdr) (o : DABC) (pco : BitVec 7) : RoundTrip.Statement (.isubb h o pco) := by
  intro hw r hr; obtain rfl : (encDABC h 0x004 0 0 o (pco.setWidth 23)) = r := Option.some.inj hr
  replace hw : (h.ok && !o.b.isImm32 && pcoOk pco) = true := hw
  simp only [Bool.and_eq_true, Bool.not_eq_true'] at hw
  refine ⟨lenOk_DABC rfl, ?_⟩
  refine (buildInt_at 4 rfl (by decide)).trans ?_
  show some (let r : Raw := (encDABC h 0x004 0 0 o (pco.setWidth 23)); Instr.isubb r.h r.dabc (r.imm23.setWidth 7)) = _
  simp [*]
theorem RoundTrip.iadd64 (h : Hdr) (o : DAB) : RoundTrip.Statement (.iadd64 h o) := by
  intro hw r hr; obtain rfl : (encDAB h 0x005 0 0 o) = r := Option.some.inj hr
  refine ⟨lenOk_DAB rfl rfl, ?_⟩
  refine (buildInt_at 5 rfl (by decide)).trans ?_
  show some (let r : Raw := (encDAB h 0x005 0 0 o); Instr.iadd64 r.h r.dabI) = _
  simp [*]
theorem RoundTrip.isub64 (h : Hdr) (o : DAB) : RoundTrip.Statement (.isub64 h o) := by
  intro hw r hr; obtain rfl : (encDAB h 0x006 0 0 o) = r := Option.some.inj hr
  refine ⟨lenOk_DAB rfl rfl, ?_⟩
  refine (buildInt_at 6 rfl (by decide)).trans ?_
  show some (let r : Raw := (encDAB h 0x006 0 0 o); Instr.isub64 r.h r.dabI) = _
  simp [*]
theorem RoundTrip.imul (h : Hdr) (o : DAB) : RoundTrip.Statement (.imul h o) := by
  intro hw r hr; obtain rfl : (encDAB h 0x007 0 0 o) = r := Option.some.inj hr
  refine ⟨lenOk_DAB rfl rfl, ?_⟩
  refine (buildInt_at 7 rfl (by decide)).trans ?_
  show some (let r : Raw := (encDAB h 0x007 0 0 o); Instr.imul r.h r.dabI) = _
  simp [*]
theorem RoundTrip.imulhiS (h : Hdr) (o : DAB) : RoundTrip.Statement (.imulhiS h o) := by
  intro hw r hr; obtain rfl : (encDAB h 0x008 0 0 o) = r := Option.some.inj hr
  replace hw : (h.ok && !o.b.isImm32) = true := hw
  simp only [Bool.and_eq_true, Bool.not_eq_true'] at hw
  refine ⟨lenOk_DAB1 (by simp [*]) rfl, ?_⟩
  refine (buildInt_at 8 rfl (by decide)).trans ?_
  show some (let r : Raw := (encDAB h 0x008 0 0 o); Instr.imulhiS r.h r.dab) = _
  simp [*]
theorem RoundTrip.imulhiU (h : Hdr) (o : DAB) : RoundTrip.Statement (.imulhiU h o) := by
  intro hw r hr; obtain rfl : (encDAB h 0x009 0 0 o) = r := Option.some.inj hr
  replace hw : (h.ok && !o.b.isImm32) = true := hw
  simp only [Bool.and_eq_true, Bool.not_eq_true'] at hw
  refine ⟨lenOk_DAB1 (by simp [*]) rfl, ?_⟩
  refine (buildInt_at 9 rfl (by decide)).trans ?_
  show some (let r : Raw := (encDAB h 0x009 0 0 o); Instr.imulhiU r.h r.dab) = _
  simp [*]
theorem RoundTrip.imad (h : Hdr) (o : DABC) : RoundTrip.Statement (.imad h o) := by
  intro hw r hr; obtain rfl : (encDABC h 0x00A 0 0 o 0) = r := Option.some.inj hr
  replace hw : (h.ok && !o.b.isImm32) = true := hw
  simp only [Bool.and_eq_true, Bool.not_eq_true'] at hw
  refine ⟨lenOk_DABC rfl, ?_⟩
  refine (buildInt_at 10 rfl (by decide)).trans ?_
  show some (let r : Raw := (encDABC h 0x00A 0 0 o 0); Instr.imad r.h r.dabc) = _
  simp [*]
theorem RoundTrip.imadwS (h : Hdr) (o : DABC) : RoundTrip.Statement (.imadwS h o) := by
  intro hw r hr; obtain rfl : (encDABC h 0x00B 0 0 o 0) = r := Option.some.inj hr
  replace hw : (h.ok && !o.b.isImm32) = true := hw
  simp only [Bool.and_eq_true, Bool.not_eq_true'] at hw
  refine ⟨lenOk_DABC rfl, ?_⟩
  refine (buildInt_at 11 rfl (by decide)).trans ?_
  show some (let r : Raw := (encDABC h 0x00B 0 0 o 0); Instr.imadwS r.h r.dabc) = _
  simp [*]
theorem RoundTrip.imadwU (h : Hdr) (o : DABC) : RoundTrip.Statement (.imadwU h o) := by
  intro hw r hr; obtain rfl : (encDABC h 0x00C 0 0 o 0) = r := Option.some.inj hr
  replace hw : (h.ok && !o.b.isImm32) = true := hw
  simp only [Bool.and_eq_true, Bool.not_eq_true'] at hw
  refine ⟨lenOk_DABC rfl, ?_⟩
  refine (buildInt_at 12 rfl (by decide)).trans ?_
  show some (let r : Raw := (encDABC h 0x00C 0 0 o 0); Instr.imadwU r.h r.dabc) = _
  simp [*]
theorem RoundTrip.iabs (h : Hdr) (sat : Bool) (o : DA) : RoundTrip.Statement (.iabs h sat o) := by
  intro hw r hr; obtain rfl : (encDA h 0x00D (bit8 3 sat) 0 o) = r := Option.some.inj hr
  refine ⟨lenOk_DA rfl, ?_⟩
  refine (buildInt_at 13 rfl (by decide)).trans ?_
  show some (let r : Raw := (encDA h 0x00D (bit8 3 sat) 0 o); Instr.iabs r.h (r.mod8.getLsbD 3) r.da) = _
  simp [*]
theorem RoundTrip.iminS (h : Hdr) (o : DAB) : RoundTrip.Statement (.iminS h o) := by
  intro hw r hr; obtain rfl : (encDAB h 0x00E 0 0 o) = r := Option.some.inj hr
  refine ⟨lenOk_DAB rfl rfl, ?_⟩
  refine (buildInt_at 14 rfl (by decide)).trans ?_
  show some (let r : Raw := (encDAB h 0x00E 0 0 o); Instr.iminS r.h r.dabI) = _
  simp [*]
theorem RoundTrip.iminU (h : Hdr) (o : DAB) : RoundTrip.Statement (.iminU h o) := by
  intro hw r hr; obtain rfl : (encDAB h 0x00F 0 0 o) = r := Option.some.inj hr
  refine ⟨lenOk_DAB rfl rfl, ?_⟩
  refine (buildInt_at 15 rfl (by decide)).trans ?_
  show some (let r : Raw := (encDAB h 0x00F 0 0 o); Instr.iminU r.h r.dabI) = _
  simp [*]
theorem RoundTrip.imaxS (h : Hdr) (o : DAB) : RoundTrip.Statement (.imaxS h o) := by
  intro hw r hr; obtain rfl : (encDAB h 0x010 0 0 o) = r := Option.some.inj hr
  refine ⟨lenOk_DAB rfl rfl, ?_⟩
  refine (buildInt_at 16 rfl (by decide)).trans ?_
  show some (let r : Raw := (encDAB h 0x010 0 0 o); Instr.imaxS r.h r.dabI) = _
  simp [*]
theorem RoundTrip.imaxU (h : Hdr) (o : DAB) : RoundTrip.Statement (.imaxU h o) := by
  intro hw r hr; obtain rfl : (encDAB h 0x011 0 0 o) = r := Option.some.inj hr
  refine ⟨lenOk_DAB rfl rfl, ?_⟩
  refine (buildInt_at 17 rfl (by decide)).trans ?_
  show some (let r : Raw := (encDAB h 0x011 0 0 o); Instr.imaxU r.h r.dabI) = _
  simp [*]
theorem RoundTrip.iclampS (h : Hdr) (o : DABC) : RoundTrip.Statement (.iclampS h o) := by
  intro hw r hr; obtain rfl : (encDABC h 0x012 0 0 o 0) = r := Option.some.inj hr
  replace hw : (h.ok && !o.b.isImm32) = true := hw
  simp only [Bool.and_eq_true, Bool.not_eq_true'] at hw
  refine ⟨lenOk_DABC rfl, ?_⟩
  refine (buildInt_at 18 rfl (by decide)).trans ?_
  show some (let r : Raw := (encDABC h 0x012 0 0 o 0); Instr.iclampS r.h r.dabc) = _
  simp [*]
theorem RoundTrip.iclampU (h : Hdr) (o : DABC) : RoundTrip.Statement (.iclampU h o) := by
  intro hw r hr; obtain rfl : (encDABC h 0x013 0 0 o 0) = r := Option.some.inj hr
  replace hw : (h.ok && !o.b.isImm32) = true := hw
  simp only [Bool.and_eq_true, Bool.not_eq_true'] at hw
  refine ⟨lenOk_DABC rfl, ?_⟩
  refine (buildInt_at 19 rfl (by decide)).trans ?_
  show some (let r : Raw := (encDABC h 0x013 0 0 o 0); Instr.iclampU r.h r.dabc) = _
  simp [*]
theorem RoundTrip.ishl (h : Hdr) (o : DAB) : RoundTrip.Statement (.ishl h o) := by
  intro hw r hr; obtain rfl : (encDAB h 0x014 0 0 o) = r := Option.some.inj hr
  replace hw : (h.ok && !o.b.isImm32) = true := hw
  simp only [Bool.and_eq_true, Bool.not_eq_true'] at hw
  refine ⟨lenOk_DAB1 (by simp [*]) rfl, ?_⟩
  refine (buildInt_at 20 rfl (by decide)).trans ?_
  show some (let r : Raw := (encDAB h 0x014 0 0 o); Instr.ishl r.h r.dab) = _
  simp [*]
theorem RoundTrip.ishr (h : Hdr) (o : DAB) : RoundTrip.Statement (.ishr h o) := by
  intro hw r hr; obtain rfl : (encDAB h 0x015 0 0 o) = r := Option.some.inj hr
  replace hw : (h.ok && !o.b.isImm32) = true := hw
  simp only [Bool.and_eq_true, Bool.not_eq_true'] at hw
  refine ⟨lenOk_DAB1 (by simp [*]) rfl, ?_⟩
  refine (buildInt_at 21 rfl (by decide)).trans ?_
  show some (let r : Raw := (encDAB h 0x015 0 0 o); Instr.ishr r.h r.dab) = _
  simp [*]
theorem RoundTrip.ishra (h : Hdr) (o : DAB) : RoundTrip.Statement (.ishra h o) := by
  intro hw r hr; obtain rfl : (encDAB h 0x016 0 0 o) = r := Option.some.inj hr
  replace hw : (h.ok && !o.b.isImm32) = true := hw
  simp only [Bool.and_eq_true, Bool.not_eq_true'] at hw
  refine ⟨lenOk_DAB1 (by simp [*]) rfl, ?_⟩
  refine (buildInt_at 22 rfl (by decide)).trans ?_
  show some (let r : Raw := (encDAB h 0x016 0 0 o); Instr.ishra r.h r.dab) = _
  simp [*]
theorem RoundTrip.shfL (h : Hdr) (o : DABC) : RoundTrip.Statement (.shfL h o) := by
  intro hw r hr; obtain rfl : (encDABC h 0x017 0 0 o 0) = r := Option.some.inj hr
  replace hw : (h.ok && !o.b.isImm32) = true := hw
  simp only [Bool.and_eq_true, Bool.not_eq_true'] at hw
  refine ⟨lenOk_DABC rfl, ?_⟩
  refine (buildInt_at 23 rfl (by decide)).trans ?_
  show some (let r : Raw := (encDABC h 0x017 0 0 o 0); Instr.shfL r.h r.dabc) = _
  simp [*]
theorem RoundTrip.shfR (h : Hdr) (o : DABC) : RoundTrip.Statement (.shfR h o) := by
  intro hw r hr; obtain rfl : (encDABC h 0x018 0 0 o 0) = r := Option.some.inj hr
  replace hw : (h.ok && !o.b.isImm32) = true := hw
  simp only [Bool.and_eq_true, Bool.not_eq_true'] at hw
  refine ⟨lenOk_DABC rfl, ?_⟩
  refine (buildInt_at 24 rfl (by decide)).trans ?_
  show some (let r : Raw := (encDABC h 0x018 0 0 o 0); Instr.shfR r.h r.dabc) = _
  simp [*]
theorem RoundTrip.irot (h : Hdr) (o : DAB) : RoundTrip.Statement (.irot h o) := by
  intro hw r hr; obtain rfl : (encDAB h 0x019 0 0 o) = r := Option.some.inj hr
  replace hw : (h.ok && !o.b.isImm32) = true := hw
  simp only [Bool.and_eq_true, Bool.not_eq_true'] at hw
  refine ⟨lenOk_DAB1 (by simp [*]) rfl, ?_⟩
  refine (buildInt_at 25 rfl (by decide)).trans ?_
  show some (let r : Raw := (encDAB h 0x019 0 0 o); Instr.irot r.h r.dab) = _
  simp [*]
theorem RoundTrip.isad (h : Hdr) (u : Bool) (o : DABC) : RoundTrip.Statement (.isad h u o) := by
  intro hw r hr; obtain rfl : (encDABC h 0x01A (bit8 4 u) 0 o 0) = r := Option.some.inj hr
  replace hw : (h.ok && !o.b.isImm32) = true := hw
  simp only [Bool.and_eq_true, Bool.not_eq_true'] at hw
  refine ⟨lenOk_DABC rfl, ?_⟩
  refine (buildInt_at 26 rfl (by decide)).trans ?_
  show some (let r : Raw := (encDABC h 0x01A (bit8 4 u) 0 o 0); Instr.isad r.h (r.mod8.getLsbD 4) r.dabc) = _
  simp [*]
theorem RoundTrip.idp4S (h : Hdr) (o : DABC) : RoundTrip.Statement (.idp4S h o) := by
  intro hw r hr; obtain rfl : (encDABC h 0x01B 0 0 o 0) = r := Option.some.inj hr
  replace hw : (h.ok && !o.b.isImm32) = true := hw
  simp only [Bool.and_eq_true, Bool.not_eq_true'] at hw
  refine ⟨lenOk_DABC rfl, ?_⟩
  refine (buildInt_at 27 rfl (by decide)).trans ?_
  show some (let r : Raw := (encDABC h 0x01B 0 0 o 0); Instr.idp4S r.h r.dabc) = _
  simp [*]
theorem RoundTrip.idp4U (h : Hdr) (o : DABC) : RoundTrip.Statement (.idp4U h o) := by
  intro hw r hr; obtain rfl : (encDABC h 0x01C 0 0 o 0) = r := Option.some.inj hr
  replace hw : (h.ok && !o.b.isImm32) = true := hw
  simp only [Bool.and_eq_true, Bool.not_eq_true'] at hw
  refine ⟨lenOk_DABC rfl, ?_⟩
  refine (buildInt_at 28 rfl (by decide)).trans ?_
  show some (let r : Raw := (encDABC h 0x01C 0 0 o 0); Instr.idp4U r.h r.dabc) = _
  simp [*]
theorem RoundTrip.idp2 (h : Hdr) (u : Bool) (o : DABC) : RoundTrip.Statement (.idp2 h u o) := by
  intro hw r hr; obtain rfl : (encDABC h 0x01D (bit8 4 u) 0 o 0) = r := Option.some.inj hr
  replace hw : (h.ok && !o.b.isImm32) = true := hw
  simp only [Bool.and_eq_true, Bool.not_eq_true'] at hw
  refine ⟨lenOk_DABC rfl, ?_⟩
  refine (buildInt_at 29 rfl (by decide)).trans ?_
  show some (let r : Raw := (encDABC h 0x01D (bit8 4 u) 0 o 0); Instr.idp2 r.h (r.mod8.getLsbD 4) r.dabc) = _
  simp [*]
theorem RoundTrip.popc (h : Hdr) (o : DA) : RoundTrip.Statement (.popc h o) := by
  intro hw r hr; obtain rfl : (encDA h 0x01E 0 0 o) = r := Option.some.inj hr
  refine ⟨lenOk_DA rfl, ?_⟩
  refine (buildInt_at 30 rfl (by decide)).trans ?_
  show some (let r : Raw := (encDA h 0x01E 0 0 o); Instr.popc r.h r.da) = _
  simp [*]
theorem RoundTrip.clz (h : Hdr) (o : DA) : RoundTrip.Statement (.clz h o) := by
  intro hw r hr; obtain rfl : (encDA h 0x01F 0 0 o) = r := Option.some.inj hr
  refine ⟨lenOk_DA rfl, ?_⟩
  refine (buildInt_at 31 rfl (by decide)).trans ?_
  show some (let r : Raw := (encDA h 0x01F 0 0 o); Instr.clz r.h r.da) = _
  simp [*]
theorem RoundTrip.ctz (h : Hdr) (o : DA) : RoundTrip.Statement (.ctz h o) := by
  intro hw r hr; obtain rfl : (encDA h 0x020 0 0 o) = r := Option.some.inj hr
  refine ⟨lenOk_DA rfl, ?_⟩
  refine (buildInt_at 32 rfl (by decide)).trans ?_
  show some (let r : Raw := (encDA h 0x020 0 0 o); Instr.ctz r.h r.da) = _
  simp [*]
theorem RoundTrip.brev (h : Hdr) (o : DA) : RoundTrip.Statement (.brev h o) := by
  intro hw r hr; obtain rfl : (encDA h 0x021 0 0 o) = r := Option.some.inj hr
  refine ⟨lenOk_DA rfl, ?_⟩
  refine (buildInt_at 33 rfl (by decide)).trans ?_
  show some (let r : Raw := (encDA h 0x021 0 0 o); Instr.brev r.h r.da) = _
  simp [*]
theorem RoundTrip.bfeS (h : Hdr) (o : DAB) : RoundTrip.Statement (.bfeS h o) := by
  intro hw r hr; obtain rfl : (encDAB h 0x022 0 0 o) = r := Option.some.inj hr
  replace hw : (h.ok && !o.b.isImm32) = true := hw
  simp only [Bool.and_eq_true, Bool.not_eq_true'] at hw
  refine ⟨lenOk_DAB1 (by simp [*]) rfl, ?_⟩
  refine (buildInt_at 34 rfl (by decide)).trans ?_
  show some (let r : Raw := (encDAB h 0x022 0 0 o); Instr.bfeS r.h r.dab) = _
  simp [*]
theorem RoundTrip.bfeU (h : Hdr) (o : DAB) : RoundTrip.Statement (.bfeU h o) := by
  intro hw r hr; obtain rfl : (encDAB h 0x023 0 0 o) = r := Option.some.inj hr
  replace hw : (h.ok && !o.b.isImm32) = true := hw
  simp only [Bool.and_eq_true, Bool.not_eq_true'] at hw
  refine ⟨lenOk_DAB1 (by simp [*]) rfl, ?_⟩
  refine (buildInt_at 35 rfl (by decide)).trans ?_
  show some (let r : Raw := (encDAB h 0x023 0 0 o); Instr.bfeU r.h r.dab) = _
  simp [*]
theorem RoundTrip.bfi (h : Hdr) (o : DABC) : RoundTrip.Statement (.bfi h o) := by
  intro hw r hr; obtain rfl : (encDABC h 0x024 0 0 o 0) = r := Option.some.inj hr
  replace hw : (h.ok && !o.b.isImm32) = true := hw
  simp only [Bool.and_eq_true, Bool.not_eq_true'] at hw
  refine ⟨lenOk_DABC rfl, ?_⟩
  refine (buildInt_at 36 rfl (by decide)).trans ?_
  show some (let r : Raw := (encDABC h 0x024 0 0 o 0); Instr.bfi r.h r.dabc) = _
  simp [*]
theorem RoundTrip.logt (h : Hdr) (o : DABC) (lut : BitVec 8) : RoundTrip.Statement (.logt h o lut) := by
  intro hw r hr; obtain rfl : (encDABC h 0x025 0 0 o (lut.setWidth 23)) = r := Option.some.inj hr
  replace hw : (h.ok && !o.b.isImm32) = true := hw
  simp only [Bool.and_eq_true, Bool.not_eq_true'] at hw
  refine ⟨lenOk_DABC rfl, ?_⟩
  refine (buildInt_at 37 rfl (by decide)).trans ?_
  show some (let r : Raw := (encDABC h 0x025 0 0 o (lut.setWidth 23)); Instr.logt r.h r.dabc (r.imm23.setWidth 8)) = _
  simp [*]
theorem RoundTrip.prmt (h : Hdr) (o : DABC) : RoundTrip.Statement (.prmt h o) := by
  intro hw r hr; obtain rfl : (encDABC h 0x026 0 0 o 0) = r := Option.some.inj hr
  replace hw : (h.ok && !o.b.isImm32) = true := hw
  simp only [Bool.and_eq_true, Bool.not_eq_true'] at hw
  refine ⟨lenOk_DABC rfl, ?_⟩
  refine (buildInt_at 38 rfl (by decide)).trans ?_
  show some (let r : Raw := (encDABC h 0x026 0 0 o 0); Instr.prmt r.h r.dabc) = _
  simp [*]
theorem RoundTrip.sel (h : Hdr) (o : DABC) : RoundTrip.Statement (.sel h o) := by
  intro hw r hr; obtain rfl : (encDABC h 0x027 0 0 o 0) = r := Option.some.inj hr
  replace hw : (h.ok && !o.b.isImm32) = true := hw
  simp only [Bool.and_eq_true, Bool.not_eq_true'] at hw
  refine ⟨lenOk_DABC rfl, ?_⟩
  refine (buildInt_at 39 rfl (by decide)).trans ?_
  show some (let r : Raw := (encDABC h 0x027 0 0 o 0); Instr.sel r.h r.dabc) = _
  simp [*]
theorem RoundTrip.isetS (h : Hdr) (cc : BitVec 4) (o : DAB) : RoundTrip.Statement (.isetS h cc o) := by
  intro hw r hr; obtain rfl : (encDAB h 0x028 0 cc o) = r := Option.some.inj hr
  refine ⟨lenOk_DAB rfl rfl, ?_⟩
  refine (buildInt_at 40 rfl (by decide)).trans ?_
  show some (let r : Raw := (encDAB h 0x028 0 cc o); Instr.isetS r.h r.mod4 r.dabI) = _
  simp [*]
theorem RoundTrip.isetU (h : Hdr) (cc : BitVec 4) (o : DAB) : RoundTrip.Statement (.isetU h cc o) := by
  intro hw r hr; obtain rfl : (encDAB h 0x029 0 cc o) = r := Option.some.inj hr
  refine ⟨lenOk_DAB rfl rfl, ?_⟩
  refine (buildInt_at 41 rfl (by decide)).trans ?_
  show some (let r : Raw := (encDAB h 0x029 0 cc o); Instr.isetU r.h r.mod4 r.dabI) = _
  simp [*]
theorem RoundTrip.iset64 (h : Hdr) (cc : BitVec 4) (u : Bool) (o : DAB) : RoundTrip.Statement (.iset64 h cc u o) := by
  intro hw r hr; obtain rfl : (encDAB h 0x02A (bit8 4 u) cc o) = r := Option.some.inj hr
  refine ⟨lenOk_DAB rfl rfl, ?_⟩
  refine (buildInt_at 42 rfl (by decide)).trans ?_
  show some (let r : Raw := (encDAB h 0x02A (bit8 4 u) cc o); Instr.iset64 r.h r.mod4 (r.mod8.getLsbD 4) r.dabI) = _
  simp [*]
theorem RoundTrip.imov (h : Hdr) (o : DA) : RoundTrip.Statement (.imov h o) := by
  intro hw r hr; obtain rfl : (encDA h 0x02B 0 0 o) = r := Option.some.inj hr
  refine ⟨lenOk_DA rfl, ?_⟩
  refine (buildInt_at 43 rfl (by decide)).trans ?_
  show some (let r : Raw := (encDA h 0x02B 0 0 o); Instr.imov r.h r.da) = _
  simp [*]
theorem RoundTrip.movi (h : Hdr) (d : Opd) (imm : Word) : RoundTrip.Statement (.movi h d imm) := by
  intro hw r hr; obtain rfl : (encW h 0x02C 2 0 (mkW1 false 0 0 0 d.bits) imm) = r := Option.some.inj hr
  refine ⟨lenOk_W rfl, ?_⟩
  refine (buildInt_at 44 rfl (by decide)).trans ?_
  show some (let r : Raw := (encW h 0x02C 2 0 (mkW1 false 0 0 0 d.bits) imm); Instr.movi r.h (.ofBits r.d) r.w2) = _
  simp [*]
theorem RoundTrip.lea (h : Hdr) (sh : BitVec 5) (o : DAB) : RoundTrip.Statement (.lea h sh o) := by
  intro hw r hr; obtain rfl : (encDABC h 0x02D 0 0 (o.withC (.v 0)) (sh.setWidth 23)) = r := Option.some.inj hr
  replace hw : (h.ok && !o.b.isImm32) = true := hw
  simp only [Bool.and_eq_true, Bool.not_eq_true'] at hw
  refine ⟨lenOk_DABC rfl, ?_⟩
  refine (buildInt_at 45 rfl (by decide)).trans ?_
  show some (let r : Raw := (encDABC h 0x02D 0 0 (o.withC (.v 0)) (sh.setWidth 23)); Instr.lea r.h (r.imm23.setWidth 5) r.dab) = _
  simp [*]
theorem RoundTrip.lea64 (h : Hdr) (u : Bool) (sh : BitVec 5) (o : DAB) : RoundTrip.Statement (.lea64 h u sh o) := by
  intro hw r hr; obtain rfl : (encDABC h 0x02E (bit8 4 u) 0 (o.withC (.v 0)) (sh.setWidth 23)) = r := Option.some.inj hr
  replace hw : (h.ok && !o.b.isImm32) = true := hw
  simp only [Bool.and_eq_true, Bool.not_eq_true'] at hw
  refine ⟨lenOk_DABC rfl, ?_⟩
  refine (buildInt_at 46 rfl (by decide)).trans ?_
  show some (let r : Raw := (encDABC h 0x02E (bit8 4 u) 0 (o.withC (.v 0)) (sh.setWidth 23)); Instr.lea64 r.h (r.mod8.getLsbD 4) (r.imm23.setWidth 5) r.dab) = _
  simp [*]
theorem RoundTrip.pset (h : Hdr) (o : DABC) (lut : BitVec 8) : RoundTrip.Statement (.pset h o lut) := by
  intro hw r hr; obtain rfl : (encDABC h 0x02F 0 0 o (lut.setWidth 23)) = r := Option.some.inj hr
  replace hw : (h.ok && !o.b.isImm32) = true := hw
  simp only [Bool.and_eq_true, Bool.not_eq_true'] at hw
  refine ⟨lenOk_DABC rfl, ?_⟩
  refine (buildInt_at 47 rfl (by decide)).trans ?_
  show some (let r : Raw := (encDABC h 0x02F 0 0 o (lut.setWidth 23)); Instr.pset r.h r.dabc (r.imm23.setWidth 8)) = _
  simp [*]
theorem RoundTrip.iaddH2 (h : Hdr) (m : SatU) (o : DAB) : RoundTrip.Statement (.iaddH2 h m o) := by
  intro hw r hr; obtain rfl : (encDAB h 0x030 m.bits 0 o) = r := Option.some.inj hr
  refine ⟨lenOk_DAB rfl rfl, ?_⟩
  refine (buildInt_at 48 rfl (by decide)).trans ?_
  show some (let r : Raw := (encDAB h 0x030 m.bits 0 o); Instr.iaddH2 r.h (.ofBits r.mod8) r.dabI) = _
  simp [*]
theorem RoundTrip.isubH2 (h : Hdr) (m : SatU) (o : DAB) : RoundTrip.Statement (.isubH2 h m o) := by
  intro hw r hr; obtain rfl : (encDAB h 0x031 m.bits 0 o) = r := Option.some.inj hr
  refine ⟨lenOk_DAB rfl rfl, ?_⟩
  refine (buildInt_at 49 rfl (by decide)).trans ?_
  show some (let r : Raw := (encDAB h 0x031 m.bits 0 o); Instr.isubH2 r.h (.ofBits r.mod8) r.dabI) = _
  simp [*]
theorem RoundTrip.imulH2 (h : Hdr) (o : DAB) : RoundTrip.Statement (.imulH2 h o) := by
  intro hw r hr; obtain rfl : (encDAB h 0x032 0 0 o) = r := Option.some.inj hr
  refine ⟨lenOk_DAB rfl rfl, ?_⟩
  refine (buildInt_at 50 rfl (by decide)).trans ?_
  show some (let r : Raw := (encDAB h 0x032 0 0 o); Instr.imulH2 r.h r.dabI) = _
  simp [*]
theorem RoundTrip.imadH2 (h : Hdr) (o : DABC) : RoundTrip.Statement (.imadH2 h o) := by
  intro hw r hr; obtain rfl : (encDABC h 0x033 0 0 o 0) = r := Option.some.inj hr
  replace hw : (h.ok && !o.b.isImm32) = true := hw
  simp only [Bool.and_eq_true, Bool.not_eq_true'] at hw
  refine ⟨lenOk_DABC rfl, ?_⟩
  refine (buildInt_at 51 rfl (by decide)).trans ?_
  show some (let r : Raw := (encDABC h 0x033 0 0 o 0); Instr.imadH2 r.h r.dabc) = _
  simp [*]
theorem RoundTrip.iminH2 (h : Hdr) (u : Bool) (o : DAB) : RoundTrip.Statement (.iminH2 h u o) := by
  intro hw r hr; obtain rfl : (encDAB h 0x034 (bit8 4 u) 0 o) = r := Option.some.inj hr
  refine ⟨lenOk_DAB rfl rfl, ?_⟩
  refine (buildInt_at 52 rfl (by decide)).trans ?_
  show some (let r : Raw := (encDAB h 0x034 (bit8 4 u) 0 o); Instr.iminH2 r.h (r.mod8.getLsbD 4) r.dabI) = _
  simp [*]
theorem RoundTrip.imaxH2 (h : Hdr) (u : Bool) (o : DAB) : RoundTrip.Statement (.imaxH2 h u o) := by
  intro hw r hr; obtain rfl : (encDAB h 0x035 (bit8 4 u) 0 o) = r := Option.some.inj hr
  refine ⟨lenOk_DAB rfl rfl, ?_⟩
  refine (buildInt_at 53 rfl (by decide)).trans ?_
  show some (let r : Raw := (encDAB h 0x035 (bit8 4 u) 0 o); Instr.imaxH2 r.h (r.mod8.getLsbD 4) r.dabI) = _
  simp [*]
theorem RoundTrip.ishlH2 (h : Hdr) (o : DAB) : RoundTrip.Statement (.ishlH2 h o) := by
  intro hw r hr; obtain rfl : (encDAB h 0x036 0 0 o) = r := Option.some.inj hr
  replace hw : (h.ok && !o.b.isImm32) = true := hw
  simp only [Bool.and_eq_true, Bool.not_eq_true'] at hw
  refine ⟨lenOk_DAB1 (by simp [*]) rfl, ?_⟩
  refine (buildInt_at 54 rfl (by decide)).trans ?_
  show some (let r : Raw := (encDAB h 0x036 0 0 o); Instr.ishlH2 r.h r.dab) = _
  simp [*]
theorem RoundTrip.isetH2 (h : Hdr) (cc : BitVec 4) (u : Bool) (o : DAB) : RoundTrip.Statement (.isetH2 h cc u o) := by
  intro hw r hr; obtain rfl : (encDAB h 0x037 (bit8 4 u) cc o) = r := Option.some.inj hr
  replace hw : (h.ok && decide (cc.toNat < 6) && !o.b.isImm32) = true := hw
  simp only [Bool.and_eq_true, Bool.not_eq_true', decide_eq_true_eq] at hw
  refine ⟨lenOk_DAB1 (by simp [*]) rfl, ?_⟩
  refine (buildInt_at 55 rfl (by decide)).trans ?_
  show some (let r : Raw := (encDAB h 0x037 (bit8 4 u) cc o); Instr.isetH2 r.h r.mod4 (r.mod8.getLsbD 4) r.dab) = _
  simp [*]
theorem RoundTrip.fadd (h : Hdr) (t : Fmt3) (m : FpMods) (o : DAB) : RoundTrip.Statement (.fadd h t m o) := by
  cases t with
  | f32 =>
    intro hw r hr; obtain rfl : (encDAB h 0x040 m.bits 0 o) = r := Option.some.inj hr
    refine ⟨lenOk_DAB rfl rfl, ?_⟩
    refine (buildFp_at 0 rfl (by decide)).trans ?_
    show some (let r : Raw := (encDAB h 0x040 m.bits 0 o); Instr.fadd r.h .f32 (.ofBits r.mod8) r.dabI) = _
    simp [*]
  | h2 =>
    intro hw r hr; obtain rfl : (encDAB h 0x041 m.bits 0 o) = r := Option.some.inj hr
    refine ⟨lenOk_DAB rfl rfl, ?_⟩
    refine (buildFp_at 1 rfl (by decide)).trans ?_
    show some (let r : Raw := (encDAB h 0x041 m.bits 0 o); Instr.fadd r.h .h2 (.ofBits r.mod8) r.dabI) = _
    simp [*]
  | b2 =>
    intro hw r hr; obtain rfl : (encDAB h 0x042 m.bits 0 o) = r := Option.some.inj hr
    refine ⟨lenOk_DAB rfl rfl, ?_⟩
    refine (buildFp_at 2 rfl (by decide)).trans ?_
    show some (let r : Raw := (encDAB h 0x042 m.bits 0 o); Instr.fadd r.h .b2 (.ofBits r.mod8) r.dabI) = _
    simp [*]
theorem RoundTrip.fmul (h : Hdr) (t : Fmt3) (m : FpMods) (o : DAB) : RoundTrip.Statement (.fmul h t m o) := by
  cases t with
  | f32 =>
    intro hw r hr; obtain rfl : (encDAB h 0x043 m.bits 0 o) = r := Option.some.inj hr
    refine ⟨lenOk_DAB rfl rfl, ?_⟩
    refine (buildFp_at 3 rfl (by decide)).trans ?_
    show some (let r : Raw := (encDAB h 0x043 m.bits 0 o); Instr.fmul r.h .f32 (.ofBits r.mod8) r.dabI) = _
    simp [*]
  | h2 =>
    intro hw r hr; obtain rfl : (encDAB h 0x044 m.bits 0 o) = r := Option.some.inj hr
    refine ⟨lenOk_DAB rfl rfl, ?_⟩
    refine (buildFp_at 4 rfl (by decide)).trans ?_
    show some (let r : Raw := (encDAB h 0x044 m.bits 0 o); Instr.fmul r.h .h2 (.ofBits r.mod8) r.dabI) = _
    simp [*]
  | b2 =>
    intro hw r hr; obtain rfl : (encDAB h 0x045 m.bits 0 o) = r := Option.some.inj hr
    refine ⟨lenOk_DAB rfl rfl, ?_⟩
    refine (buildFp_at 5 rfl (by decide)).trans ?_
    show some (let r : Raw := (encDAB h 0x045 m.bits 0 o); Instr.fmul r.h .b2 (.ofBits r.mod8) r.dabI) = _
    simp [*]
theorem RoundTrip.ffma (h : Hdr) (t : Fmt3) (m : FpMods) (o : DABC) : RoundTrip.Statement (.ffma h t m o) := by
  cases t with
  | f32 =>
    intro hw r hr; obtain rfl : (encDABC h 0x046 m.bits 0 o 0) = r := Option.some.inj hr
    replace hw : (h.ok && m.fits 0xFF && !o.b.isImm32) = true := hw
    simp only [Bool.and_eq_true, Bool.not_eq_true'] at hw
    refine ⟨lenOk_DABC rfl, ?_⟩
    refine (buildFp_at 6 rfl (by decide)).trans ?_
    show some (let r : Raw := (encDABC h 0x046 m.bits 0 o 0); Instr.ffma r.h .f32 (.ofBits r.mod8) r.dabc) = _
    simp [*]
  | h2 =>
    intro hw r hr; obtain rfl : (encDABC h 0x047 m.bits 0 o 0) = r := Option.some.inj hr
    replace hw : (h.ok && m.fits 0xFF && !o.b.isImm32) = true := hw
    simp only [Bool.and_eq_true, Bool.not_eq_true'] at hw
    refine ⟨lenOk_DABC rfl, ?_⟩
    refine (buildFp_at 7 rfl (by decide)).trans ?_
    show some (let r : Raw := (encDABC h 0x047 m.bits 0 o 0); Instr.ffma r.h .h2 (.ofBits r.mod8) r.dabc) = _
    simp [*]
  | b2 =>
    intro hw r hr; obtain rfl : (encDABC h 0x048 m.bits 0 o 0) = r := Option.some.inj hr
    replace hw : (h.ok && m.fits 0xFF && !o.b.isImm32) = true := hw
    simp only [Bool.and_eq_true, Bool.not_eq_true'] at hw
    refine ⟨lenOk_DABC rfl, ?_⟩
    refine (buildFp_at 8 rfl (by decide)).trans ?_
    show some (let r : Raw := (encDABC h 0x048 m.bits 0 o 0); Instr.ffma r.h .b2 (.ofBits r.mod8) r.dabc) = _
    simp [*]
theorem RoundTrip.fmin (h : Hdr) (t : Fmt3) (m : FpMods) (o : DAB) : RoundTrip.Statement (.fmin h t m o) := by
  cases t with
  | f32 =>
    intro hw r hr; obtain rfl : (encDAB h 0x049 m.bits 0 o) = r := Option.some.inj hr
    refine ⟨lenOk_DAB rfl rfl, ?_⟩
    refine (buildFp_at 9 rfl (by decide)).trans ?_
    show some (let r : Raw := (encDAB h 0x049 m.bits 0 o); Instr.fmin r.h .f32 (.ofBits r.mod8) r.dabI) = _
    simp [*]
  | h2 =>
    intro hw r hr; obtain rfl : (encDAB h 0x04A m.bits 0 o) = r := Option.some.inj hr
    refine ⟨lenOk_DAB rfl rfl, ?_⟩
    refine (buildFp_at 10 rfl (by decide)).trans ?_
    show some (let r : Raw := (encDAB h 0x04A m.bits 0 o); Instr.fmin r.h .h2 (.ofBits r.mod8) r.dabI) = _
    simp [*]
  | b2 =>
    intro hw r hr; obtain rfl : (encDAB h 0x04B m.bits 0 o) = r := Option.some.inj hr
    refine ⟨lenOk_DAB rfl rfl, ?_⟩
    refine (buildFp_at 11 rfl (by decide)).trans ?_
    show some (let r : Raw := (encDAB h 0x04B m.bits 0 o); Instr.fmin r.h .b2 (.ofBits r.mod8) r.dabI) = _
    simp [*]
theorem RoundTrip.fmax (h : Hdr) (t : Fmt3) (m : FpMods) (o : DAB) : RoundTrip.Statement (.fmax h t m o) := by
  cases t with
  | f32 =>
    intro hw r hr; obtain rfl : (encDAB h 0x04C m.bits 0 o) = r := Option.some.inj hr
    refine ⟨lenOk_DAB rfl rfl, ?_⟩
    refine (buildFp_at 12 rfl (by decide)).trans ?_
    show some (let r : Raw := (encDAB h 0x04C m.bits 0 o); Instr.fmax r.h .f32 (.ofBits r.mod8) r.dabI) = _
    simp [*]
  | h2 =>
    intro hw r hr; obtain rfl : (encDAB h 0x04D m.bits 0 o) = r := Option.some.inj hr
    refine ⟨lenOk_DAB rfl rfl, ?_⟩
    refine (buildFp_at 13 rfl (by decide)).trans ?_
    show some (let r : Raw := (encDAB h 0x04D m.bits 0 o); Instr.fmax r.h .h2 (.ofBits r.mod8) r.dabI) = _
    simp [*]
  | b2 =>
    intro hw r hr; obtain rfl : (encDAB h 0x04E m.bits 0 o) = r := Option.some.inj hr
    refine ⟨lenOk_DAB rfl rfl, ?_⟩
    refine (buildFp_at 14 rfl (by decide)).trans ?_
    show some (let r : Raw := (encDAB h 0x04E m.bits 0 o); Instr.fmax r.h .b2 (.ofBits r.mod8) r.dabI) = _
    simp [*]
theorem RoundTrip.fset (h : Hdr) (t : Fmt3) (cc : BitVec 4) (m : FpMods) (o : DAB) : RoundTrip.Statement (.fset h t cc m o) := by
  cases t with
  | f32 =>
    intro hw r hr; obtain rfl : (encDAB h 0x04F m.bits cc o) = r := Option.some.inj hr
    refine ⟨lenOk_DAB rfl rfl, ?_⟩
    refine (buildFp_at 15 rfl (by decide)).trans ?_
    show some (let r : Raw := (encDAB h 0x04F m.bits cc o); Instr.fset r.h .f32 r.mod4 (.ofBits r.mod8) r.dabI) = _
    simp [*]
  | h2 =>
    intro hw r hr; obtain rfl : (encDAB h 0x050 m.bits cc o) = r := Option.some.inj hr
    refine ⟨lenOk_DAB rfl rfl, ?_⟩
    refine (buildFp_at 16 rfl (by decide)).trans ?_
    show some (let r : Raw := (encDAB h 0x050 m.bits cc o); Instr.fset r.h .h2 r.mod4 (.ofBits r.mod8) r.dabI) = _
    simp [*]
  | b2 =>
    intro hw r hr; obtain rfl : (encDAB h 0x051 m.bits cc o) = r := Option.some.inj hr
    refine ⟨lenOk_DAB rfl rfl, ?_⟩
    refine (buildFp_at 17 rfl (by decide)).trans ?_
    show some (let r : Raw := (encDAB h 0x051 m.bits cc o); Instr.fset r.h .b2 r.mod4 (.ofBits r.mod8) r.dabI) = _
    simp [*]
theorem RoundTrip.fclamp (h : Hdr) (t : Fmt3) (m : FpMods) (o : DABC) : RoundTrip.Statement (.fclamp h t m o) := by
  cases t with
  | f32 =>
    intro hw r hr; obtain rfl : (encDABC h 0x052 m.bits 0 o 0) = r := Option.some.inj hr
    replace hw : (h.ok && m.fits 0xF0 && !o.b.isImm32) = true := hw
    simp only [Bool.and_eq_true, Bool.not_eq_true'] at hw
    refine ⟨lenOk_DABC rfl, ?_⟩
    refine (buildFp_at 18 rfl (by decide)).trans ?_
    show some (let r : Raw := (encDABC h 0x052 m.bits 0 o 0); Instr.fclamp r.h .f32 (.ofBits r.mod8) r.dabc) = _
    simp [*]
  | h2 =>
    intro hw r hr; obtain rfl : (encDABC h 0x053 m.bits 0 o 0) = r := Option.some.inj hr
    replace hw : (h.ok && m.fits 0xF0 && !o.b.isImm32) = true := hw
    simp only [Bool.and_eq_true, Bool.not_eq_true'] at hw
    refine ⟨lenOk_DABC rfl, ?_⟩
    refine (buildFp_at 19 rfl (by decide)).trans ?_
    show some (let r : Raw := (encDABC h 0x053 m.bits 0 o 0); Instr.fclamp r.h .h2 (.ofBits r.mod8) r.dabc) = _
    simp [*]
  | b2 =>
    intro hw r hr; obtain rfl : (encDABC h 0x054 m.bits 0 o 0) = r := Option.some.inj hr
    replace hw : (h.ok && m.fits 0xF0 && !o.b.isImm32) = true := hw
    simp only [Bool.and_eq_true, Bool.not_eq_true'] at hw
    refine ⟨lenOk_DABC rfl, ?_⟩
    refine (buildFp_at 20 rfl (by decide)).trans ?_
    show some (let r : Raw := (encDABC h 0x054 m.bits 0 o 0); Instr.fclamp r.h .b2 (.ofBits r.mod8) r.dabc) = _
    simp [*]
theorem RoundTrip.fadd3 (h : Hdr) (m : FpMods) (o : DABC) : RoundTrip.Statement (.fadd3 h m o) := by
  intro hw r hr; obtain rfl : (encDABC h 0x055 m.bits 0 o 0) = r := Option.some.inj hr
  replace hw : (h.ok && m.fits 0xFF && !o.b.isImm32) = true := hw
  simp only [Bool.and_eq_true, Bool.not_eq_true'] at hw
  refine ⟨lenOk_DABC rfl, ?_⟩
  refine (buildFp_at 21 rfl (by decide)).trans ?_
  show some (let r : Raw := (encDABC h 0x055 m.bits 0 o 0); Instr.fadd3 r.h (.ofBits r.mod8) r.dabc) = _
  simp [*]
theorem RoundTrip.fmed3 (h : Hdr) (t : Fmt3) (m : FpMods) (o : DABC) : RoundTrip.Statement (.fmed3 h t m o) := by
  cases t with
  | f32 =>
    intro hw r hr; obtain rfl : (encDABC h 0x056 m.bits 0 o 0) = r := Option.some.inj hr
    replace hw : (h.ok && m.fits 0xF0 && (Fmt3.f32 == .f32 || Fmt3.f32 == .h2) && !o.b.isImm32) = true := hw
    simp only [Bool.and_eq_true, Bool.not_eq_true'] at hw
    refine ⟨lenOk_DABC rfl, ?_⟩
    refine (buildFp_at 22 rfl (by decide)).trans ?_
    show some (let r : Raw := (encDABC h 0x056 m.bits 0 o 0); Instr.fmed3 r.h .f32 (.ofBits r.mod8) r.dabc) = _
    simp [*]
  | h2 =>
    intro hw r hr; obtain rfl : (encDABC h 0x057 m.bits 0 o 0) = r := Option.some.inj hr
    replace hw : (h.ok && m.fits 0xF0 && (Fmt3.h2 == .f32 || Fmt3.h2 == .h2) && !o.b.isImm32) = true := hw
    simp only [Bool.and_eq_true, Bool.not_eq_true'] at hw
    refine ⟨lenOk_DABC rfl, ?_⟩
    refine (buildFp_at 23 rfl (by decide)).trans ?_
    show some (let r : Raw := (encDABC h 0x057 m.bits 0 o 0); Instr.fmed3 r.h .h2 (.ofBits r.mod8) r.dabc) = _
    simp [*]
  | b2 => intro hw; exact absurd (show (h.ok && m.fits 0xF0 && (Fmt3.b2 == .f32 || Fmt3.b2 == .h2) && !o.b.isImm32) = true from hw) (by simp)
theorem RoundTrip.fdp2 (h : Hdr) (t : Fmt3) (m : FpMods) (o : DABC) : RoundTrip.Statement (.fdp2 h t m o) := by
  cases t with
  | f32 => intro hw; exact absurd (show (h.ok && m.fits 0xFF && (Fmt3.f32 == .h2 || Fmt3.f32 == .b2) && !o.b.isImm32) = true from hw) (by simp)
  | h2 =>
    intro hw r hr; obtain rfl : (encDABC h 0x058 m.bits 0 o 0) = r := Option.some.inj hr
    replace hw : (h.ok && m.fits 0xFF && (Fmt3.h2 == .h2 || Fmt3.h2 == .b2) && !o.b.isImm32) = true := hw
    simp only [Bool.and_eq_true, Bool.not_eq_true'] at hw
    refine ⟨lenOk_DABC rfl, ?_⟩
    refine (buildFp_at 24 rfl (by decide)).trans ?_
    show some (let r : Raw := (encDABC h 0x058 m.bits 0 o 0); Instr.fdp2 r.h .h2 (.ofBits r.mod8) r.dabc) = _
    simp [*]
  | b2 =>
    intro hw r hr; obtain rfl : (encDABC h 0x059 m.bits 0 o 0) = r := Option.some.inj hr
    replace hw : (h.ok && m.fits 0xFF && (Fmt3.b2 == .h2 || Fmt3.b2 == .b2) && !o.b.isImm32) = true := hw
    simp only [Bool.and_eq_true, Bool.not_eq_true'] at hw
    refine ⟨lenOk_DABC rfl, ?_⟩
    refine (buildFp_at 25 rfl (by decide)).trans ?_
    show some (let r : Raw := (encDABC h 0x059 m.bits 0 o 0); Instr.fdp2 r.h .b2 (.ofBits r.mod8) r.dabc) = _
    simp [*]
theorem RoundTrip.fdp4 (h : Hdr) (e5 : Bool) (m : FpMods) (o : DABC) : RoundTrip.Statement (.fdp4 h e5 m o) := by
  cases e5 with
  | false =>
    intro hw r hr; obtain rfl : (encDABC h 0x05A m.bits 0 o 0) = r := Option.some.inj hr
    replace hw : (h.ok && m.fits 0x4F && !o.b.isImm32) = true := hw
    simp only [Bool.and_eq_true, Bool.not_eq_true'] at hw
    refine ⟨lenOk_DABC rfl, ?_⟩
    refine (buildFp_at 26 rfl (by decide)).trans ?_
    show some (let r : Raw := (encDABC h 0x05A m.bits 0 o 0); Instr.fdp4 r.h false (.ofBits r.mod8) r.dabc) = _
    simp [*]
  | true =>
    intro hw r hr; obtain rfl : (encDABC h 0x05B m.bits 0 o 0) = r := Option.some.inj hr
    replace hw : (h.ok && m.fits 0x4F && !o.b.isImm32) = true := hw
    simp only [Bool.and_eq_true, Bool.not_eq_true'] at hw
    refine ⟨lenOk_DABC rfl, ?_⟩
    refine (buildFp_at 27 rfl (by decide)).trans ?_
    show some (let r : Raw := (encDABC h 0x05B m.bits 0 o 0); Instr.fdp4 r.h true (.ofBits r.mod8) r.dabc) = _
    simp [*]
theorem RoundTrip.frnd (h : Hdr) (t : Fmt3) (m : FpMods) (o : DA) : RoundTrip.Statement (.frnd h t m o) := by
  cases t with
  | f32 =>
    intro hw r hr; obtain rfl : (encDA h 0x05C m.bits 0 o) = r := Option.some.inj hr
    refine ⟨lenOk_DA rfl, ?_⟩
    refine (buildFp_at 28 rfl (by decide)).trans ?_
    show some (let r : Raw := (encDA h 0x05C m.bits 0 o); Instr.frnd r.h .f32 (.ofBits r.mod8) r.da) = _
    simp [*]
  | h2 =>
    intro hw r hr; obtain rfl : (encDA h 0x05D m.bits 0 o) = r := Option.some.inj hr
    refine ⟨lenOk_DA rfl, ?_⟩
    refine (buildFp_at 29 rfl (by decide)).trans ?_
    show some (let r : Raw := (encDA h 0x05D m.bits 0 o); Instr.frnd r.h .h2 (.ofBits r.mod8) r.da) = _
    simp [*]
  | b2 => intro hw; exact absurd (show (h.ok && m.fits 0x97 && (Fmt3.b2 == .f32 || Fmt3.b2 == .h2)) = true from hw) (by simp)
theorem RoundTrip.fscale (h : Hdr) (t : Fmt3) (m : FpMods) (o : DAB) : RoundTrip.Statement (.fscale h t m o) := by
  cases t with
  | f32 =>
    intro hw r hr; obtain rfl : (encDAB h 0x05E m.bits 0 o) = r := Option.some.inj hr
    replace hw : (h.ok && m.fits 0x9F && (Fmt3.f32 == .f32 || Fmt3.f32 == .h2) && !o.b.isImm32) = true := hw
    simp only [Bool.and_eq_true, Bool.not_eq_true'] at hw
    refine ⟨lenOk_DAB1 (by simp [*]) rfl, ?_⟩
    refine (buildFp_at 30 rfl (by decide)).trans ?_
    show some (let r : Raw := (encDAB h 0x05E m.bits 0 o); Instr.fscale r.h .f32 (.ofBits r.mod8) r.dab) = _
    simp [*]
  | h2 =>
    intro hw r hr; obtain rfl : (encDAB h 0x05F m.bits 0 o) = r := Option.some.inj hr
    replace hw : (h.ok && m.fits 0x9F && (Fmt3.h2 == .f32 || Fmt3.h2 == .h2) && !o.b.isImm32) = true := hw
    simp only [Bool.and_eq_true, Bool.not_eq_true'] at hw
    refine ⟨lenOk_DAB1 (by simp [*]) rfl, ?_⟩
    refine (buildFp_at 31 rfl (by decide)).trans ?_
    show some (let r : Raw := (encDAB h 0x05F m.bits 0 o); Instr.fscale r.h .h2 (.ofBits r.mod8) r.dab) = _
    simp [*]
  | b2 => intro hw; exact absurd (show (h.ok && m.fits 0x9F && (Fmt3.b2 == .f32 || Fmt3.b2 == .h2) && !o.b.isImm32) = true from hw) (by simp)
theorem RoundTrip.fclass (h : Hdr) (t : Fmt3) (o : DA) : RoundTrip.Statement (.fclass h t o) := by
  cases t with
  | f32 =>
    intro hw r hr; obtain rfl : (encDA h 0x060 0 0 o) = r := Option.some.inj hr
    refine ⟨lenOk_DA rfl, ?_⟩
    refine (buildFp_at 32 rfl (by decide)).trans ?_
    show some (let r : Raw := (encDA h 0x060 0 0 o); Instr.fclass r.h .f32 r.da) = _
    simp [*]
  | h2 =>
    intro hw r hr; obtain rfl : (encDA h 0x061 0 0 o) = r := Option.some.inj hr
    refine ⟨lenOk_DA rfl, ?_⟩
    refine (buildFp_at 33 rfl (by decide)).trans ?_
    show some (let r : Raw := (encDA h 0x061 0 0 o); Instr.fclass r.h .h2 r.da) = _
    simp [*]
  | b2 => intro hw; exact absurd (show (h.ok && (Fmt3.b2 == .f32 || Fmt3.b2 == .h2)) = true from hw) (by simp)
theorem RoundTrip.cadd (h : Hdr) (t : CFmt) (m : CpxMods) (o : DAB) : RoundTrip.Statement (.cadd h t m o) := by
  cases t with
  | c16 =>
    intro hw r hr; obtain rfl : (encDAB h 0x062 m.bits 0 o) = r := Option.some.inj hr
    replace hw : (h.ok && m.fits 0x3F && CFmt.c16 != .cbf && !o.b.isImm32) = true := hw
    simp only [Bool.and_eq_true, Bool.not_eq_true'] at hw
    refine ⟨lenOk_DAB1 (by simp [*]) rfl, ?_⟩
    refine (buildFp_at 34 rfl (by decide)).trans ?_
    show some (let r : Raw := (encDAB h 0x062 m.bits 0 o); Instr.cadd r.h .c16 (.ofBits r.mod8) r.dab) = _
    simp [*]
  | c32 =>
    intro hw r hr; obtain rfl : (encDAB h 0x063 m.bits 0 o) = r := Option.some.inj hr
    replace hw : (h.ok && m.fits 0x3F && CFmt.c32 != .cbf && !o.b.isImm32) = true := hw
    simp only [Bool.and_eq_true, Bool.not_eq_true'] at hw
    refine ⟨lenOk_DAB1 (by simp [*]) rfl, ?_⟩
    refine (buildFp_at 35 rfl (by decide)).trans ?_
    show some (let r : Raw := (encDAB h 0x063 m.bits 0 o); Instr.cadd r.h .c32 (.ofBits r.mod8) r.dab) = _
    simp [*]
  | cbf => intro hw; exact absurd (show (h.ok && m.fits 0x3F && CFmt.cbf != .cbf && !o.b.isImm32) = true from hw) (by simp)
theorem RoundTrip.cmul (h : Hdr) (t : CFmt) (m : CpxMods) (o : DAB) : RoundTrip.Statement (.cmul h t m o) := by
  cases t with
  | c16 =>
    intro hw r hr; obtain rfl : (encDAB h 0x064 m.bits 0 o) = r := Option.some.inj hr
    replace hw : (h.ok && m.fits 0x3F && !o.b.isImm32) = true := hw
    simp only [Bool.and_eq_true, Bool.not_eq_true'] at hw
    refine ⟨lenOk_DAB1 (by simp [*]) rfl, ?_⟩
    refine (buildFp_at 36 rfl (by decide)).trans ?_
    show some (let r : Raw := (encDAB h 0x064 m.bits 0 o); Instr.cmul r.h .c16 (.ofBits r.mod8) r.dab) = _
    simp [*]
  | c32 =>
    intro hw r hr; obtain rfl : (encDAB h 0x065 m.bits 0 o) = r := Option.some.inj hr
    replace hw : (h.ok && m.fits 0x3F && !o.b.isImm32) = true := hw
    simp only [Bool.and_eq_true, Bool.not_eq_true'] at hw
    refine ⟨lenOk_DAB1 (by simp [*]) rfl, ?_⟩
    refine (buildFp_at 37 rfl (by decide)).trans ?_
    show some (let r : Raw := (encDAB h 0x065 m.bits 0 o); Instr.cmul r.h .c32 (.ofBits r.mod8) r.dab) = _
    simp [*]
  | cbf =>
    intro hw r hr; obtain rfl : (encDAB h 0x06A m.bits 0 o) = r := Option.some.inj hr
    replace hw : (h.ok && m.fits 0x3F && !o.b.isImm32) = true := hw
    simp only [Bool.and_eq_true, Bool.not_eq_true'] at hw
    refine ⟨lenOk_DAB1 (by simp [*]) rfl, ?_⟩
    refine (buildFp_at 42 rfl (by decide)).trans ?_
    show some (let r : Raw := (encDAB h 0x06A m.bits 0 o); Instr.cmul r.h .cbf (.ofBits r.mod8) r.dab) = _
    simp [*]
theorem RoundTrip.cfma (h : Hdr) (t : CFmt) (m : CpxMods) (o : DABC) : RoundTrip.Statement (.cfma h t m o) := by
  cases t with
  | c16 =>
    intro hw r hr; obtain rfl : (encDABC h 0x066 m.bits 0 o 0) = r := Option.some.inj hr
    replace hw : (h.ok && m.fits 0x7F && !o.b.isImm32) = true := hw
    simp only [Bool.and_eq_true, Bool.not_eq_true'] at hw
    refine ⟨lenOk_DABC rfl, ?_⟩
    refine (buildFp_at 38 rfl (by decide)).trans ?_
    show some (let r : Raw := (encDABC h 0x066 m.bits 0 o 0); Instr.cfma r.h .c16 (.ofBits r.mod8) r.dabc) = _
    simp [*]
  | c32 =>
    intro hw r hr; obtain rfl : (encDABC h 0x067 m.bits 0 o 0) = r := Option.some.inj hr
    replace hw : (h.ok && m.fits 0x7F && !o.b.isImm32) = true := hw
    simp only [Bool.and_eq_true, Bool.not_eq_true'] at hw
    refine ⟨lenOk_DABC rfl, ?_⟩
    refine (buildFp_at 39 rfl (by decide)).trans ?_
    show some (let r : Raw := (encDABC h 0x067 m.bits 0 o 0); Instr.cfma r.h .c32 (.ofBits r.mod8) r.dabc) = _
    simp [*]
  | cbf =>
    intro hw r hr; obtain rfl : (encDABC h 0x06B m.bits 0 o 0) = r := Option.some.inj hr
    replace hw : (h.ok && m.fits 0x7F && !o.b.isImm32) = true := hw
    simp only [Bool.and_eq_true, Bool.not_eq_true'] at hw
    refine ⟨lenOk_DABC rfl, ?_⟩
    refine (buildFp_at 43 rfl (by decide)).trans ?_
    show some (let r : Raw := (encDABC h 0x06B m.bits 0 o 0); Instr.cfma r.h .cbf (.ofBits r.mod8) r.dabc) = _
    simp [*]
theorem RoundTrip.cabs2 (h : Hdr) (t : CFmt) (m : CpxMods) (o : DA) : RoundTrip.Statement (.cabs2 h t m o) := by
  cases t with
  | c16 =>
    intro hw r hr; obtain rfl : (encDA h 0x068 m.bits 0 o) = r := Option.some.inj hr
    refine ⟨lenOk_DA rfl, ?_⟩
    refine (buildFp_at 40 rfl (by decide)).trans ?_
    show some (let r : Raw := (encDA h 0x068 m.bits 0 o); Instr.cabs2 r.h .c16 (.ofBits r.mod8) r.da) = _
    simp [*]
  | c32 =>
    intro hw r hr; obtain rfl : (encDA h 0x069 m.bits 0 o) = r := Option.some.inj hr
    refine ⟨lenOk_DA rfl, ?_⟩
    refine (buildFp_at 41 rfl (by decide)).trans ?_
    show some (let r : Raw := (encDA h 0x069 m.bits 0 o); Instr.cabs2 r.h .c32 (.ofBits r.mod8) r.da) = _
    simp [*]
  | cbf => intro hw; exact absurd (show (h.ok && m.fits 0x1F && CFmt.cbf != .cbf) = true from hw) (by simp)
theorem RoundTrip.frcp (h : Hdr) (t : Fmt3) (abs : Bool) (na : Bool) (o : DA) : RoundTrip.Statement (.frcp h t abs na o) := by
  cases t with
  | f32 =>
    intro hw r hr; obtain rfl : (encDA h 0x080 (bit8 7 abs ||| bit8 4 na) 0 o) = r := Option.some.inj hr
    refine ⟨lenOk_DA rfl, ?_⟩
    refine (buildSfu_at 0 rfl (by decide)).trans ?_
    show some (let r : Raw := (encDA h 0x080 (bit8 7 abs ||| bit8 4 na) 0 o); Instr.frcp r.h .f32 (r.mod8.getLsbD 7) (r.mod8.getLsbD 4) r.da) = _
    simp [*]; clear hr hw; decide +revert
  | h2 =>
    intro hw r hr; obtain rfl : (encDA h 0x081 (bit8 7 abs ||| bit8 4 na) 0 o) = r := Option.some.inj hr
    refine ⟨lenOk_DA rfl, ?_⟩
    refine (buildSfu_at 1 rfl (by decide)).trans ?_
    show some (let r : Raw := (encDA h 0x081 (bit8 7 abs ||| bit8 4 na) 0 o); Instr.frcp r.h .h2 (r.mod8.getLsbD 7) (r.mod8.getLsbD 4) r.da) = _
    simp [*]; clear hr hw; decide +revert
  | b2 =>
    intro hw r hr; obtain rfl : (encDA h 0x082 (bit8 7 abs ||| bit8 4 na) 0 o) = r := Option.some.inj hr
    refine ⟨lenOk_DA rfl, ?_⟩
    refine (buildSfu_at 2 rfl (by decide)).trans ?_
    show some (let r : Raw := (encDA h 0x082 (bit8 7 abs ||| bit8 4 na) 0 o); Instr.frcp r.h .b2 (r.mod8.getLsbD 7) (r.mod8.getLsbD 4) r.da) = _
    simp [*]; clear hr hw; decide +revert
theorem RoundTrip.frsq (h : Hdr) (t : Fmt3) (abs : Bool) (na : Bool) (o : DA) : RoundTrip.Statement (.frsq h t abs na o) := by
  cases t with
  | f32 =>
    intro hw r hr; obtain rfl : (encDA h 0x083 (bit8 7 abs ||| bit8 4 na) 0 o) = r := Option.some.inj hr
    refine ⟨lenOk_DA rfl, ?_⟩
    refine (buildSfu_at 3 rfl (by decide)).trans ?_
    show some (let r : Raw := (encDA h 0x083 (bit8 7 abs ||| bit8 4 na) 0 o); Instr.frsq r.h .f32 (r.mod8.getLsbD 7) (r.mod8.getLsbD 4) r.da) = _
    simp [*]; clear hr hw; decide +revert
  | h2 =>
    intro hw r hr; obtain rfl : (encDA h 0x084 (bit8 7 abs ||| bit8 4 na) 0 o) = r := Option.some.inj hr
    refine ⟨lenOk_DA rfl, ?_⟩
    refine (buildSfu_at 4 rfl (by decide)).trans ?_
    show some (let r : Raw := (encDA h 0x084 (bit8 7 abs ||| bit8 4 na) 0 o); Instr.frsq r.h .h2 (r.mod8.getLsbD 7) (r.mod8.getLsbD 4) r.da) = _
    simp [*]; clear hr hw; decide +revert
  | b2 =>
    intro hw r hr; obtain rfl : (encDA h 0x085 (bit8 7 abs ||| bit8 4 na) 0 o) = r := Option.some.inj hr
    refine ⟨lenOk_DA rfl, ?_⟩
    refine (buildSfu_at 5 rfl (by decide)).trans ?_
    show some (let r : Raw := (encDA h 0x085 (bit8 7 abs ||| bit8 4 na) 0 o); Instr.frsq r.h .b2 (r.mod8.getLsbD 7) (r.mod8.getLsbD 4) r.da) = _
    simp [*]; clear hr hw; decide +revert
theorem RoundTrip.fsqrt (h : Hdr) (t : Fmt3) (abs : Bool) (na : Bool) (o : DA) : RoundTrip.Statement (.fsqrt h t abs na o) := by
  cases t with
  | f32 =>
    intro hw r hr; obtain rfl : (encDA h 0x086 (bit8 7 abs ||| bit8 4 na) 0 o) = r := Option.some.inj hr
    refine ⟨lenOk_DA rfl, ?_⟩
    refine (buildSfu_at 6 rfl (by decide)).trans ?_
    show some (let r : Raw := (encDA h 0x086 (bit8 7 abs ||| bit8 4 na) 0 o); Instr.fsqrt r.h .f32 (r.mod8.getLsbD 7) (r.mod8.getLsbD 4) r.da) = _
    simp [*]; clear hr hw; decide +revert
  | h2 =>
    intro hw r hr; obtain rfl : (encDA h 0x087 (bit8 7 abs ||| bit8 4 na) 0 o) = r := Option.some.inj hr
    refine ⟨lenOk_DA rfl, ?_⟩
    refine (buildSfu_at 7 rfl (by decide)).trans ?_
    show some (let r : Raw := (encDA h 0x087 (bit8 7 abs ||| bit8 4 na) 0 o); Instr.fsqrt r.h .h2 (r.mod8.getLsbD 7) (r.mod8.getLsbD 4) r.da) = _
    simp [*]; clear hr hw; decide +revert
  | b2 =>
    intro hw r hr; obtain rfl : (encDA h 0x088 (bit8 7 abs ||| bit8 4 na) 0 o) = r := Option.some.inj hr
    refine ⟨lenOk_DA rfl, ?_⟩
    refine (buildSfu_at 8 rfl (by decide)).trans ?_
    show some (let r : Raw := (encDA h 0x088 (bit8 7 abs ||| bit8 4 na) 0 o); Instr.fsqrt r.h .b2 (r.mod8.getLsbD 7) (r.mod8.getLsbD 4) r.da) = _
    simp [*]; clear hr hw; decide +revert
theorem RoundTrip.fexp2 (h : Hdr) (t : Fmt3) (abs : Bool) (na : Bool) (o : DA) : RoundTrip.Statement (.fexp2 h t abs na o) := by
  cases t with
  | f32 =>
    intro hw r hr; obtain rfl : (encDA h 0x089 (bit8 7 abs ||| bit8 4 na) 0 o) = r := Option.some.inj hr
    refine ⟨lenOk_DA rfl, ?_⟩
    refine (buildSfu_at 9 rfl (by decide)).trans ?_
    show some (let r : Raw := (encDA h 0x089 (bit8 7 abs ||| bit8 4 na) 0 o); Instr.fexp2 r.h .f32 (r.mod8.getLsbD 7) (r.mod8.getLsbD 4) r.da) = _
    simp [*]; clear hr hw; decide +revert
  | h2 =>
    intro hw r hr; obtain rfl : (encDA h 0x08A (bit8 7 abs ||| bit8 4 na) 0 o) = r := Option.some.inj hr
    refine ⟨lenOk_DA rfl, ?_⟩
    refine (buildSfu_at 10 rfl (by decide)).trans ?_
    show some (let r : Raw := (encDA h 0x08A (bit8 7 abs ||| bit8 4 na) 0 o); Instr.fexp2 r.h .h2 (r.mod8.getLsbD 7) (r.mod8.getLsbD 4) r.da) = _
    simp [*]; clear hr hw; decide +revert
  | b2 =>
    intro hw r hr; obtain rfl : (encDA h 0x08B (bit8 7 abs ||| bit8 4 na) 0 o) = r := Option.some.inj hr
    refine ⟨lenOk_DA rfl, ?_⟩
    refine (buildSfu_at 11 rfl (by decide)).trans ?_
    show some (let r : Raw := (encDA h 0x08B (bit8 7 abs ||| bit8 4 na) 0 o); Instr.fexp2 r.h .b2 (r.mod8.getLsbD 7) (r.mod8.getLsbD 4) r.da) = _
    simp [*]; clear hr hw; decide +revert
theorem RoundTrip.flog2 (h : Hdr) (t : Fmt3) (abs : Bool) (na : Bool) (o : DA) : RoundTrip.Statement (.flog2 h t abs na o) := by
  cases t with
  | f32 =>
    intro hw r hr; obtain rfl : (encDA h 0x08C (bit8 7 abs ||| bit8 4 na) 0 o) = r := Option.some.inj hr
    refine ⟨lenOk_DA rfl, ?_⟩
    refine (buildSfu_at 12 rfl (by decide)).trans ?_
    show some (let r : Raw := (encDA h 0x08C (bit8 7 abs ||| bit8 4 na) 0 o); Instr.flog2 r.h .f32 (r.mod8.getLsbD 7) (r.mod8.getLsbD 4) r.da) = _
    simp [*]; clear hr hw; decide +revert
  | h2 =>
    intro hw r hr; obtain rfl : (encDA h 0x08D (bit8 7 abs ||| bit8 4 na) 0 o) = r := Option.some.inj hr
    refine ⟨lenOk_DA rfl, ?_⟩
    refine (buildSfu_at 13 rfl (by decide)).trans ?_
    show some (let r : Raw := (encDA h 0x08D (bit8 7 abs ||| bit8 4 na) 0 o); Instr.flog2 r.h .h2 (r.mod8.getLsbD 7) (r.mod8.getLsbD 4) r.da) = _
    simp [*]; clear hr hw; decide +revert
  | b2 =>
    intro hw r hr; obtain rfl : (encDA h 0x08E (bit8 7 abs ||| bit8 4 na) 0 o) = r := Option.some.inj hr
    refine ⟨lenOk_DA rfl, ?_⟩
    refine (buildSfu_at 14 rfl (by decide)).trans ?_
    show some (let r : Raw := (encDA h 0x08E (bit8 7 abs ||| bit8 4 na) 0 o); Instr.flog2 r.h .b2 (r.mod8.getLsbD 7) (r.mod8.getLsbD 4) r.da) = _
    simp [*]; clear hr hw; decide +revert
theorem RoundTrip.fsin (h : Hdr) (t : Fmt3) (abs : Bool) (na : Bool) (o : DA) : RoundTrip.Statement (.fsin h t abs na o) := by
  cases t with
  | f32 =>
    intro hw r hr; obtain rfl : (encDA h 0x08F (bit8 7 abs ||| bit8 4 na) 0 o) = r := Option.some.inj hr
    refine ⟨lenOk_DA rfl, ?_⟩
    refine (buildSfu_at 15 rfl (by decide)).trans ?_
    show some (let r : Raw := (encDA h 0x08F (bit8 7 abs ||| bit8 4 na) 0 o); Instr.fsin r.h .f32 (r.mod8.getLsbD 7) (r.mod8.getLsbD 4) r.da) = _
    simp [*]; clear hr hw; decide +revert
  | h2 =>
    intro hw r hr; obtain rfl : (encDA h 0x090 (bit8 7 abs ||| bit8 4 na) 0 o) = r := Option.some.inj hr
    refine ⟨lenOk_DA rfl, ?_⟩
    refine (buildSfu_at 16 rfl (by decide)).trans ?_
    show some (let r : Raw := (encDA h 0x090 (bit8 7 abs ||| bit8 4 na) 0 o); Instr.fsin r.h .h2 (r.mod8.getLsbD 7) (r.mod8.getLsbD 4) r.da) = _
    simp [*]; clear hr hw; decide +revert
  | b2 =>
    intro hw r hr; obtain rfl : (encDA h 0x091 (bit8 7 abs ||| bit8 4 na) 0 o) = r := Option.some.inj hr
    refine ⟨lenOk_DA rfl, ?_⟩
    refine (buildSfu_at 17 rfl (by decide)).trans ?_
    show some (let r : Raw := (encDA h 0x091 (bit8 7 abs ||| bit8 4 na) 0 o); Instr.fsin r.h .b2 (r.mod8.getLsbD 7) (r.mod8.getLsbD 4) r.da) = _
    simp [*]; clear hr hw; decide +revert
theorem RoundTrip.fcos (h : Hdr) (t : Fmt3) (abs : Bool) (na : Bool) (o : DA) : RoundTrip.Statement (.fcos h t abs na o) := by
  cases t with
  | f32 =>
    intro hw r hr; obtain rfl : (encDA h 0x092 (bit8 7 abs ||| bit8 4 na) 0 o) = r := Option.some.inj hr
    refine ⟨lenOk_DA rfl, ?_⟩
    refine (buildSfu_at 18 rfl (by decide)).trans ?_
    show some (let r : Raw := (encDA h 0x092 (bit8 7 abs ||| bit8 4 na) 0 o); Instr.fcos r.h .f32 (r.mod8.getLsbD 7) (r.mod8.getLsbD 4) r.da) = _
    simp [*]; clear hr hw; decide +revert
  | h2 =>
    intro hw r hr; obtain rfl : (encDA h 0x093 (bit8 7 abs ||| bit8 4 na) 0 o) = r := Option.some.inj hr
    refine ⟨lenOk_DA rfl, ?_⟩
    refine (buildSfu_at 19 rfl (by decide)).trans ?_
    show some (let r : Raw := (encDA h 0x093 (bit8 7 abs ||| bit8 4 na) 0 o); Instr.fcos r.h .h2 (r.mod8.getLsbD 7) (r.mod8.getLsbD 4) r.da) = _
    simp [*]; clear hr hw; decide +revert
  | b2 =>
    intro hw r hr; obtain rfl : (encDA h 0x094 (bit8 7 abs ||| bit8 4 na) 0 o) = r := Option.some.inj hr
    refine ⟨lenOk_DA rfl, ?_⟩
    refine (buildSfu_at 20 rfl (by decide)).trans ?_
    show some (let r : Raw := (encDA h 0x094 (bit8 7 abs ||| bit8 4 na) 0 o); Instr.fcos r.h .b2 (r.mod8.getLsbD 7) (r.mod8.getLsbD 4) r.da) = _
    simp [*]; clear hr hw; decide +revert
theorem RoundTrip.ftanh (h : Hdr) (t : Fmt3) (abs : Bool) (na : Bool) (o : DA) : RoundTrip.Statement (.ftanh h t abs na o) := by
  cases t with
  | f32 =>
    intro hw r hr; obtain rfl : (encDA h 0x095 (bit8 7 abs ||| bit8 4 na) 0 o) = r := Option.some.inj hr
    refine ⟨lenOk_DA rfl, ?_⟩
    refine (buildSfu_at 21 rfl (by decide)).trans ?_
    show some (let r : Raw := (encDA h 0x095 (bit8 7 abs ||| bit8 4 na) 0 o); Instr.ftanh r.h .f32 (r.mod8.getLsbD 7) (r.mod8.getLsbD 4) r.da) = _
    simp [*]; clear hr hw; decide +revert
  | h2 =>
    intro hw r hr; obtain rfl : (encDA h 0x096 (bit8 7 abs ||| bit8 4 na) 0 o) = r := Option.some.inj hr
    refine ⟨lenOk_DA rfl, ?_⟩
    refine (buildSfu_at 22 rfl (by decide)).trans ?_
    show some (let r : Raw := (encDA h 0x096 (bit8 7 abs ||| bit8 4 na) 0 o); Instr.ftanh r.h .h2 (r.mod8.getLsbD 7) (r.mod8.getLsbD 4) r.da) = _
    simp [*]; clear hr hw; decide +revert
  | b2 =>
    intro hw r hr; obtain rfl : (encDA h 0x097 (bit8 7 abs ||| bit8 4 na) 0 o) = r := Option.some.inj hr
    refine ⟨lenOk_DA rfl, ?_⟩
    refine (buildSfu_at 23 rfl (by decide)).trans ?_
    show some (let r : Raw := (encDA h 0x097 (bit8 7 abs ||| bit8 4 na) 0 o); Instr.ftanh r.h .b2 (r.mod8.getLsbD 7) (r.mod8.getLsbD 4) r.da) = _
    simp [*]; clear hr hw; decide +revert
theorem RoundTrip.fsigm (h : Hdr) (t : Fmt3) (abs : Bool) (na : Bool) (o : DA) : RoundTrip.Statement (.fsigm h t abs na o) := by
  cases t with
  | f32 =>
    intro hw r hr; obtain rfl : (encDA h 0x098 (bit8 7 abs ||| bit8 4 na) 0 o) = r := Option.some.inj hr
    refine ⟨lenOk_DA rfl, ?_⟩
    refine (buildSfu_at 24 rfl (by decide)).trans ?_
    show some (let r : Raw := (encDA h 0x098 (bit8 7 abs ||| bit8 4 na) 0 o); Instr.fsigm r.h .f32 (r.mod8.getLsbD 7) (r.mod8.getLsbD 4) r.da) = _
    simp [*]; clear hr hw; decide +revert
  | h2 =>
    intro hw r hr; obtain rfl : (encDA h 0x099 (bit8 7 abs ||| bit8 4 na) 0 o) = r := Option.some.inj hr
    refine ⟨lenOk_DA rfl, ?_⟩
    refine (buildSfu_at 25 rfl (by decide)).trans ?_
    show some (let r : Raw := (encDA h 0x099 (bit8 7 abs ||| bit8 4 na) 0 o); Instr.fsigm r.h .h2 (r.mod8.getLsbD 7) (r.mod8.getLsbD 4) r.da) = _
    simp [*]; clear hr hw; decide +revert
  | b2 =>
    intro hw r hr; obtain rfl : (encDA h 0x09A (bit8 7 abs ||| bit8 4 na) 0 o) = r := Option.some.inj hr
    refine ⟨lenOk_DA rfl, ?_⟩
    refine (buildSfu_at 26 rfl (by decide)).trans ?_
    show some (let r : Raw := (encDA h 0x09A (bit8 7 abs ||| bit8 4 na) 0 o); Instr.fsigm r.h .b2 (r.mod8.getLsbD 7) (r.mod8.getLsbD 4) r.da) = _
    simp [*]; clear hr hw; decide +revert
theorem RoundTrip.fgelu (h : Hdr) (t : Fmt3) (abs : Bool) (na : Bool) (o : DA) : RoundTrip.Statement (.fgelu h t abs na o) := by
  cases t with
  | f32 =>
    intro hw r hr; obtain rfl : (encDA h 0x09B (bit8 7 abs ||| bit8 4 na) 0 o) = r := Option.some.inj hr
    refine ⟨lenOk_DA rfl, ?_⟩
    refine (buildSfu_at 27 rfl (by decide)).trans ?_
    show some (let r : Raw := (encDA h 0x09B (bit8 7 abs ||| bit8 4 na) 0 o); Instr.fgelu r.h .f32 (r.mod8.getLsbD 7) (r.mod8.getLsbD 4) r.da) = _
    simp [*]; clear hr hw; decide +revert
  | h2 =>
    intro hw r hr; obtain rfl : (encDA h 0x09C (bit8 7 abs ||| bit8 4 na) 0 o) = r := Option.some.inj hr
    refine ⟨lenOk_DA rfl, ?_⟩
    refine (buildSfu_at 28 rfl (by decide)).trans ?_
    show some (let r : Raw := (encDA h 0x09C (bit8 7 abs ||| bit8 4 na) 0 o); Instr.fgelu r.h .h2 (r.mod8.getLsbD 7) (r.mod8.getLsbD 4) r.da) = _
    simp [*]; clear hr hw; decide +revert
  | b2 =>
    intro hw r hr; obtain rfl : (encDA h 0x09D (bit8 7 abs ||| bit8 4 na) 0 o) = r := Option.some.inj hr
    refine ⟨lenOk_DA rfl, ?_⟩
    refine (buildSfu_at 29 rfl (by decide)).trans ?_
    show some (let r : Raw := (encDA h 0x09D (bit8 7 abs ||| bit8 4 na) 0 o); Instr.fgelu r.h .b2 (r.mod8.getLsbD 7) (r.mod8.getLsbD 4) r.da) = _
    simp [*]; clear hr hw; decide +revert
theorem RoundTrip.cvtf (h : Hdr) (m : CvtMods) (d : Opd) (a : Opd) (c : Opd) (x : ElemSel) : RoundTrip.Statement (.cvtf h m d a c x) := by
  intro hw r hr; obtain rfl : (encDAC h 0x0A0 m.bits d a c x.bits) = r := Option.some.inj hr
  replace hw : (h.ok && m.fits && x.okCvtf) = true := hw
  simp only [Bool.and_eq_true] at hw
  refine ⟨lenOk_DAC rfl, ?_⟩
  refine (buildCvt_at 0 rfl (by decide)).trans ?_
  show some (let r : Raw := (encDAC h 0x0A0 m.bits d a c x.bits); Instr.cvtf r.h (.ofBits r.mod8) (.ofBits r.d) (.ofBits r.a) (.ofBits r.c) (.ofBits r.imm23)) = _
  simp [*]
theorem RoundTrip.cvtfSr (h : Hdr) (sat : Bool) (d : Opd) (a : Opd) (c : Opd) (x : ElemSel) : RoundTrip.Statement (.cvtfSr h sat d a c x) := by
  intro hw r hr; obtain rfl : (encDAC h 0x0A1 (bit8 3 sat) d a c x.bits) = r := Option.some.inj hr
  replace hw : (h.ok && x.okCvtf) = true := hw
  simp only [Bool.and_eq_true] at hw
  refine ⟨lenOk_DAC rfl, ?_⟩
  refine (buildCvt_at 1 rfl (by decide)).trans ?_
  show some (let r : Raw := (encDAC h 0x0A1 (bit8 3 sat) d a c x.bits); Instr.cvtfSr r.h (r.mod8.getLsbD 3) (.ofBits r.d) (.ofBits r.a) (.ofBits r.c) (.ofBits r.imm23)) = _
  simp [*]
theorem RoundTrip.cvtfi (h : Hdr) (u : Bool) (src : BitVec 2) (m : CvtMods) (o : DA) : RoundTrip.Statement (.cvtfi h u src m o) := by
  cases u with
  | false =>
    intro hw r hr; obtain rfl : (encDA h 0x0A2 ((src.setWidth 8 <<< 4) ||| m.bits) 0 o) = r := Option.some.inj hr
    refine ⟨lenOk_DA rfl, ?_⟩
    refine (buildCvt_at 2 rfl (by decide)).trans ?_
    show some (let r : Raw := (encDA h 0x0A2 ((src.setWidth 8 <<< 4) ||| m.bits) 0 o); Instr.cvtfi r.h false (r.mod8.extractLsb' 4 2) (.ofBits r.mod8) r.da) = _
    rcases m with ⟨s, rm⟩; simp [*]; clear hr hw; decide +revert
  | true =>
    intro hw r hr; obtain rfl : (encDA h 0x0A3 ((src.setWidth 8 <<< 4) ||| m.bits) 0 o) = r := Option.some.inj hr
    refine ⟨lenOk_DA rfl, ?_⟩
    refine (buildCvt_at 3 rfl (by decide)).trans ?_
    show some (let r : Raw := (encDA h 0x0A3 ((src.setWidth 8 <<< 4) ||| m.bits) 0 o); Instr.cvtfi r.h true (r.mod8.extractLsb' 4 2) (.ofBits r.mod8) r.da) = _
    rcases m with ⟨s, rm⟩; simp [*]; clear hr hw; decide +revert
theorem RoundTrip.cvtif (h : Hdr) (u : Bool) (dst : BitVec 2) (m : CvtMods) (o : DA) : RoundTrip.Statement (.cvtif h u dst m o) := by
  cases u with
  | false =>
    intro hw r hr; obtain rfl : (encDA h 0x0A4 ((dst.setWidth 8 <<< 4) ||| m.bits) 0 o) = r := Option.some.inj hr
    refine ⟨lenOk_DA rfl, ?_⟩
    refine (buildCvt_at 4 rfl (by decide)).trans ?_
    show some (let r : Raw := (encDA h 0x0A4 ((dst.setWidth 8 <<< 4) ||| m.bits) 0 o); Instr.cvtif r.h false (r.mod8.extractLsb' 4 2) (.ofBits r.mod8) r.da) = _
    rcases m with ⟨s, rm⟩; simp [*]; clear hr hw; decide +revert
  | true =>
    intro hw r hr; obtain rfl : (encDA h 0x0A5 ((dst.setWidth 8 <<< 4) ||| m.bits) 0 o) = r := Option.some.inj hr
    refine ⟨lenOk_DA rfl, ?_⟩
    refine (buildCvt_at 5 rfl (by decide)).trans ?_
    show some (let r : Raw := (encDA h 0x0A5 ((dst.setWidth 8 <<< 4) ||| m.bits) 0 o); Instr.cvtif r.h true (r.mod8.extractLsb' 4 2) (.ofBits r.mod8) r.da) = _
    rcases m with ⟨s, rm⟩; simp [*]; clear hr hw; decide +revert
theorem RoundTrip.cvtii (h : Hdr) (sat : Bool) (src : BitVec 3) (dst : BitVec 3) (o : DA) : RoundTrip.Statement (.cvtii h sat src dst o) := by
  intro hw r hr; obtain rfl : (encDA h 0x0A6 (bit8 3 sat ||| (dst.setWidth 8 <<< 4)) (src.setWidth 4) o) = r := Option.some.inj hr
  refine ⟨lenOk_DA rfl, ?_⟩
  refine (buildCvt_at 6 rfl (by decide)).trans ?_
  show some (let r : Raw := (encDA h 0x0A6 (bit8 3 sat ||| (dst.setWidth 8 <<< 4)) (src.setWidth 4) o); Instr.cvtii r.h (r.mod8.getLsbD 3) (r.mod4.setWidth 3) (r.mod8.extractLsb' 4 3) r.da) = _
  simp [*]; clear hr hw; decide +revert
theorem RoundTrip.packh (h : Hdr) (m : CvtMods) (o : DAB) : RoundTrip.Statement (.packh h m o) := by
  intro hw r hr; obtain rfl : (encDAB h 0x0A7 m.bits 0 o) = r := Option.some.inj hr
  replace hw : (h.ok && m.fits && !o.b.isImm32) = true := hw
  simp only [Bool.and_eq_true, Bool.not_eq_true'] at hw
  refine ⟨lenOk_DAB1 (by simp [*]) rfl, ?_⟩
  refine (buildCvt_at 7 rfl (by decide)).trans ?_
  show some (let r : Raw := (encDAB h 0x0A7 m.bits 0 o); Instr.packh r.h (.ofBits r.mod8) r.dab) = _
  simp [*]
theorem RoundTrip.packb (h : Hdr) (m : CvtMods) (o : DAB) : RoundTrip.Statement (.packb h m o) := by
  intro hw r hr; obtain rfl : (encDAB h 0x0A8 m.bits 0 o) = r := Option.some.inj hr
  replace hw : (h.ok && m.fits && !o.b.isImm32) = true := hw
  simp only [Bool.and_eq_true, Bool.not_eq_true'] at hw
  refine ⟨lenOk_DAB1 (by simp [*]) rfl, ?_⟩
  refine (buildCvt_at 8 rfl (by decide)).trans ?_
  show some (let r : Raw := (encDAB h 0x0A8 m.bits 0 o); Instr.packb r.h (.ofBits r.mod8) r.dab) = _
  simp [*]
theorem RoundTrip.packf8 (h : Hdr) (e5 : Bool) (hi : Bool) (m : CvtMods) (o : DAB) : RoundTrip.Statement (.packf8 h e5 hi m o) := by
  intro hw r hr; obtain rfl : (encDAB h 0x0A9 ((bit8 4 e5 ||| bit8 5 hi) ||| m.bits) 0 o) = r := Option.some.inj hr
  replace hw : (h.ok && m.fits && !o.b.isImm32) = true := hw
  simp only [Bool.and_eq_true, Bool.not_eq_true'] at hw
  refine ⟨lenOk_DAB1 (by simp [*]) rfl, ?_⟩
  refine (buildCvt_at 9 rfl (by decide)).trans ?_
  show some (let r : Raw := (encDAB h 0x0A9 ((bit8 4 e5 ||| bit8 5 hi) ||| m.bits) 0 o); Instr.packf8 r.h (r.mod8.getLsbD 4) (r.mod8.getLsbD 5) (.ofBits r.mod8) r.dab) = _
  rcases m with ⟨s, rm⟩; simp [*]; clear hr hw; decide +revert
theorem RoundTrip.packmx (h : Hdr) (blk : BitVec 2) (dfmt : BitVec 5) (m : CvtMods) (d : Opd) (a : Opd) (c : Opd) : RoundTrip.Statement (.packmx h blk dfmt m d a c) := by
  intro hw r hr; obtain rfl : (encDAC h 0x0AA m.bits d a c ((blk ++ dfmt).setWidth 23)) = r := Option.some.inj hr
  refine ⟨lenOk_DAC rfl, ?_⟩
  refine (buildCvt_at 10 rfl (by decide)).trans ?_
  show some (let r : Raw := (encDAC h 0x0AA m.bits d a c ((blk ++ dfmt).setWidth 23)); Instr.packmx r.h (r.imm23.extractLsb' 5 2) (r.imm23.setWidth 5) (.ofBits r.mod8) (.ofBits r.d) (.ofBits r.a) (.ofBits r.c)) = _
  simp [*]; clear hr hw; decide +revert
theorem RoundTrip.unpkmx (h : Hdr) (scb : BitVec 2) (m : CvtMods) (d : Opd) (a : Opd) (c : Opd) (x : ElemSel) : RoundTrip.Statement (.unpkmx h scb m d a c x) := by
  intro hw r hr; obtain rfl : (encDAC h 0x0AB m.bits d a c (x.bitsUnpk scb)) = r := Option.some.inj hr
  replace hw : (h.ok && m.fits && x.okUnpk) = true := hw
  simp only [Bool.and_eq_true] at hw
  refine ⟨lenOk_DAC rfl, ?_⟩
  refine (buildCvt_at 11 rfl (by decide)).trans ?_
  show some (let r : Raw := (encDAC h 0x0AB m.bits d a c (x.bitsUnpk scb)); Instr.unpkmx r.h (r.imm23.extractLsb' 13 2) (.ofBits r.mod8) (.ofBits r.d) (.ofBits r.a) (.ofBits r.c) (.ofUnpk r.imm23)) = _
  have hx := hw.2; simp only [ElemSel.okUnpk, Bool.and_eq_true, decide_eq_true_eq] at hx; simp [ElemSel.backUnpk scb hx.1.2]
theorem RoundTrip.packt5 (h : Hdr) (o : DAB) : RoundTrip.Statement (.packt5 h o) := by
  intro hw r hr; obtain rfl : (encDAB h 0x0AC 0 0 o) = r := Option.some.inj hr
  replace hw : (h.ok && !o.b.isImm32) = true := hw
  simp only [Bool.and_eq_true, Bool.not_eq_true'] at hw
  refine ⟨lenOk_DAB1 (by simp [*]) rfl, ?_⟩
  refine (buildCvt_at 12 rfl (by decide)).trans ?_
  show some (let r : Raw := (encDAB h 0x0AC 0 0 o); Instr.packt5 r.h r.dab) = _
  simp [*]
theorem RoundTrip.unpkt5 (h : Hdr) (k : BitVec 2) (o : DA) : RoundTrip.Statement (.unpkt5 h k o) := by
  intro hw r hr; obtain rfl : (encDA h 0x0AD (k.setWidth 8 <<< 4) 0 o) = r := Option.some.inj hr
  refine ⟨lenOk_DA rfl, ?_⟩
  refine (buildCvt_at 13 rfl (by decide)).trans ?_
  show some (let r : Raw := (encDA h 0x0AD (k.setWidth 8 <<< 4) 0 o); Instr.unpkt5 r.h (r.mod8.extractLsb' 4 2) r.da) = _
  simp [*]; clear hr hw; decide +revert
theorem RoundTrip.cbdec (h : Hdr) (slot : BitVec 2) (half : Bool) (pair : BitVec 2) (fp16 : Bool) (m : CvtMods) (d : Opd) (a : Opd) (c : Opd) : RoundTrip.Statement (.cbdec h slot half pair fp16 m d a c) := by
  intro hw r hr; obtain rfl : (encDAC h 0x0AE m.bits d a c ((BitVec.ofBool fp16 ++ pair ++ BitVec.ofBool half ++ slot).setWidth 23)) = r := Option.some.inj hr
  refine ⟨lenOk_DAC rfl, ?_⟩
  refine (buildCvt_at 14 rfl (by decide)).trans ?_
  show some (let r : Raw := (encDAC h 0x0AE m.bits d a c ((BitVec.ofBool fp16 ++ pair ++ BitVec.ofBool half ++ slot).setWidth 23)); Instr.cbdec r.h (r.imm23.setWidth 2) (r.imm23.getLsbD 2) (r.imm23.extractLsb' 3 2) (r.imm23.getLsbD 5) (.ofBits r.mod8) (.ofBits r.d) (.ofBits r.a) (.ofBits r.c)) = _
  simp [*]; clear hr hw; decide +revert
theorem RoundTrip.cpack (h : Hdr) (o : DAB) : RoundTrip.Statement (.cpack h o) := by
  intro hw r hr; obtain rfl : (encDAB h 0x0AF 0 0 o) = r := Option.some.inj hr
  replace hw : (h.ok && !o.b.isImm32) = true := hw
  simp only [Bool.and_eq_true, Bool.not_eq_true'] at hw
  refine ⟨lenOk_DAB1 (by simp [*]) rfl, ?_⟩
  refine (buildCvt_at 15 rfl (by decide)).trans ((if_neg (show ¬ ((encDAB h 0x0AF 0 0 o)).mod8.getLsbD 4 = true by simp)).trans ?_)
  show some (let r : Raw := (encDAB h 0x0AF 0 0 o); Instr.cpack r.h r.dab) = _
  simp [*]
theorem RoundTrip.cpackU (h : Hdr) (hi : Bool) (o : DA) : RoundTrip.Statement (.cpackU h hi o) := by
  intro hw r hr; obtain rfl : (encDA h 0x0AF (bit8 4 true ||| bit8 5 hi) 0 o) = r := Option.some.inj hr
  refine ⟨lenOk_DA rfl, ?_⟩
  refine (buildCvt_at 15 rfl (by decide)).trans ((if_pos (show ((encDA h 0x0AF (bit8 4 true ||| bit8 5 hi) 0 o)).mod8.getLsbD 4 = true by simp)).trans ?_)
  show some (let r : Raw := (encDA h 0x0AF (bit8 4 true ||| bit8 5 hi) 0 o); Instr.cpackU r.h (r.mod8.getLsbD 5) r.da) = _
  simp [*]; clear hr hw; decide +revert
theorem RoundTrip.pairFF (h : Hdr) (p : PairOp) (q : PairOp) : RoundTrip.Statement (.pairFF h p q) := by
  intro hw r hr; obtain rfl : (encW h 0x1F0 2 0 p.bits q.bits) = r := Option.some.inj hr
  refine ⟨lenOk_W rfl, ?_⟩
  refine (buildPair_at 0 rfl (by decide)).trans ?_
  show some (let r : Raw := (encW h 0x1F0 2 0 p.bits q.bits); Instr.pairFF r.h (.ofBits r.w1) (.ofBits r.w2)) = _
  simp [*]
theorem RoundTrip.pairFI (h : Hdr) (p : PairOp) (q : PairOp) : RoundTrip.Statement (.pairFI h p q) := by
  intro hw r hr; obtain rfl : (encW h 0x1F1 2 0 p.bits q.bits) = r := Option.some.inj hr
  refine ⟨lenOk_W rfl, ?_⟩
  refine (buildPair_at 1 rfl (by decide)).trans ?_
  show some (let r : Raw := (encW h 0x1F1 2 0 p.bits q.bits); Instr.pairFI r.h (.ofBits r.w1) (.ofBits r.w2)) = _
  simp [*]
theorem RoundTrip.pairII (h : Hdr) (p : PairOp) (q : PairOp) : RoundTrip.Statement (.pairII h p q) := by
  intro hw r hr; obtain rfl : (encW h 0x1F2 2 0 p.bits q.bits) = r := Option.some.inj hr
  refine ⟨lenOk_W rfl, ?_⟩
  refine (buildPair_at 2 rfl (by decide)).trans ?_
  show some (let r : Raw := (encW h 0x1F2 2 0 p.bits q.bits); Instr.pairII r.h (.ofBits r.w1) (.ofBits r.w2)) = _
  simp [*]
theorem RoundTrip.pairFX (h : Hdr) (p : PairOp) (q : PairOp) : RoundTrip.Statement (.pairFX h p q) := by
  intro hw r hr; obtain rfl : (encW h 0x1F3 2 0 p.bits q.bits) = r := Option.some.inj hr
  refine ⟨lenOk_W rfl, ?_⟩
  refine (buildPair_at 3 rfl (by decide)).trans ?_
  show some (let r : Raw := (encW h 0x1F3 2 0 p.bits q.bits); Instr.pairFX r.h (.ofBits r.w1) (.ofBits r.w2)) = _
  simp [*]
theorem RoundTrip.qswpH (h : Hdr) (o : DA) : RoundTrip.Statement (.qswpH h o) := by
  intro hw r hr; obtain rfl : (encDA h 0x0B0 0 0 o) = r := Option.some.inj hr
  refine ⟨lenOk_DA rfl, ?_⟩
  refine (buildXchg_at 0 rfl (by decide)).trans ?_
  show some (let r : Raw := (encDA h 0x0B0 0 0 o); Instr.qswpH r.h r.da) = _
  simp [*]
theorem RoundTrip.qswpV (h : Hdr) (o : DA) : RoundTrip.Statement (.qswpV h o) := by
  intro hw r hr; obtain rfl : (encDA h 0x0B1 0 0 o) = r := Option.some.inj hr
  refine ⟨lenOk_DA rfl, ?_⟩
  refine (buildXchg_at 1 rfl (by decide)).trans ?_
  show some (let r : Raw := (encDA h 0x0B1 0 0 o); Instr.qswpV r.h r.da) = _
  simp [*]
theorem RoundTrip.qswpD (h : Hdr) (o : DA) : RoundTrip.Statement (.qswpD h o) := by
  intro hw r hr; obtain rfl : (encDA h 0x0B2 0 0 o) = r := Option.some.inj hr
  refine ⟨lenOk_DA rfl, ?_⟩
  refine (buildXchg_at 2 rfl (by decide)).trans ?_
  show some (let r : Raw := (encDA h 0x0B2 0 0 o); Instr.qswpD r.h r.da) = _
  simp [*]
theorem RoundTrip.qbcst (h : Hdr) (k : BitVec 2) (o : DA) : RoundTrip.Statement (.qbcst h k o) := by
  intro hw r hr; obtain rfl : (encDA h 0x0B3 (k.setWidth 8 <<< 0) 0 o) = r := Option.some.inj hr
  refine ⟨lenOk_DA rfl, ?_⟩
  refine (buildXchg_at 3 rfl (by decide)).trans ?_
  show some (let r : Raw := (encDA h 0x0B3 (k.setWidth 8 <<< 0) 0 o); Instr.qbcst r.h (r.mod8.extractLsb' 0 2) r.da) = _
  simp [*]; clear hr hw; decide +revert
theorem RoundTrip.qred (h : Hdr) (op : RedOp) (u : Bool) (f32 : Bool) (o : DA) : RoundTrip.Statement (.qred h op u f32 o) := by
  cases op with
  | add =>
    intro hw r hr; obtain rfl : (encDA h 0x0B4 (bit8 4 u ||| bit8 5 f32) 0 o) = r := Option.some.inj hr
    refine ⟨lenOk_DA rfl, ?_⟩
    refine (buildXchg_at 4 rfl (by decide)).trans ?_
    show some (let r : Raw := (encDA h 0x0B4 (bit8 4 u ||| bit8 5 f32) 0 o); Instr.qred r.h .add (r.mod8.getLsbD 4) (r.mod8.getLsbD 5) r.da) = _
    simp [*]; clear hr hw; decide +revert
  | min =>
    intro hw r hr; obtain rfl : (encDA h 0x0B5 (bit8 4 u ||| bit8 5 f32) 0 o) = r := Option.some.inj hr
    refine ⟨lenOk_DA rfl, ?_⟩
    refine (buildXchg_at 5 rfl (by decide)).trans ?_
    show some (let r : Raw := (encDA h 0x0B5 (bit8 4 u ||| bit8 5 f32) 0 o); Instr.qred r.h .min (r.mod8.getLsbD 4) (r.mod8.getLsbD 5) r.da) = _
    simp [*]; clear hr hw; decide +revert
  | max =>
    intro hw r hr; obtain rfl : (encDA h 0x0B6 (bit8 4 u ||| bit8 5 f32) 0 o) = r := Option.some.inj hr
    refine ⟨lenOk_DA rfl, ?_⟩
    refine (buildXchg_at 6 rfl (by decide)).trans ?_
    show some (let r : Raw := (encDA h 0x0B6 (bit8 4 u ||| bit8 5 f32) 0 o); Instr.qred r.h .max (r.mod8.getLsbD 4) (r.mod8.getLsbD 5) r.da) = _
    simp [*]; clear hr hw; decide +revert
  | and =>
    intro hw r hr; obtain rfl : (encDA h 0x0B7 (bit8 4 u ||| bit8 5 f32) 0 o) = r := Option.some.inj hr
    refine ⟨lenOk_DA rfl, ?_⟩
    refine (buildXchg_at 7 rfl (by decide)).trans ?_
    show some (let r : Raw := (encDA h 0x0B7 (bit8 4 u ||| bit8 5 f32) 0 o); Instr.qred r.h .and (r.mod8.getLsbD 4) (r.mod8.getLsbD 5) r.da) = _
    simp [*]; clear hr hw; decide +revert
  | or =>
    intro hw r hr; obtain rfl : (encDA h 0x0B8 (bit8 4 u ||| bit8 5 f32) 0 o) = r := Option.some.inj hr
    refine ⟨lenOk_DA rfl, ?_⟩
    refine (buildXchg_at 8 rfl (by decide)).trans ?_
    show some (let r : Raw := (encDA h 0x0B8 (bit8 4 u ||| bit8 5 f32) 0 o); Instr.qred r.h .or (r.mod8.getLsbD 4) (r.mod8.getLsbD 5) r.da) = _
    simp [*]; clear hr hw; decide +revert
theorem RoundTrip.qhelp (h : Hdr) (o : DA) : RoundTrip.Statement (.qhelp h o) := by
  intro hw r hr; obtain rfl : (encDA h 0x0B9 0 0 o) = r := Option.some.inj hr
  refine ⟨lenOk_DA rfl, ?_⟩
  refine (buildXchg_at 9 rfl (by decide)).trans ?_
  show some (let r : Raw := (encDA h 0x0B9 0 0 o); Instr.qhelp r.h r.da) = _
  simp [*]
theorem RoundTrip.shfl (h : Hdr) (mode : ShflMode) (seg : BitVec 3) (o : DAB) : RoundTrip.Statement (.shfl h mode seg o) := by
  cases mode with
  | idx =>
    intro hw r hr; obtain rfl : (encDAB h 0x0BA (seg.setWidth 8 <<< 0) 0 o) = r := Option.some.inj hr
    replace hw : (h.ok && seg != 7 && !o.b.isImm32) = true := hw
    simp only [Bool.and_eq_true, Bool.not_eq_true'] at hw
    refine ⟨lenOk_DAB1 (by simp [*]) rfl, ?_⟩
    refine (buildXchg_at 10 rfl (by decide)).trans ?_
    show some (let r : Raw := (encDAB h 0x0BA (seg.setWidth 8 <<< 0) 0 o); Instr.shfl r.h .idx (r.mod8.extractLsb' 0 3) r.dab) = _
    simp [*]; clear hr hw; decide +revert
  | up =>
    intro hw r hr; obtain rfl : (encDAB h 0x0BB (seg.setWidth 8 <<< 0) 0 o) = r := Option.some.inj hr
    replace hw : (h.ok && seg != 7 && !o.b.isImm32) = true := hw
    simp only [Bool.and_eq_true, Bool.not_eq_true'] at hw
    refine ⟨lenOk_DAB1 (by simp [*]) rfl, ?_⟩
    refine (buildXchg_at 11 rfl (by decide)).trans ?_
    show some (let r : Raw := (encDAB h 0x0BB (seg.setWidth 8 <<< 0) 0 o); Instr.shfl r.h .up (r.mod8.extractLsb' 0 3) r.dab) = _
    simp [*]; clear hr hw; decide +revert
  | dn =>
    intro hw r hr; obtain rfl : (encDAB h 0x0BC (seg.setWidth 8 <<< 0) 0 o) = r := Option.some.inj hr
    replace hw : (h.ok && seg != 7 && !o.b.isImm32) = true := hw
    simp only [Bool.and_eq_true, Bool.not_eq_true'] at hw
    refine ⟨lenOk_DAB1 (by simp [*]) rfl, ?_⟩
    refine (buildXchg_at 12 rfl (by decide)).trans ?_
    show some (let r : Raw := (encDAB h 0x0BC (seg.setWidth 8 <<< 0) 0 o); Instr.shfl r.h .dn (r.mod8.extractLsb' 0 3) r.dab) = _
    simp [*]; clear hr hw; decide +revert
  | xor =>
    intro hw r hr; obtain rfl : (encDAB h 0x0BD (seg.setWidth 8 <<< 0) 0 o) = r := Option.some.inj hr
    replace hw : (h.ok && seg != 7 && !o.b.isImm32) = true := hw
    simp only [Bool.and_eq_true, Bool.not_eq_true'] at hw
    refine ⟨lenOk_DAB1 (by simp [*]) rfl, ?_⟩
    refine (buildXchg_at 13 rfl (by decide)).trans ?_
    show some (let r : Raw := (encDAB h 0x0BD (seg.setWidth 8 <<< 0) 0 o); Instr.shfl r.h .xor (r.mod8.extractLsb' 0 3) r.dab) = _
    simp [*]; clear hr hw; decide +revert
theorem RoundTrip.voteAny (h : Hdr) (o : DA) : RoundTrip.Statement (.voteAny h o) := by
  intro hw r hr; obtain rfl : (encDA h 0x0BE 0 0 o) = r := Option.some.inj hr
  refine ⟨lenOk_DA rfl, ?_⟩
  refine (buildXchg_at 14 rfl (by decide)).trans ?_
  show some (let r : Raw := (encDA h 0x0BE 0 0 o); Instr.voteAny r.h r.da) = _
  simp [*]
theorem RoundTrip.voteAll (h : Hdr) (o : DA) : RoundTrip.Statement (.voteAll h o) := by
  intro hw r hr; obtain rfl : (encDA h 0x0BF 0 0 o) = r := Option.some.inj hr
  refine ⟨lenOk_DA rfl, ?_⟩
  refine (buildXchg_at 15 rfl (by decide)).trans ?_
  show some (let r : Raw := (encDA h 0x0BF 0 0 o); Instr.voteAll r.h r.da) = _
  simp [*]
theorem RoundTrip.voteBal (h : Hdr) (o : DA) : RoundTrip.Statement (.voteBal h o) := by
  intro hw r hr; obtain rfl : (encDA h 0x0C0 0 0 o) = r := Option.some.inj hr
  refine ⟨lenOk_DA rfl, ?_⟩
  refine (buildXchg_at 16 rfl (by decide)).trans ?_
  show some (let r : Raw := (encDA h 0x0C0 0 0 o); Instr.voteBal r.h r.da) = _
  simp [*]
theorem RoundTrip.matchLanes (h : Hdr) (o : DA) : RoundTrip.Statement (.matchLanes h o) := by
  intro hw r hr; obtain rfl : (encDA h 0x0C1 0 0 o) = r := Option.some.inj hr
  refine ⟨lenOk_DA rfl, ?_⟩
  refine (buildXchg_at 17 rfl (by decide)).trans ?_
  show some (let r : Raw := (encDA h 0x0C1 0 0 o); Instr.matchLanes r.h r.da) = _
  simp [*]
theorem RoundTrip.lred (h : Hdr) (op : RedOp) (u : Bool) (f32 : Bool) (o : DA) : RoundTrip.Statement (.lred h op u f32 o) := by
  cases op with
  | add =>
    intro hw r hr; obtain rfl : (encDA h 0x0C2 (bit8 4 u ||| bit8 5 f32) 0 o) = r := Option.some.inj hr
    refine ⟨lenOk_DA rfl, ?_⟩
    refine (buildXchg_at 18 rfl (by decide)).trans ?_
    show some (let r : Raw := (encDA h 0x0C2 (bit8 4 u ||| bit8 5 f32) 0 o); Instr.lred r.h .add (r.mod8.getLsbD 4) (r.mod8.getLsbD 5) r.da) = _
    simp [*]; clear hr hw; decide +revert
  | min =>
    intro hw r hr; obtain rfl : (encDA h 0x0C3 (bit8 4 u ||| bit8 5 f32) 0 o) = r := Option.some.inj hr
    refine ⟨lenOk_DA rfl, ?_⟩
    refine (buildXchg_at 19 rfl (by decide)).trans ?_
    show some (let r : Raw := (encDA h 0x0C3 (bit8 4 u ||| bit8 5 f32) 0 o); Instr.lred r.h .min (r.mod8.getLsbD 4) (r.mod8.getLsbD 5) r.da) = _
    simp [*]; clear hr hw; decide +revert
  | max =>
    intro hw r hr; obtain rfl : (encDA h 0x0C4 (bit8 4 u ||| bit8 5 f32) 0 o) = r := Option.some.inj hr
    refine ⟨lenOk_DA rfl, ?_⟩
    refine (buildXchg_at 20 rfl (by decide)).trans ?_
    show some (let r : Raw := (encDA h 0x0C4 (bit8 4 u ||| bit8 5 f32) 0 o); Instr.lred r.h .max (r.mod8.getLsbD 4) (r.mod8.getLsbD 5) r.da) = _
    simp [*]; clear hr hw; decide +revert
  | and =>
    intro hw r hr; obtain rfl : (encDA h 0x0C5 (bit8 4 u ||| bit8 5 f32) 0 o) = r := Option.some.inj hr
    refine ⟨lenOk_DA rfl, ?_⟩
    refine (buildXchg_at 21 rfl (by decide)).trans ?_
    show some (let r : Raw := (encDA h 0x0C5 (bit8 4 u ||| bit8 5 f32) 0 o); Instr.lred r.h .and (r.mod8.getLsbD 4) (r.mod8.getLsbD 5) r.da) = _
    simp [*]; clear hr hw; decide +revert
  | or =>
    intro hw r hr; obtain rfl : (encDA h 0x0C6 (bit8 4 u ||| bit8 5 f32) 0 o) = r := Option.some.inj hr
    refine ⟨lenOk_DA rfl, ?_⟩
    refine (buildXchg_at 22 rfl (by decide)).trans ?_
    show some (let r : Raw := (encDA h 0x0C6 (bit8 4 u ||| bit8 5 f32) 0 o); Instr.lred r.h .or (r.mod8.getLsbD 4) (r.mod8.getLsbD 5) r.da) = _
    simp [*]; clear hr hw; decide +revert
theorem RoundTrip.lscan (h : Hdr) (op : RedOp) (u : Bool) (exc : Bool) (o : DA) : RoundTrip.Statement (.lscan h op u exc o) := by
  cases op with
  | add =>
    intro hw r hr; obtain rfl : (encDA h 0x0C7 (bit8 4 u ||| bit8 6 exc) 0 o) = r := Option.some.inj hr
    refine ⟨lenOk_DA rfl, ?_⟩
    refine (buildXchg_at 23 rfl (by decide)).trans ?_
    show some (let r : Raw := (encDA h 0x0C7 (bit8 4 u ||| bit8 6 exc) 0 o); Instr.lscan r.h .add (r.mod8.getLsbD 4) (r.mod8.getLsbD 6) r.da) = _
    simp [*]; clear hr hw; decide +revert
  | min => intro hw; exact absurd (show (h.ok && (RedOp.min == .add || RedOp.min == .max) && (RedOp.min == .max || !u)) = true from hw) (by simp)
  | max =>
    intro hw r hr; obtain rfl : (encDA h 0x0C8 (bit8 4 u ||| bit8 6 exc) 0 o) = r := Option.some.inj hr
    refine ⟨lenOk_DA rfl, ?_⟩
    refine (buildXchg_at 24 rfl (by decide)).trans ?_
    show some (let r : Raw := (encDA h 0x0C8 (bit8 4 u ||| bit8 6 exc) 0 o); Instr.lscan r.h .max (r.mod8.getLsbD 4) (r.mod8.getLsbD 6) r.da) = _
    simp [*]; clear hr hw; decide +revert
  | and => intro hw; exact absurd (show (h.ok && (RedOp.and == .add || RedOp.and == .max) && (RedOp.and == .max || !u)) = true from hw) (by simp)
  | or => intro hw; exact absurd (show (h.ok && (RedOp.or == .add || RedOp.or == .max) && (RedOp.or == .max || !u)) = true from hw) (by simp)
theorem RoundTrip.sadd (h : Hdr) (m : SatU) (o : DAB) : RoundTrip.Statement (.sadd h m o) := by
  intro hw r hr; obtain rfl : (encDAB h 0x0D0 m.bits 0 o) = r := Option.some.inj hr
  refine ⟨lenOk_DAB rfl rfl, ?_⟩
  refine (buildUnif_at 0 rfl (by decide)).trans ?_
  show some (let r : Raw := (encDAB h 0x0D0 m.bits 0 o); Instr.sadd r.h (.ofBits r.mod8) r.dabI) = _
  simp [*]
theorem RoundTrip.ssub (h : Hdr) (m : SatU) (o : DAB) : RoundTrip.Statement (.ssub h m o) := by
  intro hw r hr; obtain rfl : (encDAB h 0x0D1 m.bits 0 o) = r := Option.some.inj hr
  refine ⟨lenOk_DAB rfl rfl, ?_⟩
  refine (buildUnif_at 1 rfl (by decide)).trans ?_
  show some (let r : Raw := (encDAB h 0x0D1 m.bits 0 o); Instr.ssub r.h (.ofBits r.mod8) r.dabI) = _
  simp [*]
theorem RoundTrip.sadd64 (h : Hdr) (o : DAB) : RoundTrip.Statement (.sadd64 h o) := by
  intro hw r hr; obtain rfl : (encDAB h 0x0D2 0 0 o) = r := Option.some.inj hr
  refine ⟨lenOk_DAB rfl rfl, ?_⟩
  refine (buildUnif_at 2 rfl (by decide)).trans ?_
  show some (let r : Raw := (encDAB h 0x0D2 0 0 o); Instr.sadd64 r.h r.dabI) = _
  simp [*]
theorem RoundTrip.smul (h : Hdr) (o : DAB) : RoundTrip.Statement (.smul h o) := by
  intro hw r hr; obtain rfl : (encDAB h 0x0D3 0 0 o) = r := Option.some.inj hr
  refine ⟨lenOk_DAB rfl rfl, ?_⟩
  refine (buildUnif_at 3 rfl (by decide)).trans ?_
  show some (let r : Raw := (encDAB h 0x0D3 0 0 o); Instr.smul r.h r.dabI) = _
  simp [*]
theorem RoundTrip.smad (h : Hdr) (o : DABC) : RoundTrip.Statement (.smad h o) := by
  intro hw r hr; obtain rfl : (encDABC h 0x0D4 0 0 o 0) = r := Option.some.inj hr
  replace hw : (h.ok && !o.b.isImm32) = true := hw
  simp only [Bool.and_eq_true, Bool.not_eq_true'] at hw
  refine ⟨lenOk_DABC rfl, ?_⟩
  refine (buildUnif_at 4 rfl (by decide)).trans ?_
  show some (let r : Raw := (encDABC h 0x0D4 0 0 o 0); Instr.smad r.h r.dabc) = _
  simp [*]
theorem RoundTrip.smin (h : Hdr) (u : Bool) (o : DAB) : RoundTrip.Statement (.smin h u o) := by
  intro hw r hr; obtain rfl : (encDAB h 0x0D5 (bit8 4 u) 0 o) = r := Option.some.inj hr
  refine ⟨lenOk_DAB rfl rfl, ?_⟩
  refine (buildUnif_at 5 rfl (by decide)).trans ?_
  show some (let r : Raw := (encDAB h 0x0D5 (bit8 4 u) 0 o); Instr.smin r.h (r.mod8.getLsbD 4) r.dabI) = _
  simp [*]
theorem RoundTrip.smax (h : Hdr) (u : Bool) (o : DAB) : RoundTrip.Statement (.smax h u o) := by
  intro hw r hr; obtain rfl : (encDAB h 0x0D6 (bit8 4 u) 0 o) = r := Option.some.inj hr
  refine ⟨lenOk_DAB rfl rfl, ?_⟩
  refine (buildUnif_at 6 rfl (by decide)).trans ?_
  show some (let r : Raw := (encDAB h 0x0D6 (bit8 4 u) 0 o); Instr.smax r.h (r.mod8.getLsbD 4) r.dabI) = _
  simp [*]
theorem RoundTrip.sshl (h : Hdr) (o : DAB) : RoundTrip.Statement (.sshl h o) := by
  intro hw r hr; obtain rfl : (encDAB h 0x0D7 0 0 o) = r := Option.some.inj hr
  replace hw : (h.ok && !o.b.isImm32) = true := hw
  simp only [Bool.and_eq_true, Bool.not_eq_true'] at hw
  refine ⟨lenOk_DAB1 (by simp [*]) rfl, ?_⟩
  refine (buildUnif_at 7 rfl (by decide)).trans ?_
  show some (let r : Raw := (encDAB h 0x0D7 0 0 o); Instr.sshl r.h r.dab) = _
  simp [*]
theorem RoundTrip.sshr (h : Hdr) (o : DAB) : RoundTrip.Statement (.sshr h o) := by
  intro hw r hr; obtain rfl : (encDAB h 0x0D8 0 0 o) = r := Option.some.inj hr
  replace hw : (h.ok && !o.b.isImm32) = true := hw
  simp only [Bool.and_eq_true, Bool.not_eq_true'] at hw
  refine ⟨lenOk_DAB1 (by simp [*]) rfl, ?_⟩
  refine (buildUnif_at 8 rfl (by decide)).trans ?_
  show some (let r : Raw := (encDAB h 0x0D8 0 0 o); Instr.sshr r.h r.dab) = _
  simp [*]
theorem RoundTrip.sshra (h : Hdr) (o : DAB) : RoundTrip.Statement (.sshra h o) := by
  intro hw r hr; obtain rfl : (encDAB h 0x0D9 0 0 o) = r := Option.some.inj hr
  replace hw : (h.ok && !o.b.isImm32) = true := hw
  simp only [Bool.and_eq_true, Bool.not_eq_true'] at hw
  refine ⟨lenOk_DAB1 (by simp [*]) rfl, ?_⟩
  refine (buildUnif_at 9 rfl (by decide)).trans ?_
  show some (let r : Raw := (encDAB h 0x0D9 0 0 o); Instr.sshra r.h r.dab) = _
  simp [*]
theorem RoundTrip.slogt (h : Hdr) (o : DABC) (lut : BitVec 8) : RoundTrip.Statement (.slogt h o lut) := by
  intro hw r hr; obtain rfl : (encDABC h 0x0DA 0 0 o (lut.setWidth 23)) = r := Option.some.inj hr
  replace hw : (h.ok && !o.b.isImm32) = true := hw
  simp only [Bool.and_eq_true, Bool.not_eq_true'] at hw
  refine ⟨lenOk_DABC rfl, ?_⟩
  refine (buildUnif_at 10 rfl (by decide)).trans ?_
  show some (let r : Raw := (encDABC h 0x0DA 0 0 o (lut.setWidth 23)); Instr.slogt r.h r.dabc (r.imm23.setWidth 8)) = _
  simp [*]
theorem RoundTrip.spopc (h : Hdr) (o : DA) : RoundTrip.Statement (.spopc h o) := by
  intro hw r hr; obtain rfl : (encDA h 0x0DB 0 0 o) = r := Option.some.inj hr
  refine ⟨lenOk_DA rfl, ?_⟩
  refine (buildUnif_at 11 rfl (by decide)).trans ?_
  show some (let r : Raw := (encDA h 0x0DB 0 0 o); Instr.spopc r.h r.da) = _
  simp [*]
theorem RoundTrip.sclz (h : Hdr) (o : DA) : RoundTrip.Statement (.sclz h o) := by
  intro hw r hr; obtain rfl : (encDA h 0x0DC 0 0 o) = r := Option.some.inj hr
  refine ⟨lenOk_DA rfl, ?_⟩
  refine (buildUnif_at 12 rfl (by decide)).trans ?_
  show some (let r : Raw := (encDA h 0x0DC 0 0 o); Instr.sclz r.h r.da) = _
  simp [*]
theorem RoundTrip.sbfe (h : Hdr) (u : Bool) (o : DAB) : RoundTrip.Statement (.sbfe h u o) := by
  intro hw r hr; obtain rfl : (encDAB h 0x0DD (bit8 4 u) 0 o) = r := Option.some.inj hr
  replace hw : (h.ok && !o.b.isImm32) = true := hw
  simp only [Bool.and_eq_true, Bool.not_eq_true'] at hw
  refine ⟨lenOk_DAB1 (by simp [*]) rfl, ?_⟩
  refine (buildUnif_at 13 rfl (by decide)).trans ?_
  show some (let r : Raw := (encDAB h 0x0DD (bit8 4 u) 0 o); Instr.sbfe r.h (r.mod8.getLsbD 4) r.dab) = _
  simp [*]
theorem RoundTrip.sbfi (h : Hdr) (o : DABC) : RoundTrip.Statement (.sbfi h o) := by
  intro hw r hr; obtain rfl : (encDABC h 0x0DE 0 0 o 0) = r := Option.some.inj hr
  replace hw : (h.ok && !o.b.isImm32) = true := hw
  simp only [Bool.and_eq_true, Bool.not_eq_true'] at hw
  refine ⟨lenOk_DABC rfl, ?_⟩
  refine (buildUnif_at 14 rfl (by decide)).trans ?_
  show some (let r : Raw := (encDABC h 0x0DE 0 0 o 0); Instr.sbfi r.h r.dabc) = _
  simp [*]
theorem RoundTrip.sset (h : Hdr) (cc : BitVec 4) (u : Bool) (o : DAB) : RoundTrip.Statement (.sset h cc u o) := by
  intro hw r hr; obtain rfl : (encDAB h 0x0DF (bit8 4 u) cc o) = r := Option.some.inj hr
  refine ⟨lenOk_DAB rfl rfl, ?_⟩
  refine (buildUnif_at 15 rfl (by decide)).trans ?_
  show some (let r : Raw := (encDAB h 0x0DF (bit8 4 u) cc o); Instr.sset r.h r.mod4 (r.mod8.getLsbD 4) r.dabI) = _
  simp [*]
theorem RoundTrip.smov (h : Hdr) (o : DA) : RoundTrip.Statement (.smov h o) := by
  intro hw r hr; obtain rfl : (encDA h 0x0E0 0 0 o) = r := Option.some.inj hr
  refine ⟨lenOk_DA rfl, ?_⟩
  refine (buildUnif_at 16 rfl (by decide)).trans ?_
  show some (let r : Raw := (encDA h 0x0E0 0 0 o); Instr.smov r.h r.da) = _
  simp [*]
theorem RoundTrip.smovi (h : Hdr) (d : Opd) (imm : Word) : RoundTrip.Statement (.smovi h d imm) := by
  intro hw r hr; obtain rfl : (encW h 0x0E1 2 0 (mkW1 false 0 0 0 d.bits) imm) = r := Option.some.inj hr
  refine ⟨lenOk_W rfl, ?_⟩
  refine (buildUnif_at 17 rfl (by decide)).trans ?_
  show some (let r : Raw := (encW h 0x0E1 2 0 (mkW1 false 0 0 0 d.bits) imm); Instr.smovi r.h (.ofBits r.d) r.w2) = _
  simp [*]
theorem RoundTrip.slea (h : Hdr) (u : Bool) (sh : BitVec 5) (o : DAB) : RoundTrip.Statement (.slea h u sh o) := by
  intro hw r hr; obtain rfl : (encDABC h 0x0E2 (bit8 4 u) 0 (o.withC (.v 0)) (sh.setWidth 23)) = r := Option.some.inj hr
  replace hw : (h.ok && !o.b.isImm32) = true := hw
  simp only [Bool.and_eq_true, Bool.not_eq_true'] at hw
  refine ⟨lenOk_DABC rfl, ?_⟩
  refine (buildUnif_at 18 rfl (by decide)).trans ?_
  show some (let r : Raw := (encDABC h 0x0E2 (bit8 4 u) 0 (o.withC (.v 0)) (sh.setWidth 23)); Instr.slea r.h (r.mod8.getLsbD 4) (r.imm23.setWidth 5) r.dab) = _
  simp [*]
theorem RoundTrip.s2v (h : Hdr) (o : DA) : RoundTrip.Statement (.s2v h o) := by
  intro hw r hr; obtain rfl : (encDA h 0x0E3 0 0 o) = r := Option.some.inj hr
  refine ⟨lenOk_DA rfl, ?_⟩
  refine (buildUnif_at 19 rfl (by decide)).trans ?_
  show some (let r : Raw := (encDA h 0x0E3 0 0 o); Instr.s2v r.h r.da) = _
  simp [*]
theorem RoundTrip.v2s (h : Hdr) (o : DA) : RoundTrip.Statement (.v2s h o) := by
  intro hw r hr; obtain rfl : (encDA h 0x0E4 0 0 o) = r := Option.some.inj hr
  refine ⟨lenOk_DA rfl, ?_⟩
  refine (buildUnif_at 20 rfl (by decide)).trans ?_
  show some (let r : Raw := (encDA h 0x0E4 0 0 o); Instr.v2s r.h r.da) = _
  simp [*]
theorem RoundTrip.srdsr (h : Hdr) (sr : BitVec 8) (d : Opd) : RoundTrip.Statement (.srdsr h sr d) := by
  intro hw r hr; obtain rfl : (encW h 0x0E5 1 sr (mkW1 false 0 0 0 d.bits) 0) = r := Option.some.inj hr
  refine ⟨lenOk_W rfl, ?_⟩
  refine (buildUnif_at 21 rfl (by decide)).trans ?_
  show some (let r : Raw := (encW h 0x0E5 1 sr (mkW1 false 0 0 0 d.bits) 0); Instr.srdsr r.h r.mod8 (.ofBits r.d)) = _
  simp [*]
theorem RoundTrip.swrsr (h : Hdr) (sr : BitVec 8) (b : SrcB) : RoundTrip.Statement (.swrsr h sr b) := by
  intro hw r hr; obtain rfl : (encW h 0x0E6 1 sr (mkW1 b.isImm 0 b.bits9 0 0) 0) = r := Option.some.inj hr
  replace hw : (h.ok && !b.isImm32) = true := hw
  simp only [Bool.and_eq_true, Bool.not_eq_true'] at hw
  refine ⟨lenOk_W rfl, ?_⟩
  refine (buildUnif_at 22 rfl (by decide)).trans ?_
  show some (let r : Raw := (encW h 0x0E6 1 sr (mkW1 b.isImm 0 b.bits9 0 0) 0); Instr.swrsr r.h r.mod8 r.srcB) = _
  simp [*]
theorem RoundTrip.bra (h : Hdr) (any : Bool) (off : BitVec 27) : RoundTrip.Statement (.bra h any off) := by
  intro hw r hr; obtain rfl : (encOff27 h 0x0F0 (bit8 0 any) off) = r := Option.some.inj hr
  refine ⟨lenOk_Off27 rfl, ?_⟩
  refine (buildCtrl_at 0 rfl (by decide)).trans ?_
  show some (let r : Raw := (encOff27 h 0x0F0 (bit8 0 any) off); Instr.bra r.h (r.mod8.getLsbD 0) r.off27) = _
  simp [*]
theorem RoundTrip.braDivergent (h : Hdr) (off : BitVec 27) (rc : BitVec 23) : RoundTrip.Statement (.braDivergent h off rc) := by
  intro hw r hr; obtain rfl : (encW h 0x0F0 2 0 (off.setWidth 32) (mkW2 rc 0)) = r := Option.some.inj hr
  refine ⟨lenOk_W rfl, ?_⟩
  refine (buildCtrl_at 0 rfl (by decide)).trans ?_
  show some (let r : Raw := (encW h 0x0F0 2 0 (off.setWidth 32) (mkW2 rc 0)); Instr.braDivergent r.h r.off27 r.imm23) = _
  simp [*]
theorem RoundTrip.brau (h : Hdr) (off : BitVec 27) : RoundTrip.Statement (.brau h off) := by
  intro hw r hr; obtain rfl : (encOff27 h 0x0F1 0 off) = r := Option.some.inj hr
  refine ⟨lenOk_Off27 rfl, ?_⟩
  refine (buildCtrl_at 1 rfl (by decide)).trans ?_
  show some (let r : Raw := (encOff27 h 0x0F1 0 off); Instr.brau r.h r.off27) = _
  simp [*]
theorem RoundTrip.brx (h : Hdr) (a : Opd) : RoundTrip.Statement (.brx h a) := by
  intro hw r hr; obtain rfl : (encW h 0x0F2 1 0 (mkW1 false 0 0 a.bits 0) 0) = r := Option.some.inj hr
  refine ⟨lenOk_W rfl, ?_⟩
  refine (buildCtrl_at 2 rfl (by decide)).trans ?_
  show some (let r : Raw := (encW h 0x0F2 1 0 (mkW1 false 0 0 a.bits 0) 0); Instr.brx r.h (.ofBits r.a)) = _
  simp [*]
theorem RoundTrip.call (h : Hdr) (l : BitVec 6) (off : BitVec 27) : RoundTrip.Statement (.call h l off) := by
  intro hw r hr; obtain rfl : (encOff27 h 0x0F3 (l.setWidth 8) off) = r := Option.some.inj hr
  refine ⟨lenOk_Off27 rfl, ?_⟩
  refine (buildCtrl_at 3 rfl (by decide)).trans ?_
  show some (let r : Raw := (encOff27 h 0x0F3 (l.setWidth 8) off); Instr.call r.h (r.mod8.setWidth 6) r.off27) = _
  simp [*]
theorem RoundTrip.callx (h : Hdr) (l : BitVec 6) (a : Opd) : RoundTrip.Statement (.callx h l a) := by
  intro hw r hr; obtain rfl : (encW h 0x0F4 1 (l.setWidth 8) (mkW1 false 0 0 a.bits 0) 0) = r := Option.some.inj hr
  refine ⟨lenOk_W rfl, ?_⟩
  refine (buildCtrl_at 4 rfl (by decide)).trans ?_
  show some (let r : Raw := (encW h 0x0F4 1 (l.setWidth 8) (mkW1 false 0 0 a.bits 0) 0); Instr.callx r.h (r.mod8.setWidth 6) (.ofBits r.a)) = _
  simp [*]
theorem RoundTrip.ret (h : Hdr) (l : BitVec 6) : RoundTrip.Statement (.ret h l) := by
  intro hw r hr; obtain rfl : (encW h 0x0F5 0 (l.setWidth 8) 0 0) = r := Option.some.inj hr
  refine ⟨lenOk_W rfl, ?_⟩
  refine (buildCtrl_at 5 rfl (by decide)).trans ?_
  show some (let r : Raw := (encW h 0x0F5 0 (l.setWidth 8) 0 0); Instr.ret r.h (r.mod8.setWidth 6)) = _
  simp [*]
theorem RoundTrip.join (h : Hdr) : RoundTrip.Statement (.join h) := by
  intro hw r hr; obtain rfl : (encW h 0x0F6 0 0 0 0) = r := Option.some.inj hr
  refine ⟨lenOk_W rfl, ?_⟩
  refine (buildCtrl_at 6 rfl (by decide)).trans ?_
  show some (let r : Raw := (encW h 0x0F6 0 0 0 0); Instr.join r.h) = _
  simp [*]
theorem RoundTrip.loop (h : Hdr) (c : BitVec 6) (off : BitVec 27) : RoundTrip.Statement (.loop h c off) := by
  intro hw r hr; obtain rfl : (encOff27 h 0x0F7 (c.setWidth 8) off) = r := Option.some.inj hr
  refine ⟨lenOk_Off27 rfl, ?_⟩
  refine (buildCtrl_at 7 rfl (by decide)).trans ?_
  show some (let r : Raw := (encOff27 h 0x0F7 (c.setWidth 8) off); Instr.loop r.h (r.mod8.setWidth 6) r.off27) = _
  simp [*]
theorem RoundTrip.exit (h : Hdr) : RoundTrip.Statement (.exit h) := by
  intro hw r hr; obtain rfl : (encW h 0x0F8 0 0 0 0) = r := Option.some.inj hr
  refine ⟨lenOk_W rfl, ?_⟩
  refine (buildCtrl_at 8 rfl (by decide)).trans ?_
  show some (let r : Raw := (encW h 0x0F8 0 0 0 0); Instr.exit r.h) = _
  simp [*]
theorem RoundTrip.nop (h : Hdr) : RoundTrip.Statement (.nop h) := by
  intro hw r hr; obtain rfl : (encW h 0x0F9 0 0 0 0) = r := Option.some.inj hr
  refine ⟨lenOk_W rfl, ?_⟩
  refine (buildCtrl_at 9 rfl (by decide)).trans ?_
  show some (let r : Raw := (encW h 0x0F9 0 0 0 0); Instr.nop r.h) = _
  simp [*]
theorem RoundTrip.yield (h : Hdr) : RoundTrip.Statement (.yield h) := by
  intro hw r hr; obtain rfl : (encW h 0x0FA 0 0 0 0) = r := Option.some.inj hr
  refine ⟨lenOk_W rfl, ?_⟩
  refine (buildCtrl_at 10 rfl (by decide)).trans ?_
  show some (let r : Raw := (encW h 0x0FA 0 0 0 0); Instr.yield r.h) = _
  simp [*]
theorem RoundTrip.trap (h : Hdr) (code : BitVec 8) : RoundTrip.Statement (.trap h code) := by
  intro hw r hr; obtain rfl : (encW h 0x0FB 0 code 0 0) = r := Option.some.inj hr
  refine ⟨lenOk_W rfl, ?_⟩
  refine (buildCtrl_at 11 rfl (by decide)).trans ?_
  show some (let r : Raw := (encW h 0x0FB 0 code 0 0); Instr.trap r.h r.mod8) = _
  simp [*]
theorem RoundTrip.bkpt (h : Hdr) (code : BitVec 8) : RoundTrip.Statement (.bkpt h code) := by
  intro hw r hr; obtain rfl : (encW h 0x0FC 0 code 0 0) = r := Option.some.inj hr
  refine ⟨lenOk_W rfl, ?_⟩
  refine (buildCtrl_at 12 rfl (by decide)).trans ?_
  show some (let r : Raw := (encW h 0x0FC 0 code 0 0); Instr.bkpt r.h r.mod8) = _
  simp [*]
theorem RoundTrip.tret (h : Hdr) : RoundTrip.Statement (.tret h) := by
  intro hw r hr; obtain rfl : (encW h 0x0FD 0 0 0 0) = r := Option.some.inj hr
  refine ⟨lenOk_W rfl, ?_⟩
  refine (buildCtrl_at 13 rfl (by decide)).trans ?_
  show some (let r : Raw := (encW h 0x0FD 0 0 0 0); Instr.tret r.h) = _
  simp [*]
theorem RoundTrip.tretSkip (h : Hdr) : RoundTrip.Statement (.tretSkip h) := by
  intro hw r hr; obtain rfl : (encW h 0x0FD 0 1 0 0) = r := Option.some.inj hr
  refine ⟨lenOk_W rfl, ?_⟩
  refine (buildCtrl_at 13 rfl (by decide)).trans ?_
  show some (let r : Raw := (encW h 0x0FD 0 1 0 0); Instr.tretSkip r.h) = _
  simp [*]
theorem RoundTrip.mark (h : Hdr) (code : BitVec 8) : RoundTrip.Statement (.mark h code) := by
  intro hw r hr; obtain rfl : (encW h 0x0FE 0 code 0 0) = r := Option.some.inj hr
  refine ⟨lenOk_W rfl, ?_⟩
  refine (buildCtrl_at 14 rfl (by decide)).trans ?_
  show some (let r : Raw := (encW h 0x0FE 0 code 0 0); Instr.mark r.h r.mod8) = _
  simp [*]
theorem RoundTrip.markImm (h : Hdr) (code : BitVec 8) (imm : Word) : RoundTrip.Statement (.markImm h code imm) := by
  intro hw r hr; obtain rfl : (encW h 0x0FE 2 code 0 imm) = r := Option.some.inj hr
  refine ⟨lenOk_W rfl, ?_⟩
  refine (buildCtrl_at 14 rfl (by decide)).trans ?_
  show some (let r : Raw := (encW h 0x0FE 2 code 0 imm); Instr.markImm r.h r.mod8 r.w2) = _
  simp [*]
theorem RoundTrip.ldg (h : Hdr) (m : MemMods) (d : Opd) (adr : Addr) : RoundTrip.Statement (.ldg h m d adr) := by
  intro hw r hr; obtain rfl : (encMem h 0x100 m.bits m.cv d adr) = r := Option.some.inj hr
  replace hw : (h.ok && m.okLoad && adr.ok) = true := hw
  simp only [Bool.and_eq_true] at hw
  refine ⟨lenOk_Mem rfl rfl, ?_⟩
  refine (buildMem_at 0 rfl (by decide)).trans ?_
  show some (let r : Raw := (encMem h 0x100 m.bits m.cv d adr); Instr.ldg r.h r.memMods (.ofBits r.d) r.addr) = _
  simp [*]
theorem RoundTrip.ldgNc (h : Hdr) (m : MemMods) (d : Opd) (adr : Addr) : RoundTrip.Statement (.ldgNc h m d adr) := by
  intro hw r hr; obtain rfl : (encMem h 0x101 m.bits m.cv d adr) = r := Option.some.inj hr
  replace hw : (h.ok && m.okLoad && adr.ok) = true := hw
  simp only [Bool.and_eq_true] at hw
  refine ⟨lenOk_Mem rfl rfl, ?_⟩
  refine (buildMem_at 1 rfl (by decide)).trans ?_
  show some (let r : Raw := (encMem h 0x101 m.bits m.cv d adr); Instr.ldgNc r.h r.memMods (.ofBits r.d) r.addr) = _
  simp [*]
theorem RoundTrip.ldacq (h : Hdr) (vsz : BitVec 3) (sc : BitVec 3) (d : Opd) (adr : Addr) : RoundTrip.Statement (.ldacq h vsz sc d adr) := by
  intro hw r hr; obtain rfl : (encMem h 0x102 (vsz ++ (0 : BitVec 2) ++ sc) false d adr) = r := Option.some.inj hr
  replace hw : (h.ok && decide (vsz.toNat < 2) && decide (sc.toNat < 6) && adr.ok) = true := hw
  simp only [Bool.and_eq_true, decide_eq_true_eq] at hw
  refine ⟨lenOk_Mem rfl rfl, ?_⟩
  refine (buildMem_at 2 rfl (by decide)).trans ?_
  show some (let r : Raw := (encMem h 0x102 (vsz ++ (0 : BitVec 2) ++ sc) false d adr); Instr.ldacq r.h (r.mod8.extractLsb' 5 3) (r.mod8.setWidth 3) (.ofBits r.d) r.addr) = _
  simp [*]; clear hr hw; decide +revert
theorem RoundTrip.ldb (h : Hdr) (m : MemMods) (d : Opd) (adr : Addr) : RoundTrip.Statement (.ldb h m d adr) := by
  intro hw r hr; obtain rfl : (encMem h 0x103 m.bits m.cv d adr) = r := Option.some.inj hr
  replace hw : (h.ok && m.okLoad && adr.ok) = true := hw
  simp only [Bool.and_eq_true] at hw
  refine ⟨lenOk_Mem rfl rfl, ?_⟩
  refine (buildMem_at 3 rfl (by decide)).trans ?_
  show some (let r : Raw := (encMem h 0x103 m.bits m.cv d adr); Instr.ldb r.h r.memMods (.ofBits r.d) r.addr) = _
  simp [*]
theorem RoundTrip.stg (h : Hdr) (m : MemMods) (d : Opd) (adr : Addr) : RoundTrip.Statement (.stg h m d adr) := by
  intro hw r hr; obtain rfl : (encMem h 0x104 m.bits m.cv d adr) = r := Option.some.inj hr
  replace hw : (h.ok && m.okLoad && adr.ok) = true := hw
  simp only [Bool.and_eq_true] at hw
  refine ⟨lenOk_Mem rfl rfl, ?_⟩
  refine (buildMem_at 4 rfl (by decide)).trans ?_
  show some (let r : Raw := (encMem h 0x104 m.bits m.cv d adr); Instr.stg r.h r.memMods (.ofBits r.d) r.addr) = _
  simp [*]
theorem RoundTrip.strel (h : Hdr) (vsz : BitVec 3) (sc : BitVec 3) (d : Opd) (adr : Addr) : RoundTrip.Statement (.strel h vsz sc d adr) := by
  intro hw r hr; obtain rfl : (encMem h 0x105 (vsz ++ (0 : BitVec 2) ++ sc) false d adr) = r := Option.some.inj hr
  replace hw : (h.ok && decide (vsz.toNat < 2) && decide (sc.toNat < 6) && adr.ok) = true := hw
  simp only [Bool.and_eq_true, decide_eq_true_eq] at hw
  refine ⟨lenOk_Mem rfl rfl, ?_⟩
  refine (buildMem_at 5 rfl (by decide)).trans ?_
  show some (let r : Raw := (encMem h 0x105 (vsz ++ (0 : BitVec 2) ++ sc) false d adr); Instr.strel r.h (r.mod8.extractLsb' 5 3) (r.mod8.setWidth 3) (.ofBits r.d) r.addr) = _
  simp [*]; clear hr hw; decide +revert
theorem RoundTrip.lds (h : Hdr) (m : MemMods) (d : Opd) (adr : Addr) : RoundTrip.Statement (.lds h m d adr) := by
  intro hw r hr; obtain rfl : (encMem h 0x106 m.bits m.cv d adr) = r := Option.some.inj hr
  replace hw : (h.ok && m.okLoad && adr.ok) = true := hw
  simp only [Bool.and_eq_true] at hw
  refine ⟨lenOk_Mem rfl rfl, ?_⟩
  refine (buildMem_at 6 rfl (by decide)).trans ?_
  show some (let r : Raw := (encMem h 0x106 m.bits m.cv d adr); Instr.lds r.h r.memMods (.ofBits r.d) r.addr) = _
  simp [*]
theorem RoundTrip.ldsX (h : Hdr) (vsz : BitVec 3) (swz : BitVec 2) (d : Opd) (adr : Addr) : RoundTrip.Statement (.ldsX h vsz swz d adr) := by
  intro hw r hr; obtain rfl : (encMem h 0x107 (vsz ++ (0 : BitVec 3) ++ swz) false d adr) = r := Option.some.inj hr
  replace hw : (h.ok && decide (vsz.toNat < 3) && swz != 0 && adr.ok) = true := hw
  simp only [Bool.and_eq_true, decide_eq_true_eq] at hw
  refine ⟨lenOk_Mem rfl rfl, ?_⟩
  refine (buildMem_at 7 rfl (by decide)).trans ?_
  show some (let r : Raw := (encMem h 0x107 (vsz ++ (0 : BitVec 3) ++ swz) false d adr); Instr.ldsX r.h (r.mod8.extractLsb' 5 3) (r.mod8.setWidth 2) (.ofBits r.d) r.addr) = _
  simp [*]; clear hr hw; decide +revert
theorem RoundTrip.sts (h : Hdr) (m : MemMods) (d : Opd) (adr : Addr) : RoundTrip.Statement (.sts h m d adr) := by
  intro hw r hr; obtain rfl : (encMem h 0x108 m.bits m.cv d adr) = r := Option.some.inj hr
  replace hw : (h.ok && m.okLoad && adr.ok) = true := hw
  simp only [Bool.and_eq_true] at hw
  refine ⟨lenOk_Mem rfl rfl, ?_⟩
  refine (buildMem_at 8 rfl (by decide)).trans ?_
  show some (let r : Raw := (encMem h 0x108 m.bits m.cv d adr); Instr.sts r.h r.memMods (.ofBits r.d) r.addr) = _
  simp [*]
theorem RoundTrip.ldc (h : Hdr) (m : MemMods) (d : Opd) (adr : Addr) : RoundTrip.Statement (.ldc h m d adr) := by
  intro hw r hr; obtain rfl : (encMem h 0x109 m.bits m.cv d adr) = r := Option.some.inj hr
  replace hw : (h.ok && m.okLoad && !m.cv && adr.ok) = true := hw
  simp only [Bool.and_eq_true, Bool.not_eq_true'] at hw
  refine ⟨lenOk_Mem rfl rfl, ?_⟩
  refine (buildMem_at 9 rfl (by decide)).trans ?_
  show some (let r : Raw := (encMem h 0x109 m.bits m.cv d adr); Instr.ldc r.h r.memMods (.ofBits r.d) r.addr) = _
  simp [hw.2]
theorem RoundTrip.ldl (h : Hdr) (m : MemMods) (d : Opd) (adr : Addr) : RoundTrip.Statement (.ldl h m d adr) := by
  intro hw r hr; obtain rfl : (encMem h 0x10A m.bits m.cv d adr) = r := Option.some.inj hr
  replace hw : (h.ok && m.okLoad && adr.ok) = true := hw
  simp only [Bool.and_eq_true] at hw
  refine ⟨lenOk_Mem rfl rfl, ?_⟩
  refine (buildMem_at 10 rfl (by decide)).trans ?_
  show some (let r : Raw := (encMem h 0x10A m.bits m.cv d adr); Instr.ldl r.h r.memMods (.ofBits r.d) r.addr) = _
  simp [*]
theorem RoundTrip.stl (h : Hdr) (m : MemMods) (d : Opd) (adr : Addr) : RoundTrip.Statement (.stl h m d adr) := by
  intro hw r hr; obtain rfl : (encMem h 0x10B m.bits m.cv d adr) = r := Option.some.inj hr
  replace hw : (h.ok && m.okLoad && adr.ok) = true := hw
  simp only [Bool.and_eq_true] at hw
  refine ⟨lenOk_Mem rfl rfl, ?_⟩
  refine (buildMem_at 11 rfl (by decide)).trans ?_
  show some (let r : Raw := (encMem h 0x10B m.bits m.cv d adr); Instr.stl r.h r.memMods (.ofBits r.d) r.addr) = _
  simp [*]
theorem RoundTrip.atomg (h : Hdr) (op : AtomOp) (m : AtomMods) (d : Opd) (x : AtomArg) : RoundTrip.Statement (.atomg h op m d x) := by
  cases op with
  | add =>
    intro hw r hr; obtain rfl : (encAtom h 0x10C m.bits d x) = r := Option.some.inj hr
    replace hw : (h.ok && m.okAtomg AtomOp.add && x.ok) = true := hw
    simp only [Bool.and_eq_true] at hw
    refine ⟨lenOk_Atom rfl rfl, ?_⟩
    refine (buildMem_at 12 (by rw [encAtom_opc]; rfl) (by decide)).trans ?_
    show some (let r : Raw := (encAtom h 0x10C m.bits d x); Instr.atomg r.h .add (.ofBits r.mod8) (.ofBits r.d) r.atomArg) = _
    simp [*]
  | min =>
    intro hw r hr; obtain rfl : (encAtom h 0x10D m.bits d x) = r := Option.some.inj hr
    replace hw : (h.ok && m.okAtomg AtomOp.min && x.ok) = true := hw
    simp only [Bool.and_eq_true] at hw
    refine ⟨lenOk_Atom rfl rfl, ?_⟩
    refine (buildMem_at 13 (by rw [encAtom_opc]; rfl) (by decide)).trans ?_
    show some (let r : Raw := (encAtom h 0x10D m.bits d x); Instr.atomg r.h .min (.ofBits r.mod8) (.ofBits r.d) r.atomArg) = _
    simp [*]
  | max =>
    intro hw r hr; obtain rfl : (encAtom h 0x10E m.bits d x) = r := Option.some.inj hr
    replace hw : (h.ok && m.okAtomg AtomOp.max && x.ok) = true := hw
    simp only [Bool.and_eq_true] at hw
    refine ⟨lenOk_Atom rfl rfl, ?_⟩
    refine (buildMem_at 14 (by rw [encAtom_opc]; rfl) (by decide)).trans ?_
    show some (let r : Raw := (encAtom h 0x10E m.bits d x); Instr.atomg r.h .max (.ofBits r.mod8) (.ofBits r.d) r.atomArg) = _
    simp [*]
  | and =>
    intro hw r hr; obtain rfl : (encAtom h 0x10F m.bits d x) = r := Option.some.inj hr
    replace hw : (h.ok && m.okAtomg AtomOp.and && x.ok) = true := hw
    simp only [Bool.and_eq_true] at hw
    refine ⟨lenOk_Atom rfl rfl, ?_⟩
    refine (buildMem_at 15 (by rw [encAtom_opc]; rfl) (by decide)).trans ?_
    show some (let r : Raw := (encAtom h 0x10F m.bits d x); Instr.atomg r.h .and (.ofBits r.mod8) (.ofBits r.d) r.atomArg) = _
    simp [*]
  | or =>
    intro hw r hr; obtain rfl : (encAtom h 0x110 m.bits d x) = r := Option.some.inj hr
    replace hw : (h.ok && m.okAtomg AtomOp.or && x.ok) = true := hw
    simp only [Bool.and_eq_true] at hw
    refine ⟨lenOk_Atom rfl rfl, ?_⟩
    refine (buildMem_at 16 (by rw [encAtom_opc]; rfl) (by decide)).trans ?_
    show some (let r : Raw := (encAtom h 0x110 m.bits d x); Instr.atomg r.h .or (.ofBits r.mod8) (.ofBits r.d) r.atomArg) = _
    simp [*]
  | xor =>
    intro hw r hr; obtain rfl : (encAtom h 0x111 m.bits d x) = r := Option.some.inj hr
    replace hw : (h.ok && m.okAtomg AtomOp.xor && x.ok) = true := hw
    simp only [Bool.and_eq_true] at hw
    refine ⟨lenOk_Atom rfl rfl, ?_⟩
    refine (buildMem_at 17 (by rw [encAtom_opc]; rfl) (by decide)).trans ?_
    show some (let r : Raw := (encAtom h 0x111 m.bits d x); Instr.atomg r.h .xor (.ofBits r.mod8) (.ofBits r.d) r.atomArg) = _
    simp [*]
  | exch =>
    intro hw r hr; obtain rfl : (encAtom h 0x112 m.bits d x) = r := Option.some.inj hr
    replace hw : (h.ok && m.okAtomg AtomOp.exch && x.ok) = true := hw
    simp only [Bool.and_eq_true] at hw
    refine ⟨lenOk_Atom rfl rfl, ?_⟩
    refine (buildMem_at 18 (by rw [encAtom_opc]; rfl) (by decide)).trans ?_
    show some (let r : Raw := (encAtom h 0x112 m.bits d x); Instr.atomg r.h .exch (.ofBits r.mod8) (.ofBits r.d) r.atomArg) = _
    simp [*]
  | inc =>
    intro hw r hr; obtain rfl : (encAtom h 0x114 m.bits d x) = r := Option.some.inj hr
    replace hw : (h.ok && m.okAtomg AtomOp.inc && x.ok) = true := hw
    simp only [Bool.and_eq_true] at hw
    refine ⟨lenOk_Atom rfl rfl, ?_⟩
    refine (buildMem_at 20 (by rw [encAtom_opc]; rfl) (by decide)).trans ?_
    show some (let r : Raw := (encAtom h 0x114 m.bits d x); Instr.atomg r.h .inc (.ofBits r.mod8) (.ofBits r.d) r.atomArg) = _
    simp [*]
  | dec =>
    intro hw r hr; obtain rfl : (encAtom h 0x115 m.bits d x) = r := Option.some.inj hr
    replace hw : (h.ok && m.okAtomg AtomOp.dec && x.ok) = true := hw
    simp only [Bool.and_eq_true] at hw
    refine ⟨lenOk_Atom rfl rfl, ?_⟩
    refine (buildMem_at 21 (by rw [encAtom_opc]; rfl) (by decide)).trans ?_
    show some (let r : Raw := (encAtom h 0x115 m.bits d x); Instr.atomg r.h .dec (.ofBits r.mod8) (.ofBits r.d) r.atomArg) = _
    simp [*]
  | fadd =>
    intro hw r hr; obtain rfl : (encAtom h 0x116 m.bits d x) = r := Option.some.inj hr
    replace hw : (h.ok && m.okAtomg AtomOp.fadd && x.ok) = true := hw
    simp only [Bool.and_eq_true] at hw
    refine ⟨lenOk_Atom rfl rfl, ?_⟩
    refine (buildMem_at 22 (by rw [encAtom_opc]; rfl) (by decide)).trans ?_
    show some (let r : Raw := (encAtom h 0x116 m.bits d x); Instr.atomg r.h .fadd (.ofBits r.mod8) (.ofBits r.d) r.atomArg) = _
    simp [*]
theorem RoundTrip.atomgCas (h : Hdr) (m : AtomMods) (d : Opd) (base : Opd) (cmp : SrcB) (new : Opd) (off : BitVec 23) : RoundTrip.Statement (.atomgCas h m d base cmp new off) := by
  intro hw r hr; obtain rfl : (encW h 0x113 2 m.bits (mkW1 cmp.isImm 0 cmp.bits9 base.bits d.bits) (mkW2 off new.bits)) = r := Option.some.inj hr
  replace hw : (h.ok && m.okAtomg .exch && !cmp.isImm32) = true := hw
  simp only [Bool.and_eq_true, Bool.not_eq_true'] at hw
  refine ⟨lenOk_W rfl, ?_⟩
  refine (buildMem_at 19 rfl (by decide)).trans ?_
  show some (let r : Raw := (encW h 0x113 2 m.bits (mkW1 cmp.isImm 0 cmp.bits9 base.bits d.bits) (mkW2 off new.bits)); Instr.atomgCas r.h (.ofBits r.mod8) (.ofBits r.d) (.ofBits r.a) r.srcB (.ofBits r.c) r.imm23) = _
  simp [*]
theorem RoundTrip.atoms (h : Hdr) (op : AtomOp) (m : AtomMods) (d : Opd) (x : AtomArg) : RoundTrip.Statement (.atoms h op m d x) := by
  cases op with
  | add =>
    intro hw r hr; obtain rfl : (encAtom h 0x117 m.bits d x) = r := Option.some.inj hr
    replace hw : (h.ok && m.okAtoms AtomOp.add && x.ok) = true := hw
    simp only [Bool.and_eq_true] at hw
    refine ⟨lenOk_Atom rfl rfl, ?_⟩
    refine (buildMem_at 23 (by rw [encAtom_opc]; rfl) (by decide)).trans ?_
    show some (let r : Raw := (encAtom h 0x117 m.bits d x); Instr.atoms r.h .add (.ofBits r.mod8) (.ofBits r.d) r.atomArg) = _
    simp [*]
  | min =>
    intro hw r hr; obtain rfl : (encAtom h 0x118 m.bits d x) = r := Option.some.inj hr
    replace hw : (h.ok && m.okAtoms AtomOp.min && x.ok) = true := hw
    simp only [Bool.and_eq_true] at hw
    refine ⟨lenOk_Atom rfl rfl, ?_⟩
    refine (buildMem_at 24 (by rw [encAtom_opc]; rfl) (by decide)).trans ?_
    show some (let r : Raw := (encAtom h 0x118 m.bits d x); Instr.atoms r.h .min (.ofBits r.mod8) (.ofBits r.d) r.atomArg) = _
    simp [*]
  | max =>
    intro hw r hr; obtain rfl : (encAtom h 0x119 m.bits d x) = r := Option.some.inj hr
    replace hw : (h.ok && m.okAtoms AtomOp.max && x.ok) = true := hw
    simp only [Bool.and_eq_true] at hw
    refine ⟨lenOk_Atom rfl rfl, ?_⟩
    refine (buildMem_at 25 (by rw [encAtom_opc]; rfl) (by decide)).trans ?_
    show some (let r : Raw := (encAtom h 0x119 m.bits d x); Instr.atoms r.h .max (.ofBits r.mod8) (.ofBits r.d) r.atomArg) = _
    simp [*]
  | and =>
    intro hw r hr; obtain rfl : (encAtom h 0x11A m.bits d x) = r := Option.some.inj hr
    replace hw : (h.ok && m.okAtoms AtomOp.and && x.ok) = true := hw
    simp only [Bool.and_eq_true] at hw
    refine ⟨lenOk_Atom rfl rfl, ?_⟩
    refine (buildMem_at 26 (by rw [encAtom_opc]; rfl) (by decide)).trans ?_
    show some (let r : Raw := (encAtom h 0x11A m.bits d x); Instr.atoms r.h .and (.ofBits r.mod8) (.ofBits r.d) r.atomArg) = _
    simp [*]
  | or =>
    intro hw r hr; obtain rfl : (encAtom h 0x11B m.bits d x) = r := Option.some.inj hr
    replace hw : (h.ok && m.okAtoms AtomOp.or && x.ok) = true := hw
    simp only [Bool.and_eq_true] at hw
    refine ⟨lenOk_Atom rfl rfl, ?_⟩
    refine (buildMem_at 27 (by rw [encAtom_opc]; rfl) (by decide)).trans ?_
    show some (let r : Raw := (encAtom h 0x11B m.bits d x); Instr.atoms r.h .or (.ofBits r.mod8) (.ofBits r.d) r.atomArg) = _
    simp [*]
  | xor =>
    intro hw r hr; obtain rfl : (encAtom h 0x11C m.bits d x) = r := Option.some.inj hr
    replace hw : (h.ok && m.okAtoms AtomOp.xor && x.ok) = true := hw
    simp only [Bool.and_eq_true] at hw
    refine ⟨lenOk_Atom rfl rfl, ?_⟩
    refine (buildMem_at 28 (by rw [encAtom_opc]; rfl) (by decide)).trans ?_
    show some (let r : Raw := (encAtom h 0x11C m.bits d x); Instr.atoms r.h .xor (.ofBits r.mod8) (.ofBits r.d) r.atomArg) = _
    simp [*]
  | exch =>
    intro hw r hr; obtain rfl : (encAtom h 0x11D m.bits d x) = r := Option.some.inj hr
    replace hw : (h.ok && m.okAtoms AtomOp.exch && x.ok) = true := hw
    simp only [Bool.and_eq_true] at hw
    refine ⟨lenOk_Atom rfl rfl, ?_⟩
    refine (buildMem_at 29 (by rw [encAtom_opc]; rfl) (by decide)).trans ?_
    show some (let r : Raw := (encAtom h 0x11D m.bits d x); Instr.atoms r.h .exch (.ofBits r.mod8) (.ofBits r.d) r.atomArg) = _
    simp [*]
  | inc =>
    intro hw r hr; obtain rfl : (encAtom h 0x11F m.bits d x) = r := Option.some.inj hr
    replace hw : (h.ok && m.okAtoms AtomOp.inc && x.ok) = true := hw
    simp only [Bool.and_eq_true] at hw
    refine ⟨lenOk_Atom rfl rfl, ?_⟩
    refine (buildMem_at 31 (by rw [encAtom_opc]; rfl) (by decide)).trans ?_
    show some (let r : Raw := (encAtom h 0x11F m.bits d x); Instr.atoms r.h .inc (.ofBits r.mod8) (.ofBits r.d) r.atomArg) = _
    simp [*]
  | dec =>
    intro hw r hr; obtain rfl : (encAtom h 0x120 m.bits d x) = r := Option.some.inj hr
    replace hw : (h.ok && m.okAtoms AtomOp.dec && x.ok) = true := hw
    simp only [Bool.and_eq_true] at hw
    refine ⟨lenOk_Atom rfl rfl, ?_⟩
    refine (buildMem_at 32 (by rw [encAtom_opc]; rfl) (by decide)).trans ?_
    show some (let r : Raw := (encAtom h 0x120 m.bits d x); Instr.atoms r.h .dec (.ofBits r.mod8) (.ofBits r.d) r.atomArg) = _
    simp [*]
  | fadd =>
    intro hw r hr; obtain rfl : (encAtom h 0x121 m.bits d x) = r := Option.some.inj hr
    replace hw : (h.ok && m.okAtoms AtomOp.fadd && x.ok) = true := hw
    simp only [Bool.and_eq_true] at hw
    refine ⟨lenOk_Atom rfl rfl, ?_⟩
    refine (buildMem_at 33 (by rw [encAtom_opc]; rfl) (by decide)).trans ?_
    show some (let r : Raw := (encAtom h 0x121 m.bits d x); Instr.atoms r.h .fadd (.ofBits r.mod8) (.ofBits r.d) r.atomArg) = _
    simp [*]
theorem RoundTrip.atomsCas (h : Hdr) (m : AtomMods) (d : Opd) (base : Opd) (cmp : SrcB) (new : Opd) (off : BitVec 23) : RoundTrip.Statement (.atomsCas h m d base cmp new off) := by
  intro hw r hr; obtain rfl : (encW h 0x11E 2 m.bits (mkW1 cmp.isImm 0 cmp.bits9 base.bits d.bits) (mkW2 off new.bits)) = r := Option.some.inj hr
  replace hw : (h.ok && m.okAtoms .exch && !cmp.isImm32) = true := hw
  simp only [Bool.and_eq_true, Bool.not_eq_true'] at hw
  refine ⟨lenOk_W rfl, ?_⟩
  refine (buildMem_at 30 rfl (by decide)).trans ?_
  show some (let r : Raw := (encW h 0x11E 2 m.bits (mkW1 cmp.isImm 0 cmp.bits9 base.bits d.bits) (mkW2 off new.bits)); Instr.atomsCas r.h (.ofBits r.mod8) (.ofBits r.d) (.ofBits r.a) r.srcB (.ofBits r.c) r.imm23) = _
  simp [*]
theorem RoundTrip.redg (h : Hdr) (op : AtomOp) (m : AtomMods) (x : AtomArg) : RoundTrip.Statement (.redg h op m x) := by
  cases op with
  | add =>
    intro hw r hr; obtain rfl : (encAtom h 0x122 m.bits (.v 0) x) = r := Option.some.inj hr
    replace hw : (h.ok && m.okRedg AtomOp.add && x.ok) = true := hw
    simp only [Bool.and_eq_true] at hw
    refine ⟨lenOk_Atom rfl rfl, ?_⟩
    refine (buildMem_at 34 (by rw [encAtom_opc]; rfl) (by decide)).trans ?_
    show some (let r : Raw := (encAtom h 0x122 m.bits (.v 0) x); Instr.redg r.h .add (.ofBits r.mod8) r.atomArg) = _
    simp [*]
  | min =>
    intro hw r hr; obtain rfl : (encAtom h 0x123 m.bits (.v 0) x) = r := Option.some.inj hr
    replace hw : (h.ok && m.okRedg AtomOp.min && x.ok) = true := hw
    simp only [Bool.and_eq_true] at hw
    refine ⟨lenOk_Atom rfl rfl, ?_⟩
    refine (buildMem_at 35 (by rw [encAtom_opc]; rfl) (by decide)).trans ?_
    show some (let r : Raw := (encAtom h 0x123 m.bits (.v 0) x); Instr.redg r.h .min (.ofBits r.mod8) r.atomArg) = _
    simp [*]
  | max =>
    intro hw r hr; obtain rfl : (encAtom h 0x124 m.bits (.v 0) x) = r := Option.some.inj hr
    replace hw : (h.ok && m.okRedg AtomOp.max && x.ok) = true := hw
    simp only [Bool.and_eq_true] at hw
    refine ⟨lenOk_Atom rfl rfl, ?_⟩
    refine (buildMem_at 36 (by rw [encAtom_opc]; rfl) (by decide)).trans ?_
    show some (let r : Raw := (encAtom h 0x124 m.bits (.v 0) x); Instr.redg r.h .max (.ofBits r.mod8) r.atomArg) = _
    simp [*]
  | and =>
    intro hw r hr; obtain rfl : (encAtom h 0x125 m.bits (.v 0) x) = r := Option.some.inj hr
    replace hw : (h.ok && m.okRedg AtomOp.and && x.ok) = true := hw
    simp only [Bool.and_eq_true] at hw
    refine ⟨lenOk_Atom rfl rfl, ?_⟩
    refine (buildMem_at 37 (by rw [encAtom_opc]; rfl) (by decide)).trans ?_
    show some (let r : Raw := (encAtom h 0x125 m.bits (.v 0) x); Instr.redg r.h .and (.ofBits r.mod8) r.atomArg) = _
    simp [*]
  | or =>
    intro hw r hr; obtain rfl : (encAtom h 0x126 m.bits (.v 0) x) = r := Option.some.inj hr
    replace hw : (h.ok && m.okRedg AtomOp.or && x.ok) = true := hw
    simp only [Bool.and_eq_true] at hw
    refine ⟨lenOk_Atom rfl rfl, ?_⟩
    refine (buildMem_at 38 (by rw [encAtom_opc]; rfl) (by decide)).trans ?_
    show some (let r : Raw := (encAtom h 0x126 m.bits (.v 0) x); Instr.redg r.h .or (.ofBits r.mod8) r.atomArg) = _
    simp [*]
  | xor =>
    intro hw r hr; obtain rfl : (encAtom h 0x127 m.bits (.v 0) x) = r := Option.some.inj hr
    replace hw : (h.ok && m.okRedg AtomOp.xor && x.ok) = true := hw
    simp only [Bool.and_eq_true] at hw
    refine ⟨lenOk_Atom rfl rfl, ?_⟩
    refine (buildMem_at 39 (by rw [encAtom_opc]; rfl) (by decide)).trans ?_
    show some (let r : Raw := (encAtom h 0x127 m.bits (.v 0) x); Instr.redg r.h .xor (.ofBits r.mod8) r.atomArg) = _
    simp [*]
  | exch => intro hw; exact absurd (show (h.ok && m.okRedg AtomOp.exch && x.ok) = true from hw) (by simp [AtomMods.okRedg])
  | inc => intro hw; exact absurd (show (h.ok && m.okRedg AtomOp.inc && x.ok) = true from hw) (by simp [AtomMods.okRedg])
  | dec => intro hw; exact absurd (show (h.ok && m.okRedg AtomOp.dec && x.ok) = true from hw) (by simp [AtomMods.okRedg])
  | fadd =>
    intro hw r hr; obtain rfl : (encAtom h 0x128 m.bits (.v 0) x) = r := Option.some.inj hr
    replace hw : (h.ok && m.okRedg AtomOp.fadd && x.ok) = true := hw
    simp only [Bool.and_eq_true] at hw
    refine ⟨lenOk_Atom rfl rfl, ?_⟩
    refine (buildMem_at 40 (by rw [encAtom_opc]; rfl) (by decide)).trans ?_
    show some (let r : Raw := (encAtom h 0x128 m.bits (.v 0) x); Instr.redg r.h .fadd (.ofBits r.mod8) r.atomArg) = _
    simp [*]
theorem RoundTrip.bchk (h : Hdr) (off : BitVec 27) : RoundTrip.Statement (.bchk h off) := by
  intro hw r hr; obtain rfl : (encOff27 h 0x129 0 off) = r := Option.some.inj hr
  refine ⟨lenOk_Off27 rfl, ?_⟩
  refine (buildMem_at 41 rfl (by decide)).trans ?_
  show some (let r : Raw := (encOff27 h 0x129 0 off); Instr.bchk r.h r.off27) = _
  simp [*]
theorem RoundTrip.bclr (h : Hdr) : RoundTrip.Statement (.bclr h) := by
  intro hw r hr; obtain rfl : (encW h 0x12A 0 0 0 0) = r := Option.some.inj hr
  refine ⟨lenOk_W rfl, ?_⟩
  refine (buildMem_at 42 rfl (by decide)).trans ?_
  show some (let r : Raw := (encW h 0x12A 0 0 0 0); Instr.bclr r.h) = _
  simp [*]
theorem RoundTrip.fence (h : Hdr) (ord : BitVec 2) (sc : BitVec 3) : RoundTrip.Statement (.fence h ord sc) := by
  intro hw r hr; obtain rfl : (encW h 0x12B 0 (ord ++ sc ++ (0 : BitVec 3)) 0 0) = r := Option.some.inj hr
  refine ⟨lenOk_W rfl, ?_⟩
  refine (buildMem_at 43 rfl (by decide)).trans ?_
  show some (let r : Raw := (encW h 0x12B 0 (ord ++ sc ++ (0 : BitVec 3)) 0 0); Instr.fence r.h (r.mod8.extractLsb' 6 2) (r.mod8.extractLsb' 3 3)) = _
  simp [*]; clear hr hw; decide +revert
theorem RoundTrip.acqr (h : Hdr) (sc : BitVec 3) (b : SrcB) : RoundTrip.Statement (.acqr h sc b) := by
  intro hw r hr; obtain rfl : (encW h 0x12C 1 (sc.setWidth 8 <<< 3) (mkW1 b.isImm 0 b.bits9 0 0) 0) = r := Option.some.inj hr
  replace hw : (h.ok && !b.isImm32 && (sc == 3 || sc == 4)) = true := hw
  simp only [Bool.and_eq_true, Bool.not_eq_true'] at hw
  refine ⟨lenOk_W rfl, ?_⟩
  refine (buildMem_at 44 rfl (by decide)).trans ?_
  show some (let r : Raw := (encW h 0x12C 1 (sc.setWidth 8 <<< 3) (mkW1 b.isImm 0 b.bits9 0 0) 0); Instr.acqr r.h (r.mod8.extractLsb' 3 3) r.srcB) = _
  simp [*]; clear hr hw; decide +revert
theorem RoundTrip.anch (h : Hdr) (d : Opd) (adr : Addr) : RoundTrip.Statement (.anch h d adr) := by
  intro hw r hr; obtain rfl : (encMem h 0x12D 0 false d adr) = r := Option.some.inj hr
  replace hw : (h.ok && adr.ok) = true := hw
  simp only [Bool.and_eq_true] at hw
  refine ⟨lenOk_Mem rfl rfl, ?_⟩
  refine (buildMem_at 45 rfl (by decide)).trans ?_
  show some (let r : Raw := (encMem h 0x12D 0 false d adr); Instr.anch r.h (.ofBits r.d) r.addr) = _
  simp [*]
theorem RoundTrip.await (h : Hdr) : RoundTrip.Statement (.await h) := by
  intro hw r hr; obtain rfl : (encW h 0x12E 0 0 0 0) = r := Option.some.inj hr
  refine ⟨lenOk_W rfl, ?_⟩
  refine (buildMem_at 46 rfl (by decide)).trans ?_
  show some (let r : Raw := (encW h 0x12E 0 0 0 0); Instr.await r.h) = _
  simp [*]
theorem RoundTrip.prefL2 (h : Hdr) (adr : Addr) : RoundTrip.Statement (.prefL2 h adr) := by
  intro hw r hr; obtain rfl : (encMem h 0x12F 0 false (.v 0) adr) = r := Option.some.inj hr
  replace hw : (h.ok && adr.ok) = true := hw
  simp only [Bool.and_eq_true] at hw
  refine ⟨lenOk_Mem rfl rfl, ?_⟩
  refine (buildMem_at 47 rfl (by decide)).trans ?_
  show some (let r : Raw := (encMem h 0x12F 0 false (.v 0) adr); Instr.prefL2 r.h r.addr) = _
  simp [*]
theorem RoundTrip.prefLlc (h : Hdr) (adr : Addr) : RoundTrip.Statement (.prefLlc h adr) := by
  intro hw r hr; obtain rfl : (encMem h 0x130 0 false (.v 0) adr) = r := Option.some.inj hr
  replace hw : (h.ok && adr.ok) = true := hw
  simp only [Bool.and_eq_true] at hw
  refine ⟨lenOk_Mem rfl rfl, ?_⟩
  refine (buildMem_at 48 rfl (by decide)).trans ?_
  show some (let r : Raw := (encMem h 0x130 0 false (.v 0) adr); Instr.prefLlc r.h r.addr) = _
  simp [*]
theorem RoundTrip.gpref (h : Hdr) (adr : Addr) : RoundTrip.Statement (.gpref h adr) := by
  intro hw r hr; obtain rfl : (encMem h 0x131 0 false (.v 0) adr) = r := Option.some.inj hr
  replace hw : (h.ok && adr.ok) = true := hw
  simp only [Bool.and_eq_true] at hw
  refine ⟨lenOk_Mem rfl rfl, ?_⟩
  refine (buildMem_at 49 rfl (by decide)).trans ?_
  show some (let r : Raw := (encMem h 0x131 0 false (.v 0) adr); Instr.gpref r.h r.addr) = _
  simp [*]
theorem RoundTrip.cctlWb (h : Hdr) (all : Bool) (adr : Addr) : RoundTrip.Statement (.cctlWb h all adr) := by
  intro hw r hr; obtain rfl : (encMem h 0x132 (bit8 0 all) false (.v 0) adr) = r := Option.some.inj hr
  replace hw : (h.ok && adr.ok && (!all || adr.isZero)) = true := hw
  simp only [Bool.and_eq_true, Bool.not_eq_true'] at hw
  refine ⟨lenOk_Mem rfl rfl, ?_⟩
  refine (buildMem_at 50 rfl (by decide)).trans ?_
  show some (let r : Raw := (encMem h 0x132 (bit8 0 all) false (.v 0) adr); Instr.cctlWb r.h (r.mod8.getLsbD 0) r.addr) = _
  simp [*]
theorem RoundTrip.cctlInv (h : Hdr) (all : Bool) (adr : Addr) : RoundTrip.Statement (.cctlInv h all adr) := by
  intro hw r hr; obtain rfl : (encMem h 0x133 (bit8 0 all) false (.v 0) adr) = r := Option.some.inj hr
  replace hw : (h.ok && adr.ok && (!all || adr.isZero)) = true := hw
  simp only [Bool.and_eq_true, Bool.not_eq_true'] at hw
  refine ⟨lenOk_Mem rfl rfl, ?_⟩
  refine (buildMem_at 51 rfl (by decide)).trans ?_
  show some (let r : Raw := (encMem h 0x133 (bit8 0 all) false (.v 0) adr); Instr.cctlInv r.h (r.mod8.getLsbD 0) r.addr) = _
  simp [*]
theorem RoundTrip.binit (h : Hdr) (a : Opd) (b : SrcB) : RoundTrip.Statement (.binit h a b) := by
  intro hw r hr; obtain rfl : (encW h 0x140 1 0 (mkW1 b.isImm 0 b.bits9 a.bits 0) 0) = r := Option.some.inj hr
  replace hw : (h.ok && !b.isImm32) = true := hw
  simp only [Bool.and_eq_true, Bool.not_eq_true'] at hw
  refine ⟨lenOk_W rfl, ?_⟩
  refine (buildSync_at 0 rfl (by decide)).trans ?_
  show some (let r : Raw := (encW h 0x140 1 0 (mkW1 b.isImm 0 b.bits9 a.bits 0) 0); Instr.binit r.h (.ofBits r.a) r.srcB) = _
  simp [*]
theorem RoundTrip.barv (h : Hdr) (rd : Bool) (sc : BitVec 3) (d : Opd) (a : Opd) (b : SrcB) : RoundTrip.Statement (.barv h rd sc d a b) := by
  intro hw r hr; obtain rfl : (encW h 0x141 1 ((sc.setWidth 8 <<< 3) ||| bit8 0 rd) (mkW1 b.isImm 0 b.bits9 a.bits d.bits) 0) = r := Option.some.inj hr
  replace hw : (h.ok && !b.isImm32 && decide (sc.toNat < 5) && (rd || d == .v 0)) = true := hw
  simp only [Bool.and_eq_true, Bool.not_eq_true', decide_eq_true_eq] at hw
  refine ⟨lenOk_W rfl, ?_⟩
  refine (buildSync_at 1 rfl (by decide)).trans ?_
  show some (let r : Raw := (encW h 0x141 1 ((sc.setWidth 8 <<< 3) ||| bit8 0 rd) (mkW1 b.isImm 0 b.bits9 a.bits d.bits) 0); Instr.barv r.h (r.mod8.getLsbD 0) (r.mod8.extractLsb' 3 3) (.ofBits r.d) (.ofBits r.a) r.srcB) = _
  simp [*]; clear hr hw; decide +revert
theorem RoundTrip.bexp (h : Hdr) (a : Opd) (b : SrcB) : RoundTrip.Statement (.bexp h a b) := by
  intro hw r hr; obtain rfl : (encW h 0x142 1 0 (mkW1 b.isImm 0 b.bits9 a.bits 0) 0) = r := Option.some.inj hr
  replace hw : (h.ok && !b.isImm32) = true := hw
  simp only [Bool.and_eq_true, Bool.not_eq_true'] at hw
  refine ⟨lenOk_W rfl, ?_⟩
  refine (buildSync_at 2 rfl (by decide)).trans ?_
  show some (let r : Raw := (encW h 0x142 1 0 (mkW1 b.isImm 0 b.bits9 a.bits 0) 0); Instr.bexp r.h (.ofBits r.a) r.srcB) = _
  simp [*]
theorem RoundTrip.btry (h : Hdr) (sc : BitVec 3) (d : Opd) (a : Opd) (b : Opd) : RoundTrip.Statement (.btry h sc d a b) := by
  intro hw r hr; obtain rfl : (encW h 0x143 1 (sc.setWidth 8 <<< 3) (mkW1 false 0 b.bits a.bits d.bits) 0) = r := Option.some.inj hr
  refine ⟨lenOk_W rfl, ?_⟩
  refine (buildSync_at 3 rfl (by decide)).trans ?_
  show some (let r : Raw := (encW h 0x143 1 (sc.setWidth 8 <<< 3) (mkW1 false 0 b.bits a.bits d.bits) 0); Instr.btry r.h (r.mod8.extractLsb' 3 3) (.ofBits r.d) (.ofBits r.a) (.ofBits r.b)) = _
  simp [*]; clear hr hw; decide +revert
theorem RoundTrip.bwait (h : Hdr) (sc : BitVec 3) (a : Opd) (b : Opd) : RoundTrip.Statement (.bwait h sc a b) := by
  intro hw r hr; obtain rfl : (encW h 0x144 1 (sc.setWidth 8 <<< 3) (mkW1 false 0 b.bits a.bits 0) 0) = r := Option.some.inj hr
  refine ⟨lenOk_W rfl, ?_⟩
  refine (buildSync_at 4 rfl (by decide)).trans ?_
  show some (let r : Raw := (encW h 0x144 1 (sc.setWidth 8 <<< 3) (mkW1 false 0 b.bits a.bits 0) 0); Instr.bwait r.h (r.mod8.extractLsb' 3 3) (.ofBits r.a) (.ofBits r.b)) = _
  simp [*]; clear hr hw; decide +revert
theorem RoundTrip.binval (h : Hdr) (a : Opd) : RoundTrip.Statement (.binval h a) := by
  intro hw r hr; obtain rfl : (encW h 0x145 1 0 (mkW1 false 0 0 a.bits 0) 0) = r := Option.some.inj hr
  refine ⟨lenOk_W rfl, ?_⟩
  refine (buildSync_at 5 rfl (by decide)).trans ?_
  show some (let r : Raw := (encW h 0x145 1 0 (mkW1 false 0 0 a.bits 0) 0); Instr.binval r.h (.ofBits r.a)) = _
  simp [*]
theorem RoundTrip.barwg (h : Hdr) (n : BitVec 2) (sc : BitVec 3) : RoundTrip.Statement (.barwg h n sc) := by
  intro hw r hr; obtain rfl : (encW h 0x146 0 ((sc.setWidth 8 <<< 3) ||| n.setWidth 8) 0 0) = r := Option.some.inj hr
  refine ⟨lenOk_W rfl, ?_⟩
  refine (buildSync_at 6 rfl (by decide)).trans ?_
  show some (let r : Raw := (encW h 0x146 0 ((sc.setWidth 8 <<< 3) ||| n.setWidth 8) 0 0); Instr.barwg r.h (r.mod8.setWidth 2) (r.mod8.extractLsb' 3 3)) = _
  simp [*]; clear hr hw; decide +revert
theorem RoundTrip.barrp (h : Hdr) (n : BitVec 2) : RoundTrip.Statement (.barrp h n) := by
  intro hw r hr; obtain rfl : (encW h 0x147 0 (n.setWidth 8) 0 0) = r := Option.some.inj hr
  refine ⟨lenOk_W rfl, ?_⟩
  refine (buildSync_at 7 rfl (by decide)).trans ?_
  show some (let r : Raw := (encW h 0x147 0 (n.setWidth 8) 0 0); Instr.barrp r.h (r.mod8.setWidth 2)) = _
  simp [*]
theorem RoundTrip.qresv (h : Hdr) (pd : BitVec 7) (d : Opd) (a : Opd) (b : SrcB) : RoundTrip.Statement (.qresv h pd d a b) := by
  intro hw r hr; obtain rfl : (encW h 0x148 1 (pd.setWidth 8) (mkW1 b.isImm 0 b.bits9 a.bits d.bits) 0) = r := Option.some.inj hr
  replace hw : (h.ok && !b.isImm32 && pcoOk pd) = true := hw
  simp only [Bool.and_eq_true, Bool.not_eq_true'] at hw
  refine ⟨lenOk_W rfl, ?_⟩
  refine (buildSync_at 8 rfl (by decide)).trans ?_
  show some (let r : Raw := (encW h 0x148 1 (pd.setWidth 8) (mkW1 b.isImm 0 b.bits9 a.bits d.bits) 0); Instr.qresv r.h (r.mod8.setWidth 7) (.ofBits r.d) (.ofBits r.a) r.srcB) = _
  simp [*]
theorem RoundTrip.qput (h : Hdr) (a : Opd) (b : Opd) (c : Opd) : RoundTrip.Statement (.qput h a b c) := by
  intro hw r hr; obtain rfl : (encW h 0x149 2 0 (mkW1 false 0 b.bits a.bits 0) (mkW2 0 c.bits)) = r := Option.some.inj hr
  refine ⟨lenOk_W rfl, ?_⟩
  refine (buildSync_at 9 rfl (by decide)).trans ?_
  show some (let r : Raw := (encW h 0x149 2 0 (mkW1 false 0 b.bits a.bits 0) (mkW2 0 c.bits)); Instr.qput r.h (.ofBits r.a) (.ofBits r.b) (.ofBits r.c)) = _
  simp [*]
theorem RoundTrip.qcommit (h : Hdr) (sc : BitVec 3) (a : Opd) (b : Opd) (d : Opd) : RoundTrip.Statement (.qcommit h sc a b d) := by
  intro hw r hr; obtain rfl : (encW h 0x14A 1 (sc.setWidth 8 <<< 3) (mkW1 false 0 b.bits a.bits d.bits) 0) = r := Option.some.inj hr
  refine ⟨lenOk_W rfl, ?_⟩
  refine (buildSync_at 10 rfl (by decide)).trans ?_
  show some (let r : Raw := (encW h 0x14A 1 (sc.setWidth 8 <<< 3) (mkW1 false 0 b.bits a.bits d.bits) 0); Instr.qcommit r.h (r.mod8.extractLsb' 3 3) (.ofBits r.a) (.ofBits r.b) (.ofBits r.d)) = _
  simp [*]; clear hr hw; decide +revert
theorem RoundTrip.qsig (h : Hdr) (store : Bool) (sc : BitVec 3) (a : Opd) (c : Opd) : RoundTrip.Statement (.qsig h store sc a c) := by
  intro hw r hr; obtain rfl : (encW h 0x14B 2 ((sc.setWidth 8 <<< 3) ||| bit8 0 store) (mkW1 false 0 0 a.bits 0) (mkW2 0 c.bits)) = r := Option.some.inj hr
  refine ⟨lenOk_W rfl, ?_⟩
  refine (buildSync_at 11 rfl (by decide)).trans ?_
  show some (let r : Raw := (encW h 0x14B 2 ((sc.setWidth 8 <<< 3) ||| bit8 0 store) (mkW1 false 0 0 a.bits 0) (mkW2 0 c.bits)); Instr.qsig r.h (r.mod8.getLsbD 0) (r.mod8.extractLsb' 3 3) (.ofBits r.a) (.ofBits r.c)) = _
  simp [*]; clear hr hw; decide +revert
theorem RoundTrip.tcopy (h : Hdr) (tok : BitVec 3) (bar : Bool) (d : Opd) (a : Opd) (b : Opd) (c : Opd) (off : BitVec 23) : RoundTrip.Statement (.tcopy h tok bar d a b c off) := by
  intro hw r hr; obtain rfl : (encW h 0x150 2 (tok8 tok ||| bit8 4 bar) (mkW1 false 0 b.bits a.bits d.bits) (mkW2 off c.bits)) = r := Option.some.inj hr
  refine ⟨lenOk_W rfl, ?_⟩
  refine (buildAsync_at 0 rfl (by decide)).trans ?_
  show some (let r : Raw := (encW h 0x150 2 (tok8 tok ||| bit8 4 bar) (mkW1 false 0 b.bits a.bits d.bits) (mkW2 off c.bits)); Instr.tcopy r.h (r.mod8.extractLsb' 5 3) (r.mod8.getLsbD 4) (.ofBits r.d) (.ofBits r.a) (.ofBits r.b) (.ofBits r.c) r.imm23) = _
  simp [*]; clear hr hw; decide +revert
theorem RoundTrip.tcopys (h : Hdr) (tok : BitVec 3) (bar : Bool) (d : Opd) (a : Opd) (b : Opd) (c : Opd) (off : BitVec 23) : RoundTrip.Statement (.tcopys h tok bar d a b c off) := by
  intro hw r hr; obtain rfl : (encW h 0x151 2 (tok8 tok ||| bit8 4 bar) (mkW1 false 0 b.bits a.bits d.bits) (mkW2 off c.bits)) = r := Option.some.inj hr
  refine ⟨lenOk_W rfl, ?_⟩
  refine (buildAsync_at 1 rfl (by decide)).trans ?_
  show some (let r : Raw := (encW h 0x151 2 (tok8 tok ||| bit8 4 bar) (mkW1 false 0 b.bits a.bits d.bits) (mkW2 off c.bits)); Instr.tcopys r.h (r.mod8.extractLsb' 5 3) (r.mod8.getLsbD 4) (.ofBits r.d) (.ofBits r.a) (.ofBits r.b) (.ofBits r.c) r.imm23) = _
  simp [*]; clear hr hw; decide +revert
theorem RoundTrip.tcopyx (h : Hdr) (tok : BitVec 3) (bar : Bool) (d : Opd) (a : Opd) (b : Opd) (c : Opd) (off : BitVec 23) : RoundTrip.Statement (.tcopyx h tok bar d a b c off) := by
  intro hw r hr; obtain rfl : (encW h 0x152 2 (tok8 tok ||| bit8 4 bar) (mkW1 false 0 b.bits a.bits d.bits) (mkW2 off c.bits)) = r := Option.some.inj hr
  refine ⟨lenOk_W rfl, ?_⟩
  refine (buildAsync_at 2 rfl (by decide)).trans ?_
  show some (let r : Raw := (encW h 0x152 2 (tok8 tok ||| bit8 4 bar) (mkW1 false 0 b.bits a.bits d.bits) (mkW2 off c.bits)); Instr.tcopyx r.h (r.mod8.extractLsb' 5 3) (r.mod8.getLsbD 4) (.ofBits r.d) (.ofBits r.a) (.ofBits r.b) (.ofBits r.c) r.imm23) = _
  simp [*]; clear hr hw; decide +revert
theorem RoundTrip.tcopyr (h : Hdr) (tok : BitVec 3) (bar : Bool) (d : Opd) (a : Opd) (b : Opd) (c : Opd) (off : BitVec 23) : RoundTrip.Statement (.tcopyr h tok bar d a b c off) := by
  intro hw r hr; obtain rfl : (encW h 0x153 2 (tok8 tok ||| bit8 4 bar) (mkW1 false 0 b.bits a.bits d.bits) (mkW2 off c.bits)) = r := Option.some.inj hr
  refine ⟨lenOk_W rfl, ?_⟩
  refine (buildAsync_at 3 rfl (by decide)).trans ?_
  show some (let r : Raw := (encW h 0x153 2 (tok8 tok ||| bit8 4 bar) (mkW1 false 0 b.bits a.bits d.bits) (mkW2 off c.bits)); Instr.tcopyr r.h (r.mod8.extractLsb' 5 3) (r.mod8.getLsbD 4) (.ofBits r.d) (.ofBits r.a) (.ofBits r.b) (.ofBits r.c) r.imm23) = _
  simp [*]; clear hr hw; decide +revert
theorem RoundTrip.chain (h : Hdr) (tok : BitVec 3) (ch : BitVec 4) (a : Opd) : RoundTrip.Statement (.chain h tok ch a) := by
  intro hw r hr; obtain rfl : (encW h 0x154 1 (tok8 tok ||| ch.setWidth 8) (mkW1 false 0 0 a.bits 0) 0) = r := Option.some.inj hr
  refine ⟨lenOk_W rfl, ?_⟩
  refine (buildAsync_at 4 rfl (by decide)).trans ?_
  show some (let r : Raw := (encW h 0x154 1 (tok8 tok ||| ch.setWidth 8) (mkW1 false 0 0 a.bits 0) 0); Instr.chain r.h (r.mod8.extractLsb' 5 3) (r.mod8.setWidth 4) (.ofBits r.a)) = _
  simp [*]; clear hr hw; decide +revert
theorem RoundTrip.chstat (h : Hdr) (ch : BitVec 4) (d : Opd) : RoundTrip.Statement (.chstat h ch d) := by
  intro hw r hr; obtain rfl : (encW h 0x155 1 (ch.setWidth 8) (mkW1 false 0 0 0 d.bits) 0) = r := Option.some.inj hr
  refine ⟨lenOk_W rfl, ?_⟩
  refine (buildAsync_at 5 rfl (by decide)).trans ?_
  show some (let r : Raw := (encW h 0x155 1 (ch.setWidth 8) (mkW1 false 0 0 0 d.bits) 0); Instr.chstat r.h (r.mod8.setWidth 4) (.ofBits r.d)) = _
  simp [*]
theorem RoundTrip.decwBit (h : Hdr) (tok : BitVec 3) (sg : Bool) (d : Opd) (a : Opd) (c : Opd) (nb : BitVec 4) : RoundTrip.Statement (.decwBit h tok sg d a c nb) := by
  intro hw r hr; obtain rfl : (encW h 0x156 2 (tok8 tok ||| bit8 4 sg) (mkW1 false 0 0 a.bits d.bits) (mkW2 (nb.setWidth 23) c.bits)) = r := Option.some.inj hr
  refine ⟨lenOk_W rfl, ?_⟩
  refine (buildAsync_at 6 rfl (by decide)).trans ?_
  show some (let r : Raw := (encW h 0x156 2 (tok8 tok ||| bit8 4 sg) (mkW1 false 0 0 a.bits d.bits) (mkW2 (nb.setWidth 23) c.bits)); Instr.decwBit r.h (r.mod8.extractLsb' 5 3) (r.mod8.getLsbD 4) (.ofBits r.d) (.ofBits r.a) (.ofBits r.c) (r.imm23.setWidth 4)) = _
  simp [*]; clear hr hw; decide +revert
theorem RoundTrip.decwDlt (h : Hdr) (tok : BitVec 3) (sg : Bool) (d : Opd) (a : Opd) (c : Opd) (nb : BitVec 4) : RoundTrip.Statement (.decwDlt h tok sg d a c nb) := by
  intro hw r hr; obtain rfl : (encW h 0x157 2 (tok8 tok ||| bit8 4 sg) (mkW1 false 0 0 a.bits d.bits) (mkW2 (nb.setWidth 23) c.bits)) = r := Option.some.inj hr
  refine ⟨lenOk_W rfl, ?_⟩
  refine (buildAsync_at 7 rfl (by decide)).trans ?_
  show some (let r : Raw := (encW h 0x157 2 (tok8 tok ||| bit8 4 sg) (mkW1 false 0 0 a.bits d.bits) (mkW2 (nb.setWidth 23) c.bits)); Instr.decwDlt r.h (r.mod8.extractLsb' 5 3) (r.mod8.getLsbD 4) (.ofBits r.d) (.ofBits r.a) (.ofBits r.c) (r.imm23.setWidth 4)) = _
  simp [*]; clear hr hw; decide +revert
theorem RoundTrip.decwRle (h : Hdr) (tok : BitVec 3) (sg : Bool) (d : Opd) (a : Opd) (c : Opd) (nb : BitVec 4) : RoundTrip.Statement (.decwRle h tok sg d a c nb) := by
  intro hw r hr; obtain rfl : (encW h 0x158 2 (tok8 tok ||| bit8 4 sg) (mkW1 false 0 0 a.bits d.bits) (mkW2 (nb.setWidth 23) c.bits)) = r := Option.some.inj hr
  refine ⟨lenOk_W rfl, ?_⟩
  refine (buildAsync_at 8 rfl (by decide)).trans ?_
  show some (let r : Raw := (encW h 0x158 2 (tok8 tok ||| bit8 4 sg) (mkW1 false 0 0 a.bits d.bits) (mkW2 (nb.setWidth 23) c.bits)); Instr.decwRle r.h (r.mod8.extractLsb' 5 3) (r.mod8.getLsbD 4) (.ofBits r.d) (.ofBits r.a) (.ofBits r.c) (r.imm23.setWidth 4)) = _
  simp [*]; clear hr hw; decide +revert
theorem RoundTrip.topk (h : Hdr) (tok : BitVec 3) (n : BitVec 4) (slot : BitVec 2) (res : Bool) (a : Opd) (b : SrcB) (c : Opd) : RoundTrip.Statement (.topk h tok n slot res a b c) := by
  intro hw r hr; obtain rfl : (encW h 0x159 2 (tok8 tok) (mkW1 b.isImm 0 b.bits9 a.bits 0) (mkW2 ((BitVec.ofBool res ++ slot ++ n).setWidth 23) c.bits)) = r := Option.some.inj hr
  replace hw : (h.ok && !b.isImm32 && h.fsel == 0) = true := hw
  simp only [Bool.and_eq_true, Bool.not_eq_true'] at hw
  refine ⟨lenOk_W rfl, ?_⟩
  refine (buildAsync_at 9 rfl (by decide)).trans ?_
  show some (let r : Raw := (encW h 0x159 2 (tok8 tok) (mkW1 b.isImm 0 b.bits9 a.bits 0) (mkW2 ((BitVec.ofBool res ++ slot ++ n).setWidth 23) c.bits)); Instr.topk r.h (r.mod8.extractLsb' 5 3) (r.imm23.setWidth 4) (r.imm23.extractLsb' 4 2) (r.imm23.getLsbD 6) (.ofBits r.a) r.srcB (.ofBits r.c)) = _
  simp [*]; clear hr hw; decide +revert
theorem RoundTrip.resid (h : Hdr) (tok : BitVec 3) (flush : Bool) (slot : BitVec 2) (a : Opd) (b : SrcB) : RoundTrip.Statement (.resid h tok flush slot a b) := by
  intro hw r hr; obtain rfl : (encW h 0x15A 1 (tok8 tok ||| bit8 2 flush ||| slot.setWidth 8) (mkW1 b.isImm 0 b.bits9 a.bits 0) 0) = r := Option.some.inj hr
  replace hw : (h.ok && !b.isImm32 && h.fsel == 0) = true := hw
  simp only [Bool.and_eq_true, Bool.not_eq_true'] at hw
  refine ⟨lenOk_W rfl, ?_⟩
  refine (buildAsync_at 10 rfl (by decide)).trans ?_
  show some (let r : Raw := (encW h 0x15A 1 (tok8 tok ||| bit8 2 flush ||| slot.setWidth 8) (mkW1 b.isImm 0 b.bits9 a.bits 0) 0); Instr.resid r.h (r.mod8.extractLsb' 5 3) (r.mod8.getLsbD 2) (r.mod8.setWidth 2) (.ofBits r.a) r.srcB) = _
  simp [*]; clear hr hw; decide +revert
theorem RoundTrip.bstart (h : Hdr) (d : Opd) (a : Opd) (b : Opd) : RoundTrip.Statement (.bstart h d a b) := by
  intro hw r hr; obtain rfl : (encW h 0x15B 1 0 (mkW1 false 0 b.bits a.bits d.bits) 0) = r := Option.some.inj hr
  refine ⟨lenOk_W rfl, ?_⟩
  refine (buildAsync_at 11 rfl (by decide)).trans ?_
  show some (let r : Raw := (encW h 0x15B 1 0 (mkW1 false 0 b.bits a.bits d.bits) 0); Instr.bstart r.h (.ofBits r.d) (.ofBits r.a) (.ofBits r.b)) = _
  simp [*]
theorem RoundTrip.bpop (h : Hdr) (q : BitVec 2) (d : Opd) : RoundTrip.Statement (.bpop h q d) := by
  intro hw r hr; obtain rfl : (encW h 0x15C 1 (q.setWidth 8) (mkW1 false 0 0 0 d.bits) 0) = r := Option.some.inj hr
  refine ⟨lenOk_W rfl, ?_⟩
  refine (buildAsync_at 12 rfl (by decide)).trans ?_
  show some (let r : Raw := (encW h 0x15C 1 (q.setWidth 8) (mkW1 false 0 0 0 d.bits) 0); Instr.bpop r.h (r.mod8.setWidth 2) (.ofBits r.d)) = _
  simp [*]
theorem RoundTrip.bpush (h : Hdr) (q : BitVec 2) (a : Opd) : RoundTrip.Statement (.bpush h q a) := by
  intro hw r hr; obtain rfl : (encW h 0x15D 1 (q.setWidth 8) (mkW1 false 0 0 a.bits 0) 0) = r := Option.some.inj hr
  refine ⟨lenOk_W rfl, ?_⟩
  refine (buildAsync_at 13 rfl (by decide)).trans ?_
  show some (let r : Raw := (encW h 0x15D 1 (q.setWidth 8) (mkW1 false 0 0 a.bits 0) 0); Instr.bpush r.h (r.mod8.setWidth 2) (.ofBits r.a)) = _
  simp [*]
theorem RoundTrip.bstop (h : Hdr) : RoundTrip.Statement (.bstop h) := by
  intro hw r hr; obtain rfl : (encW h 0x15E 0 0 0 0) = r := Option.some.inj hr
  refine ⟨lenOk_W rfl, ?_⟩
  refine (buildAsync_at 14 rfl (by decide)).trans ?_
  show some (let r : Raw := (encW h 0x15E 0 0 0 0); Instr.bstop r.h) = _
  simp [*]
theorem RoundTrip.tld (h : Hdr) (fmt : BitVec 5) (hdr : Bool) (sp : Bool) (t : BitVec 4) (a : Opd) (b : SrcB) (off : Option (BitVec 23)) : RoundTrip.Statement (.tld h fmt hdr sp t a b off) := by
  intro hw r hr; obtain rfl : (encTile h 0x170 (fmt.setWidth 8 <<< 3 ||| bit8 1 hdr ||| bit8 0 sp) t a b off) = r := Option.some.inj hr
  replace hw : (h.ok && !b.isImm32 && (if hdr then fmt == 0 else tileFmtOrReserved fmt)) = true := hw
  simp only [Bool.and_eq_true, Bool.not_eq_true'] at hw
  refine ⟨lenOk_Tile rfl rfl, ?_⟩
  refine (buildTile_at 0 rfl (by decide)).trans ?_
  show some (let r : Raw := (encTile h 0x170 (fmt.setWidth 8 <<< 3 ||| bit8 1 hdr ||| bit8 0 sp) t a b off); Instr.tld r.h (r.mod8.extractLsb' 3 5) (r.mod8.getLsbD 1) (r.mod8.getLsbD 0) r.mod4 (.ofBits r.a) r.srcB r.optOff) = _
  simp [*]; clear hr hw; decide +revert
theorem RoundTrip.tldX (h : Hdr) (fmt : BitVec 5) (hdr : Bool) (sp : Bool) (t : BitVec 4) (a : Opd) (b : SrcB) (off : Option (BitVec 23)) : RoundTrip.Statement (.tldX h fmt hdr sp t a b off) := by
  intro hw r hr; obtain rfl : (encTile h 0x171 (fmt.setWidth 8 <<< 3 ||| bit8 1 hdr ||| bit8 0 sp) t a b off) = r := Option.some.inj hr
  replace hw : (h.ok && !b.isImm32 && !hdr && tileXFmt fmt) = true := hw
  simp only [Bool.and_eq_true, Bool.not_eq_true'] at hw
  refine ⟨lenOk_Tile rfl rfl, ?_⟩
  refine (buildTile_at 1 rfl (by decide)).trans ?_
  show some (let r : Raw := (encTile h 0x171 (fmt.setWidth 8 <<< 3 ||| bit8 1 hdr ||| bit8 0 sp) t a b off); Instr.tldX r.h (r.mod8.extractLsb' 3 5) (r.mod8.getLsbD 1) (r.mod8.getLsbD 0) r.mod4 (.ofBits r.a) r.srcB r.optOff) = _
  simp [*]; clear hr hw; decide +revert
theorem RoundTrip.tst (h : Hdr) (fmt : BitVec 5) (hdr : Bool) (sp : Bool) (t : BitVec 4) (a : Opd) (b : SrcB) (off : Option (BitVec 23)) : RoundTrip.Statement (.tst h fmt hdr sp t a b off) := by
  intro hw r hr; obtain rfl : (encTile h 0x172 (fmt.setWidth 8 <<< 3 ||| bit8 1 hdr ||| bit8 0 sp) t a b off) = r := Option.some.inj hr
  replace hw : (h.ok && !b.isImm32 && (if hdr then fmt == 0 else tileFmtOrReserved fmt)) = true := hw
  simp only [Bool.and_eq_true, Bool.not_eq_true'] at hw
  refine ⟨lenOk_Tile rfl rfl, ?_⟩
  refine (buildTile_at 2 rfl (by decide)).trans ?_
  show some (let r : Raw := (encTile h 0x172 (fmt.setWidth 8 <<< 3 ||| bit8 1 hdr ||| bit8 0 sp) t a b off); Instr.tst r.h (r.mod8.extractLsb' 3 5) (r.mod8.getLsbD 1) (r.mod8.getLsbD 0) r.mod4 (.ofBits r.a) r.srcB r.optOff) = _
  simp [*]; clear hr hw; decide +revert
theorem RoundTrip.tstX (h : Hdr) (fmt : BitVec 5) (hdr : Bool) (sp : Bool) (t : BitVec 4) (a : Opd) (b : SrcB) (off : Option (BitVec 23)) : RoundTrip.Statement (.tstX h fmt hdr sp t a b off) := by
  intro hw r hr; obtain rfl : (encTile h 0x173 (fmt.setWidth 8 <<< 3 ||| bit8 1 hdr ||| bit8 0 sp) t a b off) = r := Option.some.inj hr
  replace hw : (h.ok && !b.isImm32 && !hdr && tileXFmt fmt) = true := hw
  simp only [Bool.and_eq_true, Bool.not_eq_true'] at hw
  refine ⟨lenOk_Tile rfl rfl, ?_⟩
  refine (buildTile_at 3 rfl (by decide)).trans ?_
  show some (let r : Raw := (encTile h 0x173 (fmt.setWidth 8 <<< 3 ||| bit8 1 hdr ||| bit8 0 sp) t a b off); Instr.tstX r.h (r.mod8.extractLsb' 3 5) (r.mod8.getLsbD 1) (r.mod8.getLsbD 0) r.mod4 (.ofBits r.a) r.srcB r.optOff) = _
  simp [*]; clear hr hw; decide +revert
theorem RoundTrip.tzeroTile (h : Hdr) (t : BitVec 4) : RoundTrip.Statement (.tzeroTile h t) := by
  intro hw r hr; obtain rfl : (encW h 0x174 0 (t.setWidth 8) 0 0) = r := Option.some.inj hr
  refine ⟨lenOk_W rfl, ?_⟩
  refine (buildTile_at 4 rfl (by decide)).trans ((if_neg (show ¬ ((encW h 0x174 0 (t.setWidth 8) 0 0)).mod8.getLsbD 7 = true by simp)).trans ?_)
  show some (let r : Raw := (encW h 0x174 0 (t.setWidth 8) 0 0); Instr.tzeroTile r.h (r.mod8.setWidth 4)) = _
  simp [*]
theorem RoundTrip.tzeroAcc (h : Hdr) (n : BitVec 3) : RoundTrip.Statement (.tzeroAcc h n) := by
  intro hw r hr; obtain rfl : (encW h 0x174 0 (bit8 7 true ||| n.setWidth 8) 0 0) = r := Option.some.inj hr
  refine ⟨lenOk_W rfl, ?_⟩
  refine (buildTile_at 4 rfl (by decide)).trans ((if_pos (show ((encW h 0x174 0 (bit8 7 true ||| n.setWidth 8) 0 0)).mod8.getLsbD 7 = true by simp [bit8])).trans ?_)
  show some (let r : Raw := (encW h 0x174 0 (bit8 7 true ||| n.setWidth 8) 0 0); Instr.tzeroAcc r.h (r.mod8.setWidth 3)) = _
  simp [*]; clear hr hw; decide +revert
theorem RoundTrip.tmov (h : Hdr) (td : BitVec 4) (ts : BitVec 4) : RoundTrip.Statement (.tmov h td ts) := by
  intro hw r hr; obtain rfl : (encW h 0x175 0 (td ++ ts) 0 0) = r := Option.some.inj hr
  refine ⟨lenOk_W rfl, ?_⟩
  refine (buildTile_at 5 rfl (by decide)).trans ?_
  show some (let r : Raw := (encW h 0x175 0 (td ++ ts) 0 0); Instr.tmov r.h (r.mod8.extractLsb' 4 4) (r.mod8.setWidth 4)) = _
  simp [*]; clear hr hw; decide +revert
theorem RoundTrip.ttrn (h : Hdr) (td : BitVec 4) (ts : BitVec 4) : RoundTrip.Statement (.ttrn h td ts) := by
  intro hw r hr; obtain rfl : (encW h 0x176 0 (td ++ ts) 0 0) = r := Option.some.inj hr
  refine ⟨lenOk_W rfl, ?_⟩
  refine (buildTile_at 6 rfl (by decide)).trans ?_
  show some (let r : Raw := (encW h 0x176 0 (td ++ ts) 0 0); Instr.ttrn r.h (r.mod8.extractLsb' 4 4) (r.mod8.setWidth 4)) = _
  simp [*]; clear hr hw; decide +revert
theorem RoundTrip.tbmp (h : Hdr) (t : BitVec 4) : RoundTrip.Statement (.tbmp h t) := by
  intro hw r hr; obtain rfl : (encW h 0x177 0 (t.setWidth 8) 0 0) = r := Option.some.inj hr
  refine ⟨lenOk_W rfl, ?_⟩
  refine (buildTile_at 7 rfl (by decide)).trans ?_
  show some (let r : Raw := (encW h 0x177 0 (t.setWidth 8) 0 0); Instr.tbmp r.h (r.mod8.setWidth 4)) = _
  simp [*]
theorem RoundTrip.ttagWr (h : Hdr) (acc : Bool) (n : BitVec 4) (a : Opd) : RoundTrip.Statement (.ttagWr h acc n a) := by
  intro hw r hr; obtain rfl : (encW h 0x178 1 (bit8 5 acc ||| n.setWidth 8) (mkW1 false 0 0 a.bits 0) 0) = r := Option.some.inj hr
  refine ⟨lenOk_W rfl, ?_⟩
  refine (buildTile_at 8 rfl (by decide)).trans ((if_neg (show ¬ ((encW h 0x178 1 (bit8 5 acc ||| n.setWidth 8) (mkW1 false 0 0 a.bits 0) 0)).mod8.getLsbD 4 = true by simp; cases acc <;> rfl)).trans ?_)
  show some (let r : Raw := (encW h 0x178 1 (bit8 5 acc ||| n.setWidth 8) (mkW1 false 0 0 a.bits 0) 0); Instr.ttagWr r.h (r.mod8.getLsbD 5) (r.mod8.setWidth 4) (.ofBits r.a)) = _
  simp [*]; clear hr hw; decide +revert
theorem RoundTrip.ttagRd (h : Hdr) (acc : Bool) (n : BitVec 4) (d : Opd) : RoundTrip.Statement (.ttagRd h acc n d) := by
  intro hw r hr; obtain rfl : (encW h 0x178 1 (bit8 5 acc ||| bit8 4 true ||| n.setWidth 8) (mkW1 false 0 0 0 d.bits) 0) = r := Option.some.inj hr
  refine ⟨lenOk_W rfl, ?_⟩
  refine (buildTile_at 8 rfl (by decide)).trans ((if_pos (show ((encW h 0x178 1 (bit8 5 acc ||| bit8 4 true ||| n.setWidth 8) (mkW1 false 0 0 0 d.bits) 0)).mod8.getLsbD 4 = true by simp)).trans ?_)
  show some (let r : Raw := (encW h 0x178 1 (bit8 5 acc ||| bit8 4 true ||| n.setWidth 8) (mkW1 false 0 0 0 d.bits) 0); Instr.ttagRd r.h (r.mod8.getLsbD 5) (r.mod8.setWidth 4) (.ofBits r.d)) = _
  simp [*]; clear hr hw; decide +revert
theorem RoundTrip.mma (h : Hdr) (b4 : Bool) (tb : BitVec 4) (ta : BitVec 4) (sf : Opd) : RoundTrip.Statement (.mma h b4 tb ta sf) := by
  intro hw r hr; obtain rfl : (encW h 0x179 1 (tb ++ ta) (mkW1 false (if b4 then 8 else 0) 0 sf.bits 0) 0) = r := Option.some.inj hr
  refine ⟨lenOk_W rfl, ?_⟩
  refine (buildTile_at 9 rfl (by decide)).trans ?_
  show some (let r : Raw := (encW h 0x179 1 (tb ++ ta) (mkW1 false (if b4 then 8 else 0) 0 sf.bits 0) 0); Instr.mma r.h (r.mod4.getLsbD 3) (r.mod8.extractLsb' 4 4) (r.mod8.setWidth 4) (.ofBits r.a)) = _
  simp [*]; clear hr hw; decide +revert
theorem RoundTrip.mmas (h : Hdr) (b4 : Bool) (tb : BitVec 4) (ta : BitVec 4) (sf : Opd) : RoundTrip.Statement (.mmas h b4 tb ta sf) := by
  intro hw r hr; obtain rfl : (encW h 0x17A 1 (tb ++ ta) (mkW1 false (if b4 then 8 else 0) 0 sf.bits 0) 0) = r := Option.some.inj hr
  refine ⟨lenOk_W rfl, ?_⟩
  refine (buildTile_at 10 rfl (by decide)).trans ?_
  show some (let r : Raw := (encW h 0x17A 1 (tb ++ ta) (mkW1 false (if b4 then 8 else 0) 0 sf.bits 0) 0); Instr.mmas r.h (r.mod4.getLsbD 3) (r.mod8.extractLsb' 4 4) (r.mod8.setWidth 4) (.ofBits r.a)) = _
  simp [*]; clear hr hw; decide +revert
theorem RoundTrip.mmaf (h : Hdr) (tb : BitVec 4) (ta : BitVec 4) (sf : Opd) : RoundTrip.Statement (.mmaf h tb ta sf) := by
  intro hw r hr; obtain rfl : (encW h 0x17B 1 (tb ++ ta) (mkW1 false 0 0 sf.bits 0) 0) = r := Option.some.inj hr
  refine ⟨lenOk_W rfl, ?_⟩
  refine (buildTile_at 11 rfl (by decide)).trans ?_
  show some (let r : Raw := (encW h 0x17B 1 (tb ++ ta) (mkW1 false 0 0 sf.bits 0) 0); Instr.mmaf r.h (r.mod8.extractLsb' 4 4) (r.mod8.setWidth 4) (.ofBits r.a)) = _
  simp [*]; clear hr hw; decide +revert
theorem RoundTrip.xfwd (h : Hdr) (c : BitVec 3) (td : BitVec 4) (ts : BitVec 4) : RoundTrip.Statement (.xfwd h c td ts) := by
  intro hw r hr; obtain rfl : (encW h 0x17C 1 (td ++ ts) (mkW1 false (c.setWidth 4) 0 0 0) 0) = r := Option.some.inj hr
  refine ⟨lenOk_W rfl, ?_⟩
  refine (buildTile_at 12 rfl (by decide)).trans ?_
  show some (let r : Raw := (encW h 0x17C 1 (td ++ ts) (mkW1 false (c.setWidth 4) 0 0 0) 0); Instr.xfwd r.h (r.mod4.setWidth 3) (r.mod8.extractLsb' 4 4) (r.mod8.setWidth 4)) = _
  simp [*]; clear hr hw; decide +revert
theorem RoundTrip.xinv (h : Hdr) (fold : Bool) (sat : Bool) (td : BitVec 4) (ts : BitVec 4) : RoundTrip.Statement (.xinv h fold sat td ts) := by
  intro hw r hr; obtain rfl : (encW h 0x17D 1 (td ++ ts) (mkW1 false (BitVec.ofBool fold ++ BitVec.ofBool sat ++ (0 : BitVec 2)) 0 0 0) 0) = r := Option.some.inj hr
  refine ⟨lenOk_W rfl, ?_⟩
  refine (buildTile_at 13 rfl (by decide)).trans ?_
  show some (let r : Raw := (encW h 0x17D 1 (td ++ ts) (mkW1 false (BitVec.ofBool fold ++ BitVec.ofBool sat ++ (0 : BitVec 2)) 0 0 0) 0); Instr.xinv r.h (r.mod4.getLsbD 3) (r.mod4.getLsbD 2) (r.mod8.extractLsb' 4 4) (r.mod8.setWidth 4)) = _
  simp [*]; clear hr hw; decide +revert
theorem RoundTrip.accrd (h : Hdr) (colb : BitVec 3) (n : BitVec 3) (d : Opd) (b : SrcB) : RoundTrip.Statement (.accrd h colb n d b) := by
  intro hw r hr; obtain rfl : (encW h 0x17E 1 ((colb ++ n).setWidth 8) (mkW1 b.isImm 0 b.bits9 0 d.bits) 0) = r := Option.some.inj hr
  replace hw : (h.ok && !b.isImm32) = true := hw
  simp only [Bool.and_eq_true, Bool.not_eq_true'] at hw
  refine ⟨lenOk_W rfl, ?_⟩
  refine (buildTile_at 14 rfl (by decide)).trans ?_
  show some (let r : Raw := (encW h 0x17E 1 ((colb ++ n).setWidth 8) (mkW1 b.isImm 0 b.bits9 0 d.bits) 0); Instr.accrd r.h (r.mod8.extractLsb' 3 3) (r.mod8.setWidth 3) (.ofBits r.d) r.srcB) = _
  simp [*]; clear hr hw; decide +revert
theorem RoundTrip.accwr (h : Hdr) (colb : BitVec 3) (n : BitVec 3) (a : Opd) (b : SrcB) : RoundTrip.Statement (.accwr h colb n a b) := by
  intro hw r hr; obtain rfl : (encW h 0x17F 1 ((colb ++ n).setWidth 8) (mkW1 b.isImm 0 b.bits9 a.bits 0) 0) = r := Option.some.inj hr
  replace hw : (h.ok && !b.isImm32) = true := hw
  simp only [Bool.and_eq_true, Bool.not_eq_true'] at hw
  refine ⟨lenOk_W rfl, ?_⟩
  refine (buildTile_at 15 rfl (by decide)).trans ?_
  show some (let r : Raw := (encW h 0x17F 1 ((colb ++ n).setWidth 8) (mkW1 b.isImm 0 b.bits9 a.bits 0) 0); Instr.accwr r.h (r.mod8.extractLsb' 3 3) (r.mod8.setWidth 3) (.ofBits r.a) r.srcB) = _
  simp [*]; clear hr hw; decide +revert
theorem RoundTrip.accout (h : Hdr) (fmt : BitVec 5) (n : BitVec 3) (td : BitVec 4) (a : Opd) : RoundTrip.Statement (.accout h fmt n td a) := by
  intro hw r hr; obtain rfl : (encW h 0x180 1 (fmt.extractLsb' 4 1 ++ n ++ td) (mkW1 false (fmt.setWidth 4) 0 a.bits 0) 0) = r := Option.some.inj hr
  refine ⟨lenOk_W rfl, ?_⟩
  refine (buildTile_at 16 rfl (by decide)).trans ?_
  show some (let r : Raw := (encW h 0x180 1 (fmt.extractLsb' 4 1 ++ n ++ td) (mkW1 false (fmt.setWidth 4) 0 a.bits 0) 0); Instr.accout r.h (r.mod8.extractLsb' 7 1 ++ r.mod4) (r.mod8.extractLsb' 4 3) (r.mod8.setWidth 4) (.ofBits r.a)) = _
  simp [*]; clear hr hw; decide +revert
theorem RoundTrip.fbchk (h : Hdr) (f : Bool) (d : Opd) (a : Opd) : RoundTrip.Statement (.fbchk h f d a) := by
  intro hw r hr; obtain rfl : (encW h 0x181 1 (bit8 0 f) (mkW1 false 0 0 a.bits d.bits) 0) = r := Option.some.inj hr
  refine ⟨lenOk_W rfl, ?_⟩
  refine (buildTile_at 17 rfl (by decide)).trans ?_
  show some (let r : Raw := (encW h 0x181 1 (bit8 0 f) (mkW1 false 0 0 a.bits d.bits) 0); Instr.fbchk r.h (r.mod8.getLsbD 0) (.ofBits r.d) (.ofBits r.a)) = _
  simp [*]
theorem RoundTrip.cbld (h : Hdr) (slot : BitVec 2) (a : Opd) (b : SrcB) : RoundTrip.Statement (.cbld h slot a b) := by
  intro hw r hr; obtain rfl : (encW h 0x182 1 (slot.setWidth 8) (mkW1 b.isImm 0 b.bits9 a.bits 0) 0) = r := Option.some.inj hr
  replace hw : (h.ok && !b.isImm32) = true := hw
  simp only [Bool.and_eq_true, Bool.not_eq_true'] at hw
  refine ⟨lenOk_W rfl, ?_⟩
  refine (buildTile_at 18 rfl (by decide)).trans ?_
  show some (let r : Raw := (encW h 0x182 1 (slot.setWidth 8) (mkW1 b.isImm 0 b.bits9 a.bits 0) 0); Instr.cbld r.h (r.mod8.setWidth 2) (.ofBits r.a) r.srcB) = _
  simp [*]
theorem RoundTrip.fillc (h : Hdr) (a : Opd) : RoundTrip.Statement (.fillc h a) := by
  intro hw r hr; obtain rfl : (encW h 0x190 1 0 (mkW1 false 0 0 a.bits 0) 0) = r := Option.some.inj hr
  refine ⟨lenOk_W rfl, ?_⟩
  refine (buildGen_at 0 rfl (by decide)).trans ?_
  show some (let r : Raw := (encW h 0x190 1 0 (mkW1 false 0 0 a.bits 0) 0); Instr.fillc r.h (.ofBits r.a)) = _
  simp [*]
theorem RoundTrip.filla (h : Hdr) : RoundTrip.Statement (.filla h) := by
  intro hw r hr; obtain rfl : (encW h 0x191 0 0 0 0) = r := Option.some.inj hr
  refine ⟨lenOk_W rfl, ?_⟩
  refine (buildGen_at 1 rfl (by decide)).trans ?_
  show some (let r : Raw := (encW h 0x191 0 0 0 0); Instr.filla r.h) = _
  simp [*]
theorem RoundTrip.fillq (h : Hdr) (d : Opd) (adr : Addr) : RoundTrip.Statement (.fillq h d adr) := by
  intro hw r hr; obtain rfl : (encMem h 0x192 0 false d adr) = r := Option.some.inj hr
  replace hw : (h.ok && adr.ok && adr.off.isNone) = true := hw
  simp only [Bool.and_eq_true] at hw
  refine ⟨lenOk_Mem1 hw.2 rfl, ?_⟩
  refine (buildGen_at 2 rfl (by decide)).trans ?_
  show some (let r : Raw := (encMem h 0x192 0 false d adr); Instr.fillq r.h (.ofBits r.d) r.addr) = _
  simp [*]
theorem RoundTrip.ftinfo (h : Hdr) (which : BitVec 3) (d : Opd) (b : SrcB) : RoundTrip.Statement (.ftinfo h which d b) := by
  intro hw r hr; obtain rfl : (encW h 0x193 1 (which.setWidth 8) (mkW1 b.isImm 0 b.bits9 0 d.bits) 0) = r := Option.some.inj hr
  replace hw : (h.ok && !b.isImm32 && decide (which.toNat < 5) && (which == 3 || b == .opd (.v 0))) = true := hw
  simp only [Bool.and_eq_true, Bool.not_eq_true', decide_eq_true_eq] at hw
  refine ⟨lenOk_W rfl, ?_⟩
  refine (buildGen_at 3 rfl (by decide)).trans ?_
  show some (let r : Raw := (encW h 0x193 1 (which.setWidth 8) (mkW1 b.isImm 0 b.bits9 0 d.bits) 0); Instr.ftinfo r.h (r.mod8.setWidth 3) (.ofBits r.d) r.srcB) = _
  simp [*]
theorem RoundTrip.fillv (h : Hdr) (b : SrcB) : RoundTrip.Statement (.fillv h b) := by
  intro hw r hr; obtain rfl : (encW h 0x194 1 0 (mkW1 b.isImm 0 b.bits9 0 0) 0) = r := Option.some.inj hr
  replace hw : (h.ok && !b.isImm32) = true := hw
  simp only [Bool.and_eq_true, Bool.not_eq_true'] at hw
  refine ⟨lenOk_W rfl, ?_⟩
  refine (buildGen_at 4 rfl (by decide)).trans ?_
  show some (let r : Raw := (encW h 0x194 1 0 (mkW1 b.isImm 0 b.bits9 0 0) 0); Instr.fillv r.h r.srcB) = _
  simp [*]
theorem RoundTrip.stopr (h : Hdr) (code : BitVec 8) : RoundTrip.Statement (.stopr h code) := by
  intro hw r hr; obtain rfl : (encW h 0x198 0 code 0 0) = r := Option.some.inj hr
  refine ⟨lenOk_W rfl, ?_⟩
  refine (buildSys_at 0 rfl (by decide)).trans ?_
  show some (let r : Raw := (encW h 0x198 0 code 0 0); Instr.stopr r.h r.mod8) = _
  simp [*]
theorem RoundTrip.psamp (h : Hdr) (code : BitVec 8) : RoundTrip.Statement (.psamp h code) := by
  intro hw r hr; obtain rfl : (encW h 0x199 0 code 0 0) = r := Option.some.inj hr
  refine ⟨lenOk_W rfl, ?_⟩
  refine (buildSys_at 1 rfl (by decide)).trans ?_
  show some (let r : Raw := (encW h 0x199 0 code 0 0); Instr.psamp r.h r.mod8) = _
  simp [*]
theorem RoundTrip.logfl (h : Hdr) : RoundTrip.Statement (.logfl h) := by
  intro hw r hr; obtain rfl : (encW h 0x19A 0 0 0 0) = r := Option.some.inj hr
  refine ⟨lenOk_W rfl, ?_⟩
  refine (buildSys_at 2 rfl (by decide)).trans ?_
  show some (let r : Raw := (encW h 0x19A 0 0 0 0); Instr.logfl r.h) = _
  simp [*]
theorem RoundTrip.evinc (h : Hdr) (evn : BitVec 4) (b : SrcB) : RoundTrip.Statement (.evinc h evn b) := by
  intro hw r hr; obtain rfl : (encW h 0x19B 1 (evn.setWidth 8) (mkW1 b.isImm 0 b.bits9 0 0) 0) = r := Option.some.inj hr
  replace hw : (h.ok && !b.isImm32) = true := hw
  simp only [Bool.and_eq_true, Bool.not_eq_true'] at hw
  refine ⟨lenOk_W rfl, ?_⟩
  refine (buildSys_at 3 rfl (by decide)).trans ?_
  show some (let r : Raw := (encW h 0x19B 1 (evn.setWidth 8) (mkW1 b.isImm 0 b.bits9 0 0) 0); Instr.evinc r.h (r.mod8.setWidth 4) r.srcB) = _
  simp [*]
theorem RoundTrip.unassignedOpcode (w : Word) : RoundTrip.Statement (.unassignedOpcode w) := fun _ _ h => nomatch h
theorem RoundTrip.clkAdvance (core : Nat) : RoundTrip.Statement (.clkAdvance core) := fun _ _ h => nomatch h
theorem RoundTrip.clauseWaitRelease (core : Nat) (ctx : Nat) (slot : Nat) : RoundTrip.Statement (.clauseWaitRelease core ctx slot) := fun _ _ h => nomatch h
theorem RoundTrip.sfuComplete (core : Nat) (part : Nat) : RoundTrip.Statement (.sfuComplete core part) := fun _ _ h => nomatch h
theorem RoundTrip.yieldExpiry (core : Nat) (ctx : Nat) (slot : Nat) : RoundTrip.Statement (.yieldExpiry core ctx slot) := fun _ _ h => nomatch h
theorem RoundTrip.storeQueueLeave (core : Nat) (which : Nat) (arg : Nat) : RoundTrip.Statement (.storeQueueLeave core which arg) := fun _ _ h => nomatch h
theorem RoundTrip.memoryReplay (core : Nat) (ctx : Nat) (slot : Nat) : RoundTrip.Statement (.memoryReplay core ctx slot) := fun _ _ h => nomatch h
theorem RoundTrip.loadComplete (core : Nat) (id : Nat) (late : Bool) : RoundTrip.Statement (.loadComplete core id late) := fun _ _ h => nomatch h
theorem RoundTrip.belayAnswer (core : Nat) (id : Nat) : RoundTrip.Statement (.belayAnswer core id) := fun _ _ h => nomatch h
theorem RoundTrip.homeValidate (core : Nat) (id : Nat) (falseStrike : Bool) : RoundTrip.Statement (.homeValidate core id falseStrike) := fun _ _ h => nomatch h
theorem RoundTrip.belayRoundSelfInvalidate (core : Nat) : RoundTrip.Statement (.belayRoundSelfInvalidate core) := fun _ _ h => nomatch h
theorem RoundTrip.awaitTimeout (core : Nat) (ctx : Nat) : RoundTrip.Statement (.awaitTimeout core ctx) := fun _ _ h => nomatch h
theorem RoundTrip.localWriteback (core : Nat) (asid : Nat) (line : Nat) : RoundTrip.Statement (.localWriteback core asid line) := fun _ _ h => nomatch h
theorem RoundTrip.copyComplete (core : Nat) (id : Nat) : RoundTrip.Statement (.copyComplete core id) := fun _ _ h => nomatch h
theorem RoundTrip.chainRecord (ch : Nat) (phase : Nat) : RoundTrip.Statement (.chainRecord ch phase) := fun _ _ h => nomatch h
theorem RoundTrip.decodeComplete (core : Nat) : RoundTrip.Statement (.decodeComplete core) := fun _ _ h => nomatch h
theorem RoundTrip.topkComplete (core : Nat) : RoundTrip.Statement (.topkComplete core) := fun _ _ h => nomatch h
theorem RoundTrip.matrixComplete (core : Nat) (id : Nat) : RoundTrip.Statement (.matrixComplete core id) := fun _ _ h => nomatch h
theorem RoundTrip.transformService (core : Nat) : RoundTrip.Statement (.transformService core) := fun _ _ h => nomatch h
theorem RoundTrip.cbldTakeover (core : Nat) (id : Nat) : RoundTrip.Statement (.cbldTakeover core id) := fun _ _ h => nomatch h
theorem RoundTrip.allotmentRelease (core : Nat) (ctx : Nat) : RoundTrip.Statement (.allotmentRelease core ctx) := fun _ _ h => nomatch h
theorem RoundTrip.workgroupPlace (launch : Nat) (core : Nat) : RoundTrip.Statement (.workgroupPlace launch core) := fun _ _ h => nomatch h
theorem RoundTrip.ropePlace (launch : Nat) (cluster : Nat) (x : Nat) (y : Nat) : RoundTrip.Statement (.ropePlace launch cluster x y) := fun _ _ h => nomatch h
theorem RoundTrip.ropeWaitReserve (launch : Nat) (cluster : Nat) (x : Nat) (y : Nat) : RoundTrip.Statement (.ropeWaitReserve launch cluster x y) := fun _ _ h => nomatch h
theorem RoundTrip.launchAging (launch : Nat) : RoundTrip.Statement (.launchAging launch) := fun _ _ h => nomatch h
theorem RoundTrip.starvationPromote (core : Nat) (ctx : Nat) (slot : Nat) : RoundTrip.Statement (.starvationPromote core ctx slot) := fun _ _ h => nomatch h
theorem RoundTrip.throttleWindowEnd (core : Nat) : RoundTrip.Statement (.throttleWindowEnd core) := fun _ _ h => nomatch h
theorem RoundTrip.pageWalk (cluster : Nat) (asid : Nat) (va : Nat) : RoundTrip.Statement (.pageWalk cluster asid va) := fun _ _ h => nomatch h
theorem RoundTrip.fltrespRetry (seq : Nat) : RoundTrip.Statement (.fltrespRetry seq) := fun _ _ h => nomatch h
theorem RoundTrip.fltrespUnresolved (seq : Nat) : RoundTrip.Statement (.fltrespUnresolved seq) := fun _ _ h => nomatch h
theorem RoundTrip.ringRecordWrite (ring : Nat) : RoundTrip.Statement (.ringRecordWrite ring) := fun _ _ h => nomatch h
theorem RoundTrip.counterSweep : RoundTrip.Statement .counterSweep := fun _ _ h => nomatch h
theorem RoundTrip.preemptPre (asid : Nat) : RoundTrip.Statement (.preemptPre asid) := fun _ _ h => nomatch h
theorem RoundTrip.preemptRes (asid : Nat) : RoundTrip.Statement (.preemptRes asid) := fun _ _ h => nomatch h
theorem RoundTrip.preemptKill (asid : Nat) : RoundTrip.Statement (.preemptKill asid) := fun _ _ h => nomatch h
theorem RoundTrip.groupSave (core : Nat) (ctx : Nat) : RoundTrip.Statement (.groupSave core ctx) := fun _ _ h => nomatch h
theorem RoundTrip.preemptOverrun (core : Nat) (ctx : Nat) (slot : Nat) : RoundTrip.Statement (.preemptOverrun core ctx slot) := fun _ _ h => nomatch h
theorem RoundTrip.groupResume (launch : Nat) (core : Nat) : RoundTrip.Statement (.groupResume launch core) := fun _ _ h => nomatch h
theorem RoundTrip.ropeStop (rope : Nat) : RoundTrip.Statement (.ropeStop rope) := fun _ _ h => nomatch h
theorem RoundTrip.dbgcmdStop (cluster : Nat) (w : Nat) : RoundTrip.Statement (.dbgcmdStop cluster w) := fun _ _ h => nomatch h
theorem RoundTrip.dbgcmdResume (cluster : Nat) (w : Nat) : RoundTrip.Statement (.dbgcmdResume cluster w) := fun _ _ h => nomatch h
theorem RoundTrip.homeMiss (core : Nat) (ctx : Nat) (slot : Nat) : RoundTrip.Statement (.homeMiss core ctx slot) := fun _ _ h => nomatch h
theorem RoundTrip.fillLaunch (tracker : Nat) (core : Nat) : RoundTrip.Statement (.fillLaunch tracker core) := fun _ _ h => nomatch h
theorem RoundTrip.implicitFilla (launch : Nat) : RoundTrip.Statement (.implicitFilla launch) := fun _ _ h => nomatch h
theorem RoundTrip.heldRequesterResend (slice : Nat) : RoundTrip.Statement (.heldRequesterResend slice) := fun _ _ h => nomatch h
theorem RoundTrip.llcEviction (asid : Nat) (line : Nat) : RoundTrip.Statement (.llcEviction asid line) := fun _ _ h => nomatch h
theorem RoundTrip.vsbaseWrite (v : Nat) : RoundTrip.Statement (.vsbaseWrite v) := fun _ _ h => nomatch h
theorem RoundTrip.vssizeWrite (v : Nat) : RoundTrip.Statement (.vssizeWrite v) := fun _ _ h => nomatch h
theorem RoundTrip.qkick (v : Nat) : RoundTrip.Statement (.qkick v) := fun _ _ h => nomatch h
theorem RoundTrip.queueStep : RoundTrip.Statement .queueStep := fun _ _ h => nomatch h
theorem RoundTrip.barrierPacket (q : Nat) (n : Nat) : RoundTrip.Statement (.barrierPacket q n) := fun _ _ h => nomatch h
theorem RoundTrip.copyPacket (q : Nat) (n : Nat) (ch : Nat) : RoundTrip.Statement (.copyPacket q n ch) := fun _ _ h => nomatch h
theorem RoundTrip.inval (q : Nat) (n : Nat) : RoundTrip.Statement (.inval q n) := fun _ _ h => nomatch h
theorem RoundTrip.packetComplete (q : Nat) (n : Nat) : RoundTrip.Statement (.packetComplete q n) := fun _ _ h => nomatch h
theorem RoundTrip.hostRequest (kind : Nat) (addr : Nat) (data : List Byte) : RoundTrip.Statement (.hostRequest kind addr data) := fun _ _ h => nomatch h
theorem RoundTrip.peerInboundRequest (src : Nat) (kind : Nat) (addr : Nat) (data : List Byte) : RoundTrip.Statement (.peerInboundRequest src kind addr data) := fun _ _ h => nomatch h
theorem RoundTrip.registerPacket (write : Bool) (src : Nat) (addr : Nat) (v : Nat) (half : Bool) : RoundTrip.Statement (.registerPacket write src addr v half) := fun _ _ h => nomatch h
theorem RoundTrip.msiForward (src : Nat) (vec : Nat) : RoundTrip.Statement (.msiForward src vec) := fun _ _ h => nomatch h
theorem RoundTrip.fabcfgWrite (v : Nat) : RoundTrip.Statement (.fabcfgWrite v) := fun _ _ h => nomatch h
theorem RoundTrip.portstatWrite (port : Nat) (v : Nat) : RoundTrip.Statement (.portstatWrite port v) := fun _ _ h => nomatch h
theorem RoundTrip.flitReceive (port : Nat) (words : List Nat) : RoundTrip.Statement (.flitReceive port words) := fun _ _ h => nomatch h
theorem RoundTrip.nakReceive (port : Nat) (seq : Nat) : RoundTrip.Statement (.nakReceive port seq) := fun _ _ h => nomatch h
theorem RoundTrip.ackTimeoutRetrain (port : Nat) : RoundTrip.Statement (.ackTimeoutRetrain port) := fun _ _ h => nomatch h
theorem RoundTrip.portTrainingDone (port : Nat) (lanes : Nat) : RoundTrip.Statement (.portTrainingDone port lanes) := fun _ _ h => nomatch h
theorem RoundTrip.portFail (port : Nat) (down : Bool) : RoundTrip.Statement (.portFail port down) := fun _ _ h => nomatch h
theorem RoundTrip.peerTimeout (id : Nat) : RoundTrip.Statement (.peerTimeout id) := fun _ _ h => nomatch h
theorem RoundTrip.coldReset (strap : Nat) (opt : Nat) (grade : Nat) (fwOk : Bool) : RoundTrip.Statement (.coldReset strap opt grade fwOk) := fun _ _ h => nomatch h
theorem RoundTrip.basecampTestResult (cause : Nat) : RoundTrip.Statement (.basecampTestResult cause) := fun _ _ h => nomatch h
theorem RoundTrip.enterRun : RoundTrip.Statement .enterRun := fun _ _ h => nomatch h
theorem RoundTrip.freezeAssert : RoundTrip.Statement .freezeAssert := fun _ _ h => nomatch h
theorem RoundTrip.freezeDeassert : RoundTrip.Statement .freezeDeassert := fun _ _ h => nomatch h
theorem RoundTrip.securityAlarm (cause : Nat) : RoundTrip.Statement (.securityAlarm cause) := fun _ _ h => nomatch h
theorem RoundTrip.powerThrottle (cluster : Nat) (mhz : Nat) : RoundTrip.Statement (.powerThrottle cluster mhz) := fun _ _ h => nomatch h
theorem RoundTrip.thermalTrip : RoundTrip.Statement .thermalTrip := fun _ _ h => nomatch h
theorem RoundTrip.registerWrite (addr : Nat) (v : Nat) (half : Bool) : RoundTrip.Statement (.registerWrite addr v half) := fun _ _ h => nomatch h
theorem RoundTrip.ucieLinkTraining (kind : Nat) (arg : Nat) : RoundTrip.Statement (.ucieLinkTraining kind arg) := fun _ _ h => nomatch h
theorem RoundTrip.debugUnlock (auth : Bool) : RoundTrip.Statement (.debugUnlock auth) := fun _ _ h => nomatch h

end Sys2Proof.Laws
end

