-- ==== Sys2Proof/Laws/Ready.lean ====
section
/-! SUPPORT. What an instruction that may issue comes to, past its checks: transfers of control, S registers, and a running device that
no missing memory stops. -/

namespace Sys2Proof.Machine

/-- Outside base camp a state reached calmly is a next state. -/
theorem finish_calm {s u : State} (h : Calm s u) (hs : s.stuck = none) (hb : s.baseCamp = false) : finish u = .next u :=
  finish_next (h.stuck hb hs)

theorem retire_none {s : State} {e : Env} (he : s.env? = some e) (h : Hdr) : s.retire e h = s.sIssued e h none :=
  State.retire_eq he h

@[simp] theorem State.sIssued_stuck (s : State) (e : Env) (h : Hdr) (x : Option (Nat × Word)) : (s.sIssued e h x).stuck = s.stuck := by
  cases x <;> rfl

theorem finish_sIssued {s : State} {e : Env} {h : Hdr} (hs : s.stuck = none) (x : Option (Nat × Word)) :
    finish (s.sIssued e h x) = .next (s.sIssued e h x) :=
  finish_next (by simpa using hs)

/-- An S register written after the slot went on. -/
theorem State.issued_sWrite {s : State} {e : Env} (he : s.env? = some e) (h : Hdr) (x : Nat × Word) :
    (s.issued e h e.g []).sWrite e h [x] = s.sIssued e h (some x) := by
  obtain ⟨hg, -, hs, -, hn, -⟩ := State.env_spec he
  unfold State.sWrite State.start State.issued
  rw [State.modGroup_eq (g := e.g.setSlot e.n (e.sl.past e.len e.clk h.stall.toNat (e.serial + 1)))]
  · simp [State.sIssued, State.uniIssued, State.issued, Env.uniOp, State.modCore, State.core, Env.op, State.stamp]
    cases e.flag h <;> simp [Group.flagUp, Group.setSlot] <;> split <;> rfl
  · simp [State.group?, State.modCore, Tbl.look_put_self]

theorem uniWrite_retire {s : State} {e : Env} (he : s.env? = some e) (h : Hdr) (ws : List RegWrite) :
    (s.uniWrite e h ws).retire e h = s.uniIssued e h ws :=
  State.start_retire_eq he h _

theorem finish_uniIssued {s : State} {e : Env} {h : Hdr} (hs : s.stuck = none) (ws : List RegWrite) :
    finish (s.uniIssued e h ws) = .next (s.uniIssued e h ws) :=
  finish_next hs

/-- What a uniform instruction does when it may issue. -/
theorem uni_ready {i : Instr} {h : Hdr} {f : UForm} {g : LaneIn → DWord} (hi : ∀ s, exec i s = uni h f g s) : UniRule i h f g := by
  intro s e r ha
  rw [hi, uni, issue_ready r, if_neg (by simpa using ha), uniWrite_retire r.2.1]
  exact finish_uniIssued r.1 _

/-- A transfer that State.jump makes. -/
theorem moves_of {i : Instr} {s : State} {e : Env} {h : Hdr} {a a' : DWord} {reg : Bool} {x : Option (Nat × Word)}
    {eff : State → State} (hs : s.stuck = none) (hx : exec i s = finish (s.jump e h a' reg eff)) (ha : a' = a)
    (hf : ∀ s1 : State, s1.env? = some e → eff (s1.retire e h) = s1.sIssued e h x) : Moves i s e h a reg x := by
  subst ha
  refine ⟨fun s1 w ⟨h1, h2, h3⟩ hw hr hal => ?_, fun s1 w ⟨h1, h2, h3⟩ hw hal => ?_, fun hr hal => ?_⟩
  · have : s.jump e h a' reg eff = (s1.sIssued e h x).placed e a' := by
      unfold State.jump
      rw [if_neg (by cases reg <;> simp_all), h1]
      simp [hw, hr, hf s1 h3, State.placed]
    rw [hx, this]
    exact finish_next (by cases x <;> exact h2)
  · have : s.jump e h a' reg eff = s1.trapAt e 3 e.sl.mask a' := by
      unfold State.jump
      rw [if_neg (by cases reg <;> simp_all), h1]
      simp [hw]
    rw [hx, this]
    exact finish_next ((State.trapAt_stuck ..).trans h2)
  · have : s.jump e h a' reg eff = s.trapAt e 3 e.sl.mask a' := by
      unfold State.jump
      rw [if_pos (by simp_all)]
    rw [hx, this]
    exact finish_next ((State.trapAt_stuck ..).trans hs)

/-- Outside base camp the state a meaning reaches is its next state. -/
theorem exec_next {i : Instr} {s u : State} {e : Env} (hi : i.setsDevice = false) (hs : s.stuck = none) (he : s.env? = some e)
    (hb : s.baseCamp = false) (hx : exec i s = finish u) : exec i s = .next u := by
  have hg : ∀ w, Calm s w → finish w = .next w := fun w hw => finish_calm hw hs hb
  rcases goes_exec s i hi with ⟨h, -⟩ | ⟨w, hw, h | h⟩
  · rw [he] at h; cases h
  · rw [hx] at h ⊢
    rw [hg w hw] at h
    unfold finish at h ⊢
    split at h <;> simp_all
  · rw [hx] at h ⊢
    unfold finish at h ⊢
    split at h <;> simp_all

/-- A signed offset in units of four bytes. -/
theorem shiftLeft_two {n : Nat} (off : BitVec n) : (off.signExtend 64 <<< 2) = 4 * off.signExtend 64 := by
  rw [BitVec.mul_comm]; exact BitVec.shiftLeft_eq_mul_twoPow ..

end Sys2Proof.Machine
end

