-- ==== Sys2Proof/Tests/Slice0.lean ====
section
/-! SUPPORT. Small checks: the words the manual writes out, ill-formed instructions, single steps worked by hand from the manual's rules,
and a state and operands that meet the premises of each statement of Certificates/Slice0/Obligations.lean. -/

set_option maxRecDepth 100000

open Sys2Proof Sys2Proof.Machine

namespace Sys2Proof.Tests

/-! The words of the manual's worked examples (spec/03 to spec/17), and three written out from its encoding tables. -/

theorem test_word_fadd : decodeWords 0x00055901 0x00180A04 0 =
    .ok (.fadd ⟨false, 5, 1, 3⟩ .f32 ⟨false, false, false, false, false, 0⟩ ⟨.v 4, .v 5, .opd (.v 6)⟩) := by rfl
theorem test_word_ffma : decodeWords 0x007F011A 0x00200807 9 =
    .ok (.ffma ⟨false, 127, 0, 0⟩ .f32 ⟨false, false, false, false, false, 0⟩ ⟨.v 7, .v 4, .opd (.v 8), .v 9⟩) := by rfl
theorem test_word_logt : decodeWords 0x007F0896 0x00180A04 0x00012C07 =
    .ok (.logt ⟨false, 127, 0, 1⟩ ⟨.v 4, .v 5, .opd (.v 6), .v 7⟩ 150) := by rfl
theorem test_word_packmx : decodeWords 0x007F02AA 0x00000A04 0x00005BE0 =
    .ok (.packmx ⟨false, 127, 0, 0⟩ 1 13 ⟨false, 0⟩ (.v 4) (.v 5) (.k 0)) := by rfl
theorem test_word_ldb : decodeWords 0x057F440D 0x101E8808 0 =
    .ok (.ldb ⟨false, 127, 1, 0⟩ ⟨0, 5, false⟩ (.v 8) ⟨.s 4, .opd (.v 7), 2, none⟩) := by rfl
theorem test_word_pairFI : decodeWords 0x007F1FC6 0x01814100 0x01428240 =
    .ok (.pairFI ⟨false, 127, 0, 3⟩ ⟨0, 6, 5, 4, 0⟩ ⟨0, 5, 10, 9, 0⟩) := by rfl
theorem test_word_braDivergent : decodeWords 0x000103C2 7 0x00002A00 =
    .ok (.braDivergent ⟨false, 1, 0, 0⟩ 7 21) := by rfl
theorem test_word_mma : decodeWords 0x107F45E5 0x00029000 0 =
    .ok (.mma ⟨false, 127, 1, 0⟩ false 1 0 (.s 8)) := by rfl
theorem test_word_xfwd : decodeWords 0x217F45F1 0x18000000 0 =
    .ok (.xfwd ⟨false, 127, 1, 0⟩ 3 2 1) := by rfl
theorem test_word_mmaf : decodeWords 0x107F45ED 0x00029000 0 =
    .ok (.mmaf ⟨false, 127, 1, 0⟩ 1 0 (.s 8)) := by rfl
theorem test_word_mmaf_2 : decodeWords 0x737F05ED 0x0002A000 0 =
    .ok (.mmaf ⟨false, 127, 0, 0⟩ 7 3 (.s 16)) := by rfl
theorem test_word_accout : decodeWords 0x8A7F0601 0x1803C000 0 =
    .ok (.accout ⟨false, 127, 0, 0⟩ 19 0 10 (.k 0)) := by rfl
theorem test_word_tcopy : decodeWords 0x107F0542 0x05228942 0x00000150 =
    .ok (.tcopy ⟨false, 127, 0, 0⟩ 0 true (.s 2) (.s 4) (.s 8) (.s 16) 0) := by rfl
theorem test_word_barrp : decodeWords 0x007F051C 0 0 =
    .ok (.barrp ⟨false, 127, 0, 0⟩ 0) := by rfl
theorem test_word_stopr : decodeWords 0x057F0660 0 0 =
    .ok (.stopr ⟨false, 127, 0, 0⟩ 5) := by rfl
theorem test_word_evinc : decodeWords 0x037F066D 0x80140000 0 =
    .ok (.evinc ⟨false, 127, 0, 0⟩ 3 (.imm9 5)) := by rfl
theorem test_word_psamp : decodeWords 0x077F0664 0 0 =
    .ok (.psamp ⟨false, 127, 0, 0⟩ 7) := by rfl
theorem test_word_qresv : decodeWords 0x017F4521 0x8006854A 0 =
    .ok (.qresv ⟨false, 127, 1, 0⟩ 1 (.s 10) (.s 2) (.imm9 1)) := by rfl
theorem test_word_qcommit : decodeWords 0x207F4529 0x052A8548 0 =
    .ok (.qcommit ⟨false, 127, 1, 0⟩ 4 (.s 2) (.s 10) (.s 8)) := by rfl
theorem test_word_qsig : decodeWords 0x207F452E 0x00028C00 0x000001E2 =
    .ok (.qsig ⟨false, 127, 1, 0⟩ false 4 (.s 6) (.k 2)) := by rfl
theorem test_word_fillc : decodeWords 0x007F4641 0x0002A800 0 =
    .ok (.fillc ⟨false, 127, 1, 0⟩ (.s 20)) := by rfl
theorem test_word_fillv : decodeWords 0x007F0651 0x80080000 0 =
    .ok (.fillv ⟨false, 127, 0, 0⟩ (.imm9 2)) := by rfl
theorem test_word_ftinfo : decodeWords 0x007F064D 0x00000155 0 =
    .ok (.ftinfo ⟨false, 127, 0, 0⟩ 0 (.s 21) (.opd (.v 0))) := by rfl
theorem test_word_atomgCas : decodeWords 0x187F444E 0x0532800D 0x0000014E =
    .ok (.atomgCas ⟨false, 127, 1, 0⟩ ⟨0, 3, 0⟩ (.v 13) (.s 0) (.opd (.s 12)) (.s 14) 0) := by rfl
theorem test_word_acqr : decodeWords 0x200404B1 0x05780000 0 =
    .ok (.acqr ⟨false, 4, 0, 0⟩ 4 (.opd (.s 30))) := by rfl
theorem test_word_bchk : decodeWords 0x007F04A5 0x0000003D 0 =
    .ok (.bchk ⟨false, 127, 0, 0⟩ 61) := by rfl
theorem test_word_gpref : decodeWords 0x000504C5 0x000E8400 0 =
    .ok (.gpref ⟨false, 5, 0, 0⟩ ⟨.s 2, .opd (.v 3), 0, none⟩) := by rfl
theorem test_word_unpkmx : decodeWords 0x007F1AAE 0x00000807 0x010A9A05 =
    .ok (.unpkmx ⟨false, 127, 0, 3⟩ 0 ⟨false, 0⟩ (.v 7) (.v 4) (.v 5) ⟨13, 10, 1, 1⟩) := by rfl
theorem test_word_lds : decodeWords 0x057F441A 0x80028801 0x00D80800 =
    .ok (.lds ⟨false, 127, 1, 0⟩ ⟨0, 5, false⟩ (.v 1) ⟨.s 4, .imm9 0, 0, some 0x006c04⟩) := by rfl
theorem test_word_strel : decodeWords 0x047F0415 0x80028002 0 =
    .ok (.strel ⟨false, 127, 0, 0⟩ 0 4 (.v 2) ⟨.s 0, .imm9 0, 0, none⟩) := by rfl
theorem test_word_ttagWr : decodeWords 0x027F05E1 0x0002B600 0 =
    .ok (.ttagWr ⟨false, 127, 0, 0⟩ false 2 (.s 27)) := by rfl
theorem test_word_xinv : decodeWords 0xCB7F05F5 0x40000000 0 =
    .ok (.xinv ⟨false, 127, 0, 0⟩ true false 12 11) := by rfl
theorem test_word_tretSkip : decodeWords 0x017F03F4 0 0 =
    .ok (.tretSkip ⟨false, 127, 0, 0⟩) := by rfl
theorem test_word_filla : decodeWords 0x007F0644 0 0 =
    .ok (.filla ⟨false, 127, 0, 0⟩) := by rfl
theorem test_word_ldg : decodeWords 0x007F4401 0x4004A404 0 =
    .ok (.ldg ⟨false, 127, 1, 0⟩ ⟨0, 0, true⟩ (.v 4) ⟨.v 82, .opd (.v 1), 0, none⟩) := by rfl
theorem test_word_ldg_2 : decodeWords 0x017F4402 0x400EA405 0x00040000 =
    .ok (.ldg ⟨false, 127, 1, 0⟩ ⟨0, 1, true⟩ (.v 5) ⟨.s 18, .opd (.v 3), 0, some 512⟩) := by rfl
theorem test_word_frcp : decodeWords 0x007F0201 0x00000401 0 = .ok (.frcp ⟨false, 127, 0, 0⟩ .f32 false false ⟨.v 1, .v 2⟩) := by rfl
theorem test_word_qswpH : decodeWords 0x007F02C1 0x00000401 0 = .ok (.qswpH ⟨false, 127, 0, 0⟩ ⟨.v 1, .v 2⟩) := by rfl
theorem test_word_smov : decodeWords 0x007F0381 0x00028541 0 = .ok (.smov ⟨false, 127, 0, 0⟩ ⟨.s 1, .s 2⟩) := by rfl
theorem test_word_unassigned : decodeWords 0x007F07FC 0 0 = .ok (.unassignedOpcode 0x007F07FC) := by rfl

/-! One ill-formed instruction for each check of WellFormed. -/

def hT : Hdr := ⟨false, 127, 0, 0⟩
def xA : Addr := ⟨.s 0, .opd (.v 1), 0, none⟩
def xF : FpMods := ⟨false, false, false, false, false, 0⟩
def xB : DAB := ⟨.v 1, .v 2, .opd (.v 3)⟩
def xC : DABC := ⟨.v 1, .v 2, .opd (.v 3), .v 4⟩
def xM : MemMods := ⟨0, 5, false⟩

theorem test_ill_guard : ((.nop ⟨false, 96, 0, 0⟩ : Instr) : Instr).wf = false := by decide
theorem test_ill_fsel : (.nop ⟨false, 127, 3, 0⟩ : Instr).wf = false := by decide
theorem test_ill_unsigned_without_sat : (.iadd hT ⟨true, false⟩ xB : Instr).wf = false := by decide
theorem test_ill_imm32 : (.imad hT ⟨.v 1, .v 2, .imm32 7, .v 4⟩ : Instr).wf = false := by decide
theorem test_ill_carry_predicate : (.iaddc hT xC 100 : Instr).wf = false := by decide
theorem test_ill_comparison : (.isetS hT 6 xB : Instr).wf = false := by decide
theorem test_ill_fp_mask : (.fadd hT .f32 ⟨false, true, false, false, false, 0⟩ xB : Instr).wf = false := by decide
theorem test_ill_fp_rounding : (.fadd hT .f32 ⟨false, false, false, false, false, 5⟩ xB : Instr).wf = false := by decide
theorem test_ill_fp_comparison : (.fset hT .f32 14 xF xB : Instr).wf = false := by decide
theorem test_ill_fscale_format : (.fscale hT .b2 xF xB : Instr).wf = false := by decide
theorem test_ill_complex_format : (.cadd hT .cbf ⟨false, false, false, false, 0⟩ xB : Instr).wf = false := by decide
theorem test_ill_conversion_format : (.cvtf hT ⟨false, 0⟩ (.v 1) (.v 2) (.v 3) ⟨0, 8, 0, 0⟩ : Instr).wf = false := by decide
theorem test_ill_conversion_element : (.cvtf hT ⟨false, 0⟩ (.v 1) (.v 2) (.v 3) ⟨8, 8, 1, 0⟩ : Instr).wf = false := by decide
theorem test_ill_packmx_block : (.packmx hT 0 13 ⟨false, 0⟩ (.v 1) (.v 2) (.v 3) : Instr).wf = false := by decide
theorem test_ill_packmx_format : (.packmx hT 1 8 ⟨false, 0⟩ (.v 1) (.v 2) (.v 3) : Instr).wf = false := by decide
theorem test_ill_unpkmx_format : (.unpkmx hT 0 ⟨false, 0⟩ (.v 1) (.v 2) (.v 3) ⟨8, 8, 0, 0⟩ : Instr).wf = false := by decide
theorem test_ill_cvtfi_source : (.cvtfi hT false 3 ⟨false, 0⟩ ⟨.v 1, .v 2⟩ : Instr).wf = false := by decide
theorem test_ill_cvtif_destination : (.cvtif hT false 3 ⟨false, 0⟩ ⟨.v 1, .v 2⟩ : Instr).wf = false := by decide
theorem test_ill_reduction : (.qred hT .and false true ⟨.v 1, .v 2⟩ : Instr).wf = false := by decide
theorem test_ill_shuffle_segment : (.shfl hT .idx 7 xB : Instr).wf = false := by decide
theorem test_ill_scan : (.lscan hT .min false false ⟨.v 1, .v 2⟩ : Instr).wf = false := by decide
theorem test_ill_scale : (.ldg hT xM (.v 1) ⟨.s 0, .opd (.v 1), 5, none⟩ : Instr).wf = false := by decide
theorem test_ill_imm_scale : (.ldg hT xM (.v 1) ⟨.s 0, .imm9 4, 1, none⟩ : Instr).wf = false := by decide
theorem test_ill_vector_size : (.ldg hT ⟨3, 5, false⟩ (.v 1) xA : Instr).wf = false := by decide
theorem test_ill_raw_format : (.ldg hT ⟨0, 4, false⟩ (.v 1) xA : Instr).wf = false := by decide
theorem test_ill_converted_narrow : (.ldg hT ⟨0, 6, true⟩ (.v 1) xA : Instr).wf = false := by decide
theorem test_ill_swizzle : (.ldsX hT 0 0 (.v 1) xA : Instr).wf = false := by decide
theorem test_ill_acquire_scope : (.ldacq hT 0 6 (.v 1) xA : Instr).wf = false := by decide
theorem test_ill_atomic_type : (.atomg hT .inc ⟨0, 0, 2⟩ (.v 1) (.long ⟨.s 0, .opd (.v 1), 0, some 0⟩ (.v 2)) : Instr).wf = false := by decide
theorem test_ill_atomic_scope : (.atoms hT .add ⟨0, 4, 0⟩ (.v 1) (.long ⟨.s 0, .opd (.v 1), 0, some 0⟩ (.v 2)) : Instr).wf = false := by decide
theorem test_ill_reduction_atomic : (.redg hT .exch ⟨0, 0, 0⟩ (.long ⟨.s 0, .opd (.v 1), 0, some 0⟩ (.v 2)) : Instr).wf = false := by decide
theorem test_ill_cctl_all : (.cctlWb hT true xA : Instr).wf = false := by decide
theorem test_ill_fence_order : (.fence hT 0 3 : Instr).wf = false := by decide
theorem test_ill_fence_scope : (.fence hT 1 6 : Instr).wf = false := by decide
theorem test_ill_acqr_scope : (.acqr hT 0 (.opd (.s 1)) : Instr).wf = false := by decide
theorem test_ill_tile_format : (.tld hT 2 false false 0 (.s 0) (.opd (.s 1)) none : Instr).wf = false := by decide
theorem test_ill_tile_x_format : (.tldX hT 8 false false 0 (.s 0) (.opd (.s 1)) none : Instr).wf = false := by decide
theorem test_ill_tile_header_format : (.tld hT 9 true false 0 (.s 0) (.opd (.s 1)) none : Instr).wf = false := by decide
theorem test_ill_accout_format : (.accout hT 2 0 0 (.k 0) : Instr).wf = false := by decide
theorem test_ill_accout_first : (.accout hT 19 1 0 (.k 0) : Instr).wf = false := by decide
theorem test_ill_accumulator_tag : (.ttagRd hT true 8 (.v 1) : Instr).wf = false := by decide
theorem test_ill_band : (.xfwd hT 7 0 1 : Instr).wf = false := by decide
theorem test_ill_token_flag : (.chain ⟨false, 127, 1, 0⟩ 0 0 (.s 0) : Instr).wf = false := by decide
theorem test_ill_pair_banks : (.pairFF hT ⟨0, 6, 5, 4, 0⟩ ⟨0, 5, 10, 8, 0⟩ : Instr).wf = false := by decide
theorem test_ill_pair_row : (.pairFF hT ⟨0, 6, 5, 4, 15⟩ ⟨0, 5, 10, 9, 0⟩ : Instr).wf = false := by decide
theorem test_ill_pair_ports : (.pairFF hT ⟨0, 2, 1, 4, 0⟩ ⟨0, 4, 3, 9, 0⟩ : Instr).wf = false := by decide
theorem test_ill_ftinfo : (.ftinfo hT 5 (.s 1) (.opd (.v 0)) : Instr).wf = false := by decide
theorem test_ill_enqueue_scope : (.qcommit hT 2 (.s 2) (.s 4) (.s 6) : Instr).wf = false := by decide
theorem test_ill_decw_signed : (.decwDlt ⟨false, 127, 0, 0⟩ 0 true (.v 1) (.s 2) (.s 3) 7 : Instr).wf = false := by decide

/-! Single steps, worked by hand from the rules. -/

/-- A running device whose next step runs the instruction of these words on core 0. -/
def put (w0 w1 w2 : Nat) : State := { State.reset.withFetchWord 96 (w0 + 2 ^ 32 * w1 + 2 ^ 64 * w2) with devstate := 2 }
def W : State := put 0 0 0
/-- The same with vector registers (register × 64 + lane) and S registers set. -/
def withV (s : State) (l : List (Nat × Word)) : State :=
  s.modGroup 0 0 (fun g => { g with v := l.foldl (fun t x => t.putD 0 x.1 x.2) g.v })
def withS (s : State) (l : List (Nat × Word)) : State :=
  s.modGroup 0 0 (fun g => { g with s := l.foldl (fun t x => t.putD 0 x.1 x.2) g.s })
def nextOf (o : Out) : State := match o with | .next t => t | _ => State.reset
def isNext (o : Out) : Bool := match o with | .next _ => true | _ => false
/-- The first register write that stands in core 0's operations. -/
def firstWrite (t : State) : Option RegWrite := ((t.core 0).ops.head?.map (·.writes)).bind List.head?

/-- IADD V1, V2, V3 wraps (spec/04 R104): word 0 OPC 0x000, LEN 0b01; word 1 B 3, A 2, D 1. -/
theorem test_step_iadd_wraps : firstWrite (nextOf (step (withV (put 0x007F0001 0x000C0401 0) [(128, 0xFFFFFFFF), (192, 3)]))) =
    some ⟨.v, 1, 0, 2⟩ := by decide
/-- IADD.SAT stops at the largest INT32 (spec/04 R108). -/
theorem test_step_iadd_sat : firstWrite (nextOf (step (withV (put 0x087F0001 0x000C0401 0) [(128, 0x7FFFFFFF), (192, 1)]))) =
    some ⟨.v, 1, 0, 0x7FFFFFFF⟩ := by decide
/-- LOGT with 0x96 is the three-way exclusive OR (the example of spec/04). -/
theorem test_logt_xor3 : logt 0x96 0x0F0F0F0F 0x33333333 0x55555555 = 0x0F0F0F0F ^^^ 0x33333333 ^^^ 0x55555555 := by decide
/-- 1.0 + 2.0 is 3.0. -/
theorem test_fadd : firstWrite (nextOf (exec (.fadd hT .f32 xF xB) (withV W [(128, 0x3F800000), (192, 0x40000000)]))) =
    some ⟨.v, 1, 0, 0x40400000⟩ := by decide
/-- A sum that overflows FP32 is infinite in round to nearest, with OFC and IXC (spec/01 R27). -/
theorem test_fadd_overflow : firstWrite (nextOf (exec (.fadd hT .f32 xF xB) (withV W [(128, 0x7F7FFFFF), (192, 0x7F7FFFFF)]))) =
    some ⟨.v, 1, 0, 0x7F800000⟩ := by decide
/-- The reciprocal of 2.0 is 0.5. -/
theorem test_frcp : firstWrite (nextOf (exec (.frcp hT .f32 false false ⟨.v 1, .v 2⟩) (withV W [(128, 0x40000000)]))) =
    some ⟨.v, 1, 0, 0x3F000000⟩ := by decide
/-- QSWP.H gives lane 0 the value of lane 1 (spec/05 R129). -/
theorem test_qswpH : firstWrite (nextOf (exec (.qswpH hT ⟨.v 1, .v 2⟩) (withV W [(128, 5), (129, 6)]))) = some ⟨.v, 1, 0, 6⟩ := by
  decide
/-- ISHR by 32 leaves nothing (spec/04 R106). -/
theorem test_ishr_32 : firstWrite (nextOf (exec (.ishr hT xB) (withV W [(128, 0xFFFFFFFF), (192, 32)]))) = some ⟨.v, 1, 0, 0⟩ := by
  decide
/-- A load of 32 bits reads its bytes least significant first (spec/00 R6): the clause header of the placed program. -/
theorem test_ldg : firstWrite (nextOf (exec (.ldg hT xM (.v 1) ⟨.s 0, .imm9 0, 0, none⟩) (withS W [(0, 0x1000)]))) =
    some ⟨.v, 1, 0, 0xA0100000⟩ := by decide
/-- A store's bytes wait in the group's queue. -/
theorem test_stg : (((nextOf (exec (.stg hT xM (.v 2) ⟨.s 0, .opd (.v 1), 0, none⟩)
    (withV W [(64, 4), (128, 0x11223344)]))).core 0).sq.length, ((nextOf (exec (.stg hT xM (.v 2) ⟨.s 0, .opd (.v 1), 0, none⟩)
    (withV W [(64, 4), (128, 0x11223344)]))).byteAt false 4)) = (1, 0) := by decide
/-- A misaligned lane traps: cause 9; with no handler the launch ends with status 7 (spec/06 R155, spec/05 R146). -/
theorem test_misaligned : ((nextOf (exec (.ldg hT xM (.v 1) ⟨.s 0, .imm9 2, 0, none⟩) W)).launches.look 0).bind (·.status) = some 7 := by
  decide
/-- TRAP with a handler enters it with the code in FADDR and cause 22. -/
theorem test_trap : (((nextOf (exec (.trap hT 0x5A) (W.modLaunch 0 (fun x => { x with hdr := { x.hdr with handler := 4 } })))).group? 0 0).map
    (fun g => (g.trapCause, g.faddr, g.slot0.pc, g.inHandler))) = some (22, 0x5A, 0x1010, true) := by decide
/-- EXIT of every lane ends the group. -/
theorem test_exit : ((nextOf (exec (.exit hT) W)).group? 0 0).map (·.ended) ≠ some false := by decide
/-- EVINC adds to the partition's event (spec/14 R348). -/
theorem test_evinc : (nextOf (exec (.evinc hT 3 (.imm9 5)) W)).counters.lookD 0 195 = 5 := by decide
/-- SWRSR writes FPCR's five bits (spec/01 R34). -/
theorem test_swrsr : ((nextOf (exec (.swrsr hT 0x0D (.imm9 0x1FF)) W)).group? 0 0).map (·.fpcr) = some 0x1F := by decide
/-- TTRN, TZERO: the tag of a zeroed tile is a reset tile's (spec/08 R213). -/
theorem test_tzero : ((nextOf (exec (.tzeroTile hT 2) W)).group? 0 0).map (fun g => g.tagOf 2) = some 0x20000A := by decide
/-- A write to PLIM is held within 150 and 600 W (spec/17 R409). -/
theorem test_plim : (nextOf (exec (.registerWrite 8 700 false) W)).plim = 600 ∧ (nextOf (exec (.registerWrite 8 3 false) W)).plim = 150 := by
  decide
/-- A barrier object initialised to 2 and arrived at twice completes its phase (spec/10 R269). -/
theorem test_barrier : (((W.objEvent 1024 (.init 2)).objEvent 1024 (.arrive 2)).obj 1024) = ⟨2, 2, 0, false, true, 1⟩ := by decide
/-- IDP2 takes an immediate in both halves (spec/04 R100): 1 × 3 + 2 × 3. -/
theorem test_idp2_immediate : firstWrite (nextOf (exec (.idp2 hT false ⟨.v 1, .v 2, .imm9 3, .v 3⟩) (withV W [(128, 0x20001)]))) =
    some ⟨.v, 1, 0, 9⟩ := by decide
/-- The pair word's FMIN with .SAT gives the largest finite value for infinity (spec/03 R87, spec/01 R24). -/
theorem test_pair_fmin_sat : (pairF ⟨1, 3, 2, 1, 3⟩ 0 0x7F800000 0x7F800000 0).1 = 0x7F7FFFFF := by decide
/-- A reserved MFMT takes ILLEGAL_FORMAT though nothing is converted (spec/01 R10). -/
theorem test_reserved_format : (((nextOf (exec (.ldg hT ⟨0, 31, false⟩ (.v 1) xA) (W.modLaunch 0 (fun x =>
    { x with hdr := { x.hdr with handler := 4 } })))).group? 0 0).map (·.trapCause)) = some 5 := by decide

/-! Premises met. Each theorem below gives a state and operands, at an end of their range, that meet the premises of a statement or of
one of its clauses together. -/

theorem W_env : W.env?.isSome = true := by decide
def E0 : Env := W.env?.get W_env
/-- The stream that State.cur names. -/
def E (s : State) : Env := s.env?.getD E0
/-- The instruction may issue. -/
def may (i : Instr) (s : State) : Bool :=
  s.stuck == none && (match s.env?, i.checks? s with
    | some e, some (h, c) => (e.failed h (c e)).isNone && !e.flagFull h (c e).tok && !(c e).hold && !e.stallBad h (c e)
    | _, _ => false)

theorem issues_of {i : Instr} {s : State} {h : Hdr} (hh : (i.checks? s).map (·.1) = some h) (hm : may i s = true) :
    i.Issues s (E s) h := by
  simp only [may] at hm
  cases he : s.env? with
  | none => simp [he] at hm
  | some e =>
    cases hc : i.checks? s with
    | none => simp [hc] at hh
    | some x =>
      obtain ⟨h', c⟩ := x
      simp only [hc, Option.map_some, Option.some.injEq] at hh
      subst hh
      simp only [he, hc, Bool.and_eq_true, Option.isNone_iff_eq_none, beq_iff_eq, Bool.not_eq_true'] at hm
      have hE : E s = e := by simp [E, he]
      exact ⟨c, hc, by rw [hE]; exact ⟨hm.1, he, hm.2.1.1.1, hm.2.1.1.2, hm.2.1.2, hm.2.2⟩⟩

/-- A guard that is false in every lane: P0, at zero. -/
def hF : Hdr := ⟨false, 0, 0, 0⟩
/-- Flag A, which the placed clause names as flag 0. -/
def hA : Hdr := ⟨false, 127, 1, 0⟩

/-! The step, the checks, traps and completions -/

theorem test_meets_decoding : (Instr.iadd hT ⟨true, true⟩ ⟨.v 319, .k 15, .imm32 0xFFFFFFFF⟩).wf = true ∧
    (encode (.iadd hT ⟨true, true⟩ ⟨.v 319, .k 15, .imm32 0xFFFFFFFF⟩)).isSome = true ∧ wordsOf 0x007F0896 = .ok 3 ∧
    wordsOf 0x007F07FC = .error .illegalOpcode := ⟨by decide, by decide, rfl, rfl⟩

/-- A state whose turn is an issue that finds these words. -/
def issuing (w0 w1 w2 : Nat) : State := { put w0 w1 w2 with agenda := [] }
def fetched (s : State) (k : Nat) : FetchRes := (s.fetchWord (E s) ((E s).sl.pc + BitVec.ofNat 64 (4 * k))).2
theorem test_meets_step_turn : (put 0 0 0).agenda = [.issue 0 0] ∧ (put 0 0 0).stuck = none ∧ (put 0 0 0).life.frozen = false ∧
    (put 0 0 0).life.stopped = false ∧ (issuing 0 0 0).choose 0 0 = some (0, 0) ∧
    (((issuing 0 0 0).enterClause 0 0 0).envAt 0 0 0 1).isSome = true := by decide
theorem test_meets_step_one_word : fetched (issuing 0x007F03E4 0 0) 0 = .word 0x007F03E4 ∧ wordsOf 0x007F03E4 = .ok 1 ∧
    decodeWords 0x007F03E4 0 0 = .ok (.nop hT) := ⟨by decide, rfl, rfl⟩
theorem test_meets_step_two_words : fetched (issuing 0x007F0381 0x28541 0) 0 = .word 0x007F0381 ∧
    fetched (issuing 0x007F0381 0x28541 0) 1 = .word 0x28541 ∧ wordsOf 0x007F0381 = .ok 2 := ⟨by decide, by decide, rfl⟩
theorem test_meets_step_three_words : fetched (issuing 0x007F0896 0x00180A04 0x00012C07) 0 = .word 0x007F0896 ∧
    fetched (issuing 0x007F0896 0x00180A04 0x00012C07) 1 = .word 0x00180A04 ∧
    fetched (issuing 0x007F0896 0x00180A04 0x00012C07) 2 = .word 0x00012C07 ∧ wordsOf 0x007F0896 = .ok 3 :=
  ⟨by decide, by decide, by decide, rfl⟩
theorem test_meets_step_no_instruction : fetched (issuing 0x007F07FC 0 0) 0 = .word 0x007F07FC ∧
    wordsOf 0x007F07FC = .error .illegalOpcode ∧ wordsOf 0x017F03E4 = .ok 1 ∧
    decodeWords 0x017F03E4 0 0 = .error .illegalInstruction := ⟨by decide, rfl, rfl, rfl⟩
def noExec : State := W.modCluster 0 (fun k => { k with tlb := k.tlb.map (fun t => { t with leaf := 0x63 }) })
theorem test_meets_step_fatal : (match fetched noExec 0 with | .fatal _ => true | _ => false) = true := by decide
theorem test_meets_step_events : isEvent (.clkAdvance 0) = true ∧ W.admits (.clkAdvance 0) = true ∧ isEvent (.nop hT) = false ∧
    ({ W with life := { W.life with frozen := true } } : State).admits (.clkAdvance 0) = false := by decide

theorem test_meets_failing_check : ((Instr.srdsr hT 0x1C (.v 319)).checks? W).map (fun x => (x.1, (E W).failed x.1 (x.2 (E W)))) =
    some (hT, some (4, 0xFFFFFFFFFFFFFFFF)) := by decide
def full : State := W.modGroup 0 0 (fun g => { g with flags := [(0, 63)] })
theorem test_meets_full_flag : ((Instr.nop hA).checks? full).map (fun x =>
    ((E full).failed x.1 (x.2 (E full)), (E full).flagFull x.1 (x.2 (E full)).tok)) = some (none, true) := by decide

theorem test_meets_invariant : (State.reset.sound ∧ ({ State.reset with plim := 150, vssize := 384, devstate := 0x305 } : State).sound) ∧
    isNext (step State.reset) = true := by unfold State.sound State.memOk; decide

/-- A launch with a handler at code offset 4. -/
def handled : State := W.modLaunch 0 (fun x => { x with hdr := { x.hdr with handler := 4 } })
theorem test_meets_trap : (handled.group? 0 0).isSome = true ∧ (handled.khdr 0).handler ≠ 0 ∧
    (handled.group? 0 0).map (fun g => (g.launch, g.inHandler)) = some (0, false) ∧ (255 : Nat) < 256 ∧ (1 : Nat) < 2 := by decide
theorem test_meets_trap_unhandled : (W.khdr 0).handler = 0 ∧ (W.launches.look 0).map (·.status) = some none := by decide
theorem test_meets_trap_in_handler : let s := handled.modGroup 0 0 (fun g => { g with inHandler := true })
    (s.group? 0 0).map (fun g => (g.launch, g.inHandler)) = some (0, true) ∧ (s.khdr 0).handler ≠ 0 ∧
    (s.launches.look 0).map (·.status) = some none := by decide

def theOp : Op := { E0.op W (some 0) .data with writes := [⟨.v, 319, 63, 1⟩, ⟨.s, 63, 0, 2⟩, ⟨.p, 95, 63, 1⟩], fl := 1 }
theorem test_meets_completion : (W.opGroup 0 theOp).isSome = true ∧ (theOp.writes.all (fun w => decide (w.lane < 64))) = true ∧
    theOp.flag = some 0 := by decide

theorem test_meets_lane_frame : may (.iadd hA ⟨false, false⟩ ⟨.v 319, .k 15, .opd (.v 0)⟩) W = true ∧ (E W).g.fpcr.getLsbD 4 = false := by
  decide

/-! Memory, atomics and barrier objects -/

/-- Its accesses meet what MisalignedAccessesTrap and MemoryInstructionsComplete ask. -/
def free (i : Instr) (s : State) : Bool := match i.memOp? (E s) with
  | none => false
  | some (m, _) => !(s.core 0).acqPending (E s).ctx (E s).g.uid && !(E s).siblingPends &&
    m.lanes.all (fun l => !s.scratchWaits (E s) l.addr.toNat m.size && !s.ownStore (E s) l && !s.overAtomic (E s) m l) &&
    !s.logFull (E s).g && !s.heldBack (E s) && !(s.core 0).throttle.permitted.contains (E s).ctx && s.watchMem (E s) m == (s, false)
def lanesAligned (i : Instr) (s : State) : Option (Nat × Bool) := (i.memOp? (E s)).map (fun x =>
  (x.1.lanes.length, x.1.lanes.all (fun l => l.addr.toNat % x.1.size == 0)))
/-- Every lane of the instruction comes out done. -/
def lanesDone (i : Instr) (s : State) (h : Hdr) : Bool := match i.memOp? (E s) with
  | none => false
  | some (m, fl) =>
    let b := m.belays (m.begun s (E s) h fl) (E s)
    let r := m.run b.1 (E s) b.2
    r.2.all (fun x => x.isDone) && r.1.stuck == none && s.watchMem (E s) m == (s, false)
def ldg2 : Instr := .ldg hT xM (.v 1) ⟨.s 0, .imm9 2, 0, none⟩
def ldg0 : Instr := .ldg hT xM (.v 319) ⟨.s 0, .opd (.v 1), 0, none⟩
theorem test_meets_misaligned : may ldg2 W = true ∧ free ldg2 W = true ∧ lanesAligned ldg2 W = some (64, false) := by decide
theorem test_meets_load : may ldg0 W = true ∧ free ldg0 W = true ∧ lanesAligned ldg0 W = some (64, true) ∧
    lanesDone ldg0 W hT = true := by decide
def stg0 : Instr := .stg hA xM (.v 319) ⟨.s 0, .opd (.v 1), 0, none⟩
theorem test_meets_store : may stg0 W = true ∧ free stg0 W = true ∧ lanesAligned stg0 W = some (64, true) ∧
    lanesDone stg0 W hA = true := by decide
def strel0 : Instr := .strel hT 0 5 (.v 2) ⟨.s 0, .opd (.v 1), 0, none⟩
theorem test_meets_release : may strel0 W = true ∧ free strel0 W = true ∧ strel0.releases? = some 5 ∧ W.release E0 5 true = .go ∧
    lanesDone strel0 W hT = true := by decide
theorem test_meets_no_lanes : may (.ldg hF xM (.v 1) xA) W = true ∧ lanesAligned (.ldg hF xM (.v 1) xA) W = some (0, true) := by decide
def atomg0 : Instr := .atomg hT .add ⟨0, 5, 3⟩ (.v 318) (.long ⟨.s 0, .opd (.v 1), 4, some 0⟩ (.v 2))
theorem test_meets_atomic : may atomg0 W = true ∧ free atomg0 W = true ∧ lanesAligned atomg0 W = some (64, true) ∧
    lanesDone atomg0 W hT = true := by decide

theorem test_meets_coherent_write : (∀ c ∈ [((2 ^ 35 - 1 : Nat), (1 : Byte)), (2 ^ 35, 2)], c.1 ≠ 0) ∧ W.memOk ∧ W.baseCamp = false ∧
    (W.groups.look 0).isSome = true := by unfold State.memOk; decide

def bar (e p b : Nat) (x : Bool) : State := W.setObj (2 ^ 20 - 16) ⟨e, p, b, x, true, 0xFFFFFFFF⟩
theorem test_meets_barrier_objects : (2 ^ 20 - 16) % 2 ^ 20 + 16 ≤ 2 ^ 20 ∧
    (bar 65535 1 0 false).obj (2 ^ 20 - 16) = ⟨65535, 1, 0, false, true, 0xFFFFFFFF⟩ ∧
    (bar 65535 65535 (2 ^ 28 - 1) true).obj (2 ^ 20 - 16) = ⟨65535, 65535, 2 ^ 28 - 1, true, true, 0xFFFFFFFF⟩ ∧
    (bar 2 0 (2 ^ 28 - 1) false).obj (2 ^ 20 - 16) = ⟨2, 0, 2 ^ 28 - 1, false, true, 0xFFFFFFFF⟩ := by decide
theorem test_meets_swizzle : swizzle 3 (2 ^ 18 - 1) = 2 ^ 18 - 1 - 64 ∧ swizzle 1 0x90 = 0x80 := by decide
theorem test_meets_narrow_formats : e8m0Value 0xFE = .fin false 1 127 ∧ FFmt.e2m1.decode 15 = .fin true 3 1 := by decide
theorem test_meets_fclass : may (.fclass hT .f32 ⟨.v 319, .v 2⟩) W = true ∧ may (.fclass hT .h2 ⟨.v 0, .v 319⟩) W = true ∧
    E0.active hT ≠ [] := by decide
theorem test_meets_bclr : may (.bclr hT) W = true ∧ E0.lead hT = true ∧ W.baseCamp = false := by decide
theorem test_meets_no_stop : (Instr.nop hT).setsDevice = false ∧ W.stuck = none ∧ W.baseCamp = false ∧ W.env?.isSome = true := by decide

def frozen (u : Turn) : State := { W with life := { W.life with frozen := true }, agenda := [u] }
theorem test_meets_frozen : isNext (step (frozen (.event (.clkAdvance 0)))) = true ∧
    (nextOf (step (frozen (.event (.securityAlarm 1))))).devSt = 4 := by decide
theorem test_meets_special_registers : W.env? = some (E W) ∧ (E W).badFsel hT none = false ∧ 0x1C ≤ (0xFF : BitVec 8).toNat ∧
    (0x11 : BitVec 8).toNat ∉ [0x0D, 0x0E, 0x0F, 0x10, 0x18] := by decide

/-! Lane and uniform instructions: all may issue, with a lane active. -/

def o319 : DAB := ⟨.v 319, .k 15, .opd (.s 63)⟩
theorem test_meets_lane_rules : [Instr.iadd hA ⟨true, true⟩ o319, .isubb hT ⟨.v 1, .v 2, .imm9 0x1FF, .p 95⟩ 95, .imadwS hT ⟨.v 318, .v 2, .opd (.v 3), .v 4⟩,
    .isetS hT 5 ⟨.p 95, .v 1, .imm9 0⟩, .shfR hT ⟨.v 1, .v 2, .opd (.v 3), .k 1⟩, .pset hT ⟨.p 0, .v 2, .opd (.v 3), .v 4⟩ 255,
    .iminH2 hT true o319, .pairFI hT ⟨0, 6, 5, 4, 0⟩ ⟨0, 5, 10, 9, 0⟩, .fadd hT .b2 xF o319, .cfma hT .c16 ⟨false, false, false, false, 0⟩ xC,
    .fgelu hA .h2 true true ⟨.v 319, .v 2⟩, .cvtf hT ⟨true, 4⟩ (.v 1) (.v 2) (.v 3) ⟨13, 9, 7, 1⟩,
    .packmx hT 3 13 ⟨false, 0⟩ (.v 1) (.v 2) (.v 3), .unpkt5 hT 4 ⟨.v 1, .v 2⟩, .qswpD hT ⟨.v 319, .v 2⟩, .shfl hT .idx 6 xB,
    .shfl hT .xor 0 xB, .lred hT .add false true ⟨.v 1, .v 2⟩, .lscan hT .max true true ⟨.v 1, .v 2⟩].all (fun i =>
      may i W && (match i.shape? with | some x => !(E0.active x.h).isEmpty | none => false)) = true := by decide
theorem test_meets_fmttrap_off : E0.fmtTraps [] = false := by decide
theorem test_meets_uniform_rules : [Instr.sadd hT ⟨true, true⟩ ⟨.s 63, .k 15, .imm32 7⟩, .sadd64 hT ⟨.s 62, .s 0, .opd (.s 2)⟩,
    .slea hT true 7 ⟨.s 62, .s 0, .opd (.s 63)⟩, .smovi hT (.s 0) 1].all (fun i => may i W) = true ∧ E0.active hT ≠ [] := by decide
theorem test_meets_uniform_moves : [Instr.s2v hT ⟨.v 319, .s 63⟩, .s2v hT ⟨.p 95, .s 0⟩, .v2s hT ⟨.s 63, .v 319⟩, .srdsr hT 0x1B (.v 319),
    .srdsr hT 0x0B (.s 63), .srdsr hT 0 (.v 0), .swrsr hT 0x18 (.opd (.v 1)), .swrsr hT 0x0D (.imm9 1)].all (fun i => may i W) = true ∧
    (E0.active hT).head? = some 0 := by decide

/-! Control flow -/

def fetches (s : State) (a : DWord) (ok : Bool) (reg : Bool) : Bool :=
  match s.fetchWord (E s) a with
  | (t, .word w) => t.stuck == none && t.env? == some (E s) && (headerOk w && (E s).regionOk w a false) == ok && (!reg || a.toNat % 4 == 0)
  | _ => false
theorem test_meets_moves : fetches W 0x1000 true true = true ∧ fetches W 0x1004 false true = true ∧ ¬((0x1002 : DWord).toNat % 4 = 0) := by
  decide
theorem test_meets_transfers : [Instr.bra hT true 0, .bra hF false 0x7FFFFFF, .brau hT 0, .brau hF 0, .brx hT (.s 63), .brx hF (.s 0), .call hT 63 0,
    .call hF 0 0, .callx hT 63 (.s 0), .callx hF 63 (.s 0), .ret hT 63, .ret hF 0, .join hT, .join hF, .loop hT 63 0, .loop hF 0 0].all
    (fun i => may i W) = true ∧ E0.lead hT = true ∧ E0.lead hF = false ∧ (lanesOf E0.sl.mask).any (E0.guard hT) = true ∧
    (lanesOf E0.sl.mask).all (E0.guard hF) = false ∧ E0.sl.reconv = 0 ∧ E0.sreg 63 ≠ 1 := by decide
theorem test_meets_loop_end : (E (withS W [(63, 1)])).sreg 63 = 1 ∧ may (.loop hT 63 0) (withS W [(63, 1)]) = true := by decide
def joined : State := W.modSlot 0 0 0 (fun sl => { sl with reconv := 0xFFFFFFFF })
theorem test_meets_join : may (.join hT) joined = true ∧ (E joined).sl.reconv ≠ 0 := by decide

/-- A second group of the partition, whose slot may issue. -/
def two : State := { W with groups := W.groups.put 1 { placedGroup 0 1 9 0 with grpid := 4 }, cur := { W.cur with others := [2] } }
theorem test_meets_flow : [Instr.nop hT, .yield hT, .trap hT 255, .trap hF 0, .bkpt hT 255, .bkpt hF 0, .mark hT 255, .markImm hT 0 0xFFFFFFFF,
    .exit hT, .exit hF].all (fun i => may i W) = true ∧ W.cur.others = [] ∧ two.others 0 0 0 0 (.yield hT) = [2] ∧ two.cur.others = [2] ∧
    may (.yield hT) two = true ∧ E0.active hT ≠ [] ∧ E0.active hF = [] ∧ E0.g.owners = [] := by decide
def stopping : State := (W.modCluster 0 (fun k => { k with dbgctl := 0x10003 })).modRope 2 (fun r => { r with real := true })
theorem test_meets_flow_stops : (stopping.stopsOn 0 1 && (stopping.cluster 0).dbgctl.getLsbD 1) = true ∧ (W.stopsOn 0 1) = false ∧
    may (.bkpt hT 1) stopping = true := by decide
def traced : State := W.modLaunch 0 (fun x => { x with trace := true })
theorem test_meets_flow_trace : ((traced.launches.look 0).any (fun l => l.trace)) = true ∧ (W.launches.look 0).any (fun l => l.trace) = false ∧
    may (.mark hT 0) traced = true := by decide

/-- P1 is true in lane 63 only. -/
def hS : Hdr := ⟨false, 1, 0, 0⟩
def some63 : State := W.modGroup 0 0 (fun g => { g with p := [(1, 0x8000000000000000)] })
def splitOf (s : State) (h : Hdr) : DWord := maskOf ((lanesOf (E s).sl.mask).filter ((E s).guard h))
theorem test_meets_divergence : may (.braDivergent hF 0 1) W = true ∧ splitOf W hF = 0 ∧ splitOf W hT = (E W).sl.mask ∧
    splitOf some63 hS = 0x8000000000000000 ∧ may (.braDivergent hS 0x7FFFFFF 1) some63 = true ∧ (E some63).g.slot1.valid = false ∧
    (E some63).sl.reconv = 0 := by decide
def deep (d : Nat) : State := some63.modGroup 0 0 (fun g => { g with depth := d, slot0 := { g.slot0 with reconv := 1 } })
theorem test_meets_divergence_push : may (.braDivergent hS 0x7FFFFFF 1) (deep 63) = true ∧ (E (deep 63)).sl.reconv ≠ 0 ∧
    (E (deep 63)).g.depth < (E (deep 63)).k.dstk ∧ ((deep 63).entryPlace (E (deep 63)) 63).2.1.isSome = true ∧
    (E (deep 64)).k.dstk ≤ (E (deep 64)).g.depth ∧ may (.braDivergent hS 0x7FFFFFF 1) (deep 64) = true := by decide
def trapped (m : DWord) (hd : Bool) : State := W.modGroup 0 0 (fun g => { g with
  inHandler := true, trapCtx := some ⟨0, 0x1000, 0, 0x1004, 0xA0100000, m, 0, hd, true, false, 1, none⟩ })
theorem test_meets_tret : may (.tret hT) (trapped 1 false) = true ∧ may (.tretSkip hT) (trapped 1 true) = true ∧
    (E (trapped 1 false)).lead hT = true ∧ (E (trapped 1 false)).g.save ≠ .saving ∧ (1 : DWord) &&& (E (trapped 1 false)).g.live ≠ 0 ∧
    may (.tret hF) W = true ∧ may (.tret hT) (W.modGroup 0 0 (fun g => { g with save := .saving, inHandler := true })) = true := by decide
theorem test_meets_qhelp : may (.qhelp hT ⟨.p 95, .v 319⟩) W = true ∧ may (.qhelp hF ⟨.p 95, .v 319⟩) W = true ∧ E0.active hT ≠ [] ∧
    Group.emptyQuads E0.sl.mask E0.g.launched ≠ E0.sl.mask := by decide

/-! Ordering, barriers and queues -/

def struckEntry : State := W.modGroup 0 0 (fun g => { g with lostStruck := true })
theorem test_meets_ordering : [Instr.bchk hT 0, .bclr hT, .fence hT 3 5, .fence hT 1 0, .fence hT 2 0, .acqr hT 5 (.opd (.s 63)), .await hT,
    .prefL2 hT ⟨.s 0, .opd (.v 1), 0, none⟩, .prefLlc hT ⟨.s 62, .opd (.v 319), 4, some 0x7FFFFF⟩, .gpref hF xA].all (fun i => may i W) = true ∧
    (W.core 0).belayPending 0 = false ∧ W.release E0 5 true = .go ∧ (W.core 0).atomPending 0 3 = false ∧
    may (.bchk hT 0x7FFFFFF) struckEntry = true ∧ ((struckEntry.core 0).belayStruck 0 || (E struckEntry).g.lostStruck) = true ∧
    ((W.core 0).belayStruck 0 || (E W).g.lostStruck) = false := by decide
def armed : State := W.modGroup 0 0 (fun g => { g with monitor := .armed 0 0 })
theorem test_meets_await : may (.await hT) armed = true ∧ (E armed).g.monitor = .armed 0 0 ∧ (E W).g.monitor = .idle := by decide
/-- The last object of the placed workgroup's carve-out. -/
def atEnd (s : State) : State := withS s [(0, 28 * 32 * 384 - 16), (63, 65535)]
theorem test_meets_objects : (match (atEnd W).objPlace (E (atEnd W)) (28 * 32 * 384 - 16) with | .inl _ => true | .inr _ => false) = true ∧
    [Instr.binit hT (.s 0) (.opd (.s 63)), .bexp hT (.s 0) (.opd (.s 63)), .binval hT (.s 0), .barv hT false 4 (.v 0) (.s 0) (.imm9 1),
     .barv hT true 0 (.s 63) (.s 0) (.imm9 1), .btry hT 4 (.p 95) (.s 0) (.k 0), .bwait hT 4 (.s 0) (.k 0)].all
      (fun i => may i (atEnd W)) = true ∧ (atEnd W).scratchWaits (E (atEnd W)) (28 * 32 * 384 - 16) 16 = false ∧ (E (atEnd W)).siblingPends = false ∧ (E (atEnd W)).hasLaunched = true ∧
    (atEnd W).release (E (atEnd W)) 4 true = .go := by decide
def objAt (x : Bool) : State := (atEnd W).setObj (28 * 32 * 384 - 16) ⟨1, 1, 0, x, true, 0⟩
theorem test_meets_waits : ((objAt false).obj (28 * 32 * 384 - 16)).poison = false ∧ ((objAt false).obj (28 * 32 * 384 - 16)).pcount = 0 ∧
    ((objAt true).obj (28 * 32 * 384 - 16)).poison = true := by decide
def roped : State := W.modLaunch 0 (fun x => { x with hdr := { x.hdr with rk := 1 } })
theorem test_meets_barriers : may (.barwg hT 3 4) W = true ∧ may (.barrp hT 3) roped = true ∧ roped.release (E roped) 3 true = .go ∧ W.release E0 4 true = .go ∧
    W.release E0 3 true = .go := by decide


/-- A queue table at 128 KiB whose queue 1023 belongs to ASID 1, with a ring of SIZE packets, and an image of a packet at 0x2000. -/
def qdescOf (size widx ridx : Nat) : List (Nat × Byte) := cellsFrom (0x20000 + 1023 * 128) (leBytes 8 0x100000 ++ leBytes 4 size ++
  leBytes 4 0x10400001 ++ leBytes 8 widx ++ leBytes 8 ridx)
def withQueue (size widx ridx : Nat) (l : List (Nat × Word)) : State :=
  withS { W with qtabbase := 0x20000, mem := Memory.writes W.mem (qdescOf size widx ridx) } ((0, 1023) :: l)
def qFull : State := withQueue 65536 3 3 [(2, 16383), (3, 0), (62, 0x2000), (63, 0), (4, 64), (5, 8)]
theorem test_meets_queue : qFull.queueBad (E qFull) 1023 = false ∧ (qFull.qdesc 1023).size = 65536 ∧
    may (.qresv hT 127 (.s 62) (.s 0) (.imm9 64)) qFull = true ∧ may (.qresv hT 95 (.s 62) (.s 0) (.opd (.s 4))) qFull = true ∧
    may (.qcommit hT 4 (.s 0) (.s 2) (.s 5)) qFull = true ∧ qFull.release (E qFull) 4 true = .go ∧
    (match (qFull.writePlace (E qFull) ((qFull.qdesc 1023).slotVa ((E qFull).wide .i64 (.s 2) 0).toNat)) with
      | (_, some _, .done _) => true | _ => false) = true := by decide
theorem test_meets_qput : may (.qput hT (.s 0) (.s 2) (.s 62)) qFull = true ∧ ((E qFull).wide .i64 (.s 62) 0).toNat % 64 = 0 ∧
    (qFull.core 0).acqPending 0 (E qFull).g.uid = false ∧ (E qFull).siblingPends = false ∧ (match
      qFull.loadBytes (E qFull) 0x2004 60 { alloc := some .glob, fly := false, victim := false } with
      | (s1, .done _) => (match s1.writePlace (E qFull) ((s1.qdesc 1023).slotVa 16383 + 4) with
        | (_, some _, .done _) => true | _ => false)
      | _ => false) = true := by decide
theorem test_meets_qsig : may (.qsig hT true 4 (.s 62) (.k 1)) qFull = true ∧ may (.qsig hT false 5 (.s 62) (.s 2)) qFull = true ∧
    (match qFull.writePlace (E qFull) 0x2000 with | (_, some _, .done _) => true | _ => false) = true := by decide

/-! Tiles, accumulators, quartets -/

def withTags (ts : List (Nat × BitVec 128)) (as : List (Nat × BitVec 64)) (l : List (Nat × Word)) : State :=
  (withS W l).modGroup 0 0 (fun g => { g with tags := ts, atags := as })
/-- Tiles of FP16, real and spectral of C16, and of BF16 with exponent 127. -/
def tagged : State := withTags [(0, (Tag.plain 9).tile), (1, ({ Tag.plain 19 with dom := 1, blen := 5 } : Tag).tile),
  (15, ({ Tag.plain 10 with exp := 127 } : Tag).tile), (14, ({ Tag.plain 19 with dom := 1, blen := 5, exp := -128 } : Tag).tile)]
  [(0, 0), (7, 1)] [(0, 0x20000A), (63, 0x100000), (62, 31), (4, 10)]
theorem test_meets_tiles : [Instr.tzeroTile hT 15, .tzeroAcc hT 7, .tmov hT 15 0, .ttrn hT 14 0, .ttrn hT 0 1, .tbmp hT 15, .tbmp hT 1,
    .ttagRd hT true 7 (.v 319), .ttagRd hT false 15 (.s 63)].all (fun i => may i tagged) = true ∧ (E tagged).lead hT = true ∧
    (((E tagged).g.tag 0).fmt, ((E tagged).g.tag 0).dom, ((E tagged).g.tag 1).dom) = (9, 0, 1) := by decide
theorem test_meets_tag_writes : [Instr.ttagWr hT true 7 (.k 0), .ttagWr hT true 0 (.s 63), .ttagWr hT false 15 (.s 4),
    .ttagWr hT false 15 (.s 62)].all (fun i => may i tagged) = true ∧ accTagBad ((E tagged).word (.k 0) 0) = false ∧
    accTagBad ((E tagged).word (.s 63) 0) = true ∧ tagCause (((E tagged).word (.s 62) 0).setWidth 128) = some 5 ∧
    tagCause (((E tagged).word (.s 4) 0).setWidth 128) = none := by decide
theorem test_meets_accumulators : [Instr.accrd hT 0 7 (.v 319) (.imm9 0x1FF), .accrd hT 0 0 (.v 0) (.imm9 0), .accwr hT 0 7 (.v 319) (.imm9 63),
    .accwr hT 0 0 (.v 0) (.opd (.s 63)), .fbchk hT false (.p 95) (.s 60), .fbchk hT true (.p 0) (.s 0)].all (fun i => may i tagged) = true ∧
    (E tagged).active hT ≠ [] ∧ ((E tagged).g.atag 7).fresh = true ∧ ((E tagged).g.atag 0).fresh = false := by decide
theorem test_meets_transforms : [Instr.xfwd hT 0 7 15, .xfwd hT 1 7 15, .xinv hT false false 0 1, .xinv hT true true 0 14, .xinv hT false true 0 14].all
    (fun i => may i tagged) = true ∧ ((E tagged).g.tag 15).exp = 127 ∧ ((E tagged).g.tag 14).exp - ((E tagged).g.tag 14).blen < -128 := by decide
/-- A sum left in accumulators 0 and 1 as the planes of a complex tile, and in 2 and 3 with different exponents. -/
def summed : State := withTags [] [(0, 0x40), (1, 0x80040), (2, 0), (3, 0x800)] []
theorem test_meets_accout : [Instr.accout hT 19 0 15 (.k 0), .accout hT 9 2 0 (.s 63), .accout hT 0 2 0 (.s 63)].all (fun i => may i summed) = true ∧
    ((E summed).g.atag 0).dom = 1 ∧ ((E summed).g.atag 1).imag = true ∧ ((E summed).g.atag 0).imag = false ∧
    ((E summed).g.atag 3).exp = 1 ∧ accoutCount 0 = 2 := by decide
def headOf (r : TileArg) (e : Env) : List (Nat × Nat) := if r.hdr then [(r.adr e, 16)] else []
def rowsOf (r : TileArg) (e : Env) : List (Nat × Nat) := (tileRows r.x r.sp r.hdr r.fmt (r.adr e) (r.stride e)).chunks
def tld (r : TileArg) : Bool :=
  let e := E tagged
  let x := tagged.gather e r.sp true (headOf r e)
  let y := x.1.gather e r.sp true (rowsOf r e)
  r.misaligned e false == none && x.2.bad == none && y.2.bad == none &&
    (r.sp || (tagged.watchAccess e false true (headOf r e ++ rowsOf r e)).2 == false) &&
    (!r.sp || (headOf r e ++ rowsOf r e).all (fun c => !tagged.scratchWaits e c.1 c.2)) &&
    (!r.hdr || tagCause (BitVec.ofNat 128 (leNat x.2.bytes)) == none)
def tst (r : TileArg) : Bool :=
  let x := tagged.gatherPlaces (E tagged) r.sp (headOf r (E tagged) ++ rowsOf r (E tagged))
  r.misaligned (E tagged) true == none && x.2.2 == none &&
    (r.sp || (tagged.watchAccess (E tagged) true false (headOf r (E tagged) ++ rowsOf r (E tagged))).2 == false) &&
    (r.hdr || decide (((E tagged).g.tag r.t.toNat).fmt = r.fmt.toNat))
theorem test_meets_tile_memory : ((tagged.core 0).atomsQueued 0 (E tagged).g.uid || tagged.logFull (E tagged).g ||
    (tagged.core 0).acqPending 0 (E tagged).g.uid || (E tagged).siblingPends) = false ∧
    may (.tld hT 9 false false 15 (.s 2) (.imm9 0) none) tagged = true ∧ may (.tst hT 9 true false 0 (.s 2) (.imm9 0xF0) (some 0x100)) tagged = true ∧
    may (.tldX hT 8 true true 7 (.s 2) (.imm9 0) (some 0)) tagged = true ∧ may (.tstX hT 10 false true 15 (.s 2) (.imm9 0x80) none) tagged = true := by
  decide
theorem test_meets_tld : tld ⟨9, false, false, 15, .s 2, .imm9 0, none, false⟩ = true := by decide +kernel
theorem test_meets_tld_x : tld ⟨8, true, true, 7, .s 2, .imm9 0, some 0, true⟩ = true := by decide +kernel
theorem test_meets_tst : tst ⟨9, true, false, 0, .s 2, .imm9 0xF0, some 0x100, false⟩ = true := by decide +kernel
theorem test_meets_tst_x : tst ⟨10, false, true, 15, .s 2, .imm9 0x80, none, true⟩ = true := by decide +kernel
/-- A group of a kernel of four, with tiles 0 to 3 of FP16, E2M1 and spectral C16, and blocks of MMA and MMAF in S60 and S56. -/
def quad : State := (withTags [(0, (Tag.plain 9).tile), (14, (Tag.plain 13).tile), (15, (Tag.plain 13).tile),
    (3, (Tag.plain 18).tile), (4, ({ Tag.plain 19 with dom := 1, blen := 7 } : Tag).tile)] []
    [(60, 9 + 32 * 9 + 0x8000), (52, 13 + 32 * 18 + 0x2000), (56, 19 + 32 * 19), (59, 4 * 31)]).modLaunch 0 (fun x => { x with hdr := { x.hdr with groups := 4 } })
def scalesOf (s : State) (sf : Opd) : Bool :=
  let fb := (E s).blockWords sf
  let k := (pairK (blockAfmt (fb.headD 0)) (blockBfmt (fb.headD 0))).getD 32
  let as := scaleAddrs ((fb[1]?).getD 0) k (blockAblk (fb.headD 0)) ++ scaleAddrs ((fb[2]?).getD 0) k (blockBblk (fb.headD 0))
  s.scaleBad (E s) as == none && !s.scaleWaits (E s) as
theorem test_meets_quartet : [Instr.mma hT true 0 0 (.s 60), .mmas hT false 3 14 (.s 52), .mmaf hT 4 4 (.s 56), .mma hF false 15 15 (.s 0)].all
    (fun i => may i quad && may i W) = true ∧ 4 * ((E quad).g.grpid / 4) + 4 ≤ (E quad).k.groups ∧ ¬ 4 * (E0.g.grpid / 4) + 4 ≤ E0.k.groups ∧
    (E quad).lead hF = false ∧ ((E quad).mmaCause false 0 0 4 ((E quad).blockWords (.s 60))).isRight = true ∧
    ((E quad).mmaCause false 14 3 0 ((E quad).blockWords (.s 52))).isRight = true ∧
    ((E quad).mmafCause false 4 4 ((E quad).blockWords (.s 56))).isRight = true := by decide
theorem test_meets_scales : scalesOf quad (.s 60) = true ∧ scalesOf quad (.s 52) = true := by decide

/-! Engines, channels, fills -/

def engaged : State := withS W [(62, 344064 - 4096), (61, 344064 - 8), (60, 344064 - 768)]
theorem test_meets_engines : [Instr.chain hT 3 15 (.s 62), .chain hF 0 0 (.s 0), .topk hT 3 15 3 true (.s 62) (.imm9 1) (.s 61),
    .topk hF 0 0 0 false (.s 0) (.imm9 0) (.s 0), .resid hT 0 true 3 (.s 62) (.opd (.s 59)), .decwBit hT 3 true (.v 64) (.s 0) (.s 63) 255,
    .decwDlt hT 0 false (.v 0) (.s 63) (.s 0) 0, .decwRle hF 0 true (.v 0) (.s 0) (.s 0) 0, .bpop hT 3 (.v 319), .bpop hF 0 (.v 0),
    .cbld hT 3 (.s 60) (.imm9 0)].all (fun i => may i (withS engaged [(59, 1024)])) = true ∧ (E engaged).leads hT = true ∧ (E engaged).leads hF = false ∧
    engaged.rangeCause (E engaged) (344064 - 4096) 4096 8 = none ∧ engaged.rangeCause (E engaged) (344064 - 8) 8 8 = none ∧
    engaged.scratchWaits (E engaged) (344064 - 768) 768 = false ∧ (E engaged).siblingPends = false ∧
    (engaged.window (E engaged).g.wg (344064 - 768) 768).isSome = true ∧
    (match engaged.loadScratch (E engaged) (344064 - 768) 768 with | .done _ => true | _ => false) = true := by decide

/-- An index record at 0x4000 and a record of BF16 after it, a box of 256 elements in S8 to S15 and one of 1 by 8 elements in S16. -/
def recs : State := withS { W with mem := Memory.writes W.mem (cellsFrom 0x4000 (leBytes 8 0x9000 ++ leBytes 4 0x204 ++ leBytes 4 1 ++ leBytes 4 1
  ++ leBytes 4 256 ++ leBytes 40 0 ++ leBytes 8 0x8000 ++ leBytes 4 0x10A ++ leBytes 4 0 ++ leBytes 4 1024)) }
  [(0, 0x4000), (2, 0x4040), (5, 344064 - 1024 - 16), (6, 344064 - 16),
   (8, 2 ^ 31 - 1), (13, 256 + 65536), (14, 65537), (15, 1), (17, 256), (21, 8 + 65536), (22, 65537), (23, 1)]
def recordAt (s : State) (va : DWord) : Option (State × Layout) :=
  match s.l2Read (E s) va 64 with
  | (s1, .done bs) => if s1.stuck = none ∧ s1.drained (E s1) 3 ∧ s1.env? = s.env? ∧ (E s).sl.readFirst va = false ∧
      recordCause ((E s).sl.recordNum va bs) = none then some (s1, Layout.ofNat ((E s).sl.recordNum va bs)) else none
  | _ => none
def fitsAt (s : State) (kind : Nat) (r : Layout) (i : Option Layout) (b dst : Nat) : Bool :=
  let ws := (E s).boxWords b
  let k : CopyOp := ⟨kind, r, i, boxExtents ws, boxCoords ws, dst, none⟩
  boxBad r ws == false && r.ebn != 1 && (kind != 3 || r.adds) && (match i with | some x => !indirectBad x r ws | none => true) &&
    k.dst % 16 == 0 && (s.window (E s).g.wg k.dst k.size).isSome
theorem test_meets_copies : [Instr.tcopy hT 3 true (.s 5) (.s 2) (.s 8) (.s 6) 16, .tcopys hT 0 false (.s 5) (.s 2) (.s 8) (.s 0) 0,
    .tcopyr hT 0 false (.s 5) (.s 2) (.s 8) (.s 0) 0x7FFFF0, .tcopyx hT 0 true (.s 7) (.s 0) (.s 16) (.s 6) 0].all (fun i => may i recs) = true ∧
    (E recs).leads hT = true ∧ (recs.core 0).ops = [] ∧ recs.drained (E recs) 3 = true ∧
    ((E recs).word (.s 6) 0, (E recs).wide .i64 (.s 2) 0, (E recs).wide .i64 (.s 0) 0) = (344048, 0x4040, 0x4000) ∧
    (recs.objPlace (E recs) 344048).isLeft = true := by decide
theorem test_meets_copy_records : (match recordAt recs 0x4040, recordAt recs 0x4000 with
    | some (s1, r), some (s2, i) => fitsAt s1 0 r none 8 (344064 - 1024) && fitsAt s1 1 r none 8 (344064 - 1040) &&
      fitsAt s1 3 r none 8 (344064 - 1056) && (match recordAt s2 0x4040 with | some (t, r) => fitsAt t 2 r (some i) 16 0 | none => false)
    | _, _ => false) = true := by decide

/-- The bobbin of the placed group, and a register file with no room for one. -/
def bobbin : State := { W with groups := W.groups.put 64 { placedGroup W.serial 1 9 0 with vAlloc := 32, starter := some 0 } }
def asBobbin : State := { bobbin with cur := ⟨0, 64, 0, 1, []⟩ }
def crowded : State := { W with groups := W.groups.put 2 { placedGroup 0 1 9 0 with grpid := 4 } }
theorem test_meets_bobbins : [Instr.chstat hT 15 (.s 63), .bstart hT (.p 95) (.s 0) (.s 56), .bstop hT].all (fun i => may i W && may i bobbin) = true ∧
    (W.bobbin? 0).isNone = true ∧ W.freeRegs 0 0 = 64 ∧ (bobbin.bobbin? 0).isSome = true ∧ crowded.freeRegs 0 0 = 0 ∧
    may (.bstart hT (.p 0) (.s 63) (.s 0)) crowded = true ∧ may (.bpush hT 3 (.v 31)) asBobbin = true ∧ may (.bstop hT) asBobbin = true ∧
    (E asBobbin).ctx = 64 ∧ (E asBobbin).lead hT = true ∧ ((asBobbin.core 0).queues.lookD [] 3).length < 16 := by decide

/-- The placed group as a fill task of a block of 64 KiB. -/
def filling : State := (({ withS W [(63, 344064 - 65536)] with trackers := [(1, ⟨0, 1, 3, 16, 2, 1, 0, 0, some 0, false, 0, 1, [], 0, 0, 4, 0, 0⟩)] }).modLaunch 0
  (fun x => { x with fill := some 1 })).modGroup 0 0 (fun g => { g with fillTask := true })
def genPage : State := filling.modCluster 0 (fun k => { k with tlb := k.tlb.map (fun t => { t with leaf := 0x6B, blklog := 16 }) })
theorem test_meets_fills : [Instr.fillc hT (.s 63), .filla hT, .fillv hT (.imm9 0x1FF), .ftinfo hT 4 (.v 319) (.imm9 0),
    .ftinfo hT 3 (.s 0) (.opd (.s 63)), .fillq hT (.v 0) xA, .fillq hT (.s 63) xA].all (fun i => may i filling && may i genPage) = true ∧
    (E filling).lead hT = true ∧ filling.drained (E filling) 3 = true ∧ (filling.taskTracker (E filling).g.launch).map (fun x => x.2.blklog) = some 16 ∧
    (filling.wgs.look (E filling).g.wg).map wgBytes = some 344064 ∧ (344064 - 65536) % 128 = 0 := by decide
theorem test_meets_fillq : ([(filling, false), (genPage, true)] : List (State × Bool)).all (fun (s, gen) => 
    match (s.translate 0 (E s).asid ((E s).addrOf .global xA 0) .read).2 with | .ok x => x.gen == gen | _ => false) = true := by decide
theorem test_meets_debug : [Instr.stopr hT 255, .stopr hF 0, .psamp hT 255, .psamp hF 0, .logfl hT, .logfl hF, .evinc hT 15 (.imm9 63),
    .evinc hF 0 (.opd (.s 63))].all (fun i => may i W && may i stopping) = true ∧ W.env?.isSome = true := by decide

/-! The device's own steps -/

/-- An operation in flight. -/
def opOf (w : What) : Op := { E0.op W none w with id := 5 }
def opened (w : What) : State := W.modCore 0 (fun k => { k with ops := [opOf w], clk := k.clk + 1 })
def aLoad : MemOp := ⟨.load .ldg, 4, 1, 8, false, some (.v 0), [⟨0, 0, 0, 0⟩], 1⟩
def aMat : MatOp := ⟨0x179, 0, 0, 0, [], [], [], [], 0, 0⟩
def whats : List What := [.sfu 1, .load aLoad, .data, .fetch, .bpop 3 319 1, .tile 15 [] 0 none, .cbld 3 [] 0, .fillc 1 0, .logfl,
  .copy ⟨0, ⟨0, 9, 1, 0, 0, false, [], [], 0⟩, none, [8, 1, 1, 1, 1], [0], 0, none⟩, .decode 2 true 1 0 0 0 0 1 0, .topk 0 1 64 0 true 0,
  .resid 0 64 3 true, .matrix 1 aMat 0 [], .xfwd 0 15 0, .xinv true true 15 0]
theorem test_meets_units : whats.all (fun w => let s := opened w
    s.stuck == none && s.baseCamp == false && s.findOp 0 5 == some (opOf w) && s.opPending 0 (opOf w) == false && s.forked 0 (opOf w) &&
    s.engReady 0 (opOf w) && (s.core 0).ops.find? (fun o => o.what == w) == some (opOf w) && s.oldestOp 0 (fun v => v == w) == some (opOf w)) = true ∧
    (W.rings.lookD Ring.reset 3).wait = [] ∧ isDecode (.decode 2 true 1 0 0 0 0 1 0) = true ∧ isTopk (.resid 0 64 3 true) = true ∧
    isTransform (.xfwd 0 15 0) = true ∧ ((W.setChan 15 { Chan.reset with running := true }).chan 15).held = none := by decide

/-- The placed slot at a header, at a YIELD, in AWAIT, long eligible, with a load to replay, its group ended. -/
def other : Group := { placedGroup 0 1 9 0 with grpid := 4, slot0 := { (placedGroup 0 1 9 0).slot0 with lastIssue := 9 } }
def slotAs (f : Slot → Slot) (clk : Nat) : State :=
  ({ W with groups := W.groups.put 1 other }.modSlot 0 0 0 f).modCore 0 (fun k => { k with clk := clk })
def atHeader : State := slotAs (fun sl => { sl with phase := .header }) 0
def yielding (t : Nat) : State := slotAs (fun sl => { sl with wait := .yield t [2] }) 0
def eligibleLong : State := slotAs (fun sl => { sl with eligSince := some 0 }) 4096
def replaying : State := slotAs (fun sl => { sl with wait := .replay, replay := some ⟨aLoad, [(0, .ready 0)], none, 1, false, 1, 0, false⟩ }) 0
def slot0Of (s : State) : Slot := ((s.group? 0 0).getD (placedGroup 0 1 9 0)).slot0
theorem test_meets_core_steps : (slot0Of atHeader).phase = .header ∧ (slot0Of atHeader).wait = .none ∧
    (atHeader.group? 0 0).map (fun g => g.waitOk (slot0Of atHeader).hdr) = some true ∧ (slot0Of (yielding 0)).wait = .yield 0 [2] ∧
    ((yielding 5).group? 0 1).map (fun o => (o.slotOf 0).valid && decide ((slot0Of (yielding 5)).lastIssue < (o.slotOf 0).lastIssue)) = some true := by decide
theorem test_meets_core_times : (slot0Of eligibleLong).eligSince = some 0 ∧ eligibleLong.eligible 0 0 0 = true ∧
    4096 ≤ (eligibleLong.core 0).clk ∧ 1048576 ≤ ((slotAs (fun sl => { sl with wait := .await 0 }) 1048576).core 0).clk := by decide
theorem test_meets_replay : ((slot0Of replaying).replay.bind Replay.ready) = some 0 ∧ (slot0Of replaying).wait = .replay ∧
    (replaying.group? 0 0).map (fun g => replaying.stopped g || g.heldByTrap 0) = some false := by decide
def queued : State := W.modCore 0 (fun k =>
  { k with
    sq := [⟨7, 0, 3, 1, none, .bytes [⟨0, 0, 1, false⟩]⟩], wt := [⟨5, 3, 1, [⟨0, 0, 1, false⟩]⟩, ⟨6, 3, 1, [⟨128, 128, 1, false⟩]⟩],
    vals := [⟨4, 2, 6, 40, false, 0, none, none⟩], belay := [(2, ⟨0, 1, 1, false, 6, 40, false⟩)],
    l1 := [⟨1, 40, 40, false, .loc, 0, 1, 0, 0, 3071⟩], clk := 2048 })
def answered (ok : Bool) : State := queued.modCore 0 (fun k => { k with vals := [⟨4, 2, 6, 40, false, 0, some ok, none⟩] })
theorem test_meets_queues : (queued.core 0).sq.head?.map (·.id) = some 7 ∧ (queued.core 0).sq = [⟨7, 0, 3, 1, none, .bytes [⟨0, 0, 1, false⟩]⟩] ∧
    ((queued.core 0).wt[1]?).isSome = true ∧
    queued.leaveBlocked 0 ⟨7, 0, 3, 1, none, .bytes [⟨0, 0, 1, false⟩]⟩ = false ∧ (∀ v ∈ (queued.core 0).wt.take 1, ∀ x ∈ v.cells, x.tgt / 128 ≠ 1) ∧
    ((W.modGroup 0 0 (fun g => { g with ended := true })).group? 0 0).map (·.ended) = some true ∧ (W.core 0).ops = [] := by decide
theorem test_meets_takeover : ((opened (.cbld 3 [] 0)).core 0).bookAsid.lookD 0 3 ≠ (opOf (.cbld 3 [] 0)).asid ∧
    (opened (.cbld 3 [] 0)).asidOn 0 0 = false ∧ (queued.core 0).throttle.window + 2048 ≤ (queued.core 0).clk := by decide
theorem test_meets_belay : ((queued.core 0).vals.find? (fun v => v.id == 4 && v.answer.isNone)).isSome = true ∧
    [true, false].all (fun ok => ((answered ok).core 0).vals.any (fun v => v.id == 4 && v.answer == some ok)) = true ∧
    ((answered true).core 0).belay.look 2 = some ⟨0, 1, 1, false, 6, 40, false⟩ ∧ W.roundSeen.contains 191 = false ∧
    ((queued.core 0).l1Find 1 40).map (·.kind) = some .loc ∧ queued.wbHeld = [] := by decide
theorem test_meets_writeback : (((queued.core 0).l1Find 1 40).map (fun l => (queued.writeBack 0 l false).2)) = some .done := by decide

/-- A launch whose one workgroup waits. -/
def waiting (f : Launch → Launch) : State := { W with launches := W.launches ++ [(7, f { placedLaunch with wgs := [] })] }
def fresh : State := waiting id
def wRope : State := waiting (fun x => { x with hdr := { x.hdr with rw := 1, rh := 1, rk := 1 } })
def waitingLaunch (s : State) : Launch := (s.launches.look 7).getD placedLaunch
theorem test_meets_placement : fresh.nextFill = none ∧ fresh.dispatchChoice = some 7 ∧ (waitingLaunch fresh).next = some 0 ∧
    (waitingLaunch fresh).hdr.rope = false ∧ (waitingLaunch fresh).resumes = false ∧ (fresh.fits 7 (waitingLaunch fresh) 1 1).isSome = true ∧
    ((fresh.fits 7 (waitingLaunch fresh) 1 1).map (fun bs => (fresh.clearAll (waitingLaunch fresh).hdr.gran [(1, bs)]).2)) = some true ∧
    wRope.dispatchChoice = some 7 ∧ (waitingLaunch wRope).hdr.rope = true ∧ ((wRope.ropeFits 7 (waitingLaunch wRope) 0 1 0).map (fun bs => (wRope.clearAll (waitingLaunch wRope).hdr.gran bs).2)) = some true := by decide
/-- A dirty local line, whose write-back a page fault holds, stands in the rows to be taken. -/
def dirtyRows : State := { fresh with wbHeld := [(1, 1, 2 ^ 40, 5)] }.modCore 1 (fun k => { k with l1 := [⟨1, 2 ^ 40, 99, false, .loc, 0, 1, 0, 0, 0⟩] })
theorem test_meets_placement_waits : dirtyRows.nextFill = none ∧ dirtyRows.dispatchChoice = some 7 ∧
    ((dirtyRows.fits 7 (waitingLaunch dirtyRows) 1 1).map (fun bs =>
      (dirtyRows.clearAll (waitingLaunch dirtyRows).hdr.gran [(1, bs)]).2)) = some false := by decide
theorem test_meets_aging : let s := waiting (fun x => { x with fitted := 4194304 })
    (waitingLaunch s).waits = true ∧ (waitingLaunch s).aged = false ∧ 4194304 ≤ (waitingLaunch s).fitted := by decide
/-- A tracker whose record at 0x3000 names a kernel at 0x2000; the record of the other is no record. -/
def tracking (record : Nat) : State := { W with trackers := [(1, ⟨0, 1, 3, 16, 2, 1, 0, 0, none, false, 0, 1, [], 0, 0, 4, record, 0⟩)],
                                                mem := Memory.writes W.mem (cellsFrom 0x2000 (leBytes 4 0x4B4C5952 ++ leBytes 2 1 ++ leBytes 2 4 ++ leBytes 4 32 ++
  leBytes 4 7 ++ leBytes 2 16 ++ leBytes 2 0x0202 ++ leBytes 4 0 ++ leBytes 4 65536 ++ leBytes 12 0 ++ leBytes 4 4096) ++
  cellsFrom 0x3000 (leBytes 8 0x2000 ++ leBytes 4 0x01010010)) }
def planOf (s : State) : State × Option (GenRecord × KHdr) := match s.trackers.look 1 with | some t => s.fillPlan t | none => (s, none)
theorem test_meets_fill_launch : (tracking 0x3000).nextFill = some 1 ∧ (match planOf (tracking 0x3000) with
    | (s1, some (_, kh)) => (s1.fillFits kh 0 1 false).isSome && (match s1.fillFits kh 0 1 true, s1.trackers.look 1 with
      | some b, some t => !s1.notPreferred kh t 1 && (s1.clearAll kh.gran [(1, [b])]).2
      | _, _ => false)
    | _ => false) = true := by decide
theorem test_meets_fill_refused : (tracking 0).nextFill = some 1 ∧ (planOf (tracking 0)).2 = none := by decide
theorem test_meets_implicit_filla : let s := filling.modLaunch 0 (fun x => { x with status := some 1 })
    (s.launches.look 0).map (·.status) = some (some 1) ∧ (s.taskTracker 0).map (fun x => x.2.decided) = some false := by decide

/-- The placed launch is asked to stop; its group stands at a stop point. -/
def askedTo (fl spgap : Nat) (tab : List (BitVec 32 × BitVec 32 × BitVec 32 × Nat)) (f : Group → Group) : State :=
  ((W.modLaunch 0 (fun x => { x with preempting := true, hdr := { x.hdr with flags := fl, spgap := spgap, sptab := tab } })).modSlot 0 0 0
    (fun sl => { sl with passed := 4096, atStop := true })).modGroup 0 0 f
def groupOf (s : State) : Group := (s.group? 0 0).getD (placedGroup 0 1 9 0)
def late : State := (askedTo 0 4096 [] id).modSlot 0 0 0 (fun sl => { sl with atStop := false })
theorem test_meets_preemption : W.preempt.getLsbD 19 = false ∧ ({ W with preempt := 0x80000 } : State).preempt.getLsbD 19 = true ∧
    (late.launches.look 0).map (fun x => (x.preempting, x.hdr.spgap, x.status)) = some (true, 4096, none) ∧
    (groupOf late).slot0.valid = true ∧ (groupOf late).slot0.atStopPoint = false ∧ (groupOf late).slot0.passed = 4096 ∧
    (groupOf late).slot1.passed < 2 ^ 40 := by decide
theorem test_meets_group_save : ([.saved, .done, .none] : List SaveMode).all (fun m =>
    let s := askedTo 0 1 [] (fun g => { g with save := m, ended := m == .none })
    (groupOf s).save == m && s.groupQuiet 0 (groupOf s) && !s.stopped (groupOf s) && (s.wgs.look (groupOf s).wg).isSome) = true := by decide
theorem test_meets_group_save_stopped : let s := askedTo 0 1 [] id
    let t := askedTo 0 1 [(0, 8, 12, 2)] id
    (groupOf s).save = .none ∧ (groupOf s).ended = false ∧ (groupOf s).inHandler = false ∧ (groupOf s).slot0.atStopPoint = true ∧
    (groupOf s).slot1.atStopPoint = true ∧ (s.tryDiscard (groupOf s).wg).2 = false ∧ ((askedTo 1 1 [] id).tryDiscard (groupOf s).wg).2 = true ∧
    s.groupQuiet 0 (groupOf s) = true ∧ (s.khdr 0).safeAt (codeOff (groupOf s).kernel (groupOf s).slot0.clause) = none ∧
    (t.khdr 0).safeAt (codeOff (groupOf t).kernel (groupOf t).slot0.clause) = some (8, 12, 2) := by decide
def resuming : State := waiting (fun x => { x with wgs := [(0, ⟨.discarded [(0, 0x1000, [])], [], []⟩)] })
theorem test_meets_resume : resuming.nextFill = none ∧ resuming.dispatchChoice = some 7 ∧ (waitingLaunch resuming).next = some 0 ∧
    (waitingLaunch resuming).resumes = true ∧ (resuming.fits 7 (waitingLaunch resuming) 1 1).isSome = true ∧
    ((resuming.fits 7 (waitingLaunch resuming) 1 1).map (fun bs =>
      (resuming.clearAll (waitingLaunch resuming).hdr.gran [(1, bs)]).2)) = some true ∧
    (match State.readBlocks (waitingLaunch resuming) 1 [0] resuming [] with | (_, .ok _) => true | _ => false) = true := by decide

def ringed (k n : Nat) : State := ({ W with
  rings := [(k, { Ring.reset with base := 0x2000, size := 64, head := BitVec.ofNat 64 n, off := false, wait := [[1]] })],
  faults := [⟨1, 5, 0, 9⟩], cntbase := 0x4000,
  genLines := [⟨1, 3, 0, false, 0, 3⟩, ⟨1, 4, 63, true, 0, 3⟩] }).modCluster 0 (fun k => { k with tlb := { placedTlb with asid := 0 } :: k.tlb })
theorem test_meets_memory_system : ((ringed 3 0).rings.lookD Ring.reset 3).on = true ∧
    (match State.engPlaces (firstOfLines ((List.range (ringBytes 3)).map (fun i => 0x2000 + i))) (ringed 3 0) (procWho 0) [] with
      | (_, .ok _) => true | _ => false) = true ∧ ((ringed 1 64).rings.lookD Ring.reset 1).wait ≠ [] ∧
    ((ringed 2 64).rings.lookD Ring.reset 2).on = true ∧ 64 ≤ (((ringed 2 64).rings.lookD Ring.reset 2).head).toNat ∧
    (ringed 3 0).cntbase ≠ 0 ∧ (ringed 3 0).faults.any (fun f => f.seq == 9) = true ∧ (ringed 3 0).devHeld = [] ∧ (ringed 3 0).chans = [] ∧
    ((ringed 3 0).genLine? 1 3).map (fun l => (l.pol, l.poison)) = some (3, false) ∧
    ((ringed 3 0).genLine? 1 4).map (·.poison) = some true := by decide

def ropeStopped : State := stopping.modRope 2 (fun r => { r with stop := some ⟨3, 1, 0, 0, 2, 0, 0, 0, false, 0, 0⟩ })
theorem test_meets_rope_stop : (ropeStopped.ropes.look 2).map (fun r => r.stop.map (·.dumped)) = some (some false) ∧
    (ropeStopped.core 0).ops = [] ∧ (stopping.cluster 0).dbgctl.getLsbD 0 = true ∧ W.life.keyStore = true ∧ W.devSt ≠ 4 := by decide

def pkt (ty : Nat) (st l : Option Nat) : Packet := ⟨1023, 7, 1, 0, ty + 2 ^ 192 * 255, st, l, none, none, none, false, false, false⟩
def served (p : Packet) : State := { W with packets := [p], launches := W.launches.put 7 { placedLaunch with status := some 1 } }
theorem test_meets_packets : ([3, 4, 5, 6] : List Nat).all (fun ty => ((served (pkt ty none none)).packet? 1023 7).map Packet.type == some ty) = true ∧
    (pkt 5 none none).f 0x18 1 = 255 ∧ (served (pkt 5 none none)).idleChan = some 0 ∧ ((pkt 2 (some 1) none).status).isSome = true ∧
    (served (pkt 2 none (some 7))).launchOver 7 { placedLaunch with status := some 1 } = true ∧ W.qtabbase.toNat % 131072 = 0 ∧
    ({ W with qtabbase := 8 } : State).qtabbase.toNat % 131072 ≠ 0 ∧ W.queues = [] ∧ W.packets = [] := by decide
/-- A packet that names the word at 0x2000, which holds v: a BARRIER's signal, a SIGNAL's target, a CSIG. -/
def naming (ty v : Nat) : State := { served { pkt ty none none with body := ty + 2 ^ 64 * 0x2008 + 2 ^ 128 * 0x2000, va := 0x2010 } with
  mem := Memory.writes W.mem (cellsFrom 0x2000 (leBytes 8 v)) }
def named (s : State) : Packet := (s.packet? 1023 7).getD (pkt 0 none none)
theorem test_meets_barrier_packet : ([0, 5, 2 ^ 64 - 1] : List Nat).all (fun v => let p := named (naming 3 v)
    match State.readSigs ([p.f 0x10 8, p.f 0x18 8, p.f 0x20 8].filter (fun a => a != 0)) (naming 3 v) p.asid [] with
    | (_, .ok vs) => vs == [v] && p.status.isNone && p.held.isNone && !p.fatal
    | _ => false) = true := by decide
theorem test_meets_copy_packet : ((named (naming 5 0)).f 0x18 1 = 0 ∧ (named (naming 5 0)).chan = none ∧
    ((naming 5 0).chan 0).running = false) ∧ (pkt 5 none none).f 0x18 1 = 255 ∧ (served (pkt 5 none none)).idleChan = some 0 := by decide
def invalidating (hi : Nat) : State := { tracking 0x3000 with packets := [pkt 6 none none], invals := [⟨1023, 7, 1, 0, hi, []⟩] }
theorem test_meets_inval_packet : ([(4, true), (3, false)] : List (Nat × Bool)).all (fun x => (invalidating x.1).trackers.any (fun t =>
    t.2.asid == 1 && decide (t.2.block < x.1) && decide (0 < t.2.block + 2 ^ t.2.blklog)) == x.2) = true := by decide
theorem test_meets_signal_packet : let p := named (naming 4 7)
    (match (naming 4 7).procWord p.asid (p.f 0x10 8) 8 (fun old => if p.f 0x20 1 = 1 then p.f 0x18 8 else (old + p.f 0x18 8) % 2 ^ 64) with
    | (_, .done) => true | _ => false) = true := by decide
theorem test_meets_header_word : let p := { named (naming 2 1) with status := some 1 }
    (p.done = false ∧ p.held = none ∧ p.fatal = false ∧ p.csig ≠ 0 ∧ p.csig % 8 = 0 ∧ (pkt 2 (some 1) none).csig = 0) ∧
    (match (naming 2 1).procWord p.asid p.va 4 (fun _ => 65536) with
    | (s1, .done) => (match s1.procWord p.asid p.csig 8 (fun _ => 2 ^ 64 - 1) with | (_, .done) => true | _ => false)
    | _ => false) = true := by decide

def fabric (cfg : DWord) (x : Port) : State := { W with fabcfg := cfg, ports := [(3, x)], peerReqs := [{ id := 8, port := 3, core := 0, uid := 3, va := 0 }] }
def upPort : Port := { Port.reset with state := 2, lastAcc := 1023, unacked := [(5, [1])] }
/-- An acknowledgement with sequence number 0, its CRC in its last word. -/
def ackFlit (n : Nat) : List Nat := (2 ^ 20 + n) :: List.replicate 30 0 ++ [if n = 0 then 14887391362787924558 else 8931643584085563661]
theorem test_meets_fabric : ([0x1000, 0x1100, 0x1F00] : List DWord).all (fun c => c.getLsbD 12) = true ∧
    (va64 (2 ^ 64 - 1) &&& 0x1FFF1F7F).getLsbD 12 = true ∧ (va64 0 &&& 0x1FFF1F7F).getLsbD 12 = false ∧ W.fabcfg.getLsbD 12 = false ∧
    ((fabric 0x1F00 upPort).port 3).state = 2 ∧ ((fabric 0x1F00 upPort).port 3).unacked ≠ [] ∧
    ((fabric 0 upPort).peerReqs.find? (fun r => r.id == 8 && !r.back && !r.bad)).isSome = true ∧ (fabric 0x1F00 upPort).fabNext = none ∧
    (fabric 0x1F00 upPort).fabcfg.getLsbD (8 + 7 % 4) = true ∧ (fabric 0x1F00 upPort).devstate.toNat % 16 = 2 ∧
    (fabric 0x1700 upPort).fabcfg.getLsbD (8 + 7 % 4) = false ∧ 2 ^ 35 - 1 + [(1 : Byte)].length ≤ 2 ^ 35 ∧ (inboundOp 7).isSome = true := by decide
theorem test_meets_flits : (crc64 ((flitBytes (ackFlit 0)).take 248) = BitVec.ofNat 64 (leNat ((flitBytes (ackFlit 0)).drop 248)) ∧
    crc64 ((flitBytes (ackFlit 7)).take 248) = BitVec.ofNat 64 (leNat ((flitBytes (ackFlit 7)).drop 248))) ∧
    crc64 ((flitBytes [1]).take 248) ≠ BitVec.ofNat 64 (leNat ((flitBytes [1]).drop 248)) ∧
    bits (leNat ((flitBytes (ackFlit 0)).take 8)) 20 2 = 1 ∧ leNat ((flitBytes (ackFlit 0)).take 8) % 1024 = (upPort.lastAcc + 1) % 1024 ∧
    leNat ((flitBytes (ackFlit 7)).take 8) % 1024 ≠ (upPort.lastAcc + 1) % 1024 := by decide +kernel
theorem test_meets_training : ([0, 1, 2, 3] : List Nat).all (fun n =>
    ((fabric 0 { Port.reset with state := 1, fails := n }).port 3).state == 1) = true := by decide
theorem test_meets_life : State.reset.devSt = 1 ∧ ({ State.reset with life := { Life.reset with testPass := true } } : State).launches = [] ∧
    W.devSt ≠ 4 ∧ (State.reset.cluster 11).mhz = 700 + 100 ∧ State.reset.life.optN = false ∧ (32 : Nat) ∈ [4, 8, 12, 16, 32] ∧
    (∀ c ∈ cellsFrom (2 ^ 35 - 1) [(1 : Byte), 2], c.1 < 2 ^ 52 ∧ (isHost c.1 = true ∨ (W.closed = false ∧ W.hole c.1 = false))) := by decide
theorem test_meets_registers : (fabric 0x1F00 upPort).stuck = none ∧ (fabric 0x1F00 upPort).closed = false ∧
    (fabric 0x1F00 upPort).fabNext = none ∧ (0x102 : Nat) % 8 ≠ 0 ∧ W.life.optN = false ∧
    ({ W with life := { W.life with optN := true } } : State).closed = false := by decide

/-! Premises of the clauses that look at later words, stacked entries and events -/

/-- Two and three words that name no instruction, a length field of 3, and a second and a third word on a page that may not be executed. -/
theorem test_meets_step_no_instruction_2 : ((3 : Word).extractLsb' 0 2 = 3 ∧ fetched (issuing 3 0 0) 0 = .word 3) ∧
    fetched (issuing 0xFF7F0001 0xC0401 0) 0 = .word 0xFF7F0001 ∧ fetched (issuing 0xFF7F0001 0xC0401 0) 1 = .word 0xC0401 ∧
    fetched (issuing 0x007F0896 0x00180A04 0xFFFFFFFF) 0 = .word 0x007F0896 ∧
    fetched (issuing 0x007F0896 0x00180A04 0xFFFFFFFF) 1 = .word 0x00180A04 ∧
    fetched (issuing 0x007F0896 0x00180A04 0xFFFFFFFF) 2 = .word 0xFFFFFFFF := by decide
theorem test_meets_words_of_none : wordsOf 3 = .error .illegalInstruction ∧ wordsOf 0xFF7F0001 = .ok 2 ∧
    decodeWords 0xFF7F0001 0xC0401 0 = .error .illegalInstruction ∧ wordsOf 0x007F0896 = .ok 3 ∧
    decodeWords 0x007F0896 0x00180A04 0xFFFFFFFF = .error .illegalInstruction := ⟨rfl, rfl, rfl, rfl, rfl⟩
/-- These words stand at pc, at the end of the code page; the page after it may not be executed. -/
def atEdge (pc w0 w1 : Nat) : State := ({ W with mem := Memory.writes W.mem (cellsFrom pc (leBytes 4 w0 ++ leBytes 4 w1)) }.modSlot 0 0 0
  (fun sl => { sl with pc := BitVec.ofNat 64 pc })).modCluster 0 (fun k =>
    { k with tlb := k.tlb ++ [{ placedTlb with page := 1, pa := 2097152, leaf := 0x63 }] })
theorem test_meets_step_fatal_later : fetched (atEdge 0x1FFFFC 0x007F0001 0) 0 = .word 0x007F0001 ∧
    fetched (atEdge 0x1FFFFC 0x007F0001 0) 1 = .fatal 8 ∧ fetched (atEdge 0x1FFFF8 0x007F0896 5) 0 = .word 0x007F0896 ∧
    fetched (atEdge 0x1FFFF8 0x007F0896 5) 1 = .word 5 ∧ fetched (atEdge 0x1FFFF8 0x007F0896 5) 2 = .fatal 8 := by decide
def noStream : State := { W with cur := ⟨5, 0, 0, 1, []⟩ }
theorem test_meets_event_without_stream : noStream.env?.isNone = true ∧ isEvent (.clkAdvance 0) = true ∧ noStream.stuck = none ∧
    noStream.baseCamp = false ∧ (Instr.clkAdvance 0).setsDevice = false := by decide

/-- Lane 0 holds the reserved T5 byte 243, and FPCR.FMTTRAP is 1. -/
def fmtTrap (b : Nat) : State := (withV W [(128, BitVec.ofNat 32 b)]).modGroup 0 0 (fun g => { g with fpcr := 16 })
def t5bad (s : State) : List Nat :=
  ((E s).active hT).filter (fun l => (E s).isLaunched l && decide (242 < ((E s).word (.v 2) l).toNat / 2 ^ (8 * (0 : BitVec 2).toNat) % 256))
theorem test_meets_fmttrap : ([242, 243] : List Nat).all (fun b => may (.unpkt5 hT 0 ⟨.v 1, .v 2⟩) (fmtTrap b) &&
    (E (fmtTrap b)).g.fpcr.getLsbD 4) = true ∧ t5bad (fmtTrap 242) = [] ∧ t5bad (fmtTrap 243) = [0] := by decide

/-- Slot 0 holds every lane but the last quad's, which wait on the stack with this RESUME. -/
def stacked (resume : Nat) : State := { W with
  mem := Memory.writes W.mem (cellsFrom 0x10000 (leBytes 16 (Entry.toNat ⟨0xF000000000000000, BitVec.ofNat 32 resume, 0⟩))) }.modGroup 0 0 (fun g =>
    { g with depth := 1, owners := [0], slot0 := { g.slot0 with mask := 0x0FFFFFFFFFFFFFFF } })
def popped (s : State) (g : Group) : State × Option State := s.preRead 65 (E s) g.emptySlots g.live (E s).g.owners false
def afterExit (s : State) : Group := (E s).g.exitLanes (maskOf ((E s).active hT))
theorem test_meets_exit_entries : may (.exit hT) (stacked 0) = true ∧ (E (stacked 0)).active hT ≠ [] ∧ (E (stacked 0)).g.owners ≠ [] ∧
    (afterExit (stacked 0)).emptySlots = [0] ∧ (popped (stacked 0) (afterExit (stacked 0))).2 = none ∧
    (popped (stacked 0) (afterExit (stacked 0))).1.env? = (stacked 0).env? := by decide
theorem test_meets_exit_entries_bad : (popped (stacked 1) (afterExit (stacked 1))).2.isSome = true := by decide
/-- Every lane of slot 0 asks to be a helper. -/
def helping (resume : Nat) : State := ((stacked resume).modGroup 0 0 (fun g => { g with p := [(1, 0x0FFFFFFFFFFFFFFF)] }))
def afterHelp (s : State) : Group :=
  let e := E s
  let turn := maskOf ((e.active hT).filter (fun l => e.isLaunched l && (e.word (.p 1) l).getLsbD 0))
  let la := e.g.launched &&& ~~~turn
  (e.g.toHelpers turn).dropHelpers (if turn = 0 then 0 else Group.emptyQuads e.g.live la)
theorem test_meets_qhelp_entries : may (.qhelp hT ⟨.p 95, .p 1⟩) (helping 0) = true ∧ (E (helping 0)).active hT ≠ [] ∧
    (afterHelp (helping 0)).emptySlots = [0] ∧ (popped (helping 0) (afterHelp (helping 0))).2 = none ∧
    (popped (helping 0) (afterHelp (helping 0))).1.env? = (helping 0).env? := by decide
theorem test_meets_qhelp_entries_bad : (popped (helping 1) (afterHelp (helping 1))).2.isSome = true := by decide

/-- Twelve clusters, each full of ropes. -/
def fullOfRopes : State :=
  let s := (waiting (fun x => { x with hdr := { x.hdr with rw := 1, rh := 1, rk := 1 } })).modCore 0 (fun k => { k with clk := 65536 })
  { s with ropes := s.ropes ++ (List.range 192).map (fun n =>
    (100 + n, { launch := 0, ropeId := 0, cluster := n / 16, origin := 0, w := 1, h := 1, k := 1, wgs := [(0, 1000 + n)], real := true, pcount := [], stop := none, pend := 0 })) }
theorem test_meets_rope_wait : (waitingLaunch fullOfRopes).waits = true ∧ (waitingLaunch fullOfRopes).hdr.rope = true ∧
    (waitingLaunch fullOfRopes).rect = none ∧ (waitingLaunch fullOfRopes).waitFrom + 65536 ≤ fullOfRopes.dieClk ∧
    fullOfRopes.rectCould (waitingLaunch fullOfRopes).hdr 11 3 3 = true ∧
    fullOfRopes.rectClash 7 (waitingLaunch fullOfRopes) 11 3 3 = false := by decide
theorem test_meets_rope_fits_nowhere : fullOfRopes.fitsSomewhere 7 (waitingLaunch fullOfRopes) = false := by decide +kernel

/-- Codes of each kind the floating-point clauses tell apart: NaNs, infinities, zeros, a subnormal, numbers. -/
theorem test_meets_floats : FFmt.fp32.isSnan 0x7F800001 = true ∧ FFmt.fp16.isNan 0xFFFF = true ∧ FFmt.bf16.isInf 0xFF80 = true ∧
    FFmt.fp16.isInf 0x7C00 = true ∧ FFmt.fp32.isNum 0x7F7FFFFF = true ∧ FFmt.fp16.isNum 0x8001 = true ∧ FFmt.fp16.num true 0x8001 = 0 ∧
    FFmt.fp16.signedNum false 0x8001 = -2 ∧ (FFmt.fp32.neg 0xFF800000 && FFmt.fp32.isInf 0xFF800000 && FFmt.fp32.isInf 0x7F800000) = true ∧
    (FFmt.fp32.isInf 0x7F800000 && FFmt.fp32.isNum 0 && FFmt.fp32.num false 0 == 0) = true := by decide
/-- A run of products 2^-149, an exact zero and -2^127, and an empty one. -/
theorem test_meets_runs : (∀ p ∈ [FV.fin false 1 (-149), .fin true 0 (-1000), .fin true 1 127], ∃ neg m e, p = .fin neg m e ∧ (m = 0 ∨ (-149 : Int) ≤ e)) ∧
    FFmt.fp32.isNum 0xFF7FFFFF = true ∧ (([] : List FV).map (fun _ => (0 : Int))).sum = 0 := by
  refine ⟨?_, by decide, rfl⟩
  intro p hp
  simp only [List.mem_cons, List.not_mem_nil, or_false] at hp
  rcases hp with rfl | rfl | rfl
  · exact ⟨false, 1, -149, rfl, .inr (by decide)⟩
  · exact ⟨true, 0, -1000, rfl, .inl rfl⟩
  · exact ⟨true, 1, 127, rfl, .inr (by decide)⟩
/-- In FP16: an infinity, zeros, 4.0 (a power of two and a whole number), 1.5 (an odd number of halves), 1.25 and -1.25. -/
theorem test_meets_special_functions : FFmt.fp16.isInf 0xFC00 = true ∧ FFmt.fp16.num true 0x03FF = 0 ∧ FFmt.fp16.isNum 0x4400 = true ∧
    FFmt.fp16.num false 0x4400 = 2 ^ 27 ∧ FFmt.fp16.num false 0x4400 = 4 * FFmt.fp16.perOne ∧
    2 * FFmt.fp16.num false 0x3E00 = 3 * FFmt.fp16.perOne ∧ FFmt.fp16.neg 0xBD00 = true ∧ FFmt.fp16.num false 0xBD00 ≠ 0 ∧
    (∀ k : Nat, FFmt.fp16.num false 0x3D00 ≠ k * FFmt.fp16.perOne ∧ 2 * FFmt.fp16.num false 0x3D00 ≠ k * FFmt.fp16.perOne) := by
  refine ⟨by decide, by decide, by decide, by decide, by decide, by decide, by decide, by decide, fun k => ?_⟩
  have h1 : FFmt.fp16.num false 0x3D00 = 41943040 := by decide
  have h2 : FFmt.fp16.perOne = 33554432 := by decide
  rw [h1, h2]; omega
theorem test_meets_no_power : ∀ k : Nat, FFmt.fp16.num false 0x3D00 ≠ 2 ^ k := by
  intro k h
  have h1 : FFmt.fp16.num false 0x3D00 = 41943040 := by decide
  rw [h1] at h
  rcases Nat.lt_or_ge k 26 with hk | hk
  · have : 2 ^ k ≤ 2 ^ 25 := Nat.pow_le_pow_right (by decide) (by omega)
    omega
  · have : 2 ^ 26 ≤ 2 ^ k := Nat.pow_le_pow_right (by decide) hk
    omega

/-! Premises of the ordering, waiting and unit clauses -/

theorem test_meets_no_sibling : [W, recs, qFull, filling, quad, bobbin, armed, tagged].all (fun s => !(E s).siblingPends) = true ∧ (W.core 0).atomPending 0 (E W).g.uid = false ∧
    ((recs.core 0).ops.filter (fun o => isCopy o.what)).length < 32 := by decide
/-- A BWAIT whose wait saw PCOUNT leave t. -/
def bpast : State := (objAt false).modSlot 0 0 0 (fun sl => { sl with bpast := true })
theorem test_meets_bwait_past : may (.bwait hT 4 (.s 0) (.k 0)) bpast = true ∧ (E bpast).sl.bpast = true ∧ (E (objAt false)).sl.bpast = false ∧
    (match bpast.objPlace (E bpast) ((E bpast).word (.s 0) 0).toNat with | .inl t => t == 344048 | .inr _ => false) = true ∧
    bpast.scratchWaits (E bpast) 344048 16 = false ∧ (E bpast).siblingPends = false := by decide
theorem test_meets_fault_answers : (ringed 3 0).faults.any (fun f => f.seq == 9) = true ∧
    ({ ringed 3 0 with wbHeld := [(0, 1, 40, 9)] } : State).wbHeld.any (fun w => w.2.2.2 == 9) = true ∧ (ringed 3 0).wbHeld = [] ∧
    (ringed 3 0).cores.all (fun k => k.2.ops.all (fun o => o.held.isNone)) = true := by decide
theorem test_meets_home_validate : ((queued.core 0).vals.find? (fun v => v.id == 4 && v.answer.isNone && queued.valTravels v)).isSome = true ∧
    queued.stuck = none ∧ queued.baseCamp = false := by decide
def ended : State := { W.modGroup 0 0 (fun g => { g with ended := true }) with stuck := none }.modCore 0 (fun k =>
  { k with ops := [opOf .store, { opOf .data with uid := 99 }] })
theorem test_meets_allotment : (ended.group? 0 0).map (·.ended) = some true ∧ (ended.core 0).ops.all (fun o =>
    !(o.ctx == 0 && o.uid == (E ended).g.uid) || (o.what.toMemory && o.uses == [])) = true := by decide

/-- A copy in flight of a row of 32 bytes from 0x8000, one element of it outside the tensor, past 0x100 of the window. -/
def aCopy : CopyOp := ⟨0, ⟨0x8000, 0, 1, 2, 0, false, [31], [], 0xFF⟩, none, [32, 1, 1, 1, 1], [0, 0, 0, 0, 0], 0x100, some 0x80⟩
def copying : State := opened (.copy aCopy)
theorem test_meets_copy_results : copying.engReady 0 (opOf (.copy aCopy)) = true ∧ copying.engLost (opKey 5) = none ∧
    copying.window (opOf .data).wg 0x100 aCopy.size = some 0x100 ∧ aCopy.data.swz < 4 ∧
    (match copying.copyStarts (copying.who 0 (opOf .data)) [] aCopy with
    | (s0, .ok (ps0, starts)) => ps0 == [] && (match State.capture 0 (unitsOf ((aCopy.ranges starts).map (fun x => x.1))) s0
        (s0.who 0 (opOf .data)) ps0 with
      | (_, .ok ps) => ps.length == 2 | _ => false) && (aCopy.elems starts).length == 32 &&
      (aCopy.elems starts).all (fun y => decide (0x8F < aCopy.scratchNib 0x100 y.1 / 2))
    | _ => false) = true := by decide
theorem test_meets_topk_results : W.window (opOf .data).wg 256 (4 * 1024) = some 256 ∧ W.window (opOf .data).wg 8192 (8 * 1024) = some 8192 ∧
    W.residFree 0 (opOf .data).asid 3 = true ∧ (opOf .data).parts = [] := by decide
/-- A stream of zeros: its BIT blocks are 64 values of no bits each. -/
def decoding (form : Nat) : Op := opOf (.decode form true 2 0 7 8 3 0xFFFFFFFFFFFFFFFF 0)
theorem test_meets_decode_results : ([0, 1] : List Nat).all (fun form =>
    let s := W.modCore 0 (fun k => { k with ops := [decoding form], clk := k.clk + 1 })
    s.engReady 0 (decoding form) && s.findOp 0 5 == some (decoding form) && (s.opGroup 0 (decoding form)).isSome &&
    (s.streamBlocks [] (decoding form).wg 0 form true 2 ⟨7, none⟩).2.2.bad.isNone) = true := by decide +kernel
def aRound : Op := opOf (.matrix 1 aMat 0 [(0, aMat)])
theorem test_meets_matrix_results : let s := W.modCore 0 (fun k => { k with ops := [aRound] })
    (s.core 0).ops = [aRound] ∧ (s.opGroup 0 aRound).isSome = true ∧ (s.group? 0 0).isSome = true ∧ aMat.opc ≠ 0x17B := by decide

/-! Premises of the queue, fabric and register clauses -/

theorem test_meets_barrier_begun : ([0, 5, 2 ^ 64 - 1] : List Nat).all (fun v =>
    let s := { naming 3 v with packets := (naming 3 v).packets.map (fun p => { p with begun := true }) }
    (named s).begun && (named s).type == 3 && (named s).status.isNone && (s.sigNegative (named s) == decide (2 ^ 63 ≤ v))) = true := by decide
theorem test_meets_copy_first_idle : let s := (served (pkt 5 none none)).setChan 0 { Chan.reset with idleAt := 7 }
    s.firstIdle = some 1 ∧ (s.packet? 1023 7).map (fun p => p.f 0x18 1) = some 255 ∧ (s.packet? 1023 7).map Packet.chan = some none := by decide
def peerVal : State := (fabric 0x1F00 upPort).modCore 0 (fun k => { k with vals := [⟨4, 2, 6, 40, true, 0, none, some 3⟩] })
theorem test_meets_peer_timeout : peerVal.peerReqs.find? (fun r => r.id == 4 && !r.back && !r.bad) = none ∧
    ((peerVal.cores.flatMap (fun k => k.2.vals)).find? (fun v => v.id == 4 && v.answer != some false)).map (fun v => v.port) =
      some (some 3) := by decide
theorem test_meets_inbound : let s := fabric 0x1F00 upPort
    ({ s with eccBad := [lineKey false 0x40] } : State).eccBad.contains (lineKey false (0x2000 / 128)) = true ∧
    s.eccBad.contains (lineKey false ((2 ^ 35 - 1) / 128)) = false ∧ s.devstate.toNat % 16 = 2 ∧ s.fabNext = none ∧
    (decide (leNat [(1 : Byte)] < 4095) && s.versions.look 0 == some (leNat [1])) = false ∧ s.fabcfg.getLsbD (8 + 3 % 4) = true := by decide
theorem test_meets_emit : Port.reset.unacked.length < 512 ∧ ((([.data 3 [1]] : List PMsg).flatMap PMsg.slots).length ≤ 15) ∧
    ((([] : List PMsg).flatMap PMsg.slots).length ≤ 15) ∧
    (((List.replicate 15 (.ack 0)) : List PMsg).flatMap PMsg.slots).length = 15 := by decide
/-- A good flit of KIND 2, a NAK, and one of packets. -/
def flitOf (kind : Nat) : List Nat := let h := (upPort.lastAcc + 1) % 1024 + 2 ^ 10 * 9 + 2 ^ 20 * kind
  h :: List.replicate 30 0 ++ [(crc64 (leBytes 8 h ++ List.replicate 240 0)).toNat]
theorem test_meets_flit_kinds : ([0, 2] : List Nat).all (fun kind => let bs := flitBytes (flitOf kind)
    crc64 (bs.take 248) == BitVec.ofNat 64 (leNat (bs.drop 248)) && leNat (bs.take 8) % 1024 == (upPort.lastAcc + 1) % 1024 &&
    bits (leNat (bs.take 8)) 20 2 == kind) = true := by decide +kernel
theorem test_meets_register_clauses : ({ W with life := { W.life with optN := true } } : State).closed = false ∧ W.stuck = none ∧
    W.preempt.getLsbD 19 = false ∧ ({ W with preempt := 0x80000 } : State).preempt.getLsbD 19 = true ∧
    (bits 0x10007 16 3, bits 0x20007 16 3, bits 0x40007 16 3, bits 7 16 3) = (1, 2, 4, 0) ∧
    (bits (2 ^ 32 + 9) 32 2, bits (2 ^ 33 + 9) 32 2) = (1, 2) ∧ (bits 3 2 30, bits 4 2 30) = (0, 1) ∧ W.msiPend.contains 2047 = false ∧
    ({ W with msiPend := [5] } : State).msiPend.contains 5 = true ∧ (5 : Nat) % 2 = 1 := by decide
def linked : State := { fabric 0x1F14 upPort with ports := [(0, upPort)] }
theorem test_meets_windows : linked.life.optN = false ∧ linked.peerOk ((bits linked.fabcfg.toNat 0 2 + 2 ^ 22 / 2 ^ 22) % 4) 0 = true ∧
    linked.peerRoute ((bits linked.fabcfg.toNat 0 2 + 2 ^ 22 / 2 ^ 22) % 4) 0 = some 0 ∧
    W.peerOk ((bits W.fabcfg.toNat 0 2 + (2 ^ 24 - 8) / 2 ^ 22) % 4) 0 = false := by decide

end Sys2Proof.Tests
end

/-! PROOFS, spec/00. A meaning that goes on (Laws/Goes.lean) ends, outside base camp and for a machine that runs, in a next state that
runs; an instruction goes on so when a stream is at issue, an event of the device always. -/

namespace Sys2Proof.Machine

/-- With a stream at issue a meaning does not end for want of one. -/
theorem Goes.onward {s : State} {o : Out} {e : Env} (h : Goes s o) (he : s.env? = some e) : Onward s o := by
  rcases h with ⟨hn, -⟩ | h
  · rw [he] at hn; cases hn
  · exact h

/-- Outside base camp a running machine's meaning ends in a next state reached calmly: no absent memory can have stopped it. -/
theorem Onward.exists_next {s : State} {o : Out} (h : Onward s o) (hs : s.stuck = none) (hb : s.baseCamp = false) :
    ∃ t, o = .next t ∧ Calm s t := by
  obtain ⟨t, ht, rfl | rfl⟩ := h
  · exact ⟨t, finish_calm ht hs hb, ht⟩
  · exact ⟨t, rfl, ht⟩

/-- An event goes on by itself, an instruction of a program with a stream at issue. -/
theorem onward_exec {i : Instr} {s : State} (hi : i.setsDevice = false) (h : isEvent i = true ∨ ∃ e, s.env? = some e) :
    Onward s (exec i s) := by
  rcases h with hev | ⟨e, he⟩
  · exact onward_event s i hi hev
  · exact (goes_exec s i hi).onward he

/-- Settles O19: every operation is calm, and calm operations keep memory's form, the device's registers and a running machine. -/
theorem noInstructionStopsTheDevice : Obligations.NoInstructionStopsTheDevice := by
  intro i s hi hs hb h
  obtain ⟨t, ht, hc⟩ := (onward_exec hi h).exists_next hs hb
  exact ⟨t, ht, hc.stuck hb hs, hc.regs, hc.mem⟩

end Sys2Proof.Machine

/-! PROOFS, spec/02. Which accesses to special registers trap, and what a core's units make of the operations they serve. -/

namespace Sys2Proof.Machine

/-! Operand checks: step 7 of R84 -/

/-- An instruction whose only failing check so far is one of its operands takes ILLEGAL_OPERAND (spec/03 R84, step 7). -/
theorem issue_bad_operand {s : State} {e : Env} {h : Hdr} {chk : Env → Chk} (he : s.env? = some e)
    (hf : e.badFsel h (chk e).tok = false) (hi : (chk e).ill = false) (ho : (chk e).opd = true) (eff : Env → State → State) :
    issue h chk eff s = .next (s.trapAt e 4 e.sl.mask e.sl.pc) :=
  issue_failed (x := (4, e.sl.mask)) he (by simp [Env.failed, hf, hi, ho]) eff

theorem exec_srdsr_bad_operand {h : Hdr} {s : State} {e : Env} {sr : BitVec 8} {d : Opd} (he : s.env? = some e)
    (hf : e.badFsel h none = false) (ho : (chkSrdsr h sr.toNat d e).opd = true) :
    exec (.srdsr h sr d) s = .next (s.trapAt e 4 e.sl.mask e.sl.pc) := by
  show execSrdsr h sr d s = _
  unfold execSrdsr
  exact issue_bad_operand he hf rfl ho _

theorem exec_swrsr_bad_operand {h : Hdr} {s : State} {e : Env} {sr : BitVec 8} {b : SrcB} (he : s.env? = some e)
    (hf : e.badFsel h none = false) (ho : (chkSwrsr h sr.toNat b e).opd = true) :
    exec (.swrsr h sr b) s = .next (s.trapAt e 4 e.sl.mask e.sl.pc) := by
  show execSwrsr h sr b s = _
  unfold execSwrsr
  exact issue_bad_operand he hf rfl ho _

/-- The numbers SWRSR may write: FPCR, FPSR, FMASK and PRNG (spec/02 R60). -/
theorem srWritable_iff {n : Nat} : srWritable n = true ↔ n ∈ [0x0D, 0x0E, 0x0F, 0x10, 0x18] := by
  simp [srWritable, or_assoc]

theorem chkSrdsr_opd_of_reserved (h : Hdr) {n : Nat} (hn : 0x1C ≤ n) (d : Opd) (e : Env) : (chkSrdsr h n d e).opd = true := by
  simp [chkSrdsr, srReserved, hn]

theorem chkSrdsr_opd_of_perLane (h : Hdr) {n : Nat} (hn : srPerLane n = true) (r : Fin 64) (e : Env) :
    (chkSrdsr h n (.s r) e).opd = true := by
  simp [chkSrdsr, hn]

theorem chkSwrsr_opd_of_not_writable (h : Hdr) {n : Nat} (hn : n ∉ [0x0D, 0x0E, 0x0F, 0x10, 0x18]) (b : SrcB) (e : Env) :
    (chkSwrsr h n b e).opd = true := by
  have hw : srWritable n = false := Bool.eq_false_iff.2 (mt srWritable_iff.1 hn)
  simp [chkSwrsr, hw]

/-- Settles O21: each of the three accesses fails the operand check of its instruction. -/
theorem specialRegisterAccess : Obligations.SpecialRegisterAccess := by
  intro h s e he _ hf
  refine ⟨fun sr d hn => ?_, fun sr r hn => ?_, fun sr b hn => ?_⟩
  · exact exec_srdsr_bad_operand he hf (chkSrdsr_opd_of_reserved h hn d e)
  · have hp : srPerLane sr.toNat = true := by rcases hn with rfl | rfl <;> rfl
    exact exec_srdsr_bad_operand he hf (chkSrdsr_opd_of_perLane h hp r e)
  · exact exec_swrsr_bad_operand he hf (chkSwrsr_opd_of_not_writable h hn b e)

/-! The units of a core: what each makes of the operation it serves -/

section
variable {s : State} {c : Nat} {o : Op}

/-- The SFU of a partition serves its oldest operation (spec/04 R116). -/
theorem exec_sfuComplete {part : Nat} (hf : (s.core c).ops.find? (fun o => o.what == .sfu part) = some o) :
    exec (.sfuComplete c part) s = .next (s.complete c o) := by
  show execSfuComplete c part s = _
  simp only [execSfuComplete, hf]

/-- A matrix round is served when no operation in flight belongs to an older one (spec/08 R231). -/
theorem exec_matrixComplete {id r : Nat} {x : MatOp} {k : Int} {qs : List (Nat × MatOp)} (hf : s.findOp c id = some o)
    (hw : o.what = .matrix r x k qs)
    (hold : ∀ p ∈ (s.core c).ops, ∀ r' x' k' qs', p.what = .matrix r' x' k' qs' → r ≤ r') :
    exec (.matrixComplete c id) s = .next (s.roundDone c r) := by
  show execMatrixComplete c id s = _
  simp only [execMatrixComplete, hf, hw]
  refine if_neg fun hany => ?_
  obtain ⟨p, hp, hlt⟩ := List.any_eq_true.1 hany
  split at hlt
  next r' x' k' qs' hp' => exact absurd (of_decide_eq_true hlt) (Nat.not_lt.2 (hold p hp r' x' k' qs' hp'))
  next => cases hlt

/-- The transform unit serves a forward transform (spec/09 R247). -/
theorem exec_transformService_xfwd {k td ts : Nat} (hf : s.oldestOp c isTransform = some o) (hw : o.what = .xfwd k td ts) :
    exec (.transformService c) s = .next ((s.modGroup c o.ctx (fun g => g.xfwd k td ts)).complete c o) := by
  show execTransformService c s = _
  simp only [execTransformService, hf, hw]

/-- The transform unit serves an inverse transform (spec/09 R247). -/
theorem exec_transformService_xinv {fold sat : Bool} {td ts : Nat} (hf : s.oldestOp c isTransform = some o)
    (hw : o.what = .xinv fold sat td ts) :
    exec (.transformService c) s = .next ((s.modGroup c o.ctx (fun g => g.xinv fold sat td ts)).complete c o) := by
  show execTransformService c s = _
  simp only [execTransformService, hf, hw]

/-! Operations that complete through LOAD_COMPLETE, whichever way their bytes are read -/

section
variable {id : Nat} (late : Bool) (hf : s.findOp c id = some o)
include hf

theorem exec_loadComplete_data (hw : o.what = .data) : exec (.loadComplete c id late) s = .next (s.complete c o) := by
  show execLoadComplete c id late s = _
  simp only [execLoadComplete, hf, hw]

theorem exec_loadComplete_bpop {q d : Nat} {l : DWord} (hw : o.what = .bpop q d l) :
    exec (.loadComplete c id late) s = .next (s.bpopDone c o q d l) := by
  show execLoadComplete c id late s = _
  simp only [execLoadComplete, hf, hw]

theorem exec_loadComplete_tile {t : Nat} {bs : List Byte} {tag : BitVec 128} {src : Option TileSrc}
    (hw : o.what = .tile t bs tag src) : exec (.loadComplete c id late) s =
      .next (((s.modGroup c o.ctx (fun g => if g.uid = o.uid then g.setTile t bs tag else g)).sampleDone c o).complete c o) := by
  show execLoadComplete c id late s = _
  simp only [execLoadComplete, hf, hw]

theorem exec_loadComplete_cbld {slot : Nat} {book : List Nat} {src : Nat} (hw : o.what = .cbld slot book src) :
    exec (.loadComplete c id late) s = .next (s.cbldDone c o slot book) := by
  show execLoadComplete c id late s = _
  simp only [execLoadComplete, hf, hw]

/-- LOGFL completes once the log ring has nothing left to write. -/
theorem exec_loadComplete_logfl (hw : o.what = .logfl) (hr : (s.rings.lookD Ring.reset 3).wait = []) :
    exec (.loadComplete c id late) s = .next (s.complete c o) := by
  show execLoadComplete c id late s = _
  simp only [execLoadComplete, hf, hw, hr, if_true]

theorem exec_loadComplete_load_inTime {m : MemOp} (hw : o.what = .load m) (hp : s.opPending c o = false) :
    exec (.loadComplete c id false) s = finish ((s.sampleDone c o).complete c o) := by
  show execLoadComplete c id false s = _
  simp [execLoadComplete, hf, hw, hp]

/-- A late load completes with its bytes read again (log 56). -/
theorem exec_loadComplete_load_late {m : MemOp} (hw : o.what = .load m) (hp : s.opPending c o = false) :
    let r := s.lateRead c o m (fun _ => true)
    exec (.loadComplete c id true) s = finish ((r.1.sampleDone c r.2).complete c r.2) := by
  show execLoadComplete c id true s = _
  simp [execLoadComplete, hf, hw, hp]

theorem exec_loadComplete_fillc {k place : Nat} (hw : o.what = .fillc k place) (hk : s.forked c o = true) :
    exec (.loadComplete c id late) s = finish (s.fillcDone c o k place) := by
  show execLoadComplete c id late s = _
  simp only [execLoadComplete, hf, hw, hk, if_true]

end

/-! The engines' operations, which may meet memory that is absent in base camp -/

theorem exec_copyComplete {id : Nat} {k : CopyOp} (hf : s.findOp c id = some o) (hw : o.what = .copy k) :
    exec (.copyComplete c id) s = finish (s.copyComplete c o k) := by
  show execCopyComplete c id s = _
  simp only [execCopyComplete, hf, hw]

theorem exec_decodeComplete (hf : s.oldestOp c isDecode = some o) :
    exec (.decodeComplete c) s = finish (s.decodeComplete c o) := by
  show execDecodeComplete c s = _
  simp only [execDecodeComplete, hf]

theorem exec_topkComplete_topk {inp k n slot out : Nat} {res : Bool} (hf : s.oldestOp c isTopk = some o)
    (hr : s.engReady c o = true) (hw : o.what = .topk inp k n slot res out) :
    exec (.topkComplete c) s = finish (s.topk c o inp k n slot res out) := by
  show execTopkComplete c s = _
  simp [execTopkComplete, hf, hr, hw]

theorem exec_topkComplete_resid {a n slot : Nat} {flush : Bool} (hf : s.oldestOp c isTopk = some o)
    (hr : s.engReady c o = true) (hw : o.what = .resid a n slot flush) :
    exec (.topkComplete c) s = finish (s.residOut c o a n slot flush) := by
  show execTopkComplete c s = _
  simp [execTopkComplete, hf, hr, hw]

end

/-- A chain record's later stages: one at a time in phase 2, else those it has left (log 44). -/
theorem exec_chainRecord_stages {ch phase : Nat} (hp : phase ≠ 0) (s : State) : exec (.chainRecord ch phase) s =
    finish (State.chanStages (if phase = 2 then 1 else 3 - (s.chan ch).stage) s ch) :=
  if_neg hp

/-- Settles O50: each unit's turn comes to its operation's completion, and outside base camp no absent memory stops it. -/
theorem unitsComplete : Obligations.UnitsComplete := by
  intro s c o hs hb
  have hfin : ∀ {u}, Calm s u → finish u = .next u := fun hu => finish_calm hu hs hb
  refine ⟨fun part hf => exec_sfuComplete hf, ?load, ?copy, ?decode, ?topk, ?matrix, ?transform, fun ch => rfl, ?chain⟩
  case load =>
    rintro core id late rfl hf
    refine ⟨fun m hw hp hl => ?_, fun m hw hp hl => ?_, fun hw => exec_loadComplete_data late hf hw,
      fun q d l hw => exec_loadComplete_bpop late hf hw, fun t bs tag src hw => exec_loadComplete_tile late hf hw,
      fun slot book src hw => exec_loadComplete_cbld late hf hw, fun k place hw hk => ?_,
      fun hw hr => exec_loadComplete_logfl late hf hw hr⟩
    · subst hl
      exact (exec_loadComplete_load_inTime hf hw hp).trans (hfin ((calm_sampleDone ..).trans (calm_complete ..)))
    · subst hl
      exact (exec_loadComplete_load_late hf hw hp).trans
        (hfin (((calm_lateRead ..).trans (calm_sampleDone ..)).trans (calm_complete ..)))
    · exact (exec_loadComplete_fillc late hf hw hk).trans (hfin (calm_fillcDone ..))
  case copy => exact fun id k hf hw => (exec_copyComplete hf hw).trans (hfin (calm_copyComplete ..))
  case decode => exact fun hf => (exec_decodeComplete hf).trans (hfin (calm_decodeComplete ..))
  case topk =>
    exact fun hf hr =>
      ⟨fun inp k n slot res out hw => (exec_topkComplete_topk hf hr hw).trans (hfin (calm_topk ..)),
        fun a n slot flush hw => (exec_topkComplete_resid hf hr hw).trans (hfin (calm_residOut ..))⟩
  case matrix => exact fun id r x k qs hf hw hold => exec_matrixComplete hf hw hold
  case transform =>
    exact fun hf => ⟨fun k td ts hw => exec_transformService_xfwd hf hw, fun fold sat td ts hw => exec_transformService_xinv hf hw⟩
  case chain => exact fun ch phase hp => (exec_chainRecord_stages hp s).trans (hfin (calm_chanStages ..))

end Sys2Proof.Machine

/-! PROOFS, spec/03. Decoding and encoding undo each other: word 0 and its fields, the length it says, that an instruction's raw words
are zero beyond its length, and that every instruction's words name it again. -/

namespace Sys2Proof

/-! Word 0 and its fields (spec/03 R76) -/

theorem Raw.word0_nat (r : Raw) : r.word0.toNat =
    (((((r.mod8.toNat * 2 ^ 1 + (BitVec.ofBool r.h.gneg).toNat) * 2 ^ 7 + r.h.guard.toNat) * 2 ^ 2 + r.h.fsel.toNat) * 2 ^ 3 +
      r.h.stall.toNat) * 2 ^ 9 + r.opc.toNat) * 2 ^ 2 + r.len.toNat :=
  app_to _ (app_to _ (app_to _ (app_to _ (app_to _ (app_nat _ _)))))

/-- The fields of a word 0 are those it was made of. -/
theorem Raw.ofWords_word0 (r : Raw) (w1 w2 : Word) : Raw.ofWords r.word0 w1 w2 = { r with w1 := w1, w2 := w2 } := by
  have hw := r.word0_nat
  have hg := ofBool_lt r.h.gneg
  show Raw.ofWords r.word0 w1 w2 = ⟨⟨r.h.gneg, r.h.guard, r.h.fsel, r.h.stall⟩, r.mod8, r.opc, r.len, w1, w2⟩
  simp only [Raw.ofWords, Raw.mk.injEq, Hdr.mk.injEq, and_true]
  exact ⟨⟨bit (by omega), field (by omega), field (by omega), field (by omega)⟩, field (by omega), field (by omega), field (by omega)⟩

theorem extract_nat {n : Nat} (x : BitVec n) (k w : Nat) : (x.extractLsb' k w).toNat = x.toNat / 2 ^ k % 2 ^ w := by
  rw [BitVec.extractLsb'_toNat, Nat.shiftRight_eq_div_pow]

theorem ofBool_getLsbD_nat {n : Nat} (x : BitVec n) (k : Nat) : (BitVec.ofBool (x.getLsbD k)).toNat = x.toNat / 2 ^ k % 2 := by
  rw [BitVec.getLsbD, Nat.testBit_eq_decide_div_mod_eq]
  rcases Nat.mod_two_eq_zero_or_one (x.toNat / 2 ^ k) with h | h <;> rw [h] <;> rfl

/-- The fields of a word 0 make it again. -/
theorem Raw.word0_ofWords (w0 w1 w2 : Word) : (Raw.ofWords w0 w1 w2).word0 = w0 := by
  have hb := w0.isLt
  apply BitVec.eq_of_toNat_eq
  rw [Raw.word0_nat]
  simp only [Raw.ofWords, extract_nat, ofBool_getLsbD_nat]
  omega

/-! The number of words (spec/03 R84, R89) -/

/-- Steps 2 to 4 of R84: the length word 0 says, where its opcode permits it. -/
theorem wordsOf_ok_iff {w0 : Word} {n : Nat} :
    wordsOf w0 = .ok n ↔ (Raw.ofWords w0 0 0).lenOk = true ∧ n = (Raw.ofWords w0 0 0).len.toNat + 1 := by
  unfold wordsOf Raw.lenOk
  generalize Raw.ofWords w0 0 0 = r
  dsimp only
  by_cases h3 : r.len = 3
  · simp [h3]
  · rw [if_neg h3, bne_iff_ne.2 h3, Bool.true_and]
    by_cases h0 : lenMask r.opc.toNat = 0
    · simp [h0]
    · rw [if_neg h0]
      by_cases ht : (lenMask r.opc.toNat).testBit r.len.toNat = true
      · rw [if_pos ht]
        exact ⟨fun h => ⟨ht, (Except.ok.inj h).symm⟩, fun h => congrArg _ h.2.symm⟩
      · rw [if_neg ht]
        exact ⟨fun h => (nomatch h), fun h => absurd h.1 ht⟩

theorem wordsOf_word0 {r : Raw} (h : r.lenOk = true) : wordsOf r.word0 = .ok (r.len.toNat + 1) :=
  wordsOf_ok_iff.2 (by rw [Raw.ofWords_word0]; exact ⟨h, rfl⟩)

/-- The words an instruction does not have are zero. -/
def Raw.Trim (r : Raw) : Prop := (r.len.toNat < 1 → r.w1 = 0) ∧ (r.len.toNat < 2 → r.w2 = 0)

section
variable (h : Hdr) (opc : BitVec 9) (m8 : BitVec 8) (m4 : BitVec 4)

theorem trim_W0 : (encW h opc 0 m8 0 0).Trim := ⟨fun _ => rfl, fun _ => rfl⟩
theorem trim_W1 (w1 : Word) : (encW h opc 1 m8 w1 0).Trim := ⟨fun hl => absurd hl (by simp [encW]), fun _ => rfl⟩
theorem trim_W2 (w1 w2 : Word) : (encW h opc 2 m8 w1 w2).Trim :=
  ⟨fun hl => absurd hl (by simp [encW]), fun hl => absurd hl (by simp [encW])⟩
theorem trim_DA (o : DA) : (encDA h opc m8 m4 o).Trim := trim_W1 ..
theorem trim_DABC (o : DABC) (imm : BitVec 23) : (encDABC h opc m8 m4 o imm).Trim := trim_W2 ..
theorem trim_DAC (d a c : Opd) (imm : BitVec 23) : (encDAC h opc m8 d a c imm).Trim := trim_W2 ..
theorem trim_Off27 (off : BitVec 27) : (encOff27 h opc m8 off).Trim := trim_W1 ..
theorem trim_DAB (o : DAB) : (encDAB h opc m8 m4 o).Trim := by
  rcases o with ⟨d, a, b⟩
  cases b with
  | opd => exact trim_W1 ..
  | imm9 => exact trim_W1 ..
  | imm32 => exact trim_W2 ..
theorem trim_Mem (cv : Bool) (d : Opd) (x : Addr) : (encMem h opc m8 cv d x).Trim := by
  rcases x with ⟨base, idx, scale, off⟩
  cases off with
  | none => exact trim_W1 ..
  | some => exact trim_W2 ..
theorem trim_Atom (d : Opd) (x : AtomArg) : (encAtom h opc m8 d x).Trim := by
  cases x with
  | short => exact trim_W1 ..
  | long => exact trim_W2 ..
theorem trim_Tile (t : BitVec 4) (a : Opd) (b : SrcB) (off : Option (BitVec 23)) : (encTile h opc m8 t a b off).Trim := by
  cases off with
  | none => exact trim_W1 ..
  | some => exact trim_W2 ..

end

/-- Each instruction's words have one of the shapes of operands. -/
theorem Instr.toRaw_trim {i : Instr} {r : Raw} (hr : i.toRaw = some r) : r.Trim := by
  cases i <;> cases hr <;> simp only [trim_W0, trim_W1, trim_W2, trim_DA, trim_DAB, trim_DABC, trim_DAC, trim_Off27, trim_Mem, trim_Atom,
    trim_Tile]

end Sys2Proof

namespace Sys2Proof.Laws

/-- Every instruction's words name it again. -/
theorem roundTrip (i : Instr) : RoundTrip.Statement i := by
  cases i with
  | iadd h m o => exact RoundTrip.iadd h m o
  | isub h m o => exact RoundTrip.isub h m o
  | iadd3 h m o => exact RoundTrip.iadd3 h m o
  | iaddc h o pco => exact RoundTrip.iaddc h o pco
  | isubb h o pco => exact RoundTrip.isubb h o pco
  | iadd64 h o => exact RoundTrip.iadd64 h o
  | isub64 h o => exact RoundTrip.isub64 h o
  | imul h o => exact RoundTrip.imul h o
  | imulhiS h o => exact RoundTrip.imulhiS h o
  | imulhiU h o => exact RoundTrip.imulhiU h o
  | imad h o => exact RoundTrip.imad h o
  | imadwS h o => exact RoundTrip.imadwS h o
  | imadwU h o => exact RoundTrip.imadwU h o
  | iabs h sat o => exact RoundTrip.iabs h sat o
  | iminS h o => exact RoundTrip.iminS h o
  | iminU h o => exact RoundTrip.iminU h o
  | imaxS h o => exact RoundTrip.imaxS h o
  | imaxU h o => exact RoundTrip.imaxU h o
  | iclampS h o => exact RoundTrip.iclampS h o
  | iclampU h o => exact RoundTrip.iclampU h o
  | ishl h o => exact RoundTrip.ishl h o
  | ishr h o => exact RoundTrip.ishr h o
  | ishra h o => exact RoundTrip.ishra h o
  | shfL h o => exact RoundTrip.shfL h o
  | shfR h o => exact RoundTrip.shfR h o
  | irot h o => exact RoundTrip.irot h o
  | isad h u o => exact RoundTrip.isad h u o
  | idp4S h o => exact RoundTrip.idp4S h o
  | idp4U h o => exact RoundTrip.idp4U h o
  | idp2 h u o => exact RoundTrip.idp2 h u o
  | popc h o => exact RoundTrip.popc h o
  | clz h o => exact RoundTrip.clz h o
  | ctz h o => exact RoundTrip.ctz h o
  | brev h o => exact RoundTrip.brev h o
  | bfeS h o => exact RoundTrip.bfeS h o
  | bfeU h o => exact RoundTrip.bfeU h o
  | bfi h o => exact RoundTrip.bfi h o
  | logt h o lut => exact RoundTrip.logt h o lut
  | prmt h o => exact RoundTrip.prmt h o
  | sel h o => exact RoundTrip.sel h o
  | isetS h cc o => exact RoundTrip.isetS h cc o
  | isetU h cc o => exact RoundTrip.isetU h cc o
  | iset64 h cc u o => exact RoundTrip.iset64 h cc u o
  | imov h o => exact RoundTrip.imov h o
  | movi h d imm => exact RoundTrip.movi h d imm
  | lea h sh o => exact RoundTrip.lea h sh o
  | lea64 h u sh o => exact RoundTrip.lea64 h u sh o
  | pset h o lut => exact RoundTrip.pset h o lut
  | iaddH2 h m o => exact RoundTrip.iaddH2 h m o
  | isubH2 h m o => exact RoundTrip.isubH2 h m o
  | imulH2 h o => exact RoundTrip.imulH2 h o
  | imadH2 h o => exact RoundTrip.imadH2 h o
  | iminH2 h u o => exact RoundTrip.iminH2 h u o
  | imaxH2 h u o => exact RoundTrip.imaxH2 h u o
  | ishlH2 h o => exact RoundTrip.ishlH2 h o
  | isetH2 h cc u o => exact RoundTrip.isetH2 h cc u o
  | fadd h t m o => exact RoundTrip.fadd h t m o
  | fmul h t m o => exact RoundTrip.fmul h t m o
  | ffma h t m o => exact RoundTrip.ffma h t m o
  | fmin h t m o => exact RoundTrip.fmin h t m o
  | fmax h t m o => exact RoundTrip.fmax h t m o
  | fset h t cc m o => exact RoundTrip.fset h t cc m o
  | fclamp h t m o => exact RoundTrip.fclamp h t m o
  | fadd3 h m o => exact RoundTrip.fadd3 h m o
  | fmed3 h t m o => exact RoundTrip.fmed3 h t m o
  | fdp2 h t m o => exact RoundTrip.fdp2 h t m o
  | fdp4 h e5 m o => exact RoundTrip.fdp4 h e5 m o
  | frnd h t m o => exact RoundTrip.frnd h t m o
  | fscale h t m o => exact RoundTrip.fscale h t m o
  | fclass h t o => exact RoundTrip.fclass h t o
  | cadd h t m o => exact RoundTrip.cadd h t m o
  | cmul h t m o => exact RoundTrip.cmul h t m o
  | cfma h t m o => exact RoundTrip.cfma h t m o
  | cabs2 h t m o => exact RoundTrip.cabs2 h t m o
  | frcp h t abs na o => exact RoundTrip.frcp h t abs na o
  | frsq h t abs na o => exact RoundTrip.frsq h t abs na o
  | fsqrt h t abs na o => exact RoundTrip.fsqrt h t abs na o
  | fexp2 h t abs na o => exact RoundTrip.fexp2 h t abs na o
  | flog2 h t abs na o => exact RoundTrip.flog2 h t abs na o
  | fsin h t abs na o => exact RoundTrip.fsin h t abs na o
  | fcos h t abs na o => exact RoundTrip.fcos h t abs na o
  | ftanh h t abs na o => exact RoundTrip.ftanh h t abs na o
  | fsigm h t abs na o => exact RoundTrip.fsigm h t abs na o
  | fgelu h t abs na o => exact RoundTrip.fgelu h t abs na o
  | cvtf h m d a c x => exact RoundTrip.cvtf h m d a c x
  | cvtfSr h sat d a c x => exact RoundTrip.cvtfSr h sat d a c x
  | cvtfi h u src m o => exact RoundTrip.cvtfi h u src m o
  | cvtif h u dst m o => exact RoundTrip.cvtif h u dst m o
  | cvtii h sat src dst o => exact RoundTrip.cvtii h sat src dst o
  | packh h m o => exact RoundTrip.packh h m o
  | packb h m o => exact RoundTrip.packb h m o
  | packf8 h e5 hi m o => exact RoundTrip.packf8 h e5 hi m o
  | packmx h blk dfmt m d a c => exact RoundTrip.packmx h blk dfmt m d a c
  | unpkmx h scb m d a c x => exact RoundTrip.unpkmx h scb m d a c x
  | packt5 h o => exact RoundTrip.packt5 h o
  | unpkt5 h k o => exact RoundTrip.unpkt5 h k o
  | cbdec h slot half pair fp16 m d a c => exact RoundTrip.cbdec h slot half pair fp16 m d a c
  | cpack h o => exact RoundTrip.cpack h o
  | cpackU h hi o => exact RoundTrip.cpackU h hi o
  | pairFF h p q => exact RoundTrip.pairFF h p q
  | pairFI h p q => exact RoundTrip.pairFI h p q
  | pairII h p q => exact RoundTrip.pairII h p q
  | pairFX h p q => exact RoundTrip.pairFX h p q
  | qswpH h o => exact RoundTrip.qswpH h o
  | qswpV h o => exact RoundTrip.qswpV h o
  | qswpD h o => exact RoundTrip.qswpD h o
  | qbcst h k o => exact RoundTrip.qbcst h k o
  | qred h op u f32 o => exact RoundTrip.qred h op u f32 o
  | qhelp h o => exact RoundTrip.qhelp h o
  | shfl h mode seg o => exact RoundTrip.shfl h mode seg o
  | voteAny h o => exact RoundTrip.voteAny h o
  | voteAll h o => exact RoundTrip.voteAll h o
  | voteBal h o => exact RoundTrip.voteBal h o
  | matchLanes h o => exact RoundTrip.matchLanes h o
  | lred h op u f32 o => exact RoundTrip.lred h op u f32 o
  | lscan h op u exc o => exact RoundTrip.lscan h op u exc o
  | sadd h m o => exact RoundTrip.sadd h m o
  | ssub h m o => exact RoundTrip.ssub h m o
  | sadd64 h o => exact RoundTrip.sadd64 h o
  | smul h o => exact RoundTrip.smul h o
  | smad h o => exact RoundTrip.smad h o
  | smin h u o => exact RoundTrip.smin h u o
  | smax h u o => exact RoundTrip.smax h u o
  | sshl h o => exact RoundTrip.sshl h o
  | sshr h o => exact RoundTrip.sshr h o
  | sshra h o => exact RoundTrip.sshra h o
  | slogt h o lut => exact RoundTrip.slogt h o lut
  | spopc h o => exact RoundTrip.spopc h o
  | sclz h o => exact RoundTrip.sclz h o
  | sbfe h u o => exact RoundTrip.sbfe h u o
  | sbfi h o => exact RoundTrip.sbfi h o
  | sset h cc u o => exact RoundTrip.sset h cc u o
  | smov h o => exact RoundTrip.smov h o
  | smovi h d imm => exact RoundTrip.smovi h d imm
  | slea h u sh o => exact RoundTrip.slea h u sh o
  | s2v h o => exact RoundTrip.s2v h o
  | v2s h o => exact RoundTrip.v2s h o
  | srdsr h sr d => exact RoundTrip.srdsr h sr d
  | swrsr h sr b => exact RoundTrip.swrsr h sr b
  | bra h any off => exact RoundTrip.bra h any off
  | braDivergent h off rc => exact RoundTrip.braDivergent h off rc
  | brau h off => exact RoundTrip.brau h off
  | brx h a => exact RoundTrip.brx h a
  | call h l off => exact RoundTrip.call h l off
  | callx h l a => exact RoundTrip.callx h l a
  | ret h l => exact RoundTrip.ret h l
  | join h => exact RoundTrip.join h
  | loop h c off => exact RoundTrip.loop h c off
  | exit h => exact RoundTrip.exit h
  | nop h => exact RoundTrip.nop h
  | yield h => exact RoundTrip.yield h
  | trap h code => exact RoundTrip.trap h code
  | bkpt h code => exact RoundTrip.bkpt h code
  | tret h => exact RoundTrip.tret h
  | tretSkip h => exact RoundTrip.tretSkip h
  | mark h code => exact RoundTrip.mark h code
  | markImm h code imm => exact RoundTrip.markImm h code imm
  | ldg h m d adr => exact RoundTrip.ldg h m d adr
  | ldgNc h m d adr => exact RoundTrip.ldgNc h m d adr
  | ldacq h vsz sc d adr => exact RoundTrip.ldacq h vsz sc d adr
  | ldb h m d adr => exact RoundTrip.ldb h m d adr
  | stg h m d adr => exact RoundTrip.stg h m d adr
  | strel h vsz sc d adr => exact RoundTrip.strel h vsz sc d adr
  | lds h m d adr => exact RoundTrip.lds h m d adr
  | ldsX h vsz swz d adr => exact RoundTrip.ldsX h vsz swz d adr
  | sts h m d adr => exact RoundTrip.sts h m d adr
  | ldc h m d adr => exact RoundTrip.ldc h m d adr
  | ldl h m d adr => exact RoundTrip.ldl h m d adr
  | stl h m d adr => exact RoundTrip.stl h m d adr
  | atomg h op m d x => exact RoundTrip.atomg h op m d x
  | atomgCas h m d base cmp new off => exact RoundTrip.atomgCas h m d base cmp new off
  | atoms h op m d x => exact RoundTrip.atoms h op m d x
  | atomsCas h m d base cmp new off => exact RoundTrip.atomsCas h m d base cmp new off
  | redg h op m x => exact RoundTrip.redg h op m x
  | bchk h off => exact RoundTrip.bchk h off
  | bclr h => exact RoundTrip.bclr h
  | fence h ord sc => exact RoundTrip.fence h ord sc
  | acqr h sc b => exact RoundTrip.acqr h sc b
  | anch h d adr => exact RoundTrip.anch h d adr
  | await h => exact RoundTrip.await h
  | prefL2 h adr => exact RoundTrip.prefL2 h adr
  | prefLlc h adr => exact RoundTrip.prefLlc h adr
  | gpref h adr => exact RoundTrip.gpref h adr
  | cctlWb h all adr => exact RoundTrip.cctlWb h all adr
  | cctlInv h all adr => exact RoundTrip.cctlInv h all adr
  | binit h a b => exact RoundTrip.binit h a b
  | barv h rd sc d a b => exact RoundTrip.barv h rd sc d a b
  | bexp h a b => exact RoundTrip.bexp h a b
  | btry h sc d a b => exact RoundTrip.btry h sc d a b
  | bwait h sc a b => exact RoundTrip.bwait h sc a b
  | binval h a => exact RoundTrip.binval h a
  | barwg h n sc => exact RoundTrip.barwg h n sc
  | barrp h n => exact RoundTrip.barrp h n
  | qresv h pd d a b => exact RoundTrip.qresv h pd d a b
  | qput h a b c => exact RoundTrip.qput h a b c
  | qcommit h sc a b d => exact RoundTrip.qcommit h sc a b d
  | qsig h store sc a c => exact RoundTrip.qsig h store sc a c
  | tcopy h tok bar d a b c off => exact RoundTrip.tcopy h tok bar d a b c off
  | tcopys h tok bar d a b c off => exact RoundTrip.tcopys h tok bar d a b c off
  | tcopyx h tok bar d a b c off => exact RoundTrip.tcopyx h tok bar d a b c off
  | tcopyr h tok bar d a b c off => exact RoundTrip.tcopyr h tok bar d a b c off
  | chain h tok ch a => exact RoundTrip.chain h tok ch a
  | chstat h ch d => exact RoundTrip.chstat h ch d
  | decwBit h tok sg d a c nb => exact RoundTrip.decwBit h tok sg d a c nb
  | decwDlt h tok sg d a c nb => exact RoundTrip.decwDlt h tok sg d a c nb
  | decwRle h tok sg d a c nb => exact RoundTrip.decwRle h tok sg d a c nb
  | topk h tok n slot res a b c => exact RoundTrip.topk h tok n slot res a b c
  | resid h tok flush slot a b => exact RoundTrip.resid h tok flush slot a b
  | bstart h d a b => exact RoundTrip.bstart h d a b
  | bpop h q d => exact RoundTrip.bpop h q d
  | bpush h q a => exact RoundTrip.bpush h q a
  | bstop h => exact RoundTrip.bstop h
  | tld h fmt hdr sp t a b off => exact RoundTrip.tld h fmt hdr sp t a b off
  | tldX h fmt hdr sp t a b off => exact RoundTrip.tldX h fmt hdr sp t a b off
  | tst h fmt hdr sp t a b off => exact RoundTrip.tst h fmt hdr sp t a b off
  | tstX h fmt hdr sp t a b off => exact RoundTrip.tstX h fmt hdr sp t a b off
  | tzeroTile h t => exact RoundTrip.tzeroTile h t
  | tzeroAcc h n => exact RoundTrip.tzeroAcc h n
  | tmov h td ts => exact RoundTrip.tmov h td ts
  | ttrn h td ts => exact RoundTrip.ttrn h td ts
  | tbmp h t => exact RoundTrip.tbmp h t
  | ttagWr h acc n a => exact RoundTrip.ttagWr h acc n a
  | ttagRd h acc n d => exact RoundTrip.ttagRd h acc n d
  | mma h b4 tb ta sf => exact RoundTrip.mma h b4 tb ta sf
  | mmas h b4 tb ta sf => exact RoundTrip.mmas h b4 tb ta sf
  | mmaf h tb ta sf => exact RoundTrip.mmaf h tb ta sf
  | xfwd h c td ts => exact RoundTrip.xfwd h c td ts
  | xinv h fold sat td ts => exact RoundTrip.xinv h fold sat td ts
  | accrd h colb n d b => exact RoundTrip.accrd h colb n d b
  | accwr h colb n a b => exact RoundTrip.accwr h colb n a b
  | accout h fmt n td a => exact RoundTrip.accout h fmt n td a
  | fbchk h f d a => exact RoundTrip.fbchk h f d a
  | cbld h slot a b => exact RoundTrip.cbld h slot a b
  | fillc h a => exact RoundTrip.fillc h a
  | filla h => exact RoundTrip.filla h
  | fillq h d adr => exact RoundTrip.fillq h d adr
  | ftinfo h which d b => exact RoundTrip.ftinfo h which d b
  | fillv h b => exact RoundTrip.fillv h b
  | stopr h code => exact RoundTrip.stopr h code
  | psamp h code => exact RoundTrip.psamp h code
  | logfl h => exact RoundTrip.logfl h
  | evinc h evn b => exact RoundTrip.evinc h evn b
  | _ => exact fun _ _ h => nomatch h

end Sys2Proof.Laws

namespace Sys2Proof

/-! Decoding and encoding (spec/03 R82, R84) -/

theorem encode_eq_some {i : Instr} {ws : List Word} (he : encode i = some ws) :
    ∃ r, i.toRaw = some r ∧ [r.word0, r.w1, r.w2].take (r.len.toNat + 1) = ws := by
  simpa [encode] using he

/-- Words that are not there read as zero, as an instruction's raw words have them. -/
theorem Raw.Trim.ofWords {r : Raw} (ht : r.Trim) {n : Nat} (hn : n = r.len.toNat + 1) :
    Raw.ofWords r.word0 (if 2 ≤ n then r.w1 else 0) (if 3 ≤ n then r.w2 else 0) = r := by
  obtain ⟨h1, h2⟩ := ht
  have e1 : (if 2 ≤ n then r.w1 else 0) = r.w1 := ite_eq_left_iff.2 fun h => (h1 (by omega)).symm
  have e2 : (if 3 ≤ n then r.w2 else 0) = r.w2 := ite_eq_left_iff.2 fun h => (h2 (by omega)).symm
  rw [e1, e2, Raw.ofWords_word0]

theorem decodeRaw_eq_some_iff {r : Raw} {i : Instr} :
    decodeRaw r = some i ↔ build r = some i ∧ i.wf = true ∧ i.toRaw = some r := by
  unfold decodeRaw
  constructor
  · intro h
    split at h
    next j hj =>
      split at h
      next hc => cases h; simpa [hj] using hc
      next => cases h
    next => cases h
  · rintro ⟨hb, hw, hr⟩
    simp [hb, hw, hr]

/-- Where word 0 says a length, decoding is that of the raw words. -/
theorem decodeWords_eq_ok_iff {w0 w1 w2 : Word} {n : Nat} {i : Instr} (hn : wordsOf w0 = .ok n) :
    decodeWords w0 w1 w2 = .ok i ↔
      decodeRaw (Raw.ofWords w0 (if 2 ≤ n then w1 else 0) (if 3 ≤ n then w2 else 0)) = some i := by
  unfold decodeWords
  rw [hn]
  dsimp only
  split <;> simp_all

theorem Raw.len_lt_of_lenOk {r : Raw} (h : r.lenOk = true) : r.len.toNat < 3 := by
  simp only [Raw.lenOk, Bool.and_eq_true, bne_iff_ne] at h
  have hne : r.len.toNat ≠ 3 := fun h3 => h.1 (BitVec.eq_of_toNat_eq h3)
  have := r.len.isLt
  omega

/-- The words of raw words, later ones that are not there read as zero, are those raw words again. -/
theorem Raw.Trim.ofWords_take {r : Raw} (ht : r.Trim) (hlen : r.len.toNat < 3) :
    let ws := [r.word0, r.w1, r.w2].take (r.len.toNat + 1)
    ws.length = r.len.toNat + 1 ∧ ws.headD 0 = r.word0 ∧ ws[1]?.getD 0 = r.w1 ∧ ws[2]?.getD 0 = r.w2 := by
  obtain ⟨h1, h2⟩ := ht
  obtain h | h | h : r.len.toNat = 0 ∨ r.len.toNat = 1 ∨ r.len.toNat = 2 := by omega
  · simp [h, h1, h2]
  · simp [h, h2]
  · simp [h]

/-- Decoding undoes encoding: the words name the instruction again, by its law of Laws/PerInstr.lean. -/
theorem decodeWords_encode {i : Instr} {ws : List Word} (hw : i.wf = true) (he : encode i = some ws) :
    wordsOf (ws.headD 0) = .ok ws.length ∧ decodeWords (ws.headD 0) ((ws[1]?).getD 0) ((ws[2]?).getD 0) = .ok i := by
  obtain ⟨r, hr, rfl⟩ := encode_eq_some he
  obtain ⟨hl, hb⟩ := Laws.roundTrip i hw r hr
  have ht : r.Trim := Instr.toRaw_trim hr
  have hn := wordsOf_word0 hl
  obtain ⟨e, e0, e1, e2⟩ := ht.ofWords_take (Raw.len_lt_of_lenOk hl)
  rw [e, e0, e1, e2]
  exact ⟨hn, (decodeWords_eq_ok_iff hn).2 ((ht.ofWords rfl).symm ▸ decodeRaw_eq_some_iff.2 ⟨hb, hw, hr⟩)⟩

theorem take_zeroed {n : Nat} (hn : n < 4) (w0 w1 w2 : Word) :
    [w0, if 2 ≤ n then w1 else 0, if 3 ≤ n then w2 else 0].take n = [w0, w1, w2].take n := by
  obtain rfl | rfl | rfl | rfl : n = 0 ∨ n = 1 ∨ n = 2 ∨ n = 3 := by omega
  all_goals rfl

/-- Encoding undoes decoding: an instruction is accepted only where the encoder writes the same words. -/
theorem encode_decodeWords {w0 w1 w2 : Word} {i : Instr} {n : Nat} (hn : wordsOf w0 = .ok n) (hd : decodeWords w0 w1 w2 = .ok i) :
    i.wf = true ∧ encode i = some ([w0, w1, w2].take n) := by
  obtain ⟨-, hw, hr⟩ := decodeRaw_eq_some_iff.1 ((decodeWords_eq_ok_iff hn).1 hd)
  obtain ⟨hl, hlen⟩ := wordsOf_ok_iff.1 hn
  have hlt := Raw.len_lt_of_lenOk hl
  refine ⟨hw, ?_⟩
  rw [← take_zeroed (by omega) w0 w1 w2, encode, hr, Option.map_some, Raw.word0_ofWords]
  exact congrArg (fun k => some (List.take k _)) hlen.symm

theorem decodeWords_illegalOpcode {w0 : Word} (h : wordsOf w0 = .error .illegalOpcode) (w1 w2 : Word) :
    decodeWords w0 w1 w2 = .ok (.unassignedOpcode w0) := by
  unfold decodeWords; rw [h]

/-- Settles O2: the laws of every instruction's words, and the decoder's own comparison with the encoder. -/
theorem decodingUndoesEncoding : Obligations.DecodingUndoesEncoding :=
  ⟨fun _ _ hw he => decodeWords_encode hw he, fun _ _ _ _ _ hn hd => encode_decodeWords hn hd,
    fun _ w1 w2 h => decodeWords_illegalOpcode h w1 w2⟩

/-! Words written out (spec/03 R84) -/

/-- The words the encoder writes for a well-formed instruction, later ones that are not there read as zero, decode to it. -/
theorem decodeWords_of_encode {w0 w1 w2 : Word} {i : Instr} (hw : i.wf = true)
    (he : (encode i).map (fun ws => (ws.headD 0, (ws[1]?).getD 0, (ws[2]?).getD 0)) = some (w0, w1, w2)) :
    decodeWords w0 w1 w2 = .ok i := by
  obtain ⟨ws, hws, h⟩ := Option.map_eq_some_iff.1 he
  cases h
  exact (decodeWords_encode hw hws).2

/-- Settles O1: each instruction is well formed and the encoder writes these words for it; the last opcode is unassigned. -/
theorem specWordsDecode : Obligations.SpecWordsDecode := by
  refine ⟨?_, ?_, ?_, ?_, ?_, ?_, ?_, ?_, ?_, ?_, ?_, ?_, ?_, ?_, ?_, ?_, ?_, ?_, ?_, ?_, ?_, ?_, ?_, ?_, ?_, ?_, ?_, ?_, ?_, ?_, ?_, ?_,
    decodeWords_illegalOpcode (by rfl) 0 0⟩
  all_goals exact decodeWords_of_encode (by decide) (by decide)

end Sys2Proof

/-! PROOFS, spec/03. A step: the turn it takes, what a fetch comes to, and an issue turn by what its fetch came to. -/

namespace Sys2Proof.Machine

/-! The turn a step takes -/

/-- A step is the turn the agenda names first, or the default one. -/
theorem step_eq_take {s s0 : State} {u : Turn} (hs : s.stuck = none)
    (h : (∃ r, s.agenda = u :: r ∧ s0 = { s with agenda := r }) ∨ (s.agenda = [] ∧ u = s.defaultTurn ∧ s0 = s)) :
    step s = s0.take u := by
  obtain ⟨r, ha, rfl⟩ | ⟨ha, rfl, rfl⟩ := h
  · simp only [step, hs, ha]
  · simp only [step, hs, ha]

theorem step_stuck (s : State) (f : Fault) : step { s with stuck := some f } = .fault f := rfl

theorem take_issue {s : State} (hf : s.life.frozen = false) (hp : s.life.stopped = false) (c p : Nat) :
    s.take (.issue c p) = s.issueTurn c p := by
  simp [State.take, hf, hp]

theorem take_event_admitted {s : State} {i : Instr} (hi : isEvent i = true) (ha : s.admits i = true) :
    s.take (.event i) = nextWith (exec i s) (State.afterEvent i) := by
  simp [State.take, hi, ha]

theorem take_event_refused {s : State} {i : Instr} (h : isEvent i = false ∨ s.admits i = false) : s.take (.event i) = .next s := by
  have : ¬ ((isEvent i && s.admits i) = true) := by rcases h with h | h <;> simp [h]
  exact if_neg this

/-! What a fetch comes to (spec/03 R82, R84) -/

section
variable {t t0 : State} {e : Env} {w0 : Word}

theorem fetchInstr_fatal {x : Nat} (h : t.fetchWord e e.sl.pc = (t0, .fatal x)) : t.fetchInstr e = (t0, .trap x 1 e.sl.pc) := by
  unfold State.fetchInstr; rw [h]

variable (h : t.fetchWord e e.sl.pc = (t0, .word w0))
include h

theorem fetchInstr_rest {n : Nat} (hn : wordsOf w0 = .ok n) : t.fetchInstr e = t0.fetchRest e n w0 := by
  unfold State.fetchInstr; rw [h]; simp only [hn]

theorem fetchInstr_illegalOpcode (hn : wordsOf w0 = .error .illegalOpcode) :
    t.fetchInstr e = (t0, .instr (.unassignedOpcode w0) (lenWords w0)) := by
  unfold State.fetchInstr; rw [h]; simp only [hn]

theorem fetchInstr_illegalInstruction (hn : wordsOf w0 = .error .illegalInstruction) :
    t.fetchInstr e = (t0, .trap 2 (lenWords w0) e.sl.pc) := by
  unfold State.fetchInstr; rw [h]; simp only [hn]

end

/-- What the words of an instruction of n words come to: the instruction they name, or ILLEGAL_INSTRUCTION (spec/03 R84, step 6). -/
def fetchedOf (e : Env) (n : Nat) (w0 w1 w2 : Word) : Fetched :=
  match decodeWords w0 w1 w2 with
  | .ok i => .instr i n
  | .error _ => .trap 2 n e.sl.pc

theorem fetchedOf_instr {w0 w1 w2 : Word} {i : Instr} (h : decodeWords w0 w1 w2 = .ok i) (e : Env) (n : Nat) :
    fetchedOf e n w0 w1 w2 = .instr i n := by
  unfold fetchedOf; rw [h]

theorem fetchedOf_trap {w0 w1 w2 : Word} (h : ∀ i, decodeWords w0 w1 w2 ≠ .ok i) (e : Env) (n : Nat) :
    fetchedOf e n w0 w1 w2 = .trap 2 n e.sl.pc := by
  unfold fetchedOf
  split
  next i hi => exact absurd hi (h i)
  next => rfl

section
variable {t t1 t2 : State} {e : Env} {w1 w2 : Word}

theorem fetchRest_one (t : State) (e : Env) (w0 : Word) : t.fetchRest e 1 w0 = (t, fetchedOf e 1 w0 0 0) := by
  cases hd : decodeWords w0 0 0 <;> simp only [State.fetchRest, fetchedOf, hd, if_pos (show 1 < 2 by decide)]

theorem fetchRest_two (h1 : t.fetchWord e (e.sl.pc + 4) = (t1, .word w1)) (w0 : Word) :
    t.fetchRest e 2 w0 = (t1, fetchedOf e 2 w0 w1 0) := by
  cases hd : decodeWords w0 w1 0 <;>
    simp only [State.fetchRest, fetchedOf, hd, h1, if_neg (Nat.lt_irrefl 2), if_pos (show 2 < 3 by decide)]

theorem fetchRest_three (h1 : t.fetchWord e (e.sl.pc + 4) = (t1, .word w1)) (h2 : t1.fetchWord e (e.sl.pc + 8) = (t2, .word w2))
    (w0 : Word) : t.fetchRest e 3 w0 = (t2, fetchedOf e 3 w0 w1 w2) := by
  cases hd : decodeWords w0 w1 w2 <;>
    simp only [State.fetchRest, fetchedOf, hd, h1, h2, if_neg (show ¬ 3 < 2 by decide), if_neg (Nat.lt_irrefl 3)]

theorem fetchRest_fatal_second {n x : Nat} (hn : 2 ≤ n) (h1 : t.fetchWord e (e.sl.pc + 4) = (t1, .fatal x)) (w0 : Word) :
    t.fetchRest e n w0 = (t1, .trap x n (e.sl.pc + 4)) := by
  simp only [State.fetchRest, h1, if_neg (Nat.not_lt.2 hn)]

theorem fetchRest_fatal_third {x : Nat} (h1 : t.fetchWord e (e.sl.pc + 4) = (t1, .word w1))
    (h2 : t1.fetchWord e (e.sl.pc + 8) = (t2, .fatal x)) (w0 : Word) : t.fetchRest e 3 w0 = (t2, .trap x 3 (e.sl.pc + 8)) := by
  simp only [State.fetchRest, h1, h2]
  rfl

end

/-! An issue turn, by what its fetch came to -/

section
variable {s : State} {c p ctx n : Nat} {e : Env}

/-- The state in which the chosen stream's words are fetched. -/
def State.atFetch (s : State) (c ctx n : Nat) : State :=
  { (s.lowerKept c ctx n).enterClause c ctx n with cur := ⟨c, ctx, n, 1, []⟩ }

variable (hc : s.choose c p = some (ctx, n)) (he : (s.atFetch c ctx n).envAt c ctx n 1 = some e)
include hc he

/-- Where the words name an instruction, the turn is exec of it, and what follows an issue. -/
theorem issueTurn_instr {t : State} {i : Instr} {len : Nat} (hf : (s.atFetch c ctx n).fetchInstr e = (t, .instr i len)) :
    s.issueTurn c p = nextWith (exec i { t.forget e.g.uid (n + 2) with cur := ⟨c, ctx, n, len, s.others c p ctx n i⟩ })
      (s.afterIssue c p ctx n i) := by
  have hn : (s.lowerKept c ctx n).nextInstr c ctx n =
      ({ t.forget e.g.uid (n + 2) with cur := ⟨c, ctx, n, len, []⟩ }, some i) := by
    unfold State.nextInstr
    dsimp only
    unfold State.atFetch at he hf
    rw [he]
    dsimp only
    rw [hf]
  unfold State.issueTurn
  rw [hc]
  dsimp only
  rw [hn]

/-- Where the fetch gives a trap, the turn takes it in place of an instruction. -/
theorem issueTurn_trap {t : State} {cause len : Nat} {fa : DWord} (hf : (s.atFetch c ctx n).fetchInstr e = (t, .trap cause len fa)) :
    s.issueTurn c p = finish ((({ t with cur := ⟨c, ctx, n, len, []⟩ } : State).trapAt e cause e.sl.mask fa).raiseKept c ctx n
      (s.keptOf c ctx n)) := by
  have hn : (s.lowerKept c ctx n).nextInstr c ctx n =
      (({ t with cur := ⟨c, ctx, n, len, []⟩ } : State).trapAt e cause e.sl.mask fa, none) := by
    unfold State.nextInstr
    dsimp only
    unfold State.atFetch at he hf
    rw [he]
    dsimp only
    rw [hf]
  unfold State.issueTurn
  rw [hc]
  dsimp only
  rw [hn]

end

theorem wordsOf_length_three {w0 : Word} (h : w0.extractLsb' 0 2 = 3) : wordsOf w0 = .error .illegalInstruction :=
  if_pos h

/-- Settles O3: a step takes its turn; an issue turn fetches the words one by one and executes what they name, or traps. -/
theorem stepRunsTheDecodedInstruction : Obligations.StepRunsTheDecodedInstruction := by
  refine ⟨fun w0 h => wordsOf_length_three h, fun s s0 u hs hu => ?_⟩
  have hstep := step_eq_take hs hu
  refine ⟨?issue, fun i hi hev ha => ?_, fun i hi h => ?_, step_stuck s⟩
  case issue =>
    rintro c p ctx n e rfl hf hp hc t runs traps he
    have hlife : s0.life = s.life := by obtain ⟨r, -, rfl⟩ | ⟨-, -, rfl⟩ := hu <;> rfl
    rw [take_issue (hlife ▸ hf) (hlife ▸ hp)] at hstep
    have hruns : ∀ {t' i k}, t.fetchInstr e = (t', .instr i k) → step s = runs t' k i :=
      fun h => hstep.trans (issueTurn_instr hc he h)
    have htraps : ∀ {t' x k fa}, t.fetchInstr e = (t', .trap x k fa) → step s = traps t' k x fa :=
      fun h => hstep.trans (issueTurn_trap hc he h)
    refine ⟨fun t0 w0 h0 => ⟨fun hn => ?_, fun hn t1 w1 h1 => ?_, fun hn t1 w1 h1 t2 w2 h2 => ?_,
      fun hn => ⟨_, hruns (fetchInstr_illegalOpcode h0 hn)⟩, fun hn => ⟨_, htraps (fetchInstr_illegalInstruction h0 hn)⟩,
      fun k t1 x hn hk h1 => htraps ((fetchInstr_rest h0 hn).trans (fetchRest_fatal_second hk h1 w0)),
      fun t1 w1 t2 x hn h1 h2 => htraps ((fetchInstr_rest h0 hn).trans (fetchRest_fatal_third h1 h2 w0))⟩,
      fun t0 x h0 => htraps (fetchInstr_fatal h0)⟩
    · have h := (fetchInstr_rest h0 hn).trans (fetchRest_one t0 e w0)
      exact ⟨fun i hi => hruns (fetchedOf_instr hi e 1 ▸ h), fun hi => htraps (fetchedOf_trap hi e 1 ▸ h)⟩
    · have h := (fetchInstr_rest h0 hn).trans (fetchRest_two h1 w0)
      exact ⟨fun i hi => hruns (fetchedOf_instr hi e 2 ▸ h), fun hi => htraps (fetchedOf_trap hi e 2 ▸ h)⟩
    · have h := (fetchInstr_rest h0 hn).trans (fetchRest_three h1 h2 w0)
      exact ⟨fun i hi => hruns (fetchedOf_instr hi e 3 ▸ h), fun hi => htraps (fetchedOf_trap hi e 3 ▸ h)⟩
  · subst hi
    rw [hstep, take_event_admitted hev ha]
  · subst hi
    rw [hstep, take_event_refused h]

end Sys2Proof.Machine

/-! PROOFS, spec/03. The checks of R84: every instruction's meaning is the course of issue of the checks it adds. -/

namespace Sys2Proof.Machine

/-- What a meaning comes to is the course of issue of these checks, whatever its effect. -/
def IssuesAs (o : Out) (s : State) (h : Hdr) (c : Env → Chk) : Prop := ∃ eff, o = issue h c eff s

section
variable (h : Hdr) (s : State)

theorem issuesAs_issue (chk eff) : IssuesAs (issue h chk eff s) s h chk := ⟨eff, rfl⟩
theorem issuesAs_alu (lat f g) : IssuesAs (alu h lat f g s) s h (f.chk true) := issuesAs_issue ..
theorem issuesAs_fpu (f g) : IssuesAs (fpu h f g s) s h (f.chk false) := issuesAs_issue ..
theorem issuesAs_sfu (f g) : IssuesAs (sfu h f g s) s h f.slowChk := issuesAs_issue ..
theorem issuesAs_aluAll (lat f g) : IssuesAs (aluAll h lat f g s) s h (f.chk true) := issuesAs_issue ..
theorem issuesAs_aluGrp (lat f g) : IssuesAs (aluGrp h lat f g s) s h (f.chk false) := issuesAs_issue ..
theorem issuesAs_xchg (o : DA) (src) :
    IssuesAs (xchg h o src s) s h (AluForm.chk { o.form .raw with fp := false, every := true } false) := issuesAs_aluGrp ..
theorem issuesAs_pairWord (f1 f2 : Bool) (p q : PairOp) :
    IssuesAs (pairWord h f1 f2 p q s) s h ((pairForm f1 f2 p q).chk false) := by
  unfold pairWord; exact issuesAs_fpu ..
theorem issuesAs_uni (f g) : IssuesAs (uni h f g s) s h f.chk := issuesAs_issue ..
theorem issuesAs_uni32 (f g) : IssuesAs (uni32 h f g s) s h f.chk := issuesAs_uni ..
theorem issuesAs_atomic (scr : Bool) (op : Option AtomOp) (m : AtomMods) (f : AtomForm) :
    IssuesAs (atomic h scr op m f s) s h (f.chk (if scr then .short else .global) m) := issuesAs_issue ..
theorem issuesAs_prefetch (a f) : IssuesAs (prefetch h a f s) s h (prefetchChk a) := issuesAs_issue ..
theorem issuesAs_cctl (inv all a) : IssuesAs (cctl h inv all a s) s h (cctlChk all a) := issuesAs_issue ..
theorem issuesAs_onObject (a mem chk eff) : IssuesAs (onObject h a mem chk eff s) s h (onObjectChk a chk) := issuesAs_issue ..
theorem issuesAs_tensorCopy (kind tok bar d a b c off) :
    IssuesAs (tensorCopy kind h tok bar d a b c off s) s h (tensorCopyChk tok bar d a b c) := issuesAs_issue ..
theorem issuesAs_decodeIssue (form tok sg d a c nb) :
    IssuesAs (decodeIssue h form tok sg d a c nb s) s h (decodeIssueChk tok d a c nb) := issuesAs_issue ..
theorem issuesAs_tileLoad (r) : IssuesAs (tileLoad h r s) s h (r.chk h (writeT r.t.toNat)) := issuesAs_issue ..
theorem issuesAs_tileStore (r) : IssuesAs (tileStore h r s) s h (r.chk h (readT r.t.toNat)) := issuesAs_issue ..
theorem issuesAs_tileNow (us bad f) : IssuesAs (tileNow h us bad f s) s h (tileChk h us) := issuesAs_issue ..
theorem issuesAs_quartet (opc base n tb ta sf) :
    IssuesAs (quartet opc h base n tb ta sf s) s h (quartetChk opc h base n tb ta sf) := issuesAs_issue ..
theorem issuesAs_transform (td ts bad w) :
    IssuesAs (transform h td ts bad w s) s h (tileChk h [writeT td.toNat, readT ts.toNat]) := by
  unfold transform; exact issuesAs_issue ..
theorem issuesAs_qhelp (o : DA) : IssuesAs (execQhelp h o s) s h (AluForm.chk { o.form .raw with pOk := true, pOnly := true } false) := by
  unfold execQhelp; exact issuesAs_issue ..
theorem issuesAs_srdsr (sr d) : IssuesAs (execSrdsr h sr d s) s h (chkSrdsr h sr.toNat d) := by
  unfold execSrdsr; exact issuesAs_issue ..
theorem issuesAs_swrsr (sr b) : IssuesAs (execSwrsr h sr b s) s h (chkSwrsr h sr.toNat b) := by
  unfold execSwrsr; exact issuesAs_issue ..
theorem issuesAs_ttagWr (acc n a) : IssuesAs (execTtagWr h acc n a s) s h (chkTtagWr h ⟨acc, n.toNat, true⟩ a) := by
  unfold execTtagWr; exact issuesAs_issue ..
theorem issuesAs_ttagRd (acc n d) : IssuesAs (execTtagRd h acc n d s) s h (chkTtagRd h ⟨acc, n.toNat, false⟩ d) := by
  unfold execTtagRd; exact issuesAs_issue ..
theorem issuesAs_accout (fmt n td a) : IssuesAs (execAccout h fmt n td a s) s h
    (chkAccout h (writeT td.toNat :: ((List.range (accoutCount fmt)).map (fun i => n.toNat + i)).map readA) fmt a) := by
  unfold execAccout; exact issuesAs_issue ..

end

/-- A lane instruction issues by the checks of its operand form. -/
theorem issuesAs_shape {i : Instr} {x : Shape} (hx : i.shape? = some x) (s : State) : IssuesAs (exec i s) s x.h x.chk := by
  cases i with
  | iadd h m o => cases hx; exact (issuesAs_alu .. : IssuesAs (execIadd h m o s) s h _)
  | isub h m o => cases hx; exact (issuesAs_alu .. : IssuesAs (execIsub h m o s) s h _)
  | iadd3 h m o => cases hx; exact (issuesAs_alu .. : IssuesAs (execIadd3 h m o s) s h _)
  | iaddc h o pco => cases hx; exact (issuesAs_alu .. : IssuesAs (execIaddc h o pco s) s h _)
  | isubb h o pco => cases hx; exact (issuesAs_alu .. : IssuesAs (execIsubb h o pco s) s h _)
  | iadd64 h o => cases hx; exact (issuesAs_alu .. : IssuesAs (execIadd64 h o s) s h _)
  | isub64 h o => cases hx; exact (issuesAs_alu .. : IssuesAs (execIsub64 h o s) s h _)
  | imul h o => cases hx; exact (issuesAs_alu .. : IssuesAs (execImul h o s) s h _)
  | imulhiS h o => cases hx; exact (issuesAs_alu .. : IssuesAs (execImulhiS h o s) s h _)
  | imulhiU h o => cases hx; exact (issuesAs_alu .. : IssuesAs (execImulhiU h o s) s h _)
  | imad h o => cases hx; exact (issuesAs_alu .. : IssuesAs (execImad h o s) s h _)
  | imadwS h o => cases hx; exact (issuesAs_alu .. : IssuesAs (execImadwS h o s) s h _)
  | imadwU h o => cases hx; exact (issuesAs_alu .. : IssuesAs (execImadwU h o s) s h _)
  | iabs h sat o => cases hx; exact (issuesAs_alu .. : IssuesAs (execIabs h sat o s) s h _)
  | iminS h o => cases hx; exact (issuesAs_alu .. : IssuesAs (execIminS h o s) s h _)
  | iminU h o => cases hx; exact (issuesAs_alu .. : IssuesAs (execIminU h o s) s h _)
  | imaxS h o => cases hx; exact (issuesAs_alu .. : IssuesAs (execImaxS h o s) s h _)
  | imaxU h o => cases hx; exact (issuesAs_alu .. : IssuesAs (execImaxU h o s) s h _)
  | iclampS h o => cases hx; exact (issuesAs_alu .. : IssuesAs (execIclampS h o s) s h _)
  | iclampU h o => cases hx; exact (issuesAs_alu .. : IssuesAs (execIclampU h o s) s h _)
  | ishl h o => cases hx; exact (issuesAs_alu .. : IssuesAs (execIshl h o s) s h _)
  | ishr h o => cases hx; exact (issuesAs_alu .. : IssuesAs (execIshr h o s) s h _)
  | ishra h o => cases hx; exact (issuesAs_alu .. : IssuesAs (execIshra h o s) s h _)
  | shfL h o => cases hx; exact (issuesAs_alu .. : IssuesAs (execShfL h o s) s h _)
  | shfR h o => cases hx; exact (issuesAs_alu .. : IssuesAs (execShfR h o s) s h _)
  | irot h o => cases hx; exact (issuesAs_alu .. : IssuesAs (execIrot h o s) s h _)
  | isad h u o => cases hx; exact (issuesAs_alu .. : IssuesAs (execIsad h u o s) s h _)
  | idp4S h o => cases hx; exact (issuesAs_alu .. : IssuesAs (execIdp4S h o s) s h _)
  | idp4U h o => cases hx; exact (issuesAs_alu .. : IssuesAs (execIdp4U h o s) s h _)
  | idp2 h u o => cases hx; exact (issuesAs_alu .. : IssuesAs (execIdp2 h u o s) s h _)
  | popc h o => cases hx; exact (issuesAs_alu .. : IssuesAs (execPopc h o s) s h _)
  | clz h o => cases hx; exact (issuesAs_alu .. : IssuesAs (execClz h o s) s h _)
  | ctz h o => cases hx; exact (issuesAs_alu .. : IssuesAs (execCtz h o s) s h _)
  | brev h o => cases hx; exact (issuesAs_alu .. : IssuesAs (execBrev h o s) s h _)
  | bfeS h o => cases hx; exact (issuesAs_alu .. : IssuesAs (execBfeS h o s) s h _)
  | bfeU h o => cases hx; exact (issuesAs_alu .. : IssuesAs (execBfeU h o s) s h _)
  | bfi h o => cases hx; exact (issuesAs_alu .. : IssuesAs (execBfi h o s) s h _)
  | logt h o lut => cases hx; exact (issuesAs_alu .. : IssuesAs (execLogt h o lut s) s h _)
  | prmt h o => cases hx; exact (issuesAs_alu .. : IssuesAs (execPrmt h o s) s h _)
  | sel h o => cases hx; exact (issuesAs_alu .. : IssuesAs (execSel h o s) s h _)
  | isetS h cc o => cases hx; exact (issuesAs_alu .. : IssuesAs (execIsetS h cc o s) s h _)
  | isetU h cc o => cases hx; exact (issuesAs_alu .. : IssuesAs (execIsetU h cc o s) s h _)
  | iset64 h cc u o => cases hx; exact (issuesAs_alu .. : IssuesAs (execIset64 h cc u o s) s h _)
  | imov h o => cases hx; exact (issuesAs_alu .. : IssuesAs (execImov h o s) s h _)
  | movi h d imm => cases hx; exact (issuesAs_alu .. : IssuesAs (execMovi h d imm s) s h _)
  | lea h sh o => cases hx; exact (issuesAs_alu .. : IssuesAs (execLea h sh o s) s h _)
  | lea64 h u sh o => cases hx; exact (issuesAs_alu .. : IssuesAs (execLea64 h u sh o s) s h _)
  | pset h o lut => cases hx; exact (issuesAs_alu .. : IssuesAs (execPset h o lut s) s h _)
  | iaddH2 h m o => cases hx; exact (issuesAs_alu .. : IssuesAs (execIaddH2 h m o s) s h _)
  | isubH2 h m o => cases hx; exact (issuesAs_alu .. : IssuesAs (execIsubH2 h m o s) s h _)
  | imulH2 h o => cases hx; exact (issuesAs_alu .. : IssuesAs (execImulH2 h o s) s h _)
  | imadH2 h o => cases hx; exact (issuesAs_alu .. : IssuesAs (execImadH2 h o s) s h _)
  | iminH2 h u o => cases hx; exact (issuesAs_alu .. : IssuesAs (execIminH2 h u o s) s h _)
  | imaxH2 h u o => cases hx; exact (issuesAs_alu .. : IssuesAs (execImaxH2 h u o s) s h _)
  | ishlH2 h o => cases hx; exact (issuesAs_alu .. : IssuesAs (execIshlH2 h o s) s h _)
  | isetH2 h cc u o => cases hx; exact (issuesAs_alu .. : IssuesAs (execIsetH2 h cc u o s) s h _)
  | fadd h t m o => cases hx; exact (issuesAs_fpu .. : IssuesAs (execFadd h t m o s) s h _)
  | fmul h t m o => cases hx; exact (issuesAs_fpu .. : IssuesAs (execFmul h t m o s) s h _)
  | ffma h t m o => cases hx; exact (issuesAs_fpu .. : IssuesAs (execFfma h t m o s) s h _)
  | fmin h t m o => cases hx; exact (issuesAs_fpu .. : IssuesAs (execFmin h t m o s) s h _)
  | fmax h t m o => cases hx; exact (issuesAs_fpu .. : IssuesAs (execFmax h t m o s) s h _)
  | fset h t cc m o => cases hx; exact (issuesAs_fpu .. : IssuesAs (execFset h t cc m o s) s h _)
  | fclamp h t m o => cases hx; exact (issuesAs_fpu .. : IssuesAs (execFclamp h t m o s) s h _)
  | fadd3 h m o => cases hx; exact (issuesAs_fpu .. : IssuesAs (execFadd3 h m o s) s h _)
  | fmed3 h t m o => cases hx; exact (issuesAs_fpu .. : IssuesAs (execFmed3 h t m o s) s h _)
  | fdp2 h t m o => cases hx; exact (issuesAs_fpu .. : IssuesAs (execFdp2 h t m o s) s h _)
  | fdp4 h e5 m o => cases hx; exact (issuesAs_fpu .. : IssuesAs (execFdp4 h e5 m o s) s h _)
  | frnd h t m o => cases hx; exact (issuesAs_fpu .. : IssuesAs (execFrnd h t m o s) s h _)
  | fscale h t m o => cases hx; exact (issuesAs_fpu .. : IssuesAs (execFscale h t m o s) s h _)
  | fclass h t o => cases hx; exact (issuesAs_fpu .. : IssuesAs (execFclass h t o s) s h _)
  | cadd h t m o => cases hx; exact (issuesAs_fpu .. : IssuesAs (execCadd h t m o s) s h _)
  | cmul h t m o => cases hx; exact (issuesAs_fpu .. : IssuesAs (execCmul h t m o s) s h _)
  | cfma h t m o => cases hx; exact (issuesAs_fpu .. : IssuesAs (execCfma h t m o s) s h _)
  | cabs2 h t m o => cases hx; exact (issuesAs_fpu .. : IssuesAs (execCabs2 h t m o s) s h _)
  | frcp h t abs na o => cases hx; exact (issuesAs_sfu .. : IssuesAs (execFrcp h t abs na o s) s h _)
  | frsq h t abs na o => cases hx; exact (issuesAs_sfu .. : IssuesAs (execFrsq h t abs na o s) s h _)
  | fsqrt h t abs na o => cases hx; exact (issuesAs_sfu .. : IssuesAs (execFsqrt h t abs na o s) s h _)
  | fexp2 h t abs na o => cases hx; exact (issuesAs_sfu .. : IssuesAs (execFexp2 h t abs na o s) s h _)
  | flog2 h t abs na o => cases hx; exact (issuesAs_sfu .. : IssuesAs (execFlog2 h t abs na o s) s h _)
  | fsin h t abs na o => cases hx; exact (issuesAs_sfu .. : IssuesAs (execFsin h t abs na o s) s h _)
  | fcos h t abs na o => cases hx; exact (issuesAs_sfu .. : IssuesAs (execFcos h t abs na o s) s h _)
  | ftanh h t abs na o => cases hx; exact (issuesAs_sfu .. : IssuesAs (execFtanh h t abs na o s) s h _)
  | fsigm h t abs na o => cases hx; exact (issuesAs_sfu .. : IssuesAs (execFsigm h t abs na o s) s h _)
  | fgelu h t abs na o => cases hx; exact (issuesAs_sfu .. : IssuesAs (execFgelu h t abs na o s) s h _)
  | cvtf h m d a c x => cases hx; exact (issuesAs_alu .. : IssuesAs (execCvtf h m d a c x s) s h _)
  | cvtfSr h sat d a c x => cases hx; exact (issuesAs_alu .. : IssuesAs (execCvtfSr h sat d a c x s) s h _)
  | cvtfi h u src m o => cases hx; exact (issuesAs_alu .. : IssuesAs (execCvtfi h u src m o s) s h _)
  | cvtif h u dst m o => cases hx; exact (issuesAs_alu .. : IssuesAs (execCvtif h u dst m o s) s h _)
  | cvtii h sat src dst o => cases hx; exact (issuesAs_alu .. : IssuesAs (execCvtii h sat src dst o s) s h _)
  | packh h m o => cases hx; exact (issuesAs_alu .. : IssuesAs (execPackh h m o s) s h _)
  | packb h m o => cases hx; exact (issuesAs_alu .. : IssuesAs (execPackb h m o s) s h _)
  | packf8 h e5 hi m o => cases hx; exact (issuesAs_alu .. : IssuesAs (execPackf8 h e5 hi m o s) s h _)
  | packmx h blk dfmt m d a c => cases hx; exact (issuesAs_aluAll .. : IssuesAs (execPackmx h blk dfmt m d a c s) s h _)
  | unpkmx h scb m d a c x => cases hx; exact (issuesAs_alu .. : IssuesAs (execUnpkmx h scb m d a c x s) s h _)
  | packt5 h o => cases hx; exact (issuesAs_alu .. : IssuesAs (execPackt5 h o s) s h _)
  | unpkt5 h k o => cases hx; exact (issuesAs_alu .. : IssuesAs (execUnpkt5 h k o s) s h _)
  | cbdec h slot half pair fp16 m d a c => cases hx; exact (issuesAs_alu .. : IssuesAs (execCbdec h slot half pair fp16 m d a c s) s h _)
  | cpack h o => cases hx; exact (issuesAs_alu .. : IssuesAs (execCpack h o s) s h _)
  | cpackU h hi o => cases hx; exact (issuesAs_alu .. : IssuesAs (execCpackU h hi o s) s h _)
  | pairFF h p q => cases hx; exact (issuesAs_pairWord .. : IssuesAs (execPairFF h p q s) s h _)
  | pairFI h p q => cases hx; exact (issuesAs_pairWord .. : IssuesAs (execPairFI h p q s) s h _)
  | pairII h p q => cases hx; exact (issuesAs_pairWord .. : IssuesAs (execPairII h p q s) s h _)
  | pairFX h p q => cases hx; exact (issuesAs_pairWord .. : IssuesAs (execPairFX h p q s) s h _)
  | qswpH h o => cases hx; exact (issuesAs_xchg .. : IssuesAs (execQswpH h o s) s h _)
  | qswpV h o => cases hx; exact (issuesAs_xchg .. : IssuesAs (execQswpV h o s) s h _)
  | qswpD h o => cases hx; exact (issuesAs_xchg .. : IssuesAs (execQswpD h o s) s h _)
  | qbcst h k o => cases hx; exact (issuesAs_xchg .. : IssuesAs (execQbcst h k o s) s h _)
  | qred h op u f32 o => cases hx; exact (issuesAs_aluGrp .. : IssuesAs (execQred h op u f32 o s) s h _)
  | shfl h mode seg o => cases hx; exact (issuesAs_aluGrp .. : IssuesAs (execShfl h mode seg o s) s h _)
  | voteAny h o => cases hx; exact (issuesAs_aluGrp .. : IssuesAs (execVoteAny h o s) s h _)
  | voteAll h o => cases hx; exact (issuesAs_aluGrp .. : IssuesAs (execVoteAll h o s) s h _)
  | voteBal h o => cases hx; exact (issuesAs_aluGrp .. : IssuesAs (execVoteBal h o s) s h _)
  | matchLanes h o => cases hx; exact (issuesAs_aluGrp .. : IssuesAs (execMatchLanes h o s) s h _)
  | lred h op u f32 o => cases hx; exact (issuesAs_aluGrp .. : IssuesAs (execLred h op u f32 o s) s h _)
  | lscan h op u exc o => cases hx; exact (issuesAs_aluGrp .. : IssuesAs (execLscan h op u exc o s) s h _)
  | _ => cases hx

theorem issuesAs_shape_map {i : Instr} {s : State} {x : Hdr × (Env → Chk)} (hx : i.shape?.map (fun y => (y.h, y.chk)) = some x) :
    IssuesAs (exec i s) s x.1 x.2 := by
  obtain ⟨y, hy, rfl⟩ := Option.map_eq_some_iff.1 hx
  exact issuesAs_shape hy s

/-- Every instruction's meaning is the course of issue of the checks it adds. -/
theorem issuesAs_exec {i : Instr} {s : State} {x : Hdr × (Env → Chk)} (hx : i.checks? s = some x) :
    IssuesAs (exec i s) s x.1 x.2 := by
  cases i with
  | qhelp h o => cases hx; exact (issuesAs_qhelp .. : IssuesAs (execQhelp h o s) s h _)
  | sadd h m o => cases hx; exact (issuesAs_uni32 .. : IssuesAs (execSadd h m o s) s h _)
  | ssub h m o => cases hx; exact (issuesAs_uni32 .. : IssuesAs (execSsub h m o s) s h _)
  | sadd64 h o => cases hx; exact (issuesAs_uni .. : IssuesAs (execSadd64 h o s) s h _)
  | smul h o => cases hx; exact (issuesAs_uni32 .. : IssuesAs (execSmul h o s) s h _)
  | smad h o => cases hx; exact (issuesAs_uni32 .. : IssuesAs (execSmad h o s) s h _)
  | smin h u o => cases hx; exact (issuesAs_uni32 .. : IssuesAs (execSmin h u o s) s h _)
  | smax h u o => cases hx; exact (issuesAs_uni32 .. : IssuesAs (execSmax h u o s) s h _)
  | sshl h o => cases hx; exact (issuesAs_uni32 .. : IssuesAs (execSshl h o s) s h _)
  | sshr h o => cases hx; exact (issuesAs_uni32 .. : IssuesAs (execSshr h o s) s h _)
  | sshra h o => cases hx; exact (issuesAs_uni32 .. : IssuesAs (execSshra h o s) s h _)
  | slogt h o lut => cases hx; exact (issuesAs_uni32 .. : IssuesAs (execSlogt h o lut s) s h _)
  | spopc h o => cases hx; exact (issuesAs_uni32 .. : IssuesAs (execSpopc h o s) s h _)
  | sclz h o => cases hx; exact (issuesAs_uni32 .. : IssuesAs (execSclz h o s) s h _)
  | sbfe h u o => cases hx; exact (issuesAs_uni32 .. : IssuesAs (execSbfe h u o s) s h _)
  | sbfi h o => cases hx; exact (issuesAs_uni32 .. : IssuesAs (execSbfi h o s) s h _)
  | sset h cc u o => cases hx; exact (issuesAs_uni32 .. : IssuesAs (execSset h cc u o s) s h _)
  | smov h o => cases hx; exact (issuesAs_uni32 .. : IssuesAs (execSmov h o s) s h _)
  | smovi h d imm => cases hx; exact (issuesAs_uni32 .. : IssuesAs (execSmovi h d imm s) s h _)
  | slea h u sh o => cases hx; exact (issuesAs_uni .. : IssuesAs (execSlea h u sh o s) s h _)
  | s2v h o => cases hx; exact (issuesAs_issue .. : IssuesAs (execS2v h o s) s h _)
  | v2s h o => cases hx; exact (issuesAs_issue .. : IssuesAs (execV2s h o s) s h _)
  | srdsr h sr d => cases hx; exact (issuesAs_srdsr .. : IssuesAs (execSrdsr h sr d s) s h _)
  | swrsr h sr b => cases hx; exact (issuesAs_swrsr .. : IssuesAs (execSwrsr h sr b s) s h _)
  | bra h any off => cases hx; exact (issuesAs_issue .. : IssuesAs (execBra h any off s) s h _)
  | braDivergent h off rc => cases hx; exact (issuesAs_issue .. : IssuesAs (execBraDivergent h off rc s) s h _)
  | brau h off => cases hx; exact (issuesAs_issue .. : IssuesAs (execBrau h off s) s h _)
  | brx h a => cases hx; exact (issuesAs_issue .. : IssuesAs (execBrx h a s) s h _)
  | call h l off => cases hx; exact (issuesAs_issue .. : IssuesAs (execCall h l off s) s h _)
  | callx h l a => cases hx; exact (issuesAs_issue .. : IssuesAs (execCallx h l a s) s h _)
  | ret h l => cases hx; exact (issuesAs_issue .. : IssuesAs (execRet h l s) s h _)
  | join h => cases hx; exact (issuesAs_issue .. : IssuesAs (execJoin h s) s h _)
  | loop h c off => cases hx; exact (issuesAs_issue .. : IssuesAs (execLoop h c off s) s h _)
  | exit h => cases hx; exact (issuesAs_issue .. : IssuesAs (execExit h s) s h _)
  | nop h => cases hx; exact (issuesAs_issue .. : IssuesAs (execNop h s) s h _)
  | yield h => cases hx; exact (issuesAs_issue .. : IssuesAs (execYield h s) s h _)
  | trap h code => cases hx; exact (issuesAs_issue .. : IssuesAs (execTrap h code s) s h _)
  | bkpt h code => cases hx; exact (issuesAs_issue .. : IssuesAs (execBkpt h code s) s h _)
  | tret h => cases hx; exact (issuesAs_issue .. : IssuesAs (execTret h s) s h _)
  | tretSkip h => cases hx; exact (issuesAs_issue .. : IssuesAs (execTretSkip h s) s h _)
  | mark h code => cases hx; exact (issuesAs_issue .. : IssuesAs (execMark h code s) s h _)
  | markImm h code imm => cases hx; exact (issuesAs_issue .. : IssuesAs (execMarkImm h code imm s) s h _)
  | ldg h m d adr => cases hx; exact (issuesAs_issue .. : IssuesAs (execLdg h m d adr s) s h _)
  | ldgNc h m d adr => cases hx; exact (issuesAs_issue .. : IssuesAs (execLdgNc h m d adr s) s h _)
  | ldacq h vsz sc d adr => cases hx; exact (issuesAs_issue .. : IssuesAs (execLdacq h vsz sc d adr s) s h _)
  | ldb h m d adr => cases hx; exact (issuesAs_issue .. : IssuesAs (execLdb h m d adr s) s h _)
  | stg h m d adr => cases hx; exact (issuesAs_issue .. : IssuesAs (execStg h m d adr s) s h _)
  | strel h vsz sc d adr => cases hx; exact (issuesAs_issue .. : IssuesAs (execStrel h vsz sc d adr s) s h _)
  | lds h m d adr => cases hx; exact (issuesAs_issue .. : IssuesAs (execLds h m d adr s) s h _)
  | ldsX h vsz swz d adr => cases hx; exact (issuesAs_issue .. : IssuesAs (execLdsX h vsz swz d adr s) s h _)
  | sts h m d adr => cases hx; exact (issuesAs_issue .. : IssuesAs (execSts h m d adr s) s h _)
  | ldc h m d adr => cases hx; exact (issuesAs_issue .. : IssuesAs (execLdc h m d adr s) s h _)
  | ldl h m d adr => cases hx; exact (issuesAs_issue .. : IssuesAs (execLdl h m d adr s) s h _)
  | stl h m d adr => cases hx; exact (issuesAs_issue .. : IssuesAs (execStl h m d adr s) s h _)
  | atomg h op m d x => cases hx; exact (issuesAs_atomic .. : IssuesAs (execAtomg h op m d x s) s h _)
  | atomgCas h m d base cmp new off => cases hx; exact (issuesAs_atomic .. : IssuesAs (execAtomgCas h m d base cmp new off s) s h _)
  | atoms h op m d x => cases hx; exact (issuesAs_atomic .. : IssuesAs (execAtoms h op m d x s) s h _)
  | atomsCas h m d base cmp new off => cases hx; exact (issuesAs_atomic .. : IssuesAs (execAtomsCas h m d base cmp new off s) s h _)
  | redg h op m x => cases hx; exact (issuesAs_atomic .. : IssuesAs (execRedg h op m x s) s h _)
  | bchk h off => cases hx; exact (issuesAs_issue .. : IssuesAs (execBchk h off s) s h _)
  | bclr h => cases hx; exact (issuesAs_issue .. : IssuesAs (execBclr h s) s h _)
  | fence h ord sc => cases hx; exact (issuesAs_issue .. : IssuesAs (execFence h ord sc s) s h _)
  | acqr h sc b => cases hx; exact (issuesAs_issue .. : IssuesAs (execAcqr h sc b s) s h _)
  | anch h d adr => cases hx; exact (issuesAs_issue .. : IssuesAs (execAnch h d adr s) s h _)
  | await h => cases hx; exact (issuesAs_issue .. : IssuesAs (execAwait h s) s h _)
  | prefL2 h adr => cases hx; exact (issuesAs_prefetch .. : IssuesAs (execPrefL2 h adr s) s h _)
  | prefLlc h adr => cases hx; exact (issuesAs_prefetch .. : IssuesAs (execPrefLlc h adr s) s h _)
  | gpref h adr => cases hx; exact (issuesAs_prefetch .. : IssuesAs (execGpref h adr s) s h _)
  | cctlWb h all adr => cases hx; exact (issuesAs_cctl .. : IssuesAs (execCctlWb h all adr s) s h _)
  | cctlInv h all adr => cases hx; exact (issuesAs_cctl .. : IssuesAs (execCctlInv h all adr s) s h _)
  | binit h a b => cases hx; exact (issuesAs_onObject .. : IssuesAs (execBinit h a b s) s h _)
  | barv h rd sc d a b => cases hx; exact (issuesAs_onObject .. : IssuesAs (execBarv h rd sc d a b s) s h _)
  | bexp h a b => cases hx; exact (issuesAs_onObject .. : IssuesAs (execBexp h a b s) s h _)
  | btry h sc d a b => cases hx; exact (issuesAs_onObject .. : IssuesAs (execBtry h sc d a b s) s h _)
  | bwait h sc a b => cases hx; exact (issuesAs_onObject .. : IssuesAs (execBwait h sc a b s) s h _)
  | binval h a => cases hx; exact (issuesAs_onObject .. : IssuesAs (execBinval h a s) s h _)
  | barwg h n sc => cases hx; exact (issuesAs_issue .. : IssuesAs (execBarwg h n sc s) s h _)
  | barrp h n => cases hx; exact (issuesAs_issue .. : IssuesAs (execBarrp h n s) s h _)
  | qresv h pd d a b => cases hx; exact (issuesAs_issue .. : IssuesAs (execQresv h pd d a b s) s h _)
  | qput h a b c => cases hx; exact (issuesAs_issue .. : IssuesAs (execQput h a b c s) s h _)
  | qcommit h sc a b d => cases hx; exact (issuesAs_issue .. : IssuesAs (execQcommit h sc a b d s) s h _)
  | qsig h store sc a c => cases hx; exact (issuesAs_issue .. : IssuesAs (execQsig h store sc a c s) s h _)
  | tcopy h tok bar d a b c off => cases hx; exact (issuesAs_tensorCopy .. : IssuesAs (execTcopy h tok bar d a b c off s) s h _)
  | tcopys h tok bar d a b c off => cases hx; exact (issuesAs_tensorCopy .. : IssuesAs (execTcopys h tok bar d a b c off s) s h _)
  | tcopyx h tok bar d a b c off => cases hx; exact (issuesAs_tensorCopy .. : IssuesAs (execTcopyx h tok bar d a b c off s) s h _)
  | tcopyr h tok bar d a b c off => cases hx; exact (issuesAs_tensorCopy .. : IssuesAs (execTcopyr h tok bar d a b c off s) s h _)
  | chain h tok ch a => cases hx; exact (issuesAs_issue .. : IssuesAs (execChain h tok ch a s) s h _)
  | chstat h ch d => cases hx; exact (issuesAs_issue .. : IssuesAs (execChstat h ch d s) s h _)
  | decwBit h tok sg d a c nb => cases hx; exact (issuesAs_decodeIssue .. : IssuesAs (execDecwBit h tok sg d a c nb s) s h _)
  | decwDlt h tok sg d a c nb => cases hx; exact (issuesAs_decodeIssue .. : IssuesAs (execDecwDlt h tok sg d a c nb s) s h _)
  | decwRle h tok sg d a c nb => cases hx; exact (issuesAs_decodeIssue .. : IssuesAs (execDecwRle h tok sg d a c nb s) s h _)
  | topk h tok n slot res a b c => cases hx; exact (issuesAs_issue .. : IssuesAs (execTopk h tok n slot res a b c s) s h _)
  | resid h tok flush slot a b => cases hx; exact (issuesAs_issue .. : IssuesAs (execResid h tok flush slot a b s) s h _)
  | bstart h d a b => cases hx; exact (issuesAs_issue .. : IssuesAs (execBstart h d a b s) s h _)
  | bpop h q d => cases hx; exact (issuesAs_issue .. : IssuesAs (execBpop h q d s) s h _)
  | bpush h q a => cases hx; exact (issuesAs_issue .. : IssuesAs (execBpush h q a s) s h _)
  | bstop h => cases hx; exact (issuesAs_issue .. : IssuesAs (execBstop h s) s h _)
  | tld h fmt hdr sp t a b off => cases hx; exact (issuesAs_tileLoad .. : IssuesAs (execTld h fmt hdr sp t a b off s) s h _)
  | tldX h fmt hdr sp t a b off => cases hx; exact (issuesAs_tileLoad .. : IssuesAs (execTldX h fmt hdr sp t a b off s) s h _)
  | tst h fmt hdr sp t a b off => cases hx; exact (issuesAs_tileStore .. : IssuesAs (execTst h fmt hdr sp t a b off s) s h _)
  | tstX h fmt hdr sp t a b off => cases hx; exact (issuesAs_tileStore .. : IssuesAs (execTstX h fmt hdr sp t a b off s) s h _)
  | tzeroTile h t => cases hx; exact (issuesAs_tileNow .. : IssuesAs (execTzeroTile h t s) s h _)
  | tzeroAcc h n => cases hx; exact (issuesAs_tileNow .. : IssuesAs (execTzeroAcc h n s) s h _)
  | tmov h td ts => cases hx; exact (issuesAs_tileNow .. : IssuesAs (execTmov h td ts s) s h _)
  | ttrn h td ts => cases hx; exact (issuesAs_tileNow .. : IssuesAs (execTtrn h td ts s) s h _)
  | tbmp h t => cases hx; exact (issuesAs_tileNow .. : IssuesAs (execTbmp h t s) s h _)
  | ttagWr h acc n a => cases hx; exact (issuesAs_ttagWr .. : IssuesAs (execTtagWr h acc n a s) s h _)
  | ttagRd h acc n d => cases hx; exact (issuesAs_ttagRd .. : IssuesAs (execTtagRd h acc n d s) s h _)
  | mma h b4 tb ta sf => cases hx; exact (issuesAs_quartet .. : IssuesAs (execMma h b4 tb ta sf s) s h _)
  | mmas h b4 tb ta sf => cases hx; exact (issuesAs_quartet .. : IssuesAs (execMmas h b4 tb ta sf s) s h _)
  | mmaf h tb ta sf => cases hx; exact (issuesAs_quartet .. : IssuesAs (execMmaf h tb ta sf s) s h _)
  | xfwd h c td ts => cases hx; exact (issuesAs_transform .. : IssuesAs (execXfwd h c td ts s) s h _)
  | xinv h fold sat td ts => cases hx; exact (issuesAs_transform .. : IssuesAs (execXinv h fold sat td ts s) s h _)
  | accrd h colb n d b => cases hx; exact (issuesAs_issue .. : IssuesAs (execAccrd h colb n d b s) s h _)
  | accwr h colb n a b => cases hx; exact (issuesAs_issue .. : IssuesAs (execAccwr h colb n a b s) s h _)
  | accout h fmt n td a => cases hx; exact (issuesAs_accout .. : IssuesAs (execAccout h fmt n td a s) s h _)
  | fbchk h f d a => cases hx; exact (issuesAs_issue .. : IssuesAs (execFbchk h f d a s) s h _)
  | cbld h slot a b => cases hx; exact (issuesAs_issue .. : IssuesAs (execCbld h slot a b s) s h _)
  | fillc h a => cases hx; exact (issuesAs_issue .. : IssuesAs (execFillc h a s) s h _)
  | filla h => cases hx; exact (issuesAs_issue .. : IssuesAs (execFilla h s) s h _)
  | fillq h d adr => cases hx; exact (issuesAs_issue .. : IssuesAs (execFillq h d adr s) s h _)
  | ftinfo h which d b => cases hx; exact (issuesAs_issue .. : IssuesAs (execFtinfo h which d b s) s h _)
  | fillv h b => cases hx; exact (issuesAs_issue .. : IssuesAs (execFillv h b s) s h _)
  | stopr h code => cases hx; exact (issuesAs_issue .. : IssuesAs (execStopr h code s) s h _)
  | psamp h code => cases hx; exact (issuesAs_issue .. : IssuesAs (execPsamp h code s) s h _)
  | logfl h => cases hx; exact (issuesAs_issue .. : IssuesAs (execLogfl h s) s h _)
  | evinc h evn b => cases hx; exact (issuesAs_issue .. : IssuesAs (execEvinc h evn b s) s h _)
  | _ => exact issuesAs_shape_map hx

/-- A full flag or a wait leaves the instruction where it is. -/
theorem issue_held {s : State} {e : Env} {h : Hdr} {chk : Env → Chk} (he : s.env? = some e) (hf : e.failed h (chk e) = none)
    (hw : (e.flagFull h (chk e).tok || (chk e).hold) = true) (eff : Env → State → State) : issue h chk eff s = .next (s.hold e) := by
  simp only [issue, he, hf, hw, if_true]

/-- Settles O4: every instruction issues by its checks, and the course of issue takes the first that fails, then the waits. -/
theorem theFirstFailingCheckTraps : Obligations.TheFirstFailingCheckTraps := by
  intro i s e h c hc he
  obtain ⟨eff, hx⟩ := issuesAs_exec hc
  rw [hx]
  exact ⟨fun k hk => issue_failed he hk eff, fun hf hw => issue_held he hf hw eff⟩

end Sys2Proof.Machine

/-! PROOFS, spec/03, spec/06, spec/07. The steps of a core beside its issues, and its caches' coherence steps: what each event's meaning
comes to when its condition holds. -/

namespace Sys2Proof.Machine

/-- An event's meaning that ends in finish of a state goes on to that state, outside base camp. -/
theorem event_next {i : Instr} {s u : State} (hi : i.setsDevice = false) (hev : isEvent i = true) (hs : s.stuck = none)
    (hb : s.baseCamp = false) (hx : exec i s = finish u) : exec i s = .next u := by
  obtain ⟨t, ht, -⟩ := (onward_exec hi (.inl hev)).exists_next hs hb
  rw [ht] at hx
  unfold finish at hx
  split at hx
  next => cases hx
  next => rw [ht, hx]

section
variable {s : State} {c ctx n : Nat} {g : Group}

/-! What one stream's waits come to -/

/-- A YIELD is over once its time has come, or each stream it waits for has issued or gone (spec/05 R145). -/
theorem yieldOver_of_wait {sl : Slot} {t : Nat} {others : List Nat} (hw : sl.wait = .yield t others)
    (h : t ≤ (s.core c).clk ∨ ∀ x ∈ others, ∀ o, s.group? c (x / 2) = some o → (o.slotOf (x % 2)).valid = true →
      sl.lastIssue < (o.slotOf (x % 2)).lastIssue) : s.yieldOver c sl = true := by
  unfold State.yieldOver
  rw [hw]
  simp only [Bool.or_eq_true, decide_eq_true_eq, List.all_eq_true]
  refine h.imp id fun h x hx => ?_
  cases hgx : s.group? c (x / 2) with
  | none => rfl
  | some o =>
    cases hv : (o.slotOf (x % 2)).valid with
    | false => simp [hv]
    | true => simpa [hv] using h x hx o hgx hv

section
variable (hg : s.group? c ctx = some g)
include hg

theorem exec_clauseWaitRelease (hv : (g.slotOf n).valid = true) (hp : (g.slotOf n).phase = .header) (hw : (g.slotOf n).wait = .none)
    (hok : g.waitOk (g.slotOf n).hdr = true) :
    exec (.clauseWaitRelease c ctx n) s = .next (s.modSlot c ctx n (fun sl => { sl with phase := .released })) := by
  show execClauseWaitRelease c ctx n s = _
  simp [execClauseWaitRelease, hg, hv, hp, hw, hok]

theorem exec_yieldExpiry (h : s.yieldOver c (g.slotOf n) = true) :
    exec (.yieldExpiry c ctx n) s = .next (s.modSlot c ctx n (fun sl => { sl with wait := .none })) := by
  show execYieldExpiry c ctx n s = _
  simp only [execYieldExpiry, hg, h, if_true]

theorem exec_awaitTimeout {t : Nat} (hn : n < 2) (hw : (g.slotOf n).wait = .await t) (ht : t + 1048576 ≤ (s.core c).clk) :
    exec (.awaitTimeout c ctx) s = .next (s.modGroup c ctx Group.fire) := by
  show execAwaitTimeout c ctx s = _
  obtain rfl | rfl : n = 0 ∨ n = 1 := by omega
  · replace hw : g.slot0.wait = .await t := hw
    simp [execAwaitTimeout, hg, hw, ht]
  · replace hw : g.slot1.wait = .await t := hw
    simp [execAwaitTimeout, hg, hw, ht]

theorem exec_starvationPromote {t : Nat} (hw : (g.slotOf n).eligSince = some t) (he : s.eligible c ctx n = true)
    (ht : t + 4096 ≤ (s.core c).clk) :
    exec (.starvationPromote c ctx n) s = .next (s.modSlot c ctx n (fun sl => { sl with promoted := true })) := by
  show execStarvationPromote c ctx n s = _
  simp [execStarvationPromote, hg, hw, he, ht]

theorem exec_memoryReplay {r : Replay} {m : Nat} (hr : (g.slotOf n).replay = some r) (hm : r.ready = some m)
    (hw : (g.slotOf n).wait = .replay) (hst : s.stopped g = false ∨ r.flown = true) (ht : g.heldByTrap n = false)
    (he : m = 0 ∨ s.earlierWoken c ctx m = false) : exec (.memoryReplay c ctx n) s = finish (s.replay c ctx n r) := by
  show execMemoryReplay c ctx n s = _
  have h1 : (s.stopped g && !r.flown) = false := by rcases hst with h | h <;> simp [h]
  have h2 : (m != 0 && s.earlierWoken c ctx m) = false := by rcases he with h | h <;> simp [h]
  simp [execMemoryReplay, hg, hr, hm, hw, h1, ht, h2]

theorem exec_allotmentRelease (he : g.ended = true)
    (ho : ∀ o ∈ (s.core c).ops, o.ctx = ctx → o.uid = g.uid → o.what.toMemory = true ∧ o.uses = []) :
    exec (.allotmentRelease c ctx) s = .next (s.removeGroup c ctx).reap := by
  show execAllotmentRelease c ctx s = _
  have ha : (s.core c).ops.any (fun o => o.ctx == ctx && o.uid == g.uid && (!o.what.toMemory || o.uses != [])) = false := by
    rw [List.any_eq_false]
    intro o hoc
    by_cases h1 : o.ctx = ctx
    · by_cases h2 : o.uid = g.uid
      · simp [ho o hoc h1 h2]
      · simp [h2]
    · simp [h1]
  simp only [execAllotmentRelease, hg, he, ha, Bool.not_false, Bool.and_self, if_true]

end

/-! What leaves a core's queues -/

theorem exec_storeQueueLeave_oldest {q : SqEntry} (hq : (s.core c).sq.find? (fun q => q.ctx == ctx) = some q)
    (hb : s.leaveBlocked c q = false) : exec (.storeQueueLeave c 0 ctx) s = finish (s.leaveQueue c q) := by
  show execStoreQueueLeave c 0 ctx s = _
  simp [execStoreQueueLeave, hq, hb]

theorem exec_storeQueueLeave_writeThrough {k : Nat} {w : Wt} (hw : (s.core c).wt[k]? = some w)
    (hc : ∀ v ∈ (s.core c).wt.take k, ∀ x ∈ v.cells, ∀ y ∈ w.cells, x.tgt / 128 ≠ y.tgt / 128) :
    exec (.storeQueueLeave c 1 k) s = finish ((s.modCore c (fun x => { x with wt := x.wt.eraseIdx k })).leaveWt c w) := by
  show execStoreQueueLeave c 1 k s = _
  have ha : ((s.core c).wt.take k).any (fun v => v.cells.any (fun x => w.cells.any (fun y => x.tgt / 128 == y.tgt / 128))) = false := by
    simpa [List.any_eq_false] using hc
  simp only [execStoreQueueLeave, hw, ha]
  rfl

theorem exec_cbldTakeover {id slot src : Nat} {o : Op} {book : List Nat} (hf : s.findOp c id = some o)
    (hw : o.what = .cbld slot book src) (ha : (s.core c).bookAsid.lookD 0 slot ≠ o.asid)
    (hon : s.asidOn c ((s.core c).bookAsid.lookD 0 slot) = false) :
    exec (.cbldTakeover c id) s = .next (s.modCore c (fun k => k.takeBook o.asid slot)) := by
  show execCbldTakeover c id s = _
  simp only [execCbldTakeover, hf, hw]
  exact if_neg (by simp [ha, hon])

/-! The clock and the load throttle -/

@[simp] theorem State.core_modCore (s : State) (c : Nat) (f : Core → Core) : (s.modCore c f).core c = f (s.core c) := by
  simp [State.core, State.modCore]

@[simp] theorem State.core_count (s : State) (unit event k c : Nat) : (s.count unit event k).core c = s.core c := rfl

theorem exec_throttleWindowEnd (h : (s.core c).throttle.window + 2048 ≤ (s.core c).clk) :
    exec (.throttleWindowEnd c) s = .next (s.endWindow c) := by
  show execThrottleWindowEnd c s = _
  simp [execThrottleWindowEnd, State.windowOver, h]

/-- What the end of a window leaves of the throttle, but for who is permitted or held back (spec/07 R192). -/
theorem endWindow_throttle (s : State) (c : Nat) :
    let a := (s.core c).throttle
    let b := ((s.endWindow c).core c).throttle
    b.limit = (if s.coreIdle c then none else newLimit a.limit (s.ordinary c).length a.hits (a.waited && !a.loaded)) ∧
    b.hits = 0 ∧ b.wanted = [] ∧ b.waited = false ∧ b.loaded = false ∧ b.window = (s.core c).clk ∧ b.tags = a.tags := by
  have hk : ∀ p : Prop, ∀ _ : Decidable p, (if p then s.count c 5 1 else s).core c = s.core c := by
    intro p _; split <;> rfl
  simp [State.endWindow, hk]

theorem endWindow_groups (s : State) (c : Nat) : (s.endWindow c).groups = s.groups := by
  unfold State.endWindow
  dsimp only [State.modCore]
  split <;> rfl

theorem endWindow_mem (s : State) (c : Nat) : (s.endWindow c).mem = s.mem := by
  unfold State.endWindow
  dsimp only [State.modCore]
  split <;> rfl

/-- The clock of a core advances: what is due by then completes, and every slot that looks again does so (spec/07 R187). -/
theorem exec_clkAdvance (s : State) (c : Nat) :
    let t := s.modCore c (fun k => { k with clk := k.clk + 1 })
    let s1 := if s.dieClk < t.dieClk then t.dieTick else t
    let s2 := if (s1.core c).throttle.window + 2048 ≤ (s1.core c).clk then s1.endWindow c else s1
    let s3 := (s2.commitDue c).reap.settlePreempt
    exec (.clkAdvance c) s = finish { s3 with groups := s3.groups.mapAll (fun k g =>
      if k / 65 = c ∧ g.save ≠ SaveMode.done then { g with slot0 := g.slot0.look s3 c, slot1 := g.slot1.look s3 c } else g) } := by
  show execClkAdvance c s = _
  simp only [execClkAdvance, State.windowOver, decide_eq_true_eq]

theorem exec_homeMiss (s : State) (c ctx n : Nat) :
    exec (.homeMiss c ctx n) s = finish (s.resendSlot c ctx n (fun _ => true)) := rfl

theorem exec_heldRequesterResend (s : State) (slice : Nat) : exec (.heldRequesterResend slice) s =
    finish (s.groups.foldl (fun s x => (s.resendSlot (x.1 / 65) (x.1 % 65) 0 (fun k => k == slice)).resendSlot (x.1 / 65) (x.1 % 65) 1
      (fun k => k == slice)) s) := rfl

/-! Belay checks, coherence steps and held requesters -/

/-- An answer leaves the list of validations, and one that finds its entry waiting counts for it (spec/06 R171, R173). -/
theorem exec_belayAnswer {id : Nat} {v : Validation} {ok : Bool} {b : Belay} (hv : (s.core c).vals.find? (fun v => v.id == id) = some v)
    (ha : v.answer = some ok) (hb : (s.core c).belay.look v.index = some b) (hr : b.genr = v.genr) (h1 : b.state = 1) :
    let t := s.modCore c (fun k => { k with vals := k.vals.filter (fun w => w.id != id) })
    exec (.belayAnswer c id) s = .next ((if ok then t else t.count c 7 1).modCore c
      (fun k => { k with belay := k.belay.put v.index (b.answered ok) })) := by
  show execBelayAnswer c id s = _
  simp [execBelayAnswer, hv, ha, hb, hr, h1]

theorem exec_belayRoundSelfInvalidate (h : s.roundSeen.contains c = false) :
    exec (.belayRoundSelfInvalidate c) s = .next (s.dropAllClean c) := by
  show execBelayRoundSelfInvalidate c s = _
  simp only [execBelayRoundSelfInvalidate, h]
  rfl

theorem exec_localWriteback {asid line : Nat} {l : L1Line} {s1 : State} (hf : (s.core c).l1Find asid line = some l)
    (hk : l.kind = .loc) (hw : s.wbHeld.any (fun w => w.1 == c && w.2.1 == asid && w.2.2.1 == line) = false)
    (hb : s.writeBack c l false = (s1, BackRes.done)) : exec (.localWriteback c asid line) s = finish s1 := by
  show execLocalWriteback c asid line s = _
  unfold execLocalWriteback State.tryBack
  simp only [hf, hk, hw, hb]
  rfl

theorem exec_homeValidate {id : Nat} {falsely : Bool} {v : Validation}
    (hv : (s.core c).vals.find? (fun v => v.id == id && v.answer.isNone && s.valTravels v) = some v) :
    let s1 := s.flushLine c ((if v.peer then 2 ^ 60 else 0) + 128 * v.pline)
    let ok := !falsely && decide (v.ver < 4095) && s1.versions.look (lineKey v.peer v.pline) == some v.ver
    exec (.homeValidate c id falsely) s = finish ((if v.peer then s1
        else s1.count (204 + Config.homeSlice 0 v.pline % 64) (if ok then 4 else 5) 1).modCore c
      (fun k => { k with vals := k.vals.map (fun w => if w.id = id then { w with answer := some ok } else w) })) := by
  intro s1 ok
  show execHomeValidate c id falsely s = _
  simp only [execHomeValidate, hv]
  rfl

end

/-- Settles O52: each step's event comes to the state it names, and outside base camp no absent memory stops it. -/
theorem coreSteps : Obligations.CoreSteps := by
  refine ⟨fun s c ctx n g hs hb hg => ?_, fun s c hs hb => ?_⟩
  · intro sl
    refine ⟨fun hv hp hw hok => exec_clauseWaitRelease hg hv hp hw hok, fun t others hw h => exec_yieldExpiry hg (yieldOver_of_wait hw h),
      fun t hw hn ht => exec_awaitTimeout hg hn hw ht, fun t hw he ht => exec_starvationPromote hg hw he ht,
      fun r m hr hm hw hst ht he => event_next rfl rfl hs hb (exec_memoryReplay hg hr hm hw hst ht he),
      fun q hq hl => event_next rfl rfl hs hb (exec_storeQueueLeave_oldest hq hl),
      fun he ho => exec_allotmentRelease hg he ho,
      fun k w _ hw hc => event_next rfl rfl hs hb (exec_storeQueueLeave_writeThrough hw hc),
      fun id o slot book src hf hw ha hon => exec_cbldTakeover hf hw ha hon, fun h => ?throttle, ?clk⟩
    case throttle =>
      obtain ⟨h1, h2, h3, h4, h5, h6, h7⟩ := endWindow_throttle s c
      exact ⟨_, exec_throttleWindowEnd h, h1, h2, h3, h4, h5, h6, h7, endWindow_groups s c, endWindow_mem s c⟩
    case clk => exact event_next rfl rfl hs hb (exec_clkAdvance s c)
  · refine ⟨fun id falsely v hv => event_next rfl rfl hs hb (exec_homeValidate hv), fun id v ok b hv ha hbl hr h1 => ?answer,
      fun h => exec_belayRoundSelfInvalidate h,
      fun asid line l s1 hf hk hw hwb => event_next rfl rfl hs hb (exec_localWriteback hf hk hw hwb),
      fun ctx n => event_next rfl rfl hs hb (exec_homeMiss s c ctx n), fun slice => event_next rfl rfl hs hb (exec_heldRequesterResend s slice)⟩
    case answer =>
      refine ⟨_, b.answered ok, exec_belayAnswer hv ha hbl hr h1, ?_, rfl, rfl, rfl, ?_, ?_, ?_⟩
      all_goals cases ok <;> simp [Tbl.look_put_self]

end Sys2Proof.Machine

/-! PROOFS, spec/04. A lane rule from an instruction's own line: its meaning is alu, fpu or sfu of a function of one lane's inputs, and
no lane of it meets a reserved T5 byte. -/

namespace Sys2Proof.Machine

/-! No lane meets a reserved T5 byte (spec/01 R15) -/

theorem Fmt3.each_badT5 (t : Fmt3) (m : FpMods) (fpcr : Word) (g : FFmt → FEnv → Elems → Nat × Flg) (i : LaneIn) :
    (t.each m fpcr g i).badT5 = false := by
  cases t <;> rfl

theorem CFmt.writeC_badT5 (t : CFmt) (v : FEnv) (re im : List FV) : (t.writeC v re im).badT5 = false := by
  cases t <;> rfl

theorem cvtfSrLane_badT5 (sat : Bool) (x : ElemSel) (i : LaneIn) : (cvtfSrLane sat x i).badT5 = false := by
  unfold cvtfSrLane
  dsimp only
  split <;> rfl

/-! The rules -/

/-- What a lane gets may rest on what its operands hold. -/
theorem Runs.lane_of_inputs {i : Instr} {x : Shape} {g g' : LaneIn → LaneOut} (r : Runs i x (fun _ e => e.lanes x g))
    (h : ∀ e l, g (x.f.laneIn e true l) = g' (x.f.laneIn e true l)) (ht : ∀ k, (g' k).badT5 = false) : LaneRule i g' := by
  have hl : ∀ e : Env, e.lanes x g = e.lanes x g' := fun e => by simp only [Env.lanes, h]
  exact Runs.lane ⟨r.1, fun s => (r.2 s).trans (by simp only [hl])⟩ (fun _ => rfl) ht

section
variable {i : Instr} {h : Hdr} {lat : Nat} {f : AluForm} {g g' : LaneIn → LaneOut} {u u' : LaneIn → Word}

theorem laneRule_of_alu (x : State → Out) (hd : x = alu h lat f g) (hg : ∀ k, g k = g' k)
    (ht : ∀ k, (g' k).badT5 = false := by exact fun _ => rfl) (hx : ∀ s, exec i s = x s := by exact fun _ => rfl)
    (hs : i.shape? = some ⟨h, f, some lat, true⟩ := by rfl) : LaneRule i g' :=
  Runs.lane ⟨hs, fun s => (hx s).trans (congrFun hd s)⟩ hg ht

theorem laneRule_of_fpu (x : State → Out) (hd : x = fpu h f g) (hg : ∀ k, g k = g' k)
    (ht : ∀ k, (g' k).badT5 = false := by exact fun _ => rfl) (hx : ∀ s, exec i s = x s := by exact fun _ => rfl)
    (hs : i.shape? = some ⟨h, f, some 4, false⟩ := by rfl) : LaneRule i g' :=
  Runs.lane ⟨hs, fun s => (hx s).trans (congrFun hd s)⟩ hg ht

/-- A meaning of one word per lane. -/
theorem laneRule_w32 (x : State → Out) (hd : x = alu h lat f fun k => .w32 (u k)) (hu : ∀ k, u k = u' k)
    (hx : ∀ s, exec i s = x s := by exact fun _ => rfl) (hs : i.shape? = some ⟨h, f, some lat, true⟩ := by rfl) :
    LaneRule i fun k => .w32 (u' k) :=
  laneRule_of_alu x hd (fun k => congrArg LaneOut.w32 (hu k)) (fun _ => rfl) hx hs

/-- A meaning of one element, on the word or on each half. -/
theorem laneRule_each {t : Fmt3} {m : FpMods} {p : FFmt → FEnv → Elems → Nat × Flg} (x : State → Out)
    (hd : x = fpu h f fun k => t.each m k.fpcr p k) (hx : ∀ s, exec i s = x s := by exact fun _ => rfl)
    (hs : i.shape? = some ⟨h, f, some 4, false⟩ := by rfl) : LaneRule i fun k => t.each m k.fpcr p k :=
  laneRule_of_fpu x hd (fun _ => rfl) (fun _ => Fmt3.each_badT5 ..) hx hs

theorem laneRule_sfu {t : Fmt3} {abs na : Bool} {fn : SfuFn} (x : State → Out) (hd : x = sfu h f (sfuLane fn t abs na))
    (hx : ∀ s, exec i s = x s := by exact fun _ => rfl) (hs : i.shape? = some ⟨h, f, none, false⟩ := by rfl) :
    LaneRule i (sfuLane fn t abs na) :=
  Runs.lane ⟨hs, fun s => (hx s).trans (congrFun hd s)⟩ (fun _ => rfl) (fun _ => Fmt3.each_badT5 ..)

/-- The rows of a PAIR word, each F or I by its kind, both on the inputs read at the issue. -/
theorem laneRule_pair {f1 f2 : Bool} {p q : PairOp} {r1 r2 : Word → Word → Word → Word → Word × Flg}
    (x : State → Out) (hd : x = pairWord h f1 f2 p q) (h1 : (if f1 then pairF p else pairI p) = r1)
    (h2 : (if f2 then pairF q else pairI q) = r2) (hx : ∀ s, exec i s = x s := by exact fun _ => rfl)
    (hs : i.shape? = some ⟨h, pairForm f1 f2 p q, some 4, false⟩ := by rfl) :
    LaneRule i fun k =>
      let x := r1 k.fpcr (k.w 0) (k.w 1) (k.w 2)
      let y := r2 k.fpcr (k.w 3) (k.w 4) (k.w 5)
      { d := x.1.setWidth 64, d2 := y.1, flags := x.2 ||| y.2 } := by
  subst h1 h2
  unfold pairWord at hd
  exact laneRule_of_fpu x hd (fun _ => rfl) (fun _ => rfl) hx hs

end

end Sys2Proof.Machine

/-! PROOFS, spec/04. Integer instructions: the model's exact numbers are the wrapped, clamped or compared bit vectors (R102 to R108). -/

namespace Sys2Proof.Machine

/-! Numbers of words, halves and pairs -/

section
variable {n : Nat}

theorem ofInt_sub (x y : Int) : BitVec.ofInt n (x - y) = BitVec.ofInt n x - BitVec.ofInt n y := by
  rw [Int.sub_eq_add_neg, BitVec.ofInt_add, BitVec.ofInt_neg, BitVec.sub_eq_add_neg]

@[simp] theorem ofInt_numOf (u : Bool) (w : Word) : BitVec.ofInt 32 (numOf u w) = w := by
  cases u <;> simp [numOf]

@[simp] theorem ofInt_numOf16 (u : Bool) (w : BitVec 16) : BitVec.ofInt 16 (numOf16 u w) = w := by
  cases u <;> simp [numOf16]

theorem hi32_eq (x : DWord) : hi32 x = x.extractLsb' 32 32 := BitVec.setWidth_ushiftRight_eq_extractLsb

theorem lo32_eq (x : DWord) : lo32 x = x.extractLsb' 0 32 := by
  rw [← BitVec.setWidth_ushiftRight_eq_extractLsb, BitVec.ushiftRight_zero]; rfl

theorem byteOf_eq (w : Word) (k : Nat) : byteOf w k = w.extractLsb' (8 * k) 8 := BitVec.setWidth_ushiftRight_eq_extractLsb

/-- Comparisons by code on the numbers words stand for are those on the words (spec/04 R102). -/
theorem icmp_toInt (cc : BitVec 4) (x y : BitVec n) : icmp cc x.toInt y.toInt = cmpS cc x y := by
  have he : decide (x.toInt = y.toInt) = (x == y) := by simp only [BitVec.toInt_inj]; rfl
  unfold icmp cmpS
  generalize cc.toNat = k
  match k with
  | 0 => exact he
  | 1 => exact (decide_not ..).trans (congrArg not he)
  | 2 | 3 | 4 | _ + 5 => rfl

theorem icmp_toNat (cc : BitVec 4) (x y : BitVec n) : icmp cc x.toNat y.toNat = cmpU cc x y := by
  have he : decide ((x.toNat : Int) = y.toNat) = (x == y) := by simp only [Int.ofNat_inj, BitVec.toNat_inj]; rfl
  have hlt : ∀ v w : BitVec n, decide ((v.toNat : Int) < w.toNat) = v.ult w := fun v w => by simp only [Int.ofNat_lt]; rfl
  have hle : ∀ v w : BitVec n, decide ((v.toNat : Int) ≤ w.toNat) = v.ule w := fun v w => by simp only [Int.ofNat_le]; rfl
  unfold icmp cmpU
  generalize cc.toNat = k
  match k with
  | 0 => exact he
  | 1 => exact (decide_not ..).trans (congrArg not he)
  | 2 => exact hlt x y
  | 3 => exact hle x y
  | 4 => exact hlt y x
  | _ + 5 => exact hle y x

end

/-! Sums, products and their clamps (spec/04 R104, R105, R108) -/

theorem satInt_of_wrap {m : SatU} (hm : m.sat = false) (bits : Nat) (x : Int) : satInt m bits x = x := by
  simp [satInt, hm]

theorem clamp_eq_max_min {lo hi x : Int} (h : lo ≤ hi) : (if x < lo then lo else if hi < x then hi else x) = max lo (min hi x) := by
  split
  · omega
  · split <;> omega

theorem satInt_s32 (x : Int) : satInt ⟨false, true⟩ 32 x = max (-2147483648) (min 2147483647 x) := clamp_eq_max_min (by decide)
theorem satInt_u32 (x : Int) : satInt ⟨true, true⟩ 32 x = max 0 (min 4294967295 x) := clamp_eq_max_min (by decide)
theorem satInt_s16 (x : Int) : satInt ⟨false, true⟩ 16 x = max (-32768) (min 32767 x) := clamp_eq_max_min (by decide)
theorem satInt_u16 (x : Int) : satInt ⟨true, true⟩ 16 x = max 0 (min 65535 x) := clamp_eq_max_min (by decide)

section
variable {m : SatU} (hm : m.sat = false) (a b c : Word)
include hm

theorem iaddW_of_wrap : iaddW m a b = a + b := by simp [iaddW, satInt_of_wrap hm, BitVec.ofInt_add]
theorem isubW_of_wrap : isubW m a b = a - b := by simp [isubW, satInt_of_wrap hm, ofInt_sub]
theorem iadd3W_of_wrap : iadd3W m a b c = a + b + c := by simp [iadd3W, satInt_of_wrap hm, BitVec.ofInt_add]

end

section
variable (a b c : Word)

theorem and_one_toNat : (c &&& 1).toNat = c.toNat % 2 := by simp [Nat.and_one_is_mod]

theorem addc_eq : addc a b c =
    { d := (a + b + (c &&& 1)).setWidth 64, pout := decide (2 ^ 32 ≤ a.toNat + b.toNat + (c &&& 1).toNat) } := by
  have hd : BitVec.ofNat 32 (a.toNat + b.toNat + c.toNat % 2) = a + b + (c &&& 1) := by
    simp only [← and_one_toNat, BitVec.ofNat_add, BitVec.ofNat_toNat, BitVec.setWidth_eq]
  simp only [addc, LaneOut.w32, hd, and_one_toNat]

theorem subb_eq : subb a b c =
    { d := (a - b - (c &&& 1)).setWidth 64, pout := decide (a.toNat < b.toNat + (c &&& 1).toNat) } := by
  have hd : a - BitVec.ofNat 32 (b.toNat + c.toNat % 2) = a - b - (c &&& 1) := by
    simp only [← and_one_toNat, BitVec.ofNat_add, BitVec.ofNat_toNat, BitVec.setWidth_eq, BitVec.sub_sub]
  simp only [subb, LaneOut.w32, hd, and_one_toNat]

theorem mulHi_signed : mulHi false a b = (a.signExtend 64 * b.signExtend 64).extractLsb' 32 32 := by
  simp only [mulHi, numOf, hi32_eq, BitVec.ofInt_mul]; rfl

theorem mulHi_unsigned : mulHi true a b = (a.setWidth 64 * b.setWidth 64).extractLsb' 32 32 := by
  simp only [mulHi, numOf, hi32_eq, BitVec.ofInt_mul, if_true, BitVec.ofInt_natCast, BitVec.ofNat_toNat]

/-- A distance of two numbers is the difference that is not below zero. -/
theorem ofNat_natAbs_sub {n : Nat} (x y : Int) : BitVec.ofNat n (x - y).natAbs =
    if x ≤ y then BitVec.ofInt n y - BitVec.ofInt n x else BitVec.ofInt n x - BitVec.ofInt n y := by
  rw [← BitVec.ofInt_natCast]
  split
  next h => rw [Int.ofNat_natAbs_of_nonpos (by omega), Int.neg_sub, ofInt_sub]
  next h => rw [Int.natAbs_of_nonneg (by omega), ofInt_sub]

theorem dist_toInt : BitVec.ofNat 32 (a.toInt - b.toInt).natAbs = if a.sle b then b - a else a - b := by
  simp only [ofNat_natAbs_sub, BitVec.ofInt_toInt, BitVec.sle_iff_toInt_le]

theorem dist_toNat : BitVec.ofNat 32 ((a.toNat : Int) - b.toNat).natAbs = if a ≤ b then b - a else a - b := by
  simp only [ofNat_natAbs_sub, BitVec.ofInt_natCast, BitVec.ofNat_toNat, BitVec.setWidth_eq, Int.ofNat_le, BitVec.le_def]

theorem foldl_add_eq_add_foldl {α : Type} (t : α → Word) (l : List α) (c : Word) :
    l.foldl (fun r k => r + t k) c = c + l.foldl (fun r k => r + t k) 0 := by
  induction l generalizing c with
  | nil => simp
  | cons x l ih =>
    have h0 : 0 + t x = t x := BitVec.zero_add _
    rw [List.foldl_cons, List.foldl_cons, ih, h0, ih (t x), BitVec.add_assoc]

theorem ofInt_mul_toInt {n : Nat} (x y : BitVec n) : BitVec.ofInt 32 (x.toInt * y.toInt) = x.signExtend 32 * y.signExtend 32 :=
  BitVec.ofInt_mul ..

theorem ofInt_mul_toNat {n : Nat} (x y : BitVec n) :
    BitVec.ofInt 32 ((x.toNat : Int) * y.toNat) = x.setWidth 32 * y.setWidth 32 := by
  simp [BitVec.ofInt_mul]

theorem idp4_signed : idp4 false a b c = c + dotS 8 4 a b := by
  simp only [idp4, dotS, byteOf_eq, Bool.false_eq_true, if_false, ofInt_mul_toInt]
  exact foldl_add_eq_add_foldl ..

theorem idp4_unsigned : idp4 true a b c = c + dotU 8 4 a b := by
  simp only [idp4, dotU, byteOf_eq, if_true, ofInt_mul_toNat]
  exact foldl_add_eq_add_foldl ..

theorem idp2_signed : idp2 false a b c = c + dotS 16 2 a b := by
  simp only [idp2, dotS, numOf16, Bool.false_eq_true, if_false, ofInt_mul_toInt]
  exact foldl_add_eq_add_foldl ..

theorem idp2_unsigned : idp2 true a b c = c + dotU 16 2 a b := by
  simp only [idp2, dotU, numOf16, if_true, ofInt_mul_toNat]
  exact foldl_add_eq_add_foldl ..

/-! Minima, maxima and absolute values (spec/04 R104, R108) -/

/-- The greater of two as a test for at most: things of equal numbers are equal. -/
theorem ite_lt_eq_ite_le {α : Type} {k l : Int} {p q : α} (h : k = l → p = q) :
    (if k < l then q else p) = if k ≤ l then q else p := by
  by_cases he : k = l
  · simp [h he]
  · simp only [Int.lt_iff_le_and_ne, ne_eq, he, not_false_iff, and_true]

section
variable {n : Nat} (x y : BitVec n)

theorem min_toInt : (if y.toInt < x.toInt then y else x) = if x.sle y then x else y := by
  simp only [← Int.not_le, ite_not, BitVec.sle_iff_toInt_le]

theorem min_toNat : (if (y.toNat : Int) < x.toNat then y else x) = if x ≤ y then x else y := by
  simp only [← Int.not_le, ite_not, Int.ofNat_le, BitVec.le_def]

theorem max_toInt : (if x.toInt < y.toInt then y else x) = if x.sle y then y else x := by
  simp only [ite_lt_eq_ite_le BitVec.toInt_inj.1, BitVec.sle_iff_toInt_le]

theorem max_toNat : (if (x.toNat : Int) < y.toNat then y else x) = if x ≤ y then y else x := by
  simp only [ite_lt_eq_ite_le fun h => BitVec.toNat_inj.1 (Int.ofNat_inj.1 h), Int.ofNat_le, BitVec.le_def]

end

theorem iminW_signed : iminW false a b = if a.sle b then a else b := min_toInt a b
theorem iminW_unsigned : iminW true a b = if a ≤ b then a else b := min_toNat a b
theorem imaxW_signed : imaxW false a b = if a.sle b then b else a := max_toInt a b
theorem imaxW_unsigned : imaxW true a b = if a ≤ b then b else a := max_toNat a b

theorem iabs_of_wrap :
    (if a = 0x80000000 ∧ false = true then 0x7FFFFFFF else if a.msb then -a else a) = if a.slt 0 then 0 - a else a := by
  simp [BitVec.slt_zero_eq_msb]

/-- With .SAT the one word whose magnitude is above the largest becomes the largest. -/
theorem iabs_of_sat : (if a = 0x80000000 ∧ true = true then 0x7FFFFFFF else if a.msb then -a else a) = clampS a.toInt.natAbs := by
  by_cases hm : a = 0x80000000
  · subst hm; decide
  have hlo : -2147483648 < a.toInt :=
    Int.lt_iff_le_and_ne.2 ⟨BitVec.le_toInt a, fun h => hm (BitVec.toInt_inj.1 h.symm)⟩
  have hhi : a.toInt < 2147483648 := BitVec.toInt_lt
  have hc : clampS a.toInt.natAbs = BitVec.ofInt 32 a.toInt.natAbs := by
    rw [clampS, Int.min_eq_right (by omega), Int.max_eq_right (by omega)]
  rw [if_neg (fun h => hm h.1), hc]
  by_cases hs : a.msb = true
  · have : a.toInt < 0 := BitVec.toInt_neg_of_msb_true hs
    rw [if_pos hs, Int.ofNat_natAbs_of_nonpos (by omega), BitVec.ofInt_neg, BitVec.ofInt_toInt]
  · have : 0 ≤ a.toInt := BitVec.toInt_nonneg_of_msb_false (by simpa using hs)
    rw [if_neg hs, Int.natAbs_of_nonneg this, BitVec.ofInt_toInt]

/-! Shifts and halves (spec/04 R104) -/

theorem shlW_eq : shlW a b = a <<< b.toNat := by
  unfold shlW
  split
  · rfl
  · exact (BitVec.shiftLeft_eq_zero (by omega)).symm

theorem shrW_eq : shrW a b = a >>> b.toNat := by
  unfold shrW
  split
  · rfl
  · exact (BitVec.ushiftRight_eq_zero (by omega)).symm

/-- From 31 places on an arithmetic shift leaves the sign alone. -/
theorem shraW_eq : shraW a b = a.sshiftRight b.toNat := by
  unfold shraW
  rcases Nat.le_total b.toNat 31 with h | h
  · rw [Nat.min_eq_left h]
  · rw [Nat.min_eq_right h]
    ext k hk
    rw [BitVec.getElem_sshiftRight, BitVec.getElem_sshiftRight]
    rcases Nat.eq_zero_or_pos k with rfl | hk0
    · rcases Nat.eq_or_lt_of_le h with h31 | h31
      · simp [← h31]
      · rw [dif_pos (by omega), dif_neg (by omega), BitVec.msb_eq_getLsbD_last]; rfl
    · rw [dif_neg (by omega), dif_neg (by omega)]

end

theorem ishlH2_half (a b : BitVec 16) : (if b.toNat < 16 then a <<< b.toNat else 0) = a <<< b.toNat := by
  split
  · rfl
  · exact (BitVec.shiftLeft_eq_zero (by omega)).symm

theorem icmp_numOf16_signed (cc : BitVec 4) (a b : BitVec 16) : icmp cc (numOf16 false a) (numOf16 false b) = cmpS cc a b :=
  icmp_toInt cc a b

theorem icmp_numOf16_unsigned (cc : BitVec 4) (a b : BitVec 16) : icmp cc (numOf16 true a) (numOf16 true b) = cmpU cc a b :=
  icmp_toNat cc a b

/-- What acts alike on halves acts alike on the lane, whatever C is where C is not read. -/
theorem onHalves_eq_halves {p q : BitVec 16 → BitVec 16 → BitVec 16} (h : ∀ a b, p a b = q a b) (i : LaneIn) :
    onHalves (fun a b _ => p a b) i.a i.b 0 = halves (fun a b _ => q a b) i := by
  obtain rfl : p = q := funext fun a => funext fun b => h a b
  rfl

theorem iaddH2_of_wrap {m : SatU} (hm : m.sat = false) (a b : BitVec 16) :
    BitVec.ofInt 16 (satInt m 16 (numOf16 m.u a + numOf16 m.u b)) = a + b := by
  simp [satInt_of_wrap hm, BitVec.ofInt_add]

theorem isubH2_of_wrap {m : SatU} (hm : m.sat = false) (a b : BitVec 16) :
    BitVec.ofInt 16 (satInt m 16 (numOf16 m.u a - numOf16 m.u b)) = a - b := by
  simp [satInt_of_wrap hm, ofInt_sub]

/-! The instructions -/

theorem laneRule_movi (h : Hdr) (d : Opd) (imm : Word) : LaneRule (.movi h d imm) fun _ => .w32 imm := by
  refine Runs.lane_of_inputs (g := fun k => .w32 k.a) ⟨rfl, fun _ => rfl⟩ (fun e l => ?_) fun _ => rfl
  have ha : lo32 (imm.setWidth 64) = imm := by simp [lo32]
  exact congrArg LaneOut.w32 ha

/-- Settles O22: each meaning is a function of words; the words it gives are the wrapped or clamped exact numbers. -/
theorem integerArithmetic : Obligations.IntegerArithmetic := by
  refine ⟨⟨⟨?add, ?sub, ?add3, ?addS, ?addU, ?subS, ?subU, ?add3S, ?add3U, ?add64, ?sub64, ?lea, ?lea64U, ?lea64S⟩, ?addc, ?subb⟩,
    ⟨?mul, ?mulhiS, ?mulhiU, ?mad, ?madwS, ?madwU, ?sadU, ?sadS, ?dp4S, ?dp4U, ?dp2S, ?dp2U⟩,
    ?minS, ?minU, ?maxS, ?maxU, ?clampS, ?clampU, ?abs, ?absSat, ?setS, ?setU, ?set64S, ?set64U⟩
  case add => exact fun h m o hm => laneRule_w32 (execIadd h m o) rfl fun _ => iaddW_of_wrap hm ..
  case sub => exact fun h m o hm => laneRule_w32 (execIsub h m o) rfl fun _ => isubW_of_wrap hm ..
  case add3 => exact fun h m o hm => laneRule_w32 (execIadd3 h m o) rfl fun _ => iadd3W_of_wrap hm ..
  case addS => exact fun h o => laneRule_w32 (execIadd h _ o) rfl fun _ => congrArg (BitVec.ofInt 32) (satInt_s32 _)
  case addU => exact fun h o => laneRule_w32 (execIadd h _ o) rfl fun _ => congrArg (BitVec.ofInt 32) (satInt_u32 _)
  case subS => exact fun h o => laneRule_w32 (execIsub h _ o) rfl fun _ => congrArg (BitVec.ofInt 32) (satInt_s32 _)
  case subU => exact fun h o => laneRule_w32 (execIsub h _ o) rfl fun _ => congrArg (BitVec.ofInt 32) (satInt_u32 _)
  case add3S => exact fun h o => laneRule_w32 (execIadd3 h _ o) rfl fun _ => congrArg (BitVec.ofInt 32) (satInt_s32 _)
  case add3U => exact fun h o => laneRule_w32 (execIadd3 h _ o) rfl fun _ => congrArg (BitVec.ofInt 32) (satInt_u32 _)
  case add64 => exact fun h o => laneRule_of_alu (execIadd64 h o) rfl fun _ => rfl
  case sub64 => exact fun h o => laneRule_of_alu (execIsub64 h o) rfl fun _ => rfl
  case lea => exact fun h sh o => laneRule_w32 (execLea h sh o) rfl fun _ => rfl
  case lea64U => exact fun h sh o => laneRule_of_alu (execLea64 h true sh o) rfl fun _ => rfl
  case lea64S => exact fun h sh o => laneRule_of_alu (execLea64 h false sh o) rfl fun _ => rfl
  case addc => exact fun h o pco => laneRule_of_alu (execIaddc h o pco) rfl fun _ => addc_eq ..
  case subb => exact fun h o pco => laneRule_of_alu (execIsubb h o pco) rfl fun _ => subb_eq ..
  case mul => exact fun h o => laneRule_w32 (execImul h o) rfl fun _ => rfl
  case mulhiS => exact fun h o => laneRule_w32 (execImulhiS h o) rfl fun _ => mulHi_signed ..
  case mulhiU => exact fun h o => laneRule_w32 (execImulhiU h o) rfl fun _ => mulHi_unsigned ..
  case mad => exact fun h o => laneRule_w32 (execImad h o) rfl fun _ => rfl
  case madwS => exact fun h o => laneRule_of_alu (execImadwS h o) rfl fun _ => rfl
  case madwU => exact fun h o => laneRule_of_alu (execImadwU h o) rfl fun _ => rfl
  case sadU => exact fun h o => laneRule_w32 (execIsad h true o) rfl fun _ => congrArg (· + _) (dist_toNat ..)
  case sadS => exact fun h o => laneRule_w32 (execIsad h false o) rfl fun _ => congrArg (· + _) (dist_toInt ..)
  case dp4S => exact fun h o => laneRule_w32 (execIdp4S h o) rfl fun _ => idp4_signed ..
  case dp4U => exact fun h o => laneRule_w32 (execIdp4U h o) rfl fun _ => idp4_unsigned ..
  case dp2S => exact fun h o => laneRule_w32 (execIdp2 h false o) rfl fun _ => idp2_signed ..
  case dp2U => exact fun h o => laneRule_w32 (execIdp2 h true o) rfl fun _ => idp2_unsigned ..
  case minS => exact fun h o => laneRule_w32 (execIminS h o) rfl fun _ => iminW_signed ..
  case minU => exact fun h o => laneRule_w32 (execIminU h o) rfl fun _ => iminW_unsigned ..
  case maxS => exact fun h o => laneRule_w32 (execImaxS h o) rfl fun _ => imaxW_signed ..
  case maxU => exact fun h o => laneRule_w32 (execImaxU h o) rfl fun _ => imaxW_unsigned ..
  case clampS => exact fun h o => laneRule_w32 (execIclampS h o) rfl fun _ => by rw [imaxW_signed, iminW_signed]
  case clampU => exact fun h o => laneRule_w32 (execIclampU h o) rfl fun _ => by rw [imaxW_unsigned, iminW_unsigned]
  case abs => exact fun h o => laneRule_w32 (execIabs h false o) rfl fun _ => iabs_of_wrap _
  case absSat => exact fun h o => laneRule_w32 (execIabs h true o) rfl fun _ => iabs_of_sat _
  case setS => exact fun h cc o => laneRule_w32 (execIsetS h cc o) rfl fun _ => congrArg ones32 (icmp_toInt ..)
  case setU => exact fun h cc o => laneRule_w32 (execIsetU h cc o) rfl fun _ => congrArg ones32 (icmp_toNat ..)
  case set64S => exact fun h cc o => laneRule_w32 (execIset64 h cc false o) rfl fun _ => congrArg ones32 (icmp_toInt ..)
  case set64U => exact fun h cc o => laneRule_w32 (execIset64 h cc true o) rfl fun _ => congrArg ones32 (icmp_toNat ..)

/-- Settles O23: the model's guarded shifts are the bit vectors' own; fields, counts and truth tables are functions of the model. -/
theorem shiftsFieldsAndLogic : Obligations.ShiftsFieldsAndLogic := by
  refine ⟨⟨?shl, ?shr, ?shra, ?shfL, ?shfR, ?rot, ?popc, ?clz, ?ctz, ?brev, ?bfeU, ?bfeS, ?bfi⟩,
    ?logt, ?pset, ?prmt, ?sel, ?imov, ?movi⟩
  case shl => exact fun h o => laneRule_w32 (execIshl h o) rfl fun _ => shlW_eq ..
  case shr => exact fun h o => laneRule_w32 (execIshr h o) rfl fun _ => shrW_eq ..
  case shra => exact fun h o => laneRule_w32 (execIshra h o) rfl fun _ => shraW_eq ..
  case shfL => exact fun h o => laneRule_w32 (execShfL h o) rfl fun _ => hi32_eq _
  case shfR => exact fun h o => laneRule_w32 (execShfR h o) rfl fun _ => lo32_eq _
  case rot => exact fun h o => laneRule_w32 (execIrot h o) rfl fun _ => rfl
  case popc => exact fun h o => laneRule_w32 (execPopc h o) rfl fun _ => rfl
  case clz => exact fun h o => laneRule_w32 (execClz h o) rfl fun _ => rfl
  case ctz => exact fun h o => laneRule_w32 (execCtz h o) rfl fun _ => rfl
  case brev => exact fun h o => laneRule_w32 (execBrev h o) rfl fun _ => rfl
  case bfeU => exact fun h o => laneRule_w32 (execBfeU h o) rfl fun _ => rfl
  case bfeS => exact fun h o => laneRule_w32 (execBfeS h o) rfl fun _ => rfl
  case bfi => exact fun h o => laneRule_w32 (execBfi h o) rfl fun _ => rfl
  case logt => exact fun h o lut => laneRule_w32 (execLogt h o lut) rfl fun _ => rfl
  case pset => exact fun h o lut => laneRule_w32 (execPset h o lut) rfl fun _ => rfl
  case prmt => exact fun h o => laneRule_w32 (execPrmt h o) rfl fun _ => rfl
  case sel => exact fun h o => laneRule_w32 (execSel h o) rfl fun _ => rfl
  case imov => exact fun h o => laneRule_w32 (execImov h o) rfl fun _ => rfl
  case movi => exact laneRule_movi

/-- Settles O24: what holds of every half holds of the word, and a PAIR word's rows read the inputs of the one issue. -/
theorem packedHalvesAndPairs : Obligations.PackedHalvesAndPairs := by
  refine ⟨⟨?add, ?sub, ?addS, ?addU, ?subS, ?subU, ?mul, ?mad, ?minS, ?minU, ?maxS, ?maxU, ?shl, ?setS, ?setU⟩, ?ff, ?fi, ?ii, ?fx⟩
  case add => exact fun h m o hm => laneRule_w32 (execIaddH2 h m o) rfl (onHalves_eq_halves fun _ _ => iaddH2_of_wrap hm ..)
  case sub => exact fun h m o hm => laneRule_w32 (execIsubH2 h m o) rfl (onHalves_eq_halves fun _ _ => isubH2_of_wrap hm ..)
  case addS =>
    exact fun h o => laneRule_w32 (execIaddH2 h _ o) rfl
      (onHalves_eq_halves fun _ _ => congrArg (BitVec.ofInt 16) (satInt_s16 _))
  case addU =>
    exact fun h o => laneRule_w32 (execIaddH2 h _ o) rfl
      (onHalves_eq_halves fun _ _ => congrArg (BitVec.ofInt 16) (satInt_u16 _))
  case subS =>
    exact fun h o => laneRule_w32 (execIsubH2 h _ o) rfl
      (onHalves_eq_halves fun _ _ => congrArg (BitVec.ofInt 16) (satInt_s16 _))
  case subU =>
    exact fun h o => laneRule_w32 (execIsubH2 h _ o) rfl
      (onHalves_eq_halves fun _ _ => congrArg (BitVec.ofInt 16) (satInt_u16 _))
  case mul => exact fun h o => laneRule_w32 (execImulH2 h o) rfl (onHalves_eq_halves fun _ _ => rfl)
  case mad => exact fun h o => laneRule_w32 (execImadH2 h o) rfl fun _ => rfl
  case minS => exact fun h o => laneRule_w32 (execIminH2 h false o) rfl (onHalves_eq_halves min_toInt)
  case minU => exact fun h o => laneRule_w32 (execIminH2 h true o) rfl (onHalves_eq_halves min_toNat)
  case maxS => exact fun h o => laneRule_w32 (execImaxH2 h false o) rfl (onHalves_eq_halves max_toInt)
  case maxU => exact fun h o => laneRule_w32 (execImaxH2 h true o) rfl (onHalves_eq_halves max_toNat)
  case shl => exact fun h o => laneRule_w32 (execIshlH2 h o) rfl (onHalves_eq_halves ishlH2_half)
  case setS => exact fun h cc o => laneRule_w32 (execIsetH2 h cc false o) rfl (onHalves_eq_halves fun _ _ => by rw [icmp_numOf16_signed])
  case setU => exact fun h cc o => laneRule_w32 (execIsetH2 h cc true o) rfl (onHalves_eq_halves fun _ _ => by rw [icmp_numOf16_unsigned])
  case ff => exact fun h p q => laneRule_pair (execPairFF h p q) rfl (if_pos rfl) (if_pos rfl)
  case fi => exact fun h p q => laneRule_pair (execPairFI h p q) rfl (if_pos rfl) (if_neg Bool.false_ne_true)
  case ii => exact fun h p q => laneRule_pair (execPairII h p q) rfl (if_neg Bool.false_ne_true) (if_neg Bool.false_ne_true)
  case fx => exact fun h p q => laneRule_pair (execPairFX h p q) rfl (if_pos rfl) (if_neg Bool.false_ne_true)

end Sys2Proof.Machine

/-! PROOFS, spec/04. Floating-point instructions, special functions and conversions (R103, R109 to R128). -/

namespace Sys2Proof.Machine

/-! Class masks (R112) -/

theorem fclassBit_le (f : FFmt) (x : Nat) : fclassBit f x ≤ 9 := by
  unfold fclassBit
  dsimp only
  repeat' split
  all_goals decide

theorem ofNat_two_pow (p : Nat) : BitVec.ofNat 32 (2 ^ p) = ((1 <<< p : Nat) : Word) := by
  rw [Nat.one_shiftLeft]; rfl

/-- A class bit of the low half stays below the high half. -/
theorem ofNat_two_classes {p : Nat} (hp : p ≤ 9) (q : Nat) :
    BitVec.ofNat 32 (2 ^ p + 65536 * 2 ^ q) = ((1 <<< p : Nat) : Word) ||| ((1 <<< (16 + q) : Nat) : Word) := by
  have hlt : 2 ^ p < 2 ^ 16 := Nat.pow_lt_pow_right (by decide) (by omega)
  rw [← ofNat_two_pow, ← ofNat_two_pow, ← BitVec.ofNat_or, Nat.pow_add, Nat.or_comm,
    ← Nat.two_pow_add_eq_or_of_lt hlt, Nat.add_comm]

/-! The instructions -/

/-- Settles O25: each meaning is its operation of one element; FCLASS sets the bit of a class below 10 in its half. -/
theorem floatInstructions : Obligations.FloatInstructions := by
  refine ⟨?add, ?mul, ?fma, ?min, ?max, ?set, ?clamp, ?add3, ?med3, ?rnd, ?scale, ?scaleH2, ?dp2, ?dp2B, ?dp4, ?cls, ?clsH2,
    ?cadd, ?cmul, ?cfma, ?cabs2⟩
  case add => exact fun h t m o => laneRule_each (execFadd h t m o) rfl
  case mul => exact fun h t m o => laneRule_each (execFmul h t m o) rfl
  case fma => exact fun h t m o => laneRule_each (execFfma h t m o) rfl
  case min => exact fun h t m o => laneRule_each (execFmin h t m o) rfl
  case max => exact fun h t m o => laneRule_each (execFmax h t m o) rfl
  case set => exact fun h t cc m o => laneRule_each (execFset h t cc m o) rfl
  case clamp => exact fun h t m o => laneRule_each (execFclamp h t m o) rfl
  case add3 => exact fun h m o => laneRule_each (execFadd3 h m o) rfl
  case med3 => exact fun h t m o => laneRule_each (execFmed3 h t m o) rfl
  case rnd => exact fun h t m o => laneRule_each (execFrnd h t m o) rfl
  case scale => exact fun h m o => laneRule_each (execFscale h .f32 m o) rfl
  case scaleH2 => exact fun h m o => laneRule_of_fpu (execFscale h .h2 m o) rfl fun _ => rfl
  case dp2 => exact fun h m o => laneRule_of_fpu (execFdp2 h .h2 m o) rfl fun _ => rfl
  case dp2B => exact fun h m o => laneRule_of_fpu (execFdp2 h .b2 m o) rfl fun _ => rfl
  case dp4 => exact fun h e5 m o => laneRule_of_fpu (execFdp4 h e5 m o) rfl fun _ => rfl
  case cls => exact fun h o => laneRule_of_fpu (execFclass h .f32 o) rfl fun _ => congrArg LaneOut.w32 (ofNat_two_pow _)
  case clsH2 =>
    exact fun h o => laneRule_of_fpu (execFclass h .h2 o) rfl
      fun _ => congrArg LaneOut.w32 (ofNat_two_classes (fclassBit_le ..) _)
  case cadd => exact fun h t m o => laneRule_of_fpu (execCadd h t m o) rfl (fun _ => rfl) fun _ => CFmt.writeC_badT5 ..
  case cmul => exact fun h t m o => laneRule_of_fpu (execCmul h t m o) rfl (fun _ => rfl) fun _ => CFmt.writeC_badT5 ..
  case cfma => exact fun h t m o => laneRule_of_fpu (execCfma h t m o) rfl (fun _ => rfl) fun _ => CFmt.writeC_badT5 ..
  case cabs2 => exact fun h t m o => laneRule_of_fpu (execCabs2 h t m o) rfl fun _ => rfl

/-- Settles O26: the ten functions share one course, which SFU_COMPLETE ends. -/
theorem specialFunctions : Obligations.SpecialFunctions := by
  refine ⟨?rcp, ?rsq, ?sqrt, ?exp2, ?log2, ?sin, ?cos, ?tanh, ?sigm, ?gelu⟩
  case rcp => exact fun h t abs na o => laneRule_sfu (execFrcp h t abs na o) rfl
  case rsq => exact fun h t abs na o => laneRule_sfu (execFrsq h t abs na o) rfl
  case sqrt => exact fun h t abs na o => laneRule_sfu (execFsqrt h t abs na o) rfl
  case exp2 => exact fun h t abs na o => laneRule_sfu (execFexp2 h t abs na o) rfl
  case log2 => exact fun h t abs na o => laneRule_sfu (execFlog2 h t abs na o) rfl
  case sin => exact fun h t abs na o => laneRule_sfu (execFsin h t abs na o) rfl
  case cos => exact fun h t abs na o => laneRule_sfu (execFcos h t abs na o) rfl
  case tanh => exact fun h t abs na o => laneRule_sfu (execFtanh h t abs na o) rfl
  case sigm => exact fun h t abs na o => laneRule_sfu (execFsigm h t abs na o) rfl
  case gelu => exact fun h t abs na o => laneRule_sfu (execFgelu h t abs na o) rfl

/-- Settles O28: each meaning is its conversion of a lane's elements; PACKMX alone takes its active lanes together, and CBDEC the codebook
of the state at its issue. -/
theorem conversions : Obligations.Conversions := by
  refine ⟨?cvtf, ?cvtfSr, ?cvtfi, ?cvtif, ?cvtii, ?packh, ?packb, ?packf8, ?packf8Hi, ?packmx, ?unpkmx, ?packt5, ?unpkt5, ?cbdec,
    ?cpack, ?cpackU, ?cpackUHi⟩
  case cvtf => exact fun h m d a c y => laneRule_of_alu (execCvtf h m d a c y) rfl fun _ => rfl
  case cvtfSr => exact fun h sat d a c y => laneRule_of_alu (execCvtfSr h sat d a c y) rfl (fun _ => rfl) fun _ => cvtfSrLane_badT5 ..
  case cvtfi => exact fun h u src m o => laneRule_of_alu (execCvtfi h u src m o) rfl fun _ => rfl
  case cvtif => exact fun h u dst m o => laneRule_of_alu (execCvtif h u dst m o) rfl fun _ => rfl
  case cvtii => exact fun h sat src dst o => laneRule_w32 (execCvtii h sat src dst o) rfl fun _ => rfl
  case packh => exact fun h m o => laneRule_of_alu (execPackh h m o) rfl fun _ => rfl
  case packb => exact fun h m o => laneRule_of_alu (execPackb h m o) rfl fun _ => rfl
  case packf8 =>
    exact fun h e5 m o => laneRule_of_alu (execPackf8 h e5 false m o) rfl fun _ => by simp only [Bool.false_eq_true, if_false, Nat.mul_one]
  case packf8Hi => exact fun h e5 m o => laneRule_of_alu (execPackf8 h e5 true m o) rfl fun _ => rfl
  case packmx => exact fun h blk df m d a c => Runs.gives ⟨rfl, fun _ => rfl⟩ fun _ _ _ => rfl
  case unpkmx => exact fun h scb m d a c y => laneRule_of_alu (execUnpkmx h scb m d a c y) rfl fun _ => rfl
  case packt5 => exact fun h o => laneRule_w32 (execPackt5 h o) rfl fun _ => rfl
  case unpkt5 => exact fun h k o => Runs.gives ⟨rfl, fun _ => rfl⟩ fun _ _ _ => rfl
  case cbdec => exact fun h slot half pair fp16 m d a c => Runs.gives ⟨rfl, fun _ => rfl⟩ fun _ _ _ => rfl
  case cpack => exact fun h o => laneRule_w32 (execCpack h o) rfl fun _ => rfl
  case cpackU => exact fun h o => laneRule_w32 (execCpackU h false o) rfl fun _ => rfl
  case cpackUHi => exact fun h o => laneRule_w32 (execCpackU h true o) rfl fun _ => rfl

end Sys2Proof.Machine

/-! PROOFS, spec/08. An instruction that may issue, by what its effect comes to: it goes on, starts an operation, changes its group,
or traps. -/

namespace Sys2Proof.Machine

/-- The instruction's meaning is the course of issue of these checks with this effect. -/
def Does (i : Instr) (s : State) (h : Hdr) (chk : Env → Chk) (eff : Env → State → State) : Prop :=
  i.checks? s = some (h, chk) ∧ exec i s = issue h chk eff s

section
variable {i : Instr} {s : State} {e : Env} {h : Hdr} {chk : Env → Chk} {eff : Env → State → State}

theorem Does.ready (d : Does i s h chk eff) (hi : i.Issues s e h) : Ready s e h (chk e) := by
  obtain ⟨c, hc, hr⟩ := hi
  cases d.1.symm.trans hc
  exact hr

theorem Does.effect (d : Does i s h chk eff) (hi : i.Issues s e h) : exec i s = finish (eff e s) :=
  d.2.trans (issue_ready (d.ready hi) eff)

/-- An effect that stops no run is the next state. -/
theorem Does.next (d : Does i s h chk eff) (hi : i.Issues s e h) {t : State} (hx : eff e s = t) (ht : t.stuck = s.stuck) :
    exec i s = .next t := by
  rw [d.effect hi, hx]
  exact finish_next (ht.trans (d.ready hi).1)

/-- Outside base camp any effect is the next state. -/
theorem Does.next_run (d : Does i s h chk eff) (hi : i.Issues s e h) (hd : i.setsDevice = false) (hb : s.baseCamp = false) {t : State}
    (hx : eff e s = t) : exec i s = .next t :=
  exec_next hd (d.ready hi).1 (d.ready hi).2.1 hb (hx ▸ d.effect hi)

theorem Does.skips (d : Does i s h chk eff) (hi : i.Issues s e h) (hx : eff e s = s.retire e h) :
    exec i s = .next (s.sIssued e h none) :=
  d.next hi (hx.trans (retire_none (d.ready hi).2.1 h)) (State.sIssued_stuck ..)

theorem Does.starts (d : Does i s h chk eff) (hi : i.Issues s e h) {o : Op} (hx : eff e s = (s.start e o).retire e h) :
    exec i s = .next (s.opIssued e h o) :=
  d.next hi (hx.trans (State.start_retire_eq (d.ready hi).2.1 h o)) rfl

theorem Does.changes (d : Does i s h chk eff) (hi : i.Issues s e h) {f : Group → Group} (hx : eff e s = (s.retire e h).modEnvGroup e f) :
    exec i s = .next ((s.sIssued e h none).modEnvGroup e f) :=
  d.next hi (hx.trans (congrArg (·.modEnvGroup e f) (retire_none (d.ready hi).2.1 h))) (State.sIssued_stuck ..)

theorem Does.traps (d : Does i s h chk eff) (hi : i.Issues s e h) {k : Nat} (hx : eff e s = s.trapHere e k) :
    exec i s = .next (s.trapAt e k e.sl.mask e.sl.pc) :=
  d.next hi hx (State.trapAt_stuck ..)

end

end Sys2Proof.Machine

/-! PROOFS, spec/08. Tile instructions that are done at issue (R220 to R222, R226). -/

namespace Sys2Proof.Machine

section
variable {i : Instr} {s : State} {e : Env} {h : Hdr} {us : List TileUse} {bad : Env → Bool} {f : Group → Group}

theorem tileNow_changes (hc : i.checks? s = some (h, tileChk h us)) (hx : exec i s = tileNow h us bad f s) (hi : i.Issues s e h)
    (hl : e.lead h = true) (hb : bad e = false) : exec i s = .next ((s.sIssued e h none).modEnvGroup e f) :=
  Does.changes ⟨hc, hx⟩ hi (by simp only [hl, hb, Bool.not_true, Bool.false_eq_true, if_false])

theorem tileNow_traps (hc : i.checks? s = some (h, tileChk h us)) (hx : exec i s = tileNow h us bad f s) (hi : i.Issues s e h)
    (hl : e.lead h = true) (hb : bad e = true) : exec i s = .next (s.trapAt e 13 e.sl.mask e.sl.pc) :=
  Does.traps ⟨hc, hx⟩ hi (by simp only [hl, hb, Bool.not_true, Bool.false_eq_true, if_false, if_true])

end

/-- The format and domain of a tile that TTRN takes. -/
theorem ttrn_takes_iff (t : Tag) :
    (!((t.fmt == 9 || t.fmt == 10) && t.dom == 0)) = false ↔ (t.fmt = 9 ∨ t.fmt = 10) ∧ t.dom = 0 := by
  rw [Bool.not_eq_false', Bool.and_eq_true, Bool.or_eq_true, beq_iff_eq, beq_iff_eq, beq_iff_eq]

/-- The bytes of a transposed tile of 16-bit elements (spec/08 R221). -/
theorem transposed_bytes (l : List Byte) :
    (List.range 8192).map (fun o => (l.toArray[128 * (o % 128 / 2) + 2 * (o / 128) + o % 2]?).getD 0) =
      (List.range 8192).map (fun o => (l[o / 2 % 64 * 128 + o / 128 * 2 + o % 2]?).getD 0) := by
  refine List.map_congr_left fun o _ => ?_
  have ho : 128 * (o % 128 / 2) + 2 * (o / 128) + o % 2 = o / 2 % 64 * 128 + o / 128 * 2 + o % 2 := by omega
  rw [List.getElem?_toArray, ho]

/-- Settles O41: with a true guard each is its change of the group, but for the tags that TTRN, TBMP and TTAG do not take. -/
theorem tileInstructionsAtIssue : Obligations.TileInstructionsAtIssue := by
  intro s e h hl
  have hl' : (!e.lead h) = false := by rw [hl]; rfl
  refine ⟨fun t hi => ?tzero, fun n hi => ?tzeroAcc, fun td ts hi => ?tmov, fun td ts hi => ⟨fun hf => ?ttrn, fun hf => ?ttrnBad⟩,
    fun t hi => ⟨fun hd => ?tbmp, fun hd => ?tbmpBad⟩, fun n a hi => ?wrAcc, fun n a hi => ?wrTile,
    fun acc n r hi => ?rdV, fun acc n r hi => ?rdS⟩
  case tzero => exact tileNow_changes rfl rfl hi hl rfl
  case tzeroAcc => exact tileNow_changes rfl rfl hi hl rfl
  case tmov => exact tileNow_changes rfl rfl hi hl rfl
  case ttrn =>
    rw [tileNow_changes rfl rfl hi hl ((ttrn_takes_iff _).2 hf)]
    simp only [transposed_bytes]
  case ttrnBad => exact tileNow_traps rfl rfl hi hl (eq_true_of_ne_false (mt (ttrn_takes_iff _).1 hf))
  case tbmp => exact tileNow_changes rfl rfl hi hl (beq_false_of_ne hd)
  case tbmpBad => exact tileNow_traps rfl rfl hi hl (beq_iff_eq.2 hd)
  case wrAcc =>
    have d : Does (.ttagWr h true n a) s h _ _ := ⟨rfl, by change execTtagWr h true n a s = _; unfold execTtagWr; rfl⟩
    exact ⟨fun ha => d.changes hi (by simp only [hl', ha, Bool.false_eq_true, if_false, if_true]; rfl),
      fun ha => d.traps hi (by simp only [hl', ha, Bool.false_eq_true, if_false, if_true])⟩
  case wrTile =>
    have d : Does (.ttagWr h false n a) s h _ _ := ⟨rfl, by change execTtagWr h false n a s = _; unfold execTtagWr; rfl⟩
    exact ⟨fun ha => d.changes hi (by simp only [hl', ha, Bool.false_eq_true, if_false]; rfl),
      fun k hk => d.traps hi (by simp only [hl', hk, Bool.false_eq_true, if_false])⟩
  case rdV =>
    have d : Does (.ttagRd h acc n (.v r)) s h _ _ := ⟨rfl, by change execTtagRd h acc n (.v r) s = _; unfold execTtagRd; rfl⟩
    exact d.starts hi (by simp only [hl', Bool.false_eq_true, if_false])
  case rdS =>
    have d : Does (.ttagRd h acc n (.s r)) s h _ _ := ⟨rfl, by change execTtagRd h acc n (.s r) s = _; unfold execTtagRd; rfl⟩
    exact d.starts hi (by simp only [hl', Bool.false_eq_true, if_false])

end Sys2Proof.Machine

/-! PROOFS, spec/08, spec/09. Accumulators, format blocks, transforms and ACCOUT (R226, R233, R234, R244 to R246). -/

namespace Sys2Proof.Machine

section
variable {s : State} {e : Env} {h : Hdr}

theorem Env.isEmpty_active (ha : e.active h ≠ []) : (e.active h).isEmpty = false := by
  simpa using ha

/-! Segments (R233) and FBCHK (R226) -/

theorem exec_accrd {colb n : BitVec 3} {r : Fin 320} {b : SrcB} (hi : (Instr.accrd h colb n (.v r) b).Issues s e h)
    (ha : e.active h ≠ []) :
    exec (.accrd h colb n (.v r) b) s = .next (s.dataIssued e h ((e.active h).map (fun l => ⟨.v, r.val, l,
      if (e.g.atag n.toNat).fresh then 0
      else e.g.accs.lookD 0 (n.toNat * 4096 + 64 * (e.sval b % 64) + (e.g.width * colb.toNat + l))⟩)) [readA n.toNat]) := by
  have d : Does (.accrd h colb n (.v r) b) s h _ _ := ⟨rfl, by change execAccrd h colb n (.v r) b s = _; unfold execAccrd; rfl⟩
  refine d.starts hi ?_
  simp only [Env.isEmpty_active ha, Bool.false_eq_true, if_false, segment, List.map_eq_flatMap, Nat.add_assoc]

theorem exec_accwr {colb n : BitVec 3} {a : Opd} {b : SrcB} (hi : (Instr.accwr h colb n a b).Issues s e h) (ha : e.active h ≠ []) :
    exec (.accwr h colb n a b) s = .next ((s.sIssued e h none).modEnvGroup e (fun g =>
      { g with
        accs := (e.active h).foldl
          (fun m l => m.putD 0 (n.toNat * 4096 + 64 * (e.sval b % 64) + e.g.width * colb.toNat + l) (e.word a l))
          (if (e.g.atag n.toNat).fresh then g.accs.setRange 0 (n.toNat * 4096) (List.replicate 4096 0) else g.accs),
        atags := g.atags.putD 1 n.toNat ({ e.g.atag n.toNat with fresh := false } : Tag).acc })) := by
  have d : Does (.accwr h colb n a b) s h _ _ := ⟨rfl, by change execAccwr h colb n a b s = _; unfold execAccwr; rfl⟩
  refine d.changes hi ?_
  simp only [Env.isEmpty_active ha, Bool.false_eq_true, if_false, segment]
  rfl

theorem exec_fbchk {f : Bool} {r : Fin 96} {a : Opd} (hi : (Instr.fbchk h f (.p r) a).Issues s e h) (ha : e.active h ≠ []) :
    exec (.fbchk h f (.p r) a) s = .next (s.dataIssued e h ((e.active h).map (fun l => ⟨.p, r.val, l,
      if (if f then blockCauseF (e.blockWords a) else blockCause (e.blockWords a)) = none then 1 else 0⟩)) []) := by
  have d : Does (.fbchk h f (.p r) a) s h _ _ := ⟨rfl, by change execFbchk h f (.p r) a s = _; unfold execFbchk; rfl⟩
  refine d.starts hi ?_
  simp only [Env.isEmpty_active ha, Bool.false_eq_true, if_false, List.map_eq_flatMap, Option.isNone_iff_eq_none]
  rfl

/-! Transforms (R244, R245) -/

section
variable {i : Instr} {td ts : BitVec 4} {bad : Tag → Bool} {w : What}

theorem transform_starts (hc : i.checks? s = some (h, tileChk h [writeT td.toNat, readT ts.toNat]))
    (hx : exec i s = transform h td ts bad w s) (hi : i.Issues s e h) (hl : e.lead h = true) (hb : bad (e.g.tag ts.toNat) = false) :
    exec i s = .next (s.opIssued e h { e.op s (e.flag h) w with uses := [writeT td.toNat, readT ts.toNat] }) :=
  have d : Does i s h _ _ := ⟨hc, hx.trans (by unfold transform; rfl)⟩
  d.starts hi (by simp only [hl, hb, Bool.not_true, Bool.false_eq_true, if_false]; rfl)

theorem transform_traps (hc : i.checks? s = some (h, tileChk h [writeT td.toNat, readT ts.toNat]))
    (hx : exec i s = transform h td ts bad w s) (hi : i.Issues s e h) (hl : e.lead h = true) (hb : bad (e.g.tag ts.toNat) = true) :
    exec i s = .next (s.trapAt e 13 e.sl.mask e.sl.pc) :=
  have d : Does i s h _ _ := ⟨hc, hx.trans (by unfold transform; rfl)⟩
  d.traps hi (by simp only [hl, hb, Bool.not_true, Bool.false_eq_true, if_false, if_true])

end

/-- The tiles XFWD and XINV do not take. -/
def xfwdRefuses (c : Nat) (t : Tag) : Bool := t.dom != 0 || !(t.fmt == 9 || t.fmt == 10) || decide (127 < t.exp + c)
def xinvRefuses (fold : Bool) (t : Tag) : Bool :=
  t.dom != 1 || !(t.fmt == 19 || t.fmt == 20) || t.blen == 0 || (!fold && decide (t.exp - (t.blen : Int) < -128))

theorem exec_xfwd (h : Hdr) (c : BitVec 3) (td ts : BitVec 4) (s : State) :
    exec (.xfwd h c td ts) s = transform h td ts (xfwdRefuses c.toNat) (.xfwd c.toNat td.toNat ts.toNat) s := rfl

theorem exec_xinv (h : Hdr) (fold sat : Bool) (td ts : BitVec 4) (s : State) :
    exec (.xinv h fold sat td ts) s = transform h td ts (xinvRefuses fold) (.xinv fold sat td.toNat ts.toNat) s := rfl

theorem xfwdRefuses_eq_false_iff (c : Nat) (t : Tag) :
    xfwdRefuses c t = false ↔ t.dom = 0 ∧ (t.fmt = 9 ∨ t.fmt = 10) ∧ t.exp + c ≤ 127 := by
  simp only [xfwdRefuses, Bool.or_eq_false_iff, and_assoc, bne_eq_false_iff_eq, Bool.not_eq_false', Bool.or_eq_true, beq_iff_eq,
    decide_eq_false_iff_not, Int.not_lt]

theorem xinvRefuses_eq_false_iff (fold : Bool) (t : Tag) :
    xinvRefuses fold t = false ↔
      t.dom = 1 ∧ (t.fmt = 19 ∨ t.fmt = 20) ∧ t.blen ≠ 0 ∧ (fold = false → -128 ≤ t.exp - t.blen) := by
  simp only [xinvRefuses, Bool.or_eq_false_iff, and_assoc, bne_eq_false_iff_eq, Bool.not_eq_false', Bool.or_eq_true, beq_iff_eq,
    beq_eq_false_iff_ne]
  cases fold <;> simp

/-! ACCOUT (R234) -/

/-- The accumulators an ACCOUT reads, and their tags but the fresh ones'. -/
def accoutRegs (fmt : BitVec 5) (n : BitVec 3) : List Nat := (List.range (accoutCount fmt)).map (fun i => n.toNat + i)
def Env.accoutTags (e : Env) (fmt : BitVec 5) (n : BitVec 3) : List Tag :=
  ((accoutRegs fmt n).map e.g.atag).filter (fun t => !t.fresh)

/-- The code of element (m, k) of the tile an ACCOUT makes. -/
def Env.accoutElem (e : Env) (fmt : BitVec 5) (n : BitVec 3) (ctl : Word) (m k : Nat) : Nat :=
  let f := (Fmt.ofCode fmt).getD .fp32
  let cplx := f == .c16 || f == .cbf
  let data := ((accoutRegs fmt n).map (fun i => (e.g.accData i).toArray)).toArray
  let el (i m col : Nat) : Word := (((data[i]?).getD #[])[64 * m + col]?).getD 0
  let x := accoutSource (accoutCount fmt) (if ctl.getLsbD 3 then 1 else 0) k (f == .fp32 || cplx)
  if cplx then
    let part := if f = .c16 then Fmt.fp16 else .bf16
    accoutCode part ctl (el 0 m x.2) + 65536 * accoutCode part ctl (el 1 m x.2)
  else accoutCode f ctl (el x.1 m x.2)

/-- The domain of the first of some tags. -/
def firstDom : List Tag → Nat
  | t :: _ => t.dom
  | [] => 0

/-- The sums an ACCOUT reads agree, and spectral ones are the planes of a complex tile. -/
def Env.accoutOk (e : Env) (fmt : BitVec 5) (n : BitVec 3) : Bool :=
  let f := (Fmt.ofCode fmt).getD .fp32
  let ts := e.accoutTags fmt n
  let plane (i : Nat) (im : Bool) : Bool := let t := e.g.atag (n.toNat + i); t.fresh || t.imag == im
  ts.all (fun t => ts.all (fun u => t.dom == u.dom && t.blen == u.blen && t.exp == u.exp)) &&
    (firstDom ts != 1 || ((f == .c16 || f == .cbf) && plane 0 false && plane 1 true))

/-- The tag of the tile an ACCOUT makes. -/
def Env.accoutTag (e : Env) (fmt : BitVec 5) (n : BitVec 3) : Tag :=
  match e.accoutTags fmt n with
  | t :: _ => ⟨fmt.toNat, t.dom, t.blen, t.exp, false, false, false⟩
  | [] => Tag.plain fmt.toNat

/-- What an ACCOUT with a true guard comes to. -/
theorem accout_does (fmt : BitVec 5) (n : BitVec 3) (td : BitVec 4) (a : Opd) :
    Does (.accout h fmt n td a) s h (chkAccout h (writeT td.toNat :: (accoutRegs fmt n).map readA) fmt a) (fun e s =>
      if !e.lead h then s.retire e h
      else if !e.accoutOk fmt n then s.trapHere e 13
      else (s.startTile e h (writeT td.toNat :: (accoutRegs fmt n).map readA) (.tile td.toNat
        (packTile ((Fmt.ofCode fmt).getD .fp32) (e.accoutElem fmt n (e.word a 0))) (e.accoutTag fmt n).tile none)).retire e h) :=
  ⟨rfl, rfl⟩

/-- Where the tags agree, the first tells whether any is spectral. -/
theorem firstDom_eq_one_iff {ts : List Tag} (ha : ∀ t ∈ ts, ∀ u ∈ ts, t.dom = u.dom ∧ t.blen = u.blen ∧ t.exp = u.exp) :
    firstDom ts = 1 ↔ ∃ t ∈ ts, t.dom = 1 := by
  cases ts with
  | nil => simp [firstDom]
  | cons t r =>
    refine ⟨fun h1 => ⟨t, List.mem_cons_self .., h1⟩, fun ⟨u, hu, h1⟩ => ?_⟩
    exact (ha t (List.mem_cons_self ..) u hu).1.trans h1

/-- The tags of sums agree where every two of them do, and a spectral one needs both planes. -/
theorem Env.accoutOk_iff (e : Env) (fmt : BitVec 5) (n : BitVec 3) :
    let f := (Fmt.ofCode fmt).getD .fp32
    let ts := e.accoutTags fmt n
    let plane (i : Nat) (im : Bool) : Prop := (e.g.atag (n.toNat + i)).fresh = true ∨ (e.g.atag (n.toNat + i)).imag = im
    e.accoutOk fmt n = true ↔ (∀ t ∈ ts, ∀ u ∈ ts, t.dom = u.dom ∧ t.blen = u.blen ∧ t.exp = u.exp) ∧
      ((∃ t ∈ ts, t.dom = 1) → (f = .c16 ∨ f = .cbf) ∧ plane 0 false ∧ plane 1 true) := by
  intro f ts plane
  have hall : ts.all (fun t => ts.all (fun u => t.dom == u.dom && t.blen == u.blen && t.exp == u.exp)) = true ↔
      ∀ t ∈ ts, ∀ u ∈ ts, t.dom = u.dom ∧ t.blen = u.blen ∧ t.exp = u.exp := by
    simp only [List.all_eq_true, Bool.and_eq_true, beq_iff_eq, and_assoc]
  have hplane : ((f == .c16 || f == .cbf) && ((e.g.atag (n.toNat + 0)).fresh || (e.g.atag (n.toNat + 0)).imag == false) &&
      ((e.g.atag (n.toNat + 1)).fresh || (e.g.atag (n.toNat + 1)).imag == true)) = true ↔
      (f = .c16 ∨ f = .cbf) ∧ plane 0 false ∧ plane 1 true := by
    simp only [Bool.and_eq_true, Bool.or_eq_true, beq_iff_eq, and_assoc, plane]
  change (_ && (_ || _)) = true ↔ _
  rw [Bool.and_eq_true, Bool.or_eq_true, hplane, hall, bne_iff_ne]
  refine and_congr_right fun ha => ?_
  rw [← firstDom_eq_one_iff ha, ← Decidable.imp_iff_not_or]

/-! The elements of ACCOUT's tile: the accumulator and the column each comes from -/

/-- Word j of the i-th accumulator read. -/
theorem accout_word (g : Group) (fmt : BitVec 5) (n : BitVec 3) {i : Nat} (hi : i < accoutCount fmt) (j : Nat) :
    (((((accoutRegs fmt n).map (fun i => (g.accData i).toArray)).toArray[i]?).getD #[])[j]?).getD 0 =
      ((g.accData (n.toNat + i))[j]?).getD 0 := by
  simp [accoutRegs, hi]

theorem accoutCount_fp32 {fmt : BitVec 5} (hk : (Fmt.ofCode fmt).isNone = false) (hf : (Fmt.ofCode fmt).getD .fp32 = .fp32) :
    accoutCount fmt = 1 := by
  revert fmt; decide

theorem accoutCount_complex {fmt : BitVec 5} (hf : (Fmt.ofCode fmt).getD .fp32 = .c16 ∨ (Fmt.ofCode fmt).getD .fp32 = .cbf) :
    accoutCount fmt = 2 := by
  revert fmt; decide

section
variable {fmt : BitVec 5} {n : BitVec 3} {ctl : Word} {m k : Nat}

theorem accoutElem_fp32 (hk : (Fmt.ofCode fmt).isNone = false) (hf : (Fmt.ofCode fmt).getD .fp32 = .fp32) :
    e.accoutElem fmt n ctl m k =
      (((e.g.accData (n.toNat + 0))[64 * m + (32 * (if ctl.getLsbD 3 then 1 else 0) + k)]?).getD 0).toNat := by
  have h0 : 0 < accoutCount fmt := by rw [accoutCount_fp32 hk hf]; decide
  simp only [Env.accoutElem, hf, accoutSource]
  exact congrArg BitVec.toNat (accout_word e.g fmt n h0 _)

theorem accoutElem_complex (hf : (Fmt.ofCode fmt).getD .fp32 = .c16 ∨ (Fmt.ofCode fmt).getD .fp32 = .cbf) :
    let col := 32 * (if ctl.getLsbD 3 then 1 else 0) + k
    let part := if (Fmt.ofCode fmt).getD .fp32 = .c16 then Fmt.fp16 else .bf16
    e.accoutElem fmt n ctl m k = accoutCode part ctl (((e.g.accData (n.toNat + 0))[64 * m + col]?).getD 0) +
      65536 * accoutCode part ctl (((e.g.accData (n.toNat + 1))[64 * m + col]?).getD 0) := by
  intro col part
  have h2 := accoutCount_complex hf
  have hc : ((Fmt.ofCode fmt).getD .fp32 == .c16 || (Fmt.ofCode fmt).getD .fp32 == .cbf) = true := by
    rw [Bool.or_eq_true, beq_iff_eq, beq_iff_eq]; exact hf
  rw [← accout_word e.g fmt n (by omega), ← accout_word e.g fmt n (by omega)]
  simp only [Env.accoutElem, hc, accoutSource, Bool.or_true, if_true]
  rfl

theorem accoutElem_plain (hw : (Fmt.ofCode fmt).getD .fp32 ≠ .fp32)
    (hf : ¬((Fmt.ofCode fmt).getD .fp32 = .c16 ∨ (Fmt.ofCode fmt).getD .fp32 = .cbf)) (hk : k < 64 * accoutCount fmt) :
    e.accoutElem fmt n ctl m k =
      accoutCode ((Fmt.ofCode fmt).getD .fp32) ctl (((e.g.accData (n.toNat + k / 64))[64 * m + k % 64]?).getD 0) := by
  have hc : ((Fmt.ofCode fmt).getD .fp32 == .c16 || (Fmt.ofCode fmt).getD .fp32 == .cbf) = false := by
    rw [Bool.eq_false_iff, ne_eq, Bool.or_eq_true, beq_iff_eq, beq_iff_eq]; exact hf
  have hs : accoutSource (accoutCount fmt) (if ctl.getLsbD 3 then 1 else 0) k false = (k / 64, k % 64) := by
    unfold accoutSource
    split
    · contradiction
    · split
      · rw [Nat.div_eq_of_lt (by omega), Nat.mod_eq_of_lt (by omega)]
      · rfl
  rw [← accout_word e.g fmt n (Nat.div_lt_of_lt_mul hk)]
  simp only [Env.accoutElem, hc, beq_false_of_ne hw, Bool.or_false, hs, Bool.false_eq_true, if_false]

end

/-- An instruction that fails no check names a format that is not reserved. -/
theorem Env.fmt_of_failed {c : Chk} (hf : e.failed h c = none) : c.fmt = false := by
  refine Bool.eq_false_iff.2 fun hc => ?_
  unfold Env.failed at hf
  simp only [hc, if_true] at hf
  repeat' split at hf
  all_goals cases hf

theorem exec_accout {fmt : BitVec 5} {n : BitVec 3} {td : BitVec 4} {a : Opd} (hi : (Instr.accout h fmt n td a).Issues s e h)
    (hl : e.lead h = true) :
    (e.accoutOk fmt n = false → exec (.accout h fmt n td a) s = .next (s.trapAt e 13 e.sl.mask e.sl.pc)) ∧
    (e.accoutOk fmt n = true → exec (.accout h fmt n td a) s = .next (s.opIssued e h { e.op s (e.flag h) (.tile td.toNat
      (packTile ((Fmt.ofCode fmt).getD .fp32) (e.accoutElem fmt n (e.word a 0))) (e.accoutTag fmt n).tile none) with
        uses := writeT td.toNat :: (accoutRegs fmt n).map readA })) := by
  have d := accout_does (s := s) (h := h) fmt n td a
  exact ⟨fun ho => d.traps hi (by simp only [hl, ho, Bool.not_true, Bool.not_false, Bool.false_eq_true, if_false, if_true]),
    fun ho => d.starts hi (by simp only [hl, ho, Bool.not_true, Bool.false_eq_true, if_false]; rfl)⟩

end

/-- Settles O42: each is its effect at issue; ACCOUT's tile holds its accumulators' elements at their places. -/
theorem accumulatorsAndTransforms : Obligations.AccumulatorsAndTransforms := by
  refine ⟨fun s e h => ⟨fun colb n r b hi ha => exec_accrd hi ha, fun colb n a b hi ha => exec_accwr hi ha,
    fun f r a hi ha => exec_fbchk hi ha, fun c td ts hi hl => ⟨fun ht => ?xfwd, fun ht => ?xfwdBad⟩,
    fun fold sat td ts hi hl => ⟨fun ht => ?xinv, fun ht => ?xinvBad⟩⟩, fun s e h fmt n td a hi hl => ?accout⟩
  case xfwd => exact transform_starts rfl (exec_xfwd ..) hi hl ((xfwdRefuses_eq_false_iff ..).2 ht)
  case xfwdBad =>
    exact transform_traps rfl (exec_xfwd ..) hi hl (eq_true_of_ne_false (mt (xfwdRefuses_eq_false_iff ..).1 ht))
  case xinv => exact transform_starts rfl (exec_xinv ..) hi hl ((xinvRefuses_eq_false_iff ..).2 ht)
  case xinvBad =>
    exact transform_traps rfl (exec_xinv ..) hi hl (eq_true_of_ne_false (mt (xinvRefuses_eq_false_iff ..).1 ht))
  case accout =>
    obtain ⟨hbad, hok⟩ := exec_accout hi hl
    have hk : (Fmt.ofCode fmt).isNone = false := by
      obtain ⟨-, -, hf, -⟩ := (accout_does fmt n td a).ready hi
      exact Env.fmt_of_failed hf
    intro f as ts cplx plane agree
    have hiff : e.accoutOk fmt n = true ↔ agree := e.accoutOk_iff fmt n
    refine ⟨fun ha => hbad (Bool.eq_false_iff.2 (mt hiff.1 ha)), fun ha => ⟨e.accoutElem fmt n (e.word a 0), hok (hiff.2 ha), ?_⟩⟩
    intro m c _ el ctl
    exact ⟨fun hf _ => accoutElem_fp32 hk hf, fun hf _ => accoutElem_complex hf, fun hw hf hc => accoutElem_plain hw hf hc⟩

end Sys2Proof.Machine

/-! PROOFS, spec/08. TLD and TST move a tile by its rows (R216 to R219). -/

namespace Sys2Proof.Machine

/-- The header's chunk, where one is kept. -/
def TileArg.head (r : TileArg) (e : Env) : List (Nat × Nat) := if r.hdr then [(r.adr e, 16)] else []
/-- The chunks of the tile's memory rows. -/
def TileArg.rows (r : TileArg) (e : Env) : List (Nat × Nat) := (tileRows r.x r.sp r.hdr r.fmt (r.adr e) (r.stride e)).chunks

/-- Address and stride are aligned, and nothing makes the tile load wait. -/
def TileArg.LoadFree (r : TileArg) (s : State) (e : Env) : Prop :=
  r.misaligned e false = none ∧ (s.core e.core).atomsQueued e.ctx e.g.uid = false ∧ e.siblingPends = false ∧
  (r.sp = true ∨ s.logFull e.g = false) ∧ (r.sp = true → ∀ c ∈ r.head e ++ r.rows e, s.scratchWaits e c.1 c.2 = false)

/-- The format is the tile's or the header keeps it, address and stride are aligned, and nothing makes the tile store wait. -/
def TileArg.StoreFree (r : TileArg) (s : State) (e : Env) : Prop :=
  (r.hdr = true ∨ (e.g.tag r.t.toNat).fmt = r.fmt.toNat) ∧ r.misaligned e true = none ∧
  (s.core e.core).acqPending e.ctx e.g.uid = false ∧ e.siblingPends = false

/-- The operation a tile load puts in flight. -/
def TileArg.loadOp (r : TileArg) (e : Env) (h : Hdr) (s : State) (tag : BitVec 128) (bs : List Byte) : Op :=
  { e.op s (e.flag h) (.tile r.t.toNat (fromRows r.x (tileEb r.fmt) bs) ({ Tag.ofTile tag with bmv := false } : Tag).tile
      (some ⟨r.sp, r.rows e, r.hdr, if r.x then some (tileEb r.fmt) else none⟩)) with
    uses := [writeT r.t.toNat], sample := s.tileSample e h (r.head e ++ r.rows e) true }

/-- The operation a tile store puts in flight. -/
def TileArg.storeOp (r : TileArg) (e : Env) (h : Hdr) (s : State) : Op :=
  { e.op s (e.flag h) .store with
    uses := [readT r.t.toNat], sample := s.tileSample e h (r.head e ++ r.rows e) false }

/-- The bytes a tile store writes, a kept header's first, at these places. -/
def TileArg.cells (r : TileArg) (e : Env) (ps : List (Nat × Nat)) : List SCell :=
  chunkCells (r.head e ++ r.rows e) ps
    ((if r.hdr then leBytes 16 ({ e.g.tag r.t.toNat with bmv := false } : Tag).tile.toNat else []) ++
      toRows r.x (tileEb r.fmt) (e.g.tileData r.t.toNat))

/-- The store-queue entry of these bytes. -/
def TileArg.entry (r : TileArg) (e : Env) (ps : List (Nat × Nat)) : SqWhat :=
  if r.sp then .scratch ((r.cells e ps).map (fun c => (c.tgt, c.b)))
  else .bytes ((r.cells e ps).map (fun c => { c with va := c.va % 2 ^ 57 }))

/-- No watchpoint answers: the access goes on. -/
theorem State.tileWatch_go {s s0 : State} {e : Env} {write sp : Bool} {cs : List (Nat × Nat)}
    (hw : (if sp then (s, false) else s.watchAccess e write (!write) cs) = (s0, false)) (go : State → State) :
    s.tileWatch e write sp cs go = go s0 := by
  simp only [State.tileWatch, hw]

/-- Where every byte has its place, the access goes on. -/
theorem State.tileLane_none (s : State) (e : Env) (h : Hdr) (write : Bool) (cs : List (Nat × Nat)) (go : State → State) :
    s.tileLane e h write cs none go = go s := rfl

section
variable {s s0 s1 s2 : State} {e : Env} {h : Hdr} {r : TileArg}

theorem TileArg.LoadFree.unheld (hf : r.LoadFree s e) :
    ((s.core e.core).atomsQueued e.ctx e.g.uid || e.siblingPends || (!r.sp && s.logFull e.g) ||
      (r.sp && (r.head e ++ r.rows e).any (fun c => s.scratchWaits e c.1 c.2))) = false := by
  obtain ⟨-, hq, hs, hlog, hw⟩ := hf
  have hfull : (!r.sp && s.logFull e.g) = false := by
    rw [Bool.and_eq_false_imp, Bool.not_eq_true']
    exact fun hsp => hlog.resolve_left (by simp [hsp])
  have hwait : (r.sp && (r.head e ++ r.rows e).any (fun c => s.scratchWaits e c.1 c.2)) = false := by
    rw [Bool.and_eq_false_imp, List.any_eq_false]
    exact fun hsp c hc => Bool.eq_false_iff.1 (hw hsp c hc)
  rw [hq, hs, hfull, hwait]
  rfl

/-- A tile load whose bytes are read is in flight, with the tag of its header or its format's plain one (R217, R219). -/
theorem tileLoad_starts (hr : Ready s e h (r.chk h (writeT r.t.toNat) e)) (hl : e.lead h = true) (hf : r.LoadFree s e)
    {hb bs : List Byte} {tag : BitVec 128}
    (h0 : (if r.sp then (s, false) else s.watchAccess e false true (r.head e ++ r.rows e)) = (s0, false))
    (h1 : s0.gather e r.sp true (r.head e) = (s1, ⟨hb, none⟩))
    (ht : (if r.hdr then BitVec.ofNat 128 (leNat hb) else (Tag.plain r.fmt.toNat).tile) = tag) (hg : r.hdr = true → tagCause tag = none)
    (h2 : s1.gather e r.sp true (r.rows e) = (s2, ⟨bs, none⟩)) :
    tileLoad h r s = finish (((s2.start e (r.loadOp e h s2 tag bs)).memCounted e).retire e h) := by
  have htag : (if r.hdr then tagCause tag else none) = none := by
    split
    · exact hg ‹_›
    · rfl
  have hfree := hf.unheld
  obtain ⟨hm, -⟩ := hf
  unfold tileLoad
  rw [issue_ready hr]
  simp only [TileArg.head, TileArg.rows] at hfree h0 h1 h2
  simp only [hl, hm, hfree, Bool.not_true, Bool.false_eq_true, if_false]
  rw [State.tileWatch_go h0, h1, State.tileLane_none]
  simp only [ht, htag, h2]
  rfl

/-- A tile store whose bytes may be written stands in its group's queue (R218, R219). -/
theorem tileStore_enqueues (hr : Ready s e h (r.chk h (readT r.t.toNat) e)) (hl : e.lead h = true) (hf : r.StoreFree s e)
    {ps : List (Nat × Nat)}
    (h0 : (if r.sp then (s, false) else s.watchAccess e true false (r.head e ++ r.rows e)) = (s0, false))
    (h1 : s0.gatherPlaces e r.sp (r.head e ++ r.rows e) = (s1, ps, none)) :
    tileStore h r s = finish ((((s1.start e (r.storeOp e h s1)).enqueue e (some e.serial) (r.entry e ps)).memCounted e).retire e h) := by
  obtain ⟨hfmt, hm, ha, hs⟩ := hf
  have hfits : ¬((!r.hdr) = true ∧ (e.g.tag r.t.toNat).fmt ≠ r.fmt.toNat) := by
    rintro ⟨hh, hne⟩
    exact hne (hfmt.resolve_left (by simpa using hh))
  unfold tileStore
  rw [issue_ready hr]
  simp only [TileArg.head, TileArg.rows] at h0 h1
  simp only [hl, hfits, hm, ha, hs, Bool.not_true, Bool.or_false, Bool.false_eq_true, if_false]
  rw [State.tileWatch_go h0, h1, State.tileLane_none]
  rfl

end

/-- Settles O43: TLD and TLD.X are one tile load, TST and TST.X one tile store. -/
theorem tileMemoryInstructions : Obligations.TileMemoryInstructions := by
  intro s e h i r hl hb ⟨c, hc, hr⟩ head rows chunks
  refine ⟨fun hor hm hq hs hlog hw s0 s1 hbs s2 bs h0 h1 hg h2 => ?load, fun hor hfmt hm ha hs s0 s1 ps h0 h1 => ?store⟩
  case load =>
    have hx : i.setsDevice = false ∧ i.checks? s = some (h, r.chk h (writeT r.t.toNat)) ∧ exec i s = tileLoad h r s := by
      obtain ⟨fmt, hdr, sp, t, a, b, off, x⟩ := r
      rcases hor with ⟨rfl, rfl⟩ | ⟨rfl, rfl⟩ <;> exact ⟨rfl, rfl, rfl⟩
    obtain ⟨hd, hc', hx⟩ := hx
    cases hc.symm.trans hc'
    exact exec_next hd hr.1 hr.2.1 hb (hx.trans (tileLoad_starts hr hl ⟨hm, hq, hs, hlog, hw⟩ h0 h1 rfl hg h2))
  case store =>
    have hx : i.setsDevice = false ∧ i.checks? s = some (h, r.chk h (readT r.t.toNat)) ∧ exec i s = tileStore h r s := by
      obtain ⟨fmt, hdr, sp, t, a, b, off, x⟩ := r
      rcases hor with ⟨rfl, rfl⟩ | ⟨rfl, rfl⟩ <;> exact ⟨rfl, rfl, rfl⟩
    obtain ⟨hd, hc', hx⟩ := hx
    cases hc.symm.trans hc'
    exact exec_next hd hr.1 hr.2.1 hb (hx.trans (tileStore_enqueues hr hl ⟨hfmt, hm, ha, hs⟩ h0 h1))

end Sys2Proof.Machine

/-! PROOFS, spec/08, spec/09. A member of a quartet at its gate (R225, R227 to R229, R249, R250). -/

namespace Sys2Proof.Machine

/-- With a CB16 B operand, A is a pair of tiles. -/
def quartetPair (opc : Nat) (fb : List Word) : Bool := opc != 0x17B && blockBfmt (fb.headD 0) == 18

/-- The exponent of a member's product, or the cause of the trap its block, tiles and accumulators give. -/
def Env.quartetCause (e : Env) (opc base : Nat) (ta tb : BitVec 4) (fb : List Word) : Nat ⊕ Int :=
  if opc = 0x17B then e.mmafCause false ta.toNat tb.toNat fb else e.mmaCause false ta.toNat tb.toNat base fb

/-- The addresses of a member's scales, of its A and of its B operand. -/
def quartetScalesA (opc : Nat) (fb : List Word) : List Nat :=
  if opc = 0x17B then []
  else scaleAddrs ((fb[1]?).getD 0) ((pairK (blockAfmt (fb.headD 0)) (blockBfmt (fb.headD 0))).getD 32) (blockAblk (fb.headD 0))
def quartetScalesB (opc : Nat) (fb : List Word) : List Nat :=
  if opc = 0x17B then []
  else scaleAddrs ((fb[2]?).getD 0) ((pairK (blockAfmt (fb.headD 0)) (blockBfmt (fb.headD 0))).getD 32) (blockBblk (fb.headD 0))

/-- What a member captures at its arrival (log 66). -/
def State.captured (s : State) (e : Env) (opc base : Nat) (ta tb : BitVec 4) (fb : List Word) : MatOp :=
  let bs := s.scales e (quartetScalesA opc fb ++ quartetScalesB opc fb)
  { opc := opc, base := base, ta := ta.toNat, tb := tb.toNat, fb := fb, ascale := bs.take (quartetScalesA opc fb).length,
    bscale := bs.drop (quartetScalesA opc fb).length,
    book := if quartetPair opc fb then (List.range 256).map (s.codebookEntry (bits ((fb[3]?).getD 0).toNat 0 2) 0) else [],
    expB := (e.g.tag tb.toNat).exp, blenB := (e.g.tag tb.toNat).blen }

section
variable {s : State} {e : Env} {h : Hdr} {opc base n : Nat} {tb ta : BitVec 4} {sf : Opd}

theorem Env.quartet_iff (e : Env) : e.quartet = true ↔ 4 * (e.g.grpid / 4) + 4 ≤ e.k.groups := decide_eq_true_iff

theorem quartet_skips (hr : Ready s e h (quartetChk opc h base n tb ta sf e)) (hq : e.quartet = true) (hl : e.lead h = false) :
    quartet opc h base n tb ta sf s = finish (s.arriveGate e h [] none) := by
  unfold quartet
  rw [issue_ready hr]
  simp only [hq, hl, Bool.not_true, Bool.not_false, Bool.false_eq_true, if_false, if_true]

theorem quartet_traps (hr : Ready s e h (quartetChk opc h base n tb ta sf e)) (hq : e.quartet = false) :
    quartet opc h base n tb ta sf s = finish (s.trapAt e 16 e.sl.mask e.sl.pc) := by
  unfold quartet
  rw [issue_ready hr]
  simp only [hq, Bool.not_false, if_true]
  rfl

/-- A member that passes its checks, and whose scales can be read, arrives with what it captures. -/
theorem quartet_arrives (hr : Ready s e h (quartetChk opc h base n tb ta sf e)) (hb : s.baseCamp = false) (hq : e.quartet = true)
    (hl : e.lead h = true) {ex : Int} (hx : e.quartetCause opc base ta tb (e.blockWords sf) = .inr ex)
    (hbad : s.scaleBad e (quartetScalesA opc (e.blockWords sf) ++ quartetScalesB opc (e.blockWords sf)) = none)
    (hw : s.scaleWaits e (quartetScalesA opc (e.blockWords sf) ++ quartetScalesB opc (e.blockWords sf)) = false) :
    quartet opc h base n tb ta sf s =
      finish (s.arriveGate e h (matUses ta.toNat tb.toNat base n (quartetPair opc (e.blockWords sf)))
        (some (s.captured e opc base ta tb (e.blockWords sf), ex))) := by
  unfold quartet
  rw [issue_ready hr]
  simp only [Env.quartetCause, quartetScalesA, quartetScalesB] at hx hbad hw
  simp only [hq, hl, hb, hx, hbad, hw, Bool.not_true, Bool.false_eq_true, if_false]
  rfl

end

/-- Settles O44: the three instructions are one course, of four accumulators or of eight. -/
theorem quartetMembersArrive : Obligations.QuartetMembersArrive := by
  intro s e h tb ta sf b4 i opc base n hb ⟨c, hc, hr⟩ hi hn fb w0 pair k sa sb
  have hx : i.setsDevice = false ∧ i.checks? s = some (h, quartetChk opc h base n tb ta sf) ∧
      exec i s = quartet opc h base n tb ta sf s := by
    rcases hi with ⟨rfl, rfl, rfl⟩ | ⟨rfl, rfl, rfl⟩ | ⟨rfl, rfl, rfl⟩ <;> cases hn <;> exact ⟨rfl, rfl, rfl⟩
  obtain ⟨hd, hc', hx⟩ := hx
  cases hc.symm.trans hc'
  have hnext {t : State} (ht : quartet opc h base n tb ta sf s = finish t) : exec i s = .next t :=
    exec_next hd hr.1 hr.2.1 hb (hx.trans ht)
  refine ⟨fun hq hl => hnext (quartet_skips hr (e.quartet_iff.2 hq) hl), fun ex hq hl hex hbad hw => ?_,
    fun hq => hnext (quartet_traps hr (Bool.eq_false_iff.2 (mt e.quartet_iff.1 hq)))⟩
  exact hnext (quartet_arrives hr hb (e.quartet_iff.2 hq) hl hex hbad hw)

end Sys2Proof.Machine

/-! PROOFS, spec/08, spec/10. Engine instructions put their operation in flight (R235, R255, R265, R267, R272, R274, R275, R277). -/

namespace Sys2Proof.Machine

section
variable {s : State} {e : Env} {h : Hdr} {i : Instr}

/-- A decode puts its operation in flight, and its slot waits for the decoder (R272). -/
theorem decodeIssue_starts {form : Nat} {tok : BitVec 3} {sg : Bool} {d : Fin 320} {a : Opd} {c : Fin 64} {nb : BitVec 4}
    (hr : Ready s e h (decodeIssueChk tok (.v d) a (.s c) nb e)) (hl : e.lead h = true) (hs : e.siblingPends = false) :
    decodeIssue h form tok sg (.v d) a (.s c) nb s = .next ((({ s with serial := s.serial + 1 }.start e
      { e.op s (some (4 + tok.toNat))
          (.decode form sg (nb.toNat + 1) (e.word a 0).toNat (e.word (.s c) 0).toNat d.val c.val e.sl.mask h.stall.toNat) with
        fpsr := form == 2,
        dests := (List.range ((nb.toNat + 1) * (64 / e.g.width))).map (fun i => (RegCls.v, d.val + i, e.sl.mask)) ++
          [(RegCls.s, c.val, e.sl.mask)] }).count e.core 0 1).hold e (.decode e.serial)) := by
  unfold decodeIssue
  rw [issue_ready hr]
  simp only [hl, hs, Bool.not_true, Bool.false_eq_true, if_false]
  exact finish_next hr.1

theorem decodeIssue_skips {form : Nat} {tok : BitVec 3} {sg : Bool} {d a c : Opd} {nb : BitVec 4}
    (hr : Ready s e h (decodeIssueChk tok d a c nb e)) (hl : e.lead h = false) :
    decodeIssue h form tok sg d a c nb s = .next (s.sIssued e h none) := by
  unfold decodeIssue
  rw [issue_ready hr]
  simp only [hl, Bool.not_false, if_true]
  rw [retire_none hr.2.1]
  exact finish_sIssued hr.1 none

end

/-- Settles O45: past its checks each starts its operation, and with a false guard it only goes on. -/
theorem engineOperationsStart : Obligations.EngineOperationsStart := by
  intro s e h
  refine ⟨fun tok ch a hi => ?chain, fun tok n slot res a b c hi => ?topk, fun tok fl slot a b hi => ?resid,
    fun tok sg d a c nb i form hor hi => ?decode, fun q d hi => ?bpop, fun slot a b bs hi => ?cbld⟩
  case chain =>
    have d : Does (.chain h tok ch a) s h _ _ := ⟨rfl, by change execChain h tok ch a s = _; unfold execChain; rfl⟩
    exact ⟨fun hl hs => d.starts hi (by simp only [hl, hs, Bool.not_true, Bool.false_eq_true, if_false]),
      fun hl => d.skips hi (by simp only [hl, Bool.not_false, if_true])⟩
  case topk =>
    have d : Does (.topk h tok n slot res a b c) s h _ _ :=
      ⟨rfl, by change execTopk h tok n slot res a b c s = _; unfold execTopk; rfl⟩
    refine ⟨fun hl hs hin hout => d.starts hi ?_, fun hl => d.skips hi (by simp only [hl, Bool.not_false, if_true])⟩
    have hin' : s.rangeCause e (e.word a 0).toNat (4 * (64 * (n.toNat + 1))) 8 = none := by rw [← Nat.mul_assoc]; exact hin
    simp only [hl, hs, hin', hout, Bool.not_true, Bool.false_eq_true, if_false]
  case resid =>
    have d : Does (.resid h tok fl slot a b) s h _ _ :=
      ⟨rfl, by change execResid h tok fl slot a b s = _; unfold execResid; rfl⟩
    exact ⟨fun hl hs hin => d.starts hi (by simp only [hl, hs, hin, Bool.not_true, Bool.false_eq_true, if_false]),
      fun hl => d.skips hi (by simp only [hl, Bool.not_false, if_true])⟩
  case decode =>
    have hx : i.checks? s = some (h, decodeIssueChk tok (.v d) a (.s c) nb) ∧
        exec i s = decodeIssue h form tok sg (.v d) a (.s c) nb s := by
      rcases hor with ⟨rfl, rfl⟩ | ⟨rfl, rfl⟩ | ⟨rfl, rfl⟩ <;> exact ⟨rfl, rfl⟩
    obtain ⟨k, hk, hr⟩ := hi
    cases hk.symm.trans hx.1
    exact ⟨fun hl hs => hx.2.trans (decodeIssue_starts hr hl hs), fun hl => hx.2.trans (decodeIssue_skips hr hl)⟩
  case bpop =>
    have d : Does (.bpop h q (.v d)) s h _ _ := ⟨rfl, by change execBpop h q (.v d) s = _; unfold execBpop; rfl⟩
    exact ⟨fun hl => d.starts hi (by simp only [hl, Bool.not_true, Bool.false_eq_true, if_false]),
      fun hl => d.skips hi (by simp only [hl, Bool.not_false, if_true])⟩
  case cbld =>
    have d : Does (.cbld h slot a b) s h _ _ := ⟨rfl, by change execCbld h slot a b s = _; unfold execCbld; rfl⟩
    intro adr
    refine ⟨fun hl hal hw hs hin hld => d.starts hi ?_, fun hl => d.skips hi (by simp only [hl, Bool.not_false, if_true])⟩
    obtain ⟨t, ht⟩ := Option.isSome_iff_exists.1 hin
    have hne : ¬ adr % 4 ≠ 0 := fun hn => hn hal
    simp only [adr] at hne hw ht hld
    simp only [hl, hne, hw, hs, ht, hld, Bool.not_true, Bool.or_false, Bool.false_eq_true, if_false]
    rfl

end Sys2Proof.Machine

/-! PROOFS, spec/10. The bytes of the cores' arrays: what a write of cells leaves in them, and that traps and the end of a launch leave
them as they were. -/

namespace Sys2Proof.Machine

/-! Little-endian numbers (spec/00 R6) -/

@[simp] theorem length_leBytes (n x : Nat) : (leBytes n x).length = n := by
  induction n generalizing x with
  | zero => rfl
  | succ n ih => exact congrArg (· + 1) (ih _)

theorem leNat_leBytes {n x : Nat} (hx : x < 256 ^ n) : leNat (leBytes n x) = x := by
  induction n generalizing x with
  | zero => exact (Nat.lt_one_iff.1 hx).symm
  | succ n ih =>
    have hq : x / 256 < 256 ^ n := Nat.div_lt_of_lt_mul (by rwa [← Nat.pow_succ'])
    rw [leBytes, leNat, ih hq, BitVec.toNat_ofNat]
    exact Nat.mod_add_div x 256

theorem mem_cellsFrom_bounds {t : Nat} {bs : List Byte} {c : Nat × Byte} (hc : c ∈ cellsFrom t bs) : t ≤ c.1 ∧ c.1 < t + bs.length := by
  induction bs generalizing t with
  | nil => cases hc
  | cons b bs ih =>
    rcases List.mem_cons.1 hc with rfl | hc
    · exact ⟨Nat.le_refl _, Nat.lt_add_of_pos_right (Nat.succ_pos _)⟩
    · have := ih hc
      exact ⟨by omega, by rw [List.length_cons]; omega⟩

/-! A write of cells -/

theorem State.core_modCore_ne (s : State) {c d : Nat} (f : Core → Core) (h : d ≠ c) : (s.modCore c f).core d = s.core d :=
  Tbl.lookD_put_ne s.cores Core.reset _ h

/-- What one byte written to an array leaves at each place. -/
theorem scrByte_modCore_array (s : State) (x : Nat) (b : Byte) (a : Nat) :
    (s.modCore (x / 2 ^ 20) (fun k => { k with array := k.array.putD 0 (x % 2 ^ 20) b })).scrByte a = if a = x then b else s.scrByte a := by
  unfold State.scrByte
  by_cases hc : a / 2 ^ 20 = x / 2 ^ 20
  · rw [hc, State.core_modCore]
    by_cases ho : a % 2 ^ 20 = x % 2 ^ 20
    · rw [if_pos (by omega), ho, Tbl.lookD_putD_self]
    · rw [if_neg (fun h => ho (by rw [h])), Tbl.lookD_putD_ne _ _ _ ho]
  · rw [if_neg (fun h => hc (by rw [h])), State.core_modCore_ne _ _ hc]

theorem scrByte_scrWrite_of_ne {cells : List (Nat × Byte)} {a : Nat} (h : ∀ c ∈ cells, a ≠ c.1) (s : State) :
    (s.scrWrite cells).scrByte a = s.scrByte a := by
  induction cells generalizing s with
  | nil => rfl
  | cons c cells ih =>
    refine (ih (fun d hd => h d (List.mem_cons_of_mem _ hd)) _).trans ?_
    rw [scrByte_modCore_array, if_neg (h c (List.mem_cons_self ..))]

/-- Bytes written from a place on are read there. -/
theorem scrBytes_scrWrite_cellsFrom (s : State) (t : Nat) (bs : List Byte) : (s.scrWrite (cellsFrom t bs)).scrBytes t bs.length = bs := by
  induction bs generalizing s t with
  | nil => rfl
  | cons b bs ih =>
    have hfirst : (s.scrWrite (cellsFrom t (b :: bs))).scrByte t = b := by
      refine (scrByte_scrWrite_of_ne (cells := cellsFrom (t + 1) bs) (fun c hc h => ?_) _).trans ?_
      · have := mem_cellsFrom_bounds hc
        omega
      · rw [scrByte_modCore_array, if_pos rfl]
    have hrest : (s.scrWrite (cellsFrom t (b :: bs))).scrBytes (t + 1) bs.length = bs := ih _ (t + 1)
    unfold State.scrBytes at hrest ⊢
    rw [List.length_cons, List.range_succ_eq_map, List.map_cons, List.map_map]
    refine List.cons_eq_cons.2 ⟨hfirst, (List.map_congr_left fun i _ => ?_).trans hrest⟩
    exact congrArg (State.scrByte _) (by rw [Nat.succ_eq_add_one]; omega)

/-! What leaves every array as it was -/

/-- The cores' arrays hold the same bytes. -/
structure SameArrays (s t : State) : Prop where
  scrByte : ∀ a, t.scrByte a = s.scrByte a

namespace SameArrays

theorem rfl {s : State} : SameArrays s s := ⟨fun _ => Eq.refl _⟩

theorem trans {s t u : State} (h : SameArrays s t) (k : SameArrays t u) : SameArrays s u :=
  ⟨fun a => (k.scrByte a).trans (h.scrByte a)⟩

theorem of_cores {s t : State} (h : t.cores = s.cores) : SameArrays s t :=
  ⟨fun a => by unfold State.scrByte State.core; rw [h]⟩

theorem ite {s t u : State} {p : Prop} [Decidable p] (h : SameArrays s t) (k : SameArrays s u) : SameArrays s (if p then t else u) := by
  split
  · exact h
  · exact k

theorem foldl {α : Type} {f : State → α → State} (hf : ∀ s a, SameArrays s (f s a)) (l : List α) (s : State) :
    SameArrays s (l.foldl f s) := by
  induction l generalizing s with
  | nil => exact rfl
  | cons a l ih => exact (hf s a).trans (ih _)

theorem groups {s t : State} (h : SameArrays s t) (x : Tbl Group) : SameArrays s { t with groups := x } := ⟨h.scrByte⟩
theorem ropes {s t : State} (h : SameArrays s t) (x : Tbl Rope) : SameArrays s { t with ropes := x } := ⟨h.scrByte⟩
theorem wgs {s t : State} (h : SameArrays s t) (x : Tbl Wg) : SameArrays s { t with wgs := x } := ⟨h.scrByte⟩
theorem cur {s t : State} (h : SameArrays s t) (x : Cur) : SameArrays s { t with cur := x } := ⟨h.scrByte⟩

end SameArrays

theorem sameArrays_modCore (s : State) (c : Nat) (f : Core → Core) (hf : ∀ k, (f k).array = k.array) : SameArrays s (s.modCore c f) := by
  refine ⟨fun a => ?_⟩
  unfold State.scrByte
  by_cases hc : a / 2 ^ 20 = c
  · rw [hc, State.core_modCore, hf]
  · rw [State.core_modCore_ne _ _ hc]

theorem sameArrays_modGroup (s : State) (c ctx : Nat) (f : Group → Group) : SameArrays s (s.modGroup c ctx f) := .of_cores rfl
theorem sameArrays_modSlot (s : State) (c ctx n : Nat) (f : Slot → Slot) : SameArrays s (s.modSlot c ctx n f) := .of_cores rfl
theorem sameArrays_modLaunch (s : State) (l : Nat) (f : Launch → Launch) : SameArrays s (s.modLaunch l f) := .of_cores rfl
theorem sameArrays_count (s : State) (u v n : Nat) : SameArrays s (s.count u v n) := .of_cores rfl

theorem Tbl.look_mapAll {α : Type} (t : Tbl α) (f : Nat → α → α) (k : Nat) : (t.mapAll f).look k = (t.look k).map (f k) := by
  induction t with
  | nil => rfl
  | cons x t ih =>
    change (if x.1 = k then some (f x.1 x.2) else Tbl.look (Tbl.mapAll t f) k) = (if x.1 = k then some x.2 else Tbl.look t k).map (f k)
    split
    · next h => rw [h]; rfl
    · exact ih

/-- A change of every listed core that keeps its array. -/
theorem sameArrays_mapAll (s : State) (f : Nat → Core → Core) (hf : ∀ c k, (f c k).array = k.array) :
    SameArrays s { s with cores := s.cores.mapAll f } := by
  have hc (c : Nat) : ((s.cores.mapAll f).lookD Core.reset c).array = (s.cores.lookD Core.reset c).array := by
    unfold Tbl.lookD
    rw [Tbl.look_mapAll]
    cases s.cores.look c with
    | none => rfl
    | some k => exact hf c k
  refine ⟨fun a => ?_⟩
  unfold State.scrByte State.core
  rw [hc]

theorem sameArrays_ringPut (s : State) (k : Nat) (r : List Byte) : SameArrays s (s.ringPut k r) :=
  .ite (.of_cores rfl) (.ite .rfl (sameArrays_count ..))

theorem sameArrays_report (s : State) (type cause asid : Nat) (faddr ffirst : DWord) (status flags stamp clk : Nat) :
    SameArrays s (s.report type cause asid faddr ffirst status flags stamp clk) := by
  unfold State.report
  exact .trans (t := { s with rptSeq := s.rptSeq + 1 }) (.of_cores rfl) (sameArrays_ringPut ..)

theorem sameArrays_fixThrottle (s : State) (c : Nat) : SameArrays s (s.fixThrottle c) := by
  unfold State.fixThrottle
  refine sameArrays_modCore s c _ fun k => ?_
  dsimp only
  repeat' split
  all_goals rfl

theorem sameArrays_removeGroup (s : State) (c ctx : Nat) : SameArrays s (s.removeGroup c ctx) := by
  unfold State.removeGroup
  split
  · exact .rfl
  · refine .trans (.groups ?_ _) (sameArrays_fixThrottle ..)
    refine .trans (sameArrays_modCore s c _ fun k => ?_) (.ite .rfl (.wgs .rfl _))
    rfl

theorem sameArrays_lowerBoundary (s : State) (c : Nat) : SameArrays s (s.lowerBoundary c) := by
  unfold State.lowerBoundary
  exact sameArrays_modCore s c _ fun _ => rfl

theorem sameArrays_removeWgs (s : State) (p : Nat → Wg → Bool) : SameArrays s (s.removeWgs p) := by
  unfold State.removeWgs
  exact (SameArrays.rfl.wgs _).trans (.foldl (fun s c => sameArrays_lowerBoundary s c) _ _)

theorem sameArrays_endLaunch (s : State) (l status cause : Nat) (faddr ffirst : DWord) (flags stamp clk : Nat) :
    SameArrays s (s.endLaunch l status cause faddr ffirst flags stamp clk) := by
  unfold State.endLaunch
  split
  · exact .rfl
  · refine .ite .rfl ?_
    refine .trans ?_ (sameArrays_modLaunch ..)
    refine .trans ?_ (sameArrays_mapAll _ _ fun c k => ?bob)
    refine .trans (.ropes ?_ _) (sameArrays_removeWgs ..)
    refine .trans ?_ (.foldl (fun s g => sameArrays_removeGroup s _ _) _ _)
    refine .trans ?_ (sameArrays_mapAll _ _ fun _ _ => rfl)
    case bob => split <;> rfl
    exact .ite (sameArrays_report ..) .rfl

theorem sameArrays_takeTrap (s : State) (c ctx n cause : Nat) (mask faddr ffirst : DWord) (atHeader isMem : Bool) :
    SameArrays s (s.takeTrap c ctx n cause mask faddr ffirst atHeader isMem) := by
  unfold State.takeTrap
  split
  · exact .rfl
  · next g _ =>
    have hnest (k : Nat) : SameArrays s (s.countNest k) := .ite (sameArrays_count ..) .rfl
    have hregs (k : Nat) (f : Group → Group) : SameArrays s (((s.countNest k).forget g.uid n).modGroup c ctx f) :=
      (hnest k).trans (.of_cores rfl)
    have hend {k : Nat} {f : Group → Group} {l st ca : Nat} {fa ff : DWord} {fl sm ck : Nat} :
        SameArrays s ((((s.countNest k).forget g.uid n).modGroup c ctx f).endLaunch l st ca fa ff fl sm ck) :=
      (hregs k f).trans (sameArrays_endLaunch ..)
    exact .ite hend (.ite hend (.ite hend (.ite hend ((hregs _ _).trans (sameArrays_modGroup ..)))))

theorem sameArrays_trapSlot (s : State) (c ctx n cause len : Nat) (mask faddr ffirst : DWord) :
    SameArrays s (s.trapSlot c ctx n cause len mask faddr ffirst) :=
  ((SameArrays.rfl.cur _).trans (sameArrays_takeTrap ..)).cur _

end Sys2Proof.Machine

/-! PROOFS, spec/10. A barrier object's transitions on the bytes that hold it (R268, R269). -/

namespace Sys2Proof.Machine

/-! The fields of an object and its four words (R268) -/

/-- The object whose four words make this number. -/
def BarObj.ofNum (x : Nat) : BarObj :=
  ⟨bits x 0 16, bits x 16 16, bits x 32 28, x.testBit 61, x.testBit 63, bits x 64 32⟩

/-- An object's four words as a number, with the reserved bits of x. -/
def BarObj.num (o : BarObj) (x : Nat) : Nat :=
  o.expArr + 2 ^ 16 * o.parr + 2 ^ 32 * o.pbytes + 2 ^ 60 * bits x 60 1 + (if o.poison then 2 ^ 61 else 0) + 2 ^ 62 * bits x 62 1 +
    (if o.phase then 2 ^ 63 else 0) + 2 ^ 64 * o.pcount + 2 ^ 96 * bits x 96 32

/-- An object's values fit its fields. -/
structure BarObj.Fits (o : BarObj) : Prop where
  expArr : o.expArr < 2 ^ 16
  parr   : o.parr < 2 ^ 16
  pbytes : o.pbytes < 2 ^ 28
  pcount : o.pcount < 2 ^ 32

theorem State.obj_eq (s : State) (t : Nat) : s.obj t = .ofNum (leNat (s.scrBytes t 16)) := rfl

theorem State.setObj_eq (s : State) (t : Nat) (o : BarObj) :
    s.setObj t o = s.scrWrite (cellsFrom t (leBytes 16 (o.num (leNat (s.scrBytes t 16))))) := rfl

theorem bits_lt (x lo n : Nat) : bits x lo n < 2 ^ n := Nat.mod_lt _ (Nat.two_pow_pos n)

theorem BarObj.fits_ofNum (x : Nat) : (ofNum x).Fits := ⟨bits_lt .., bits_lt .., bits_lt .., bits_lt ..⟩

theorem BarObj.num_lt {o : BarObj} (h : o.Fits) (x : Nat) : o.num x < 256 ^ 16 := by
  obtain ⟨he, hp, hb, hc⟩ := h
  have h60 := bits_lt x 60 1
  have h62 := bits_lt x 62 1
  have h96 := bits_lt x 96 32
  unfold BarObj.num
  split <;> split <;> omega

theorem ite_pow_eq_mul_toNat (b : Bool) (k : Nat) : (if b then 2 ^ k else 0) = 2 ^ k * b.toNat := by
  cases b
  · rfl
  · exact (Nat.mul_one _).symm

theorem testBit_eq_of_toNat {x k : Nat} {b : Bool} (h : x / 2 ^ k % 2 = b.toNat) : x.testBit k = b := by
  rw [Nat.testBit_eq_decide_div_mod_eq, h]
  cases b <;> rfl

theorem BarObj.ofNum_num {o : BarObj} (h : o.Fits) (x : Nat) : ofNum (o.num x) = o := by
  obtain ⟨e, p, b, poison, phase, c⟩ := o
  obtain ⟨he, hp, hb, hc⟩ := h
  have hx := poison.toNat_lt
  have hy := phase.toNat_lt
  have h60 := bits_lt x 60 1
  have h62 := bits_lt x 62 1
  have h96 := bits_lt x 96 32
  simp only [ofNum, num, ite_pow_eq_mul_toNat, mk.injEq] at *
  generalize bits x 60 1 = r at *
  generalize bits x 62 1 = q at *
  generalize bits x 96 32 = z at *
  unfold bits
  refine ⟨?_, ?_, ?_, testBit_eq_of_toNat ?_, testBit_eq_of_toNat ?_, ?_⟩
  all_goals omega

/-- Words written to an object are read there. -/
theorem State.obj_setObj (s : State) (t : Nat) {o : BarObj} (h : o.Fits) : (s.setObj t o).obj t = o := by
  have hr := scrBytes_scrWrite_cellsFrom s t (leBytes 16 (o.num (leNat (s.scrBytes t 16))))
  rw [length_leBytes] at hr
  rw [State.obj_eq, State.setObj_eq, hr, leNat_leBytes (BarObj.num_lt h _), BarObj.ofNum_num h]

/-! The table of R269 -/

section
variable {o : BarObj}

theorem BarObj.settled_of_pending (h : ¬(o.parr = 0 ∧ o.pbytes = 0)) : o.settled = o := if_neg h

theorem BarObj.after_of_poison (h : o.poison = true) :
    (∀ n, o.after (.arrive n) = o) ∧ (∀ n, o.after (.expect n) = o) ∧ ∀ n, o.after (.credit n) = o :=
  ⟨fun _ => if_pos h, fun _ => if_pos h, fun _ => if_pos h⟩

variable (hg : o.poison = false) {n : Nat}
include hg

theorem BarObj.after_arrive_of_le (h : n ≤ o.parr) : o.after (.arrive n) = { o with parr := o.parr - n }.settled := by
  simp only [BarObj.after, hg, h, Bool.false_eq_true, if_false, if_true]

theorem BarObj.after_arrive_of_lt (h : o.parr < n) : o.after (.arrive n) = { o with poison := true } := by
  simp only [BarObj.after, hg, Nat.not_le.2 h, Bool.false_eq_true, if_false]

theorem BarObj.after_expect_of_lt (h : o.pbytes + n < 2 ^ 28) : o.after (.expect n) = { o with pbytes := o.pbytes + n } := by
  simp only [BarObj.after, hg, h, Bool.false_eq_true, if_false, if_true]

theorem BarObj.after_expect_of_le (h : 2 ^ 28 ≤ o.pbytes + n) : o.after (.expect n) = { o with poison := true } := by
  simp only [BarObj.after, hg, Nat.not_lt.2 h, Bool.false_eq_true, if_false]

theorem BarObj.after_credit_of_le (h : n ≤ o.pbytes) : o.after (.credit n) = { o with pbytes := o.pbytes - n }.settled := by
  simp only [BarObj.after, hg, h, Bool.false_eq_true, if_false, if_true]

theorem BarObj.after_credit_of_lt (h : o.pbytes < n) : o.after (.credit n) = { o with poison := true } := by
  simp only [BarObj.after, hg, Nat.not_le.2 h, Bool.false_eq_true, if_false]

theorem BarObj.after_arrive_of_pending (h : n ≤ o.parr) (hd : ¬(o.parr = n ∧ o.pbytes = 0)) :
    o.after (.arrive n) = { o with parr := o.parr - n } := by
  rw [after_arrive_of_le hg h]
  exact settled_of_pending fun ⟨hp, hb⟩ => hd ⟨Nat.le_antisymm (Nat.sub_eq_zero_iff_le.1 hp) h, hb⟩

theorem BarObj.after_credit_of_pending (h : n ≤ o.pbytes) (hd : ¬(o.pbytes = n ∧ o.parr = 0)) :
    o.after (.credit n) = { o with pbytes := o.pbytes - n } := by
  rw [after_credit_of_le hg h]
  exact settled_of_pending fun ⟨hp, hb⟩ => hd ⟨Nat.le_antisymm (Nat.sub_eq_zero_iff_le.1 hb) h, hp⟩

theorem BarObj.after_last_arrival (hb : o.pbytes = 0) : o.after (.arrive o.parr) =
    { o with parr := o.expArr, phase := o.pcount % 2 == 0, pcount := (o.pcount + 1) % 2 ^ 32 } := by
  rw [after_arrive_of_le hg (Nat.le_refl _)]
  exact if_pos ⟨Nat.sub_self _, hb⟩

theorem BarObj.after_last_credit (hp : o.parr = 0) : o.after (.credit o.pbytes) =
    { o with pbytes := 0, parr := o.expArr, phase := o.pcount % 2 == 0, pcount := (o.pcount + 1) % 2 ^ 32 } := by
  rw [after_credit_of_le hg (Nat.le_refl _), Nat.sub_self]
  exact if_pos ⟨hp, rfl⟩

end

/-! An event on the bytes (R269) -/

theorem sameArrays_wakeObj (s : State) (t : Nat) (bad : Bool) : SameArrays s (s.wakeObj t bad) := by
  unfold State.wakeObj
  refine .foldl (fun s x => .foldl (fun s n => ?_) _ _) _ _
  dsimp only
  split
  · exact .rfl
  · exact .ite (sameArrays_trapSlot ..) (sameArrays_modSlot ..)

theorem SameArrays.obj {s u : State} (h : SameArrays s u) (t : Nat) : u.obj t = s.obj t := by
  simp only [State.obj_eq, State.scrBytes, h.scrByte]

theorem State.fits_obj (s : State) (t : Nat) : (s.obj t).Fits := BarObj.fits_ofNum _

theorem BarObj.fits_settled {o : BarObj} (h : o.Fits) : o.settled.Fits := by
  obtain ⟨he, hp, hb, hc⟩ := h
  unfold BarObj.settled
  split
  · exact ⟨he, he, hb, Nat.mod_lt _ (Nat.two_pow_pos _)⟩
  · exact ⟨he, hp, hb, hc⟩

/-- The expected count an event sets fits its field. -/
def BarEvent.Fits : BarEvent → Prop
  | .init e => e < 2 ^ 16
  | _ => True

theorem BarObj.fits_ite {p : Prop} [Decidable p] {x y : BarObj} (hx : p → x.Fits) (hy : y.Fits) : (if p then x else y).Fits := by
  split
  · exact hx ‹_›
  · exact hy

theorem BarObj.fits_after {o : BarObj} (h : o.Fits) {v : BarEvent} (hv : v.Fits) : (o.after v).Fits := by
  have ⟨he, hp, hb, hc⟩ := h
  have hzero (k : Nat) : 0 < 2 ^ k := Nat.two_pow_pos k
  have hbad : ({ o with poison := true } : BarObj).Fits := ⟨he, hp, hb, hc⟩
  cases v with
  | init e => exact ⟨hv, hv, hzero _, hzero _⟩
  | inval => exact ⟨hzero _, hzero _, hzero _, hzero _⟩
  | arrive n => exact fits_ite (fun _ => h) (fits_ite (fun _ => fits_settled ⟨he, Nat.lt_of_le_of_lt (Nat.sub_le o.parr n) hp, hb, hc⟩) hbad)
  | expect m => exact fits_ite (fun _ => h) (fits_ite (fun hm => ⟨he, hp, hm, hc⟩) hbad)
  | credit m => exact fits_ite (fun _ => h) (fits_ite (fun _ => fits_settled ⟨he, hp, Nat.lt_of_le_of_lt (Nat.sub_le o.pbytes m) hb, hc⟩) hbad)

/-- BINIT's and BINVAL's events write all the words of an object, reserved bits and all. -/
def BarEvent.clears : BarEvent → Bool
  | .init _ => true
  | .inval => true
  | _ => false

theorem State.objEvent_of_clears (s : State) (t : Nat) {v : BarEvent} (hv : v.clears = true) :
    SameArrays ((s.scrWrite (cellsFrom t (leBytes 16 0))).setObj t ((s.obj t).after v)) (s.objEvent t v) := by
  cases v with
  | init e => exact .rfl
  | inval => exact sameArrays_wakeObj ..
  | arrive n => cases hv
  | expect m => cases hv
  | credit m => cases hv

/-- The other events leave an object that ignores them, and write one that does not. -/
theorem State.objEvent_of_counts (s : State) (t : Nat) {v : BarEvent} (hv : v.clears = false) : s.objEvent t v =
    if (s.obj t).after v = s.obj t then s
    else if ((s.obj t).after v).poison || ((s.obj t).after v).pcount != (s.obj t).pcount then
      (s.setObj t ((s.obj t).after v)).wakeObj t ((s.obj t).after v).poison
    else s.setObj t ((s.obj t).after v) := by
  cases v with
  | init e => cases hv
  | inval => cases hv
  | arrive n => rfl
  | expect m => rfl
  | credit m => rfl

theorem State.objEvent_of_after_eq {s : State} {t : Nat} {v : BarEvent} (hv : v.clears = false) (h : (s.obj t).after v = s.obj t) :
    s.objEvent t v = s := by
  rw [s.objEvent_of_counts t hv, if_pos h]

theorem State.objEvent_of_after_ne {s : State} {t : Nat} {v : BarEvent} (hv : v.clears = false) (h : (s.obj t).after v ≠ s.obj t) :
    SameArrays (s.setObj t ((s.obj t).after v)) (s.objEvent t v) := by
  rw [s.objEvent_of_counts t hv, if_neg h]
  exact .ite (sameArrays_wakeObj ..) .rfl

/-- An event leaves the arrays as they were and the object ignores it, or as writing the object does, its words cleared first or not. -/
theorem State.objEvent_cases (s : State) (t : Nat) (v : BarEvent) :
    (s.objEvent t v = s ∧ (s.obj t).after v = s.obj t) ∨
      ∃ u, (u = s ∨ u = s.scrWrite (cellsFrom t (leBytes 16 0))) ∧ SameArrays (u.setObj t ((s.obj t).after v)) (s.objEvent t v) := by
  cases hv : v.clears with
  | true => exact .inr ⟨_, .inr rfl, s.objEvent_of_clears t hv⟩
  | false =>
    by_cases h : (s.obj t).after v = s.obj t
    · exact .inl ⟨State.objEvent_of_after_eq hv h, h⟩
    · exact .inr ⟨s, .inl rfl, State.objEvent_of_after_ne hv h⟩

/-- What an event leaves reads back as the table of R269 gives it. -/
theorem State.obj_objEvent (s : State) (t : Nat) {v : BarEvent} (hv : v.Fits) : (s.objEvent t v).obj t = (s.obj t).after v := by
  rcases s.objEvent_cases t v with ⟨hs, ho⟩ | ⟨u, -, hu⟩
  · rw [hs, ho]
  · rw [hu.obj, State.obj_setObj _ _ (BarObj.fits_after (s.fits_obj t) hv)]

/-- An event writes no byte but the object's sixteen. -/
theorem State.scrByte_objEvent_of_ne (s : State) {t a : Nat} (v : BarEvent) (ha : ∀ j, j < 16 → a ≠ t + j) :
    (s.objEvent t v).scrByte a = s.scrByte a := by
  have hcells (x : Nat) : ∀ c ∈ cellsFrom t (leBytes 16 x), a ≠ c.1 := fun c hc h => by
    have := mem_cellsFrom_bounds hc
    rw [length_leBytes] at this
    exact ha (c.1 - t) (by omega) (by omega)
  rcases s.objEvent_cases t v with ⟨hs, -⟩ | ⟨u, hor, hu⟩
  · rw [hs]
  · rw [hu.scrByte, State.setObj_eq, scrByte_scrWrite_of_ne (hcells _)]
    rcases hor with rfl | rfl
    · rfl
    · exact scrByte_scrWrite_of_ne (hcells 0) s

/-- Settles O14: an event's bytes are those of the table's object, and the table is BarObj.after. -/
theorem barrierObjectTransitions : Obligations.BarrierObjectTransitions := by
  rintro s t o rfl -
  have hread {v : BarEvent} {o' : BarObj} (hv : v.Fits) (h : (s.obj t).after v = o') : (s.objEvent t v).obj t = o' :=
    (s.obj_objEvent t hv).trans h
  refine ⟨fun e he => hread he rfl, hread trivial rfl, fun hp n => ?poisoned, fun hg => ?used, fun v a => s.scrByte_objEvent_of_ne v⟩
  case poisoned =>
    obtain ⟨ha, he, hc⟩ := BarObj.after_of_poison hp
    exact ⟨State.objEvent_of_after_eq rfl (ha n), State.objEvent_of_after_eq rfl (he n), State.objEvent_of_after_eq rfl (hc n)⟩
  case used =>
    exact ⟨fun n hn hd => hread trivial (BarObj.after_arrive_of_pending hg hn hd),
      fun hb => hread trivial (BarObj.after_last_arrival hg hb), fun n hn => hread trivial (BarObj.after_arrive_of_lt hg hn),
      fun m hm => hread trivial (BarObj.after_expect_of_lt hg hm), fun m hm => hread trivial (BarObj.after_expect_of_le hg hm),
      fun m hm hd => hread trivial (BarObj.after_credit_of_pending hg hm hd), fun hp => hread trivial (BarObj.after_last_credit hg hp),
      fun m hm => hread trivial (BarObj.after_credit_of_lt hg hm)⟩

end Sys2Proof.Machine

/-! PROOFS, spec/10, spec/12. Instructions on barrier objects, and the workgroup and rope barriers (R269 to R271, R294). -/

namespace Sys2Proof.Machine

/-- The guard is true in the leading lane, A names an object at t, and nothing of the group's to its bytes is still on its way. -/
structure State.AtObject (s : State) (e : Env) (h : Hdr) (a : Opd) (t : Nat) : Prop where
  lead    : e.lead h = true
  place   : s.objPlace e (e.word a 0).toNat = .inl t
  scratch : s.scratchWaits e (e.word a 0).toNat 16 = false
  sibling : e.siblingPends = false

/-- The instruction's meaning is the course of an instruction on the object A names, with these checks and this effect. -/
def OnObject (i : Instr) (s : State) (h : Hdr) (a : Opd) (mem : Bool) (chk : Env → Chk) (eff : Env → Nat → State → State) : Prop :=
  i.checks? s = some (h, onObjectChk a chk) ∧ exec i s = onObject h a mem chk eff s

section
variable {i : Instr} {s : State} {e : Env} {h : Hdr} {a : Opd} {mem : Bool} {chk : Env → Chk} {eff : Env → Nat → State → State} {t : Nat}

/-- Outside base camp it comes to its effect at the object's place. -/
theorem OnObject.next (d : OnObject i s h a mem chk eff) (hd : i.setsDevice = false) (hb : s.baseCamp = false) (ho : s.AtObject e h a t)
    (hi : i.Issues s e h) (hm : mem = true → e.hasLaunched = true) {u : State} (hu : eff e t s = u) : exec i s = .next u := by
  refine Does.next_run d hi hd hb ?_
  have hskip : (mem && !e.hasLaunched) = false := by
    cases mem with
    | false => rfl
    | true => rw [hm rfl]; rfl
  simp only [ho.lead, hskip, ho.place, ho.scratch, ho.sibling, Bool.not_true, Bool.or_self, Bool.false_eq_true, if_false, hu]

/-- One that needs a launched lane goes on without one. -/
theorem OnObject.skips (d : OnObject i s h a true chk eff) (hi : i.Issues s e h) (hl : e.hasLaunched = false) :
    exec i s = .next (s.sIssued e h none) := by
  refine Does.skips d hi ?_
  simp only [hl, Bool.not_false, Bool.and_self, Bool.or_true, if_true]

theorem OnObject.next_or_skips (d : OnObject i s h a true chk eff) (hd : i.setsDevice = false) (hb : s.baseCamp = false)
    (ho : s.AtObject e h a t) (hi : i.Issues s e h) :
    exec i s = .next (if e.hasLaunched then eff e t s else s.sIssued e h none) := by
  split
  · next hl => exact d.next hd hb ho hi (fun _ => hl) rfl
  · next hl => exact d.skips hi (Bool.eq_false_iff.2 hl)

end

section
variable (h : Hdr) (a : Opd) (b : SrcB) (s : State)

theorem binit_onObject : OnObject (.binit h a b) s h a true (chkBinit h b) (fun e t s => (s.objEvent t (.init (e.sval b))).retire e h) :=
  ⟨rfl, by change execBinit h a b s = _; unfold execBinit; rfl⟩

theorem bexp_onObject : OnObject (.bexp h a b) s h a true (chkBexp b) (fun e t s => (s.objEvent t (.expect (e.sval b))).retire e h) :=
  ⟨rfl, by change execBexp h a b s = _; unfold execBexp; rfl⟩

theorem binval_onObject : OnObject (.binval h a) s h a true (fun _ => {}) (fun e t s => (s.objEvent t .inval).retire e h) :=
  ⟨rfl, by change execBinval h a s = _; unfold execBinval; rfl⟩

end

/-- What BARV writes: with RD, PCOUNT as it was just before the arrival. -/
def State.barvWrites (s : State) (t : Nat) (rd : Bool) : Opd → List RegWrite
  | .s r => if rd then [⟨.s, r.val, 0, BitVec.ofNat 32 (s.obj t).pcount⟩] else []
  | _ => []

theorem State.barvWrites_of_not_read (s : State) (t : Nat) (d : Opd) : s.barvWrites t false d = [] := by
  cases d <;> rfl

theorem State.barvWrites_of_read (s : State) (t : Nat) (r : Fin 64) :
    s.barvWrites t true (.s r) = [⟨.s, r.val, 0, BitVec.ofNat 32 (s.obj t).pcount⟩] := rfl

/-- BARV's arrival: of no lanes it is none. -/
def State.arriveAt (s : State) (t n : Nat) : State := if n = 0 then s else s.objEvent t (.arrive n)

section
variable {s : State} {e : Env} {h : Hdr} {a : Opd} {t : Nat} (hb : s.baseCamp = false) (ho : s.AtObject e h a t)
include hb ho

section
variable {rd : Bool} {sc : BitVec 3} {d : Opd} {b : SrcB} (hi : (Instr.barv h rd sc d a b).Issues s e h) (hl : e.hasLaunched = true)
  (hr : s.release e sc.toNat (decide (3 ≤ sc.toNat)) = .go)
include hi hl hr

theorem exec_barv : exec (.barv h rd sc d a b) s =
    .next (((if s.barvWrites t rd d = [] then s else s.dataWrite e h (s.barvWrites t rd d)).arriveAt t (e.sval b)).retire e h) := by
  have d : OnObject (.barv h rd sc d a b) s h a true _ _ := ⟨rfl, by change execBarv h rd sc d a b s = _; unfold execBarv; rfl⟩
  refine d.next rfl hb ho hi (fun _ => hl) ?_
  simp only [hr]
  rfl

theorem exec_barv_silent (hw : s.barvWrites t rd d = []) :
    exec (.barv h rd sc d a b) s = .next ((s.arriveAt t (e.sval b)).retire e h) := by
  rw [exec_barv hb ho hi hl hr, if_pos hw]

theorem exec_barv_writes {w : RegWrite} (hw : s.barvWrites t rd d = [w]) :
    exec (.barv h rd sc d a b) s = .next (((s.dataWrite e h [w]).arriveAt t (e.sval b)).retire e h) := by
  rw [exec_barv hb ho hi hl hr, hw, if_neg (List.cons_ne_nil _ _)]

end

theorem exec_btry {sc : BitVec 3} {r : Fin 96} {b : Opd} (hi : (Instr.btry h sc (.p r) a b).Issues s e h) :
    let passed := (s.obj t).pcount != (e.word b 0).toNat
    let s1 := s.dataWrite e h ((e.active h).map (fun l => ⟨.p, r.val, l, if passed then 1 else 0⟩))
    exec (.btry h sc (.p r) a b) s = .next (if (s.obj t).poison then s.trapAt e 19 e.sl.mask ((e.word a 0).setWidth 64)
      else (if passed then s1.acquire e.core e.ctx sc.toNat else s1).retire e h) := by
  have d : OnObject (.btry h sc (.p r) a b) s h a false _ _ := ⟨rfl, by change execBtry h sc (.p r) a b s = _; unfold execBtry; rfl⟩
  refine d.next rfl hb ho hi nofun ?_
  simp only [List.map_eq_flatMap]

theorem exec_bwait {sc : BitVec 3} {b : Opd} (hi : (Instr.bwait h sc a b).Issues s e h) :
    exec (.bwait h sc a b) s = .next (if e.sl.bpast then (s.acquire e.core e.ctx sc.toNat).retire e h
      else if (s.obj t).poison then s.trapAt e 19 e.sl.mask ((e.word a 0).setWidth 64)
      else if (s.obj t).pcount = (e.word b 0).toNat then s.hold e (.bwait t (e.word a 0).toNat (e.word b 0).toNat)
      else (s.acquire e.core e.ctx sc.toNat).retire e h) :=
  have d : OnObject (.bwait h sc a b) s h a false _ _ := ⟨rfl, by change execBwait h sc a b s = _; unfold execBwait; rfl⟩
  d.next rfl hb ho hi nofun rfl

end

/-! Workgroup and rope barriers (R271, R294) -/

/-- The slot's lanes have arrived at barrier key k, where the slot waits: its rounds that are complete have been ended. -/
def State.arrivedAt (s : State) (e : Env) (h : Hdr) (k : Nat) (w : Wait) : State :=
  ((((s.opIssued e h (e.op s (e.flag h) .barrier)).modGroup e.core e.ctx (fun g =>
    { g with arrived := g.arrived.putD 0 k (g.arrived.lookD 0 k ||| e.sl.mask) })).modSlot e.core e.ctx e.n (fun sl =>
    { sl with wait := w, afterBarwg := decide (k < 4) })).checkBarriers e.g.wg)

/-- With a true guard and its release done, a slot arrives. -/
theorem State.arriveBarrier_go {s : State} {e : Env} {h : Hdr} (he : s.env? = some e) (hl : e.lead h = true) {k scope : Nat} {belay : Bool}
    (hr : s.release e scope belay = .go) (w : Wait) : s.arriveBarrier h e k scope belay w = s.arrivedAt e h k w := by
  unfold State.arriveBarrier
  simp only [hl, hr, Bool.not_true, Bool.false_eq_true, if_false]
  rw [State.start_retire_eq he]
  rfl

section
variable {s : State} {e : Env} {h : Hdr} (hb : s.baseCamp = false) (hl : e.lead h = true)
include hb hl

theorem exec_barwg {n : BitVec 2} {sc : BitVec 3} (hi : (Instr.barwg h n sc).Issues s e h)
    (hr : s.release e sc.toNat (decide (3 ≤ sc.toNat)) = .go) :
    exec (.barwg h n sc) s = .next (s.arrivedAt e h n.toNat (.barwg n.toNat sc.toNat)) :=
  have d : Does (.barwg h n sc) s h _ _ := ⟨rfl, by change execBarwg h n sc s = _; unfold execBarwg; rfl⟩
  d.next_run hi rfl hb (State.arriveBarrier_go (d.ready hi).2.1 hl hr _)

theorem exec_barrp {n : BitVec 2} (hi : (Instr.barrp h n).Issues s e h) (hr : s.release e 3 true = .go) :
    exec (.barrp h n) s = .next (s.arrivedAt e h (4 + n.toNat) (.barrp n.toNat)) :=
  have d : Does (.barrp h n) s h _ _ := ⟨rfl, by change execBarrp h n s = _; unfold execBarrp; rfl⟩
  d.next_run hi rfl hb (State.arriveBarrier_go (d.ready hi).2.1 hl hr _)

end

/-- Settles O39: an instruction on an object is its effect at the object's place, and a barrier's is the slot's arrival. -/
theorem barrierObjectInstructions : Obligations.BarrierObjectInstructions := by
  refine ⟨fun s e h a t hl hb hp hw hs => ?objects, fun s e h hl hb => ⟨fun n sc hi hr => exec_barwg hb hl hi hr,
    fun n hi hr => exec_barrp hb hl hi hr⟩⟩
  case objects =>
    have ho : s.AtObject e h a t := ⟨hl, hp, hw, hs⟩
    refine ⟨fun b hi => (binit_onObject h a b s).next_or_skips rfl hb ho hi,
      fun b hi => (bexp_onObject h a b s).next_or_skips rfl hb ho hi, fun hi => (binval_onObject h a s).next_or_skips rfl hb ho hi,
      fun sc d b hi hn hr => exec_barv_silent hb ho hi hn hr (s.barvWrites_of_not_read t d),
      fun sc r b hi hn hr => exec_barv_writes hb ho hi hn hr (s.barvWrites_of_read t r),
      fun sc r b hi => ⟨fun hg => ?btry, fun hx => ?btryBad⟩,
      fun sc b hi => ⟨fun hor => ?pass, fun hn hg hq => ?wait, fun hn hx => ?bad⟩⟩
    case btry => rw [exec_btry hb ho hi, hg]; rfl
    case btryBad => rw [exec_btry hb ho hi, hx]; rfl
    case pass =>
      rw [exec_bwait hb ho hi]
      rcases hor with hp | ⟨hg, hq⟩
      · rw [hp]; rfl
      · rw [hg, if_neg Bool.false_ne_true, if_neg hq, ite_self]
    case wait => rw [exec_bwait hb ho hi, hn, hg, if_neg Bool.false_ne_true, if_neg Bool.false_ne_true, if_pos hq]
    case bad => rw [exec_bwait hb ho hi, hn, hx, if_neg Bool.false_ne_true, if_pos rfl]

end Sys2Proof.Machine

/-! PROOFS, spec/10. Tensor copies read their records, pass the checks of R259 to R264 and start. -/

namespace Sys2Proof

open Machine

/-- An instruction that issues is ready by its own checks. -/
theorem Instr.Issues.ready {i : Instr} {s : State} {e : Env} {h : Hdr} {chk : Env → Chk} (hi : i.Issues s e h)
    (hc : i.checks? s = some (h, chk)) : Ready s e h (chk e) := by
  obtain ⟨k, hk, hr⟩ := hi
  cases hk.symm.trans hc
  exact hr

end Sys2Proof

namespace Sys2Proof.Machine

/-- A record that is read at once and passes R259's checks is what the instruction goes on with. -/
theorem State.getRecord_go {s s1 : State} {e : Env} {va : DWord} {r : Layout} (hd : s.noStores e) (hr : RecordAt s e va s1 r)
    (f : Option Nat) (go : State → Layout → State) : s.getRecord e f va go = go s1 r := by
  obtain ⟨bs, ⟨hread, -, -⟩, hfirst, hcause, rfl⟩ := hr
  unfold State.noStores at hd
  simp only [State.getRecord, hd, hread, State.oneLane, hfirst, hcause, Bool.not_true, Bool.false_eq_true, if_false]

/-- After its record is read the machine runs on, and the stream is as it was. -/
theorem RecordAt.runs {s s1 : State} {e : Env} {va : DWord} {r : Layout} (hr : RecordAt s e va s1 r) :
    s1.stuck = none ∧ s1.env? = some e := by
  obtain ⟨-, ⟨-, hs, he⟩, -⟩ := hr
  exact ⟨hs, he⟩

/-- A copy of a box that its records, its destination and its barrier object's address allow (R260 to R264). -/
structure State.CopyFits (s : State) (e : Env) (ws : List Word) (barA o : Option Nat) (k : CopyOp) : Prop where
  box     : boxBad k.data ws = false
  even    : k.data.ebn = 1 → k.kind ≠ 2 → k.coord.headD 0 % 2 = 0
  adds    : k.kind = 3 → k.data.adds = true
  index   : ∀ i, k.index = some i → indirectBad i k.data ws = false
  aligned : k.dst % (if k.data.swz = 0 then 16 else 128) = 0
  window  : (s.window e.g.wg k.dst k.size).isSome = true
  barrier : (barA = none ∧ o = none) ∨ ∃ a t, barA = some a ∧ s.objPlace e a = .inl t ∧ o = some t

section
variable {s : State} {e : Env} {h : Hdr} {ws : List Word} {barA o : Option Nat} {k : CopyOp}

theorem State.CopyFits.not_odd (hk : s.CopyFits e ws barA o k) :
    (k.data.ebn == 1 && k.kind != 2 && (k.coord.headD 0) % 2 != 0) = false := by
  rw [Bool.eq_false_iff]
  simp only [ne_eq, Bool.and_eq_true, beq_iff_eq, bne_iff_ne]
  exact fun ⟨⟨h1, h2⟩, h3⟩ => h3 (hk.even h1 h2)

theorem State.CopyFits.not_unaddable (hk : s.CopyFits e ws barA o k) : (k.kind == 3 && !k.data.adds) = false := by
  rw [Bool.and_eq_false_imp, beq_iff_eq]
  exact fun h3 => by rw [hk.adds h3]; rfl

/-- A copy that fits is in flight, with its token raised. -/
theorem State.startCopy_go (he : s.env? = some e) (hk : s.CopyFits e ws barA o k) (tok : Nat) :
    s.startCopy e h tok k ws barA = s.opIssued e h (e.op s (some (4 + tok)) (.copy { k with bar := o })) := by
  unfold State.startCopy
  refine (if_neg ?checks).trans ((if_neg (not_not_intro hk.aligned)).trans ((if_neg ?window).trans ?start))
  case checks =>
    rw [hk.box, hk.not_odd, hk.not_unaddable, Bool.false_or, Bool.false_or, Bool.false_or]
    split
    · next i hi => rw [hk.index i hi]; exact Bool.false_ne_true
    · exact Bool.false_ne_true
  case window =>
    rw [← Option.not_isSome, hk.window]
    exact Bool.false_ne_true
  case start =>
    obtain ⟨rfl, rfl⟩ | ⟨a, t, rfl, hp, rfl⟩ := hk.barrier
    · exact State.start_retire_eq he h _
    · dsimp only
      rw [hp]
      exact State.start_retire_eq he h _

end

/-! The instructions -/

section
variable {s s1 s2 : State} {e : Env} {h : Hdr} {tok : BitVec 3} {bar : Bool} {d a c : Opd} {b : Fin 64} {off : BitVec 23}
  {r r2 : Layout} {o : Option Nat}

/-- The operation of a copy by these records, as the operands describe it. -/
def Env.copyOp (e : Env) (kind : Nat) (d : Opd) (b : Fin 64) (off : BitVec 23) (data : Layout) (idx : Option Layout) (o : Option Nat) :
    CopyOp :=
  ⟨kind, data, idx, boxExtents (e.boxWords b.val), boxCoords (e.boxWords b.val), (e.word d 0 + off.signExtend 32).toNat, o⟩

/-- The address of a copy's barrier object, if it names one. -/
def Env.barrierA (e : Env) (bar : Bool) (c : Opd) : Option Nat := if bar then some (e.word c 0).toNat else none

/-- A copy may read its record now: a launched lane leads with a true guard, no sibling access and fewer than 32 copies are on their
way, the record is aligned, and the group's stores have been performed. -/
structure State.CopyFree (s : State) (e : Env) (h : Hdr) (a : Opd) : Prop where
  leads   : e.leads h = true
  sibling : e.siblingPends = false
  room    : ((s.core e.core).ops.filter (fun o => isCopy o.what)).length < 32
  aligned : (e.wide .i64 a 0).toNat % 64 = 0
  stores  : s.noStores e

/-- A copy that may read its record comes to what follows the record. -/
theorem tensorCopy_reads {kind : Nat} (hr : Ready s e h (tensorCopyChk tok bar d a (.s b) c e)) (hf : s.CopyFree e h a)
    (h1 : RecordAt s e (e.wide .i64 a 0) s1 r) : tensorCopy kind h tok bar d a (.s b) c off s = finish (
      if kind = 2 then s1.getRecord e (some (4 + tok.toNat)) (e.wide .i64 a 0 + 64) (fun s2 r2 =>
        s2.startCopy e h tok.toNat (e.copyOp kind d b off r2 (some r) none) (e.boxWords b.val) (e.barrierA bar c))
      else s1.startCopy e h tok.toNat (e.copyOp kind d b off r none none) (e.boxWords b.val) (e.barrierA bar c)) := by
  unfold tensorCopy
  rw [issue_ready hr]
  simp only [hf.leads, hf.sibling, Nat.not_le.2 hf.room, hf.aligned, decide_false, ne_eq, not_true_eq_false, Bool.not_true, Bool.or_self,
    Bool.false_eq_true, if_false, State.getRecord_go hf.stores h1]
  rfl

/-- A copy by one record starts. -/
theorem tensorCopy_starts {kind : Nat} (hkind : kind ≠ 2) (hr : Ready s e h (tensorCopyChk tok bar d a (.s b) c e)) (hf : s.CopyFree e h a)
    (h1 : RecordAt s e (e.wide .i64 a 0) s1 r)
    (hk : s1.CopyFits e (e.boxWords b.val) (e.barrierA bar c) o (e.copyOp kind d b off r none none)) :
    tensorCopy kind h tok bar d a (.s b) c off s =
      .next (s1.opIssued e h (e.op s1 (some (4 + tok.toNat)) (.copy (e.copyOp kind d b off r none o)))) := by
  obtain ⟨hs, he⟩ := h1.runs
  rw [tensorCopy_reads hr hf h1, if_neg hkind, State.startCopy_go he hk]
  exact finish_next hs

/-- A copy by an index starts once both its records are read. -/
theorem tensorCopy_starts_indexed (hr : Ready s e h (tensorCopyChk tok bar d a (.s b) c e)) (hf : s.CopyFree e h a)
    (h1 : RecordAt s e (e.wide .i64 a 0) s1 r) (hd : s1.noStores e) (h2 : RecordAt s1 e (e.wide .i64 a 0 + 64) s2 r2)
    (hk : s2.CopyFits e (e.boxWords b.val) (e.barrierA bar c) o (e.copyOp 2 d b off r2 (some r) none)) :
    tensorCopy 2 h tok bar d a (.s b) c off s =
      .next (s2.opIssued e h (e.op s2 (some (4 + tok.toNat)) (.copy (e.copyOp 2 d b off r2 (some r) o)))) := by
  obtain ⟨hs, he⟩ := h2.runs
  rw [tensorCopy_reads hr hf h1, if_pos rfl, State.getRecord_go hd h2, State.startCopy_go he hk]
  exact finish_next hs

end

/-- A copy's barrier operand gives the object its operation names. -/
theorem Env.barrierA_fits {s : State} {e : Env} {bar : Bool} {c : Opd} {o : Option Nat} (hn : bar = false → o = none)
    (hs : bar = true → ∃ t, s.objPlace e (e.word c 0).toNat = .inl t ∧ o = some t) :
    (e.barrierA bar c = none ∧ o = none) ∨ ∃ a t, e.barrierA bar c = some a ∧ s.objPlace e a = .inl t ∧ o = some t := by
  cases bar with
  | false => exact .inl ⟨rfl, hn rfl⟩
  | true =>
    obtain ⟨t, hp, ho⟩ := hs rfl
    exact .inr ⟨_, t, rfl, hp, ho⟩

/-- Settles O46: the four instructions are one course, TCOPYX with a second record. -/
theorem tensorCopiesStart : Obligations.TensorCopiesStart := by
  intro s e h tok bar d a c b off s1 s2 r r2 o va ws copy fits room hl hs hroom hal hst h1
  have hf : s.CopyFree e h a := ⟨hl, hs, hroom, hal, hst⟩
  have hfits {u : State} {kind : Nat} {data : Layout} {idx : Option Layout} (hk : fits u (copy kind data idx)) :
      u.CopyFits e (e.boxWords b.val) (e.barrierA bar c) o (e.copyOp kind d b off data idx none) := by
    obtain ⟨hbox, heven, hadds, hidx, hdst, hwin, hnone, hsome⟩ := hk
    exact ⟨hbox, heven, hadds, hidx, hdst, hwin, Env.barrierA_fits hnone hsome⟩
  exact ⟨fun hi hk => tensorCopy_starts (by decide) (hi.ready rfl) hf h1 (hfits hk),
    fun hi hk => tensorCopy_starts (by decide) (hi.ready rfl) hf h1 (hfits hk),
    fun hi hk => tensorCopy_starts (by decide) (hi.ready rfl) hf h1 (hfits hk),
    fun hi hd h2 hk => tensorCopy_starts_indexed (hi.ready rfl) hf h1 hd h2 (hfits hk)⟩

end Sys2Proof.Machine

/-! PROOFS, spec/10. CHSTAT and the bobbin instructions (R267, R275 to R277). -/

namespace Sys2Proof.Machine

/-! The bobbin program that BSTART starts (R275) -/

/-- The S registers of a new group hold its arguments, from register 0 on. -/
theorem lookD_foldl_putD_zipIdx (l : List Word) (n : Nat) (t : Tbl Word) (i : Nat) :
    ((l.zipIdx n).foldl (fun t x => t.putD 0 x.2 x.1) t).lookD 0 i = if n ≤ i then (l[i - n]?).getD (t.lookD 0 i) else t.lookD 0 i := by
  induction l generalizing n t with
  | nil => simp
  | cons x l ih =>
    rw [List.zipIdx_cons, List.foldl_cons, ih]
    rcases Nat.lt_trichotomy i n with h | rfl | h
    · rw [if_neg (by omega), if_neg (by omega), Tbl.lookD_putD_ne _ _ _ (by omega)]
    · rw [if_neg (by omega), if_pos (Nat.le_refl _), Nat.sub_self, Tbl.lookD_putD_self]
      rfl
    · rw [if_pos (by omega), if_pos (by omega), Tbl.lookD_putD_ne _ _ _ (by omega), show i - n = (i - (n + 1)) + 1 by omega]
      rfl

theorem Env.length_boxWords (e : Env) (n : Nat) : (e.boxWords n).length = 8 := rfl

/-- The arguments a launch gives a bobbin program: those of its own groups from the ninth on. -/
def State.givenArgs (s : State) (l : Nat) : List Word :=
  match s.launches.look l with
  | some x => x.args.drop 8
  | none => []

theorem State.givenArgs_of_look {s : State} {l : Nat} {x : Launch} (h : s.launches.look l = some x) : s.givenArgs l = x.args.drop 8 := by
  unfold State.givenArgs
  rw [h]

/-- The group of the bobbin program a BSTART starts in a state s1. -/
def State.bobbinGroup (s s1 : State) (e : Env) (a : Opd) (b : Fin 64) : Group :=
  { Group.fresh s1.serial e.g.launch e.g.wg e.g.grpid 64 64 e.g.prio e.g.kernel (codeAddr e.g.kernel (e.word a 0))
      (e.boxWords b.val ++ s.givenArgs e.g.launch) with
    vAlloc := 32, sAlloc := 16, pAlloc := 16, startedAt := e.clk, starter := some e.ctx, fillTask := e.g.fillTask, level := e.g.level }

section
variable (s s1 : State) (e : Env) (a : Opd) (b : Fin 64)

theorem bobbinGroup_s (i : Nat) :
    (s.bobbinGroup s1 e a b).s.lookD 0 i = ((e.boxWords b.val ++ s.givenArgs e.g.launch)[i]?).getD 0 :=
  lookD_foldl_putD_zipIdx _ 0 [] i

theorem bobbinGroup_s_of_lt {i : Nat} (hi : i < 8) : (s.bobbinGroup s1 e a b).s.lookD 0 i = ((e.boxWords b.val)[i]?).getD 0 := by
  rw [bobbinGroup_s, List.getElem?_append_left (by rwa [Env.length_boxWords])]

theorem bobbinGroup_s_of_le {i : Nat} (hi : 8 ≤ i) {x : Launch} (hx : s.launches.look e.g.launch = some x) :
    (s.bobbinGroup s1 e a b).s.lookD 0 i = (x.args[i]?).getD 0 := by
  rw [bobbinGroup_s, List.getElem?_append_right (by rwa [Env.length_boxWords]), Env.length_boxWords, State.givenArgs_of_look hx,
    List.getElem?_drop, Nat.add_sub_cancel' hi]

end

/-- The state in which a bobbin program's group g stands in its core's context 64. -/
def State.withBobbin (s : State) (c l : Nat) (g : Group) : State :=
  { s with groups := s.groups.put (gkey c 64) g, serial := s.serial + 1 }.modCore c (fun k => { k with bobLaunch := some l })

/-! The instructions -/

section
variable {s : State} {e : Env} {h : Hdr} (hl : e.lead h = true)
include hl

theorem exec_chstat {ch : BitVec 4} {d : Fin 64} (hi : (Instr.chstat h ch (.s d)).Issues s e h) :
    exec (.chstat h ch (.s d)) s = .next (s.dataIssued e h [⟨.s, d.val, 0, lo32 (BitVec.ofNat 64
      ((if (s.chan ch.toNat).running then 1 else 0) + (if (s.chan ch.toNat).err then 2 else 0) + 256 * (s.chan ch.toNat).cause))⟩] []) :=
  have d : Does (.chstat h ch (.s d)) s h _ _ := ⟨rfl, by change execChstat h ch (.s d) s = _; unfold execChstat; rfl⟩
  d.starts hi (by simp only [hl, Bool.not_true, Bool.false_eq_true, if_false]; rfl)

/-- BSTART tells whether it starts a program, and starts it where there is room. -/
theorem exec_bstart {d : Fin 96} {a : Opd} {b : Fin 64} (hi : (Instr.bstart h (.p d) a (.s b)).Issues s e h) :
    let free := (s.bobbin? e.core).isNone && decide (32 ≤ s.freeRegs e.core 0)
    let s1 := s.dataIssued e h ((e.active h).map (fun l => ⟨.p, d.val, l, if free then 1 else 0⟩)) []
    exec (.bstart h (.p d) a (.s b)) s =
      .next (if free then s1.withBobbin e.core e.g.launch (s.bobbinGroup s1 e a b) else s1) := by
  intro free s1
  have d : Does (.bstart h (.p d) a (.s b)) s h _ _ := ⟨rfl, by change execBstart h (.p d) a (.s b) s = _; unfold execBstart; rfl⟩
  obtain ⟨hs, he, -⟩ := d.ready hi
  refine d.next hi ?_ ?_
  · simp only [hl, Bool.not_true, Bool.false_eq_true, if_false, ← List.map_eq_flatMap]
    rw [show (s.dataWrite e h _).retire e h = s1 from State.start_retire_eq he h _]
    change (if (!free) = true then s1 else s1.withBobbin e.core e.g.launch (s.bobbinGroup s1 e a b)) = _
    cases free <;> rfl
  · split <;> rfl

theorem exec_bpush {q : BitVec 2} {a : Opd} (hi : (Instr.bpush h q a).Issues s e h)
    (hq : ((s.core e.core).queues.lookD [] q.toNat).length < 16) :
    exec (.bpush h q a) s = .next ((s.modCore e.core (fun k => { k with
      queues := k.queues.put q.toNat ((s.core e.core).queues.lookD [] q.toNat ++ [(List.range 64).map (e.word a)]) })).retire e h) :=
  have d : Does (.bpush h q a) s h _ _ := ⟨rfl, by change execBpush h q a s = _; unfold execBpush; rfl⟩
  d.next hi (by simp only [hl, Nat.not_le.2 hq, Bool.not_true, Bool.false_eq_true, if_false]) rfl

theorem exec_bstop (hi : (Instr.bstop h).Issues s e h) : exec (.bstop h) s = .next (match s.bobbin? e.core with
    | none => s.sIssued e h none
    | some b => if e.ctx = 64 ∨ b.launch = e.g.launch then (s.sIssued e h none).removeGroup e.core 64 else s.sIssued e h none) := by
  have d : Does (.bstop h) s h _ _ := ⟨rfl, by change execBstop h s = _; unfold execBstop; rfl⟩
  obtain ⟨-, he, -⟩ := d.ready hi
  cases hb : s.bobbin? e.core with
  | none => exact d.skips hi (by simp only [hl, hb, Bool.not_true, Bool.false_eq_true, if_false])
  | some b =>
    refine d.next hi (by simp only [hl, hb, retire_none he, Bool.not_true, Bool.false_eq_true, if_false]) ?_
    dsimp only
    split
    · rw [State.removeGroup_stuck, State.sIssued_stuck]
    · exact State.sIssued_stuck ..

end

/-- Settles O47: each is its effect at issue; a program's first eight S registers are BSTART's, the others its launch's. -/
theorem bobbinsAndChannels : Obligations.BobbinsAndChannels := by
  intro s e h hl hb
  refine ⟨fun ch d hi => ?chstat, fun d a b hi => ?bstart, fun q a hi hq => exec_bpush hl hi hq, fun hi => exec_bstop hl hi⟩
  case chstat => rw [exec_chstat hl hi, lo32, BitVec.setWidth_ofNat_of_le (by decide)]
  case bstart =>
    intro free s1
    have hx : exec (.bstart h (.p d) a (.s b)) s =
        .next (if free then s1.withBobbin e.core e.g.launch (s.bobbinGroup s1 e a b) else s1) := exec_bstart hl hi
    refine ⟨fun hf => by rw [hx, hf]; rfl, fun hf => ?_⟩
    exact ⟨s.bobbinGroup s1 e a b, s1.withBobbin e.core e.g.launch (s.bobbinGroup s1 e a b), by rw [hx, hf]; rfl,
      Tbl.look_put_self .., fun k hk => Tbl.look_put_ne _ _ hk, rfl, rfl, rfl, rfl, rfl, rfl, rfl, rfl, rfl, rfl, rfl, rfl,
      fun i hi => bobbinGroup_s_of_lt s s1 e a b hi, fun x hx i hi => bobbinGroup_s_of_le s s1 e a b hi hx⟩

end Sys2Proof.Machine

/-! PROOFS, spec/12, spec/14. STOPR, PSAMP, LOGFL and EVINC, and unassigned opcodes (R90, R298, R348, R349, R351). -/

namespace Sys2Proof.Machine

section
variable {s : State} {e : Env} {h : Hdr}

/-- STOPR goes on, and then stops its rope where stops are enabled; no absent memory can stop a run outside base camp. -/
theorem exec_stopr {code : BitVec 8} (hi : (Instr.stopr h code).Issues s e h) (hb : s.baseCamp = false) :
    exec (.stopr h code) s = .next (if e.lead h && s.stopsOn (clusterOf e.core) e.asid then (s.sIssued e h none).stopRope e 2 code.toNat
      else s.sIssued e h none) := by
  have d : Does (.stopr h code) s h _ _ := ⟨rfl, by change execStopr h code s = _; unfold execStopr; rfl⟩
  exact d.next_run hi rfl hb (by rw [retire_none (d.ready hi).2.1])

theorem exec_psamp {code : BitVec 8} (hi : (Instr.psamp h code).Issues s e h) :
    exec (.psamp h code) s = .next (if e.lead h then
      (s.sIssued e h none).modSlot e.core e.ctx e.n (fun sl => { sl with psamp := some code }) else s.sIssued e h none) := by
  have d : Does (.psamp h code) s h _ _ := ⟨rfl, by change execPsamp h code s = _; unfold execPsamp; rfl⟩
  refine d.next hi (by rw [retire_none (d.ready hi).2.1]) ?_
  split <;> exact State.sIssued_stuck ..

theorem exec_logfl (hi : (Instr.logfl h).Issues s e h) :
    exec (.logfl h) s = .next (if e.lead h then ((s.start e (e.op s (e.flag h) .logfl)).emptyLog e).retire e h
      else s.sIssued e h none) := by
  have d : Does (.logfl h) s h _ _ := ⟨rfl, by change execLogfl h s = _; unfold execLogfl; rfl⟩
  refine d.next hi (by rw [retire_none (d.ready hi).2.1]) ?_
  split
  · rfl
  · exact State.sIssued_stuck ..

theorem exec_evinc {i : BitVec 4} {b : SrcB} (hi : (Instr.evinc h i b).Issues s e h) :
    exec (.evinc h i b) s = .next (if e.lead h then
      (s.sIssued e h none).count e.core (192 + 16 * partOf e.ctx + i.toNat) (e.sval b % 64) else s.sIssued e h none) := by
  have d : Does (.evinc h i b) s h _ _ := ⟨rfl, by change execEvinc h i b s = _; unfold execEvinc; rfl⟩
  refine d.next hi (by rw [retire_none (d.ready hi).2.1]) ?_
  split <;> exact State.sIssued_stuck ..

theorem exec_unassignedOpcode {w : Word} (he : s.env? = some e) :
    exec (.unassignedOpcode w) s = .next (s.trapAt e 1 e.sl.mask e.sl.pc) := by
  change execUnassignedOpcode w s = _
  simp only [execUnassignedOpcode, he]

end

/-- Settles O49: each has its effect after the slot went on, and an unassigned opcode has only its trap. -/
theorem debugInstructions : Obligations.DebugInstructions := fun _ _ _ =>
  ⟨fun _ hi hb => exec_stopr hi hb, fun _ hi => exec_psamp hi, fun hi => exec_logfl hi, fun _ _ hi => exec_evinc hi,
    fun _ he => exec_unassignedOpcode he⟩

end Sys2Proof.Machine

/-! PROOFS, spec/12, spec/14, spec/16. Steps of the dispatcher and of the fill launcher (R287 to R289, R335, R363, R372 to R374). -/

namespace Sys2Proof.Machine

theorem Tbl.look_adjust_of_look {α : Type} {t : Tbl α} {k : Nat} {v : α} (h : t.look k = some v) (f : α → α) :
    (t.adjust k f).look k = some (f v) := by
  rw [Tbl.adjust, h]
  exact Tbl.look_put_self ..

/-- What each step of a fold over states leaves as it was, the fold leaves so. -/
theorem foldl_proj {α β : Type} {f : State → α → State} (g : State → β) (hf : ∀ s a, g (f s a) = g s) (l : List α)
    (s : State) : g (l.foldl f s) = g s := by
  induction l generalizing s with
  | nil => rfl
  | cons a r ih => exact (ih _).trans (hf s a)

/-! Workgroups put on a core: what becomes of their launch and of the trackers -/

section
variable {s : State} {l : Nat} {x : Launch} (hx : s.launches.look l = some x)
include hx

/-- A fill task's launch invalidates nothing on the core its workgroup goes to (spec/17 R400). -/
theorem State.cleanCore_of_fill (hf : x.fill.isSome = true) (c : Nat) : s.cleanCore l c = s := by
  simp [State.cleanCore, hx, hf]

/-- The workgroup put is marked in its launch, which stays as it was else, and no tracker changes. -/
theorem State.putWg_of_fill (hf : x.fill.isSome = true) (linear c b wgidx cx cy rope : Nat) (rounds : Tbl Nat)
    (mk : Launch → Nat → Nat → Option Group) :
    (s.putWg l linear c b wgidx cx cy rope rounds mk).1.launches.look l =
        some { x with wgs := x.wgs.put linear { x.wgAt linear with rest := .placed } } ∧
      (s.putWg l linear c b wgidx cx cy rope rounds mk).1.trackers = s.trackers := by
  unfold State.putWg
  rw [State.cleanCore_of_fill hx hf]
  split
  next hn => cases hn.symm.trans hx
  next y hy =>
    cases hy.symm.trans hx
    refine ⟨Tbl.look_adjust_of_look (v := x) ((foldl_proj (fun s => s.launches.look l) ?launches _ _).trans ?_) _,
      (foldl_proj State.trackers ?trackers _ _).trans ?_⟩
    case launches => exact fun _ _ => rfl
    case trackers => exact fun _ _ => rfl
    · exact hx
    · rfl

theorem State.putOne_of_fill (hf : x.fill.isSome = true) (linear c b : Nat) (rounds : Tbl Nat)
    (mk : Launch → Nat → Nat → Option Group) :
    (s.putOne l linear c b rounds mk).1.launches.look l =
        some { x with wgs := x.wgs.put linear { x.wgAt linear with rest := .placed } } ∧
      (s.putOne l linear c b rounds mk).1.trackers = s.trackers :=
  State.putWg_of_fill (s := { s with serial := s.serial + 1 }) hx hf ..

end

/-! The fill launcher -/

/-- The high half of an address, as its number's quotient or by a shift. -/
theorem ofNat_toNat_div_two_pow (x : DWord) (n k : Nat) : BitVec.ofNat k (x.toNat / 2 ^ n) = (x >>> n).setWidth k := by
  rw [← Nat.shiftRight_eq_div_pow, ← BitVec.toNat_ushiftRight, BitVec.ofNat_toNat]

/-- The launch of a tracker's fill task by a record and a kernel's header (spec/16 R373). -/
def State.fillTaskLaunch (s : State) (k : Nat) (t : Tracker) (r : GenRecord) (kh : KHdr) : Launch :=
  let va := (lineVa (t.block / 128)).toNat
  { asid := t.asid, kernel := va64 r.kernel, hdr := kh, prio := max t.prio r.prio,
    args := [BitVec.ofNat 32 va, BitVec.ofNat 32 (va / 2 ^ 32), BitVec.ofNat 32 t.record, BitVec.ofNat 32 (t.record / 2 ^ 32),
      BitVec.ofNat 32 (2 ^ t.blklog), BitVec.ofNat 32 t.genidx, BitVec.ofNat 32 (65536 * (k / 64) + k % 64), 0] ++ r.args,
    localA := 0, dstkA := 0, saveA := 0, gx := 1, gy := 1, gz := 1, nlaunch := kh.width, wgs := [], status := none, queue := none,
    stallchk := kh.flags.testBit 3 || s.ctxFlags t.asid % 4 / 2 == 1, log := (s.ctxFlags t.asid).testBit 2,
    trace := (s.ctxFlags t.asid).testBit 3, placeable := false, preempting := false, aged := false, accepted := s.serial, turns := 0,
    fill := some k, cleaned := [], rect := none, waitFrom := 0, fitted := 0 }

/-- The first two arguments are the halves of its block's address (spec/16 R373). -/
theorem State.fillTaskLaunch_args (s : State) (k : Nat) (t : Tracker) (r : GenRecord) (kh : KHdr) :
    (s.fillTaskLaunch k t r kh).args.take 2 =
      [(lineVa (t.block / 128)).setWidth 32, ((lineVa (t.block / 128)) >>> 32).setWidth 32] := by
  rw [← BitVec.ofNat_toNat, ← ofNat_toNat_div_two_pow]
  rfl

/-- The state with that launch, its tracker naming it, and the launch counted, as one in a reserve where no ordinary capacity of core c
takes it. -/
def State.withFillTask (s : State) (k : Nat) (t : Tracker) (r : GenRecord) (kh : KHdr) (c : Nat) (ordinary : Bool) : State :=
  let s1 := ({ s with launches := s.launches.put s.serial (s.fillTaskLaunch k t r kh), serial := s.serial + 1 }.modTracker k
    (fun u => { u with launch := some s.serial, recPol := r.vpol, prio := max t.prio r.prio })).count 268 1 1
  if ordinary then s1 else s1.count (192 + clusterOf c) 5 1

section
variable {s s0 s1 : State} {k c b : Nat} {t : Tracker} {r : GenRecord} {kh : KHdr}

theorem State.withFillTask_launch (s : State) (k : Nat) (t : Tracker) (r : GenRecord) (kh : KHdr) (c : Nat) (ordinary : Bool) :
    (s.withFillTask k t r kh c ordinary).launches.look s.serial = some (s.fillTaskLaunch k t r kh) := by
  cases ordinary <;> exact Tbl.look_put_self ..

theorem State.withFillTask_tracker {t1 : Tracker} (h : s.trackers.look k = some t1) (ordinary : Bool) :
    (s.withFillTask k t r kh c ordinary).trackers.look k =
      some { t1 with launch := some s.serial, recPol := r.vpol, prio := max t.prio r.prio } := by
  cases ordinary <;> exact Tbl.look_adjust_of_look h _

/-- A refused fill request is treated as FILLA (spec/16 R363). -/
theorem exec_fillLaunch_refused (hn : s.nextFill = some k) (ht : s.trackers.look k = some t) (hp : s.fillPlan t = (s1, none)) :
    exec (.fillLaunch k c) s = finish (s1.decideBlock k none) := by
  change execFillLaunch k c s = _
  simp only [execFillLaunch, hn, ht, hp, ne_eq, not_true_eq_false, if_false]

/-- A fill task is launched on a core that has room and is preferred, once the rows it takes are clear (spec/16 R372, R373). -/
theorem exec_fillLaunch (hn : s.nextFill = some k) (ht : s.trackers.look k = some t) (hp : s.fillPlan t = (s0, some (r, kh)))
    (hfit : s0.fillFits kh t.level c true = some b) (hpref : s0.notPreferred kh t c = false)
    (hord : (s0.fillFits kh t.level c false).isSome = true ∨ s0.fillSomewhere kh t.level false = false)
    (hclear : s0.clearAll kh.gran [(c, [b])] = (s1, true)) :
    let u := s1.withFillTask k t r kh c (s0.fillFits kh t.level c false).isSome
    exec (.fillLaunch k c) s = finish (u.putOne s1.serial 0 c b [] (fun x id g =>
      some { x.group s1.serial 0 id 0 g (u.core c).clk with fillTask := true, level := t.level })).1 := by
  have hskip : (!(s0.fillFits kh t.level c false).isSome && s0.fillSomewhere kh t.level false || s0.notPreferred kh t c) = false := by
    rcases hord with h | h <;> simp [h, hpref]
  change execFillLaunch k c s = _
  simp only [execFillLaunch, hn, ht, hp, hskip, hfit, hclear, ne_eq, not_true_eq_false, Bool.false_eq_true, if_false]
  cases (s0.fillFits kh t.level c false).isSome <;> rfl

end

/-! The dispatcher -/

section
variable {s s1 : State} {l c i : Nat} {x : Launch}

section
variable (hfill : s.nextFill = none) (hch : s.dispatchChoice = some l) (hx : s.launches.look l = some x) (hi : x.next = some i)
  (hres : x.resumes = false)
include hfill hch hx hi hres

/-- A workgroup waits while its rows are being cleared (spec/07 R197). -/
theorem exec_workgroupPlace_clearing {bs : List Nat} (hrope : x.hdr.rope = false) (hfit : s.fits l x 1 c = some bs)
    (hclear : s.clearAll x.hdr.gran [(c, bs)] = (s1, false)) : exec (.workgroupPlace l c) s = finish s1 := by
  change execWorkgroupPlace l c s = _
  simp [execWorkgroupPlace, hfill, hch, hx, hi, hres, hrope, hfit, hclear]

theorem exec_workgroupPlace {bs : List Nat} (hrope : x.hdr.rope = false) (hfit : s.fits l x 1 c = some bs)
    (hclear : s.clearAll x.hdr.gran [(c, bs)] = (s1, true)) :
    exec (.workgroupPlace l c) s = finish ((s1.putOne l i c (bs.headD 0) [] (s1.newGroup l i c)).1.tookTurn l) := by
  change execWorkgroupPlace l c s = _
  simp [execWorkgroupPlace, hfill, hch, hx, hi, hres, hrope, hfit, hclear]

theorem exec_ropePlace {cl px py : Nat} {bs : List (Nat × List Nat)} (hrope : x.hdr.rope = true)
    (hfit : s.ropeFits l x cl px py = some bs) (hclear : s.clearAll x.hdr.gran bs = (s1, true)) :
    exec (.ropePlace l cl px py) s =
      finish (((s1.putRope l i cl px py bs (fun _ => []) (fun j => s1.newGroup l j (16 * cl +
        4 * (py + (ropeCell x.hdr.rw x.hdr.rk (j - i)).2) + (px + (ropeCell x.hdr.rw x.hdr.rk (j - i)).1)))).count
        (192 + cl) 4 1).tookTurn l) := by
  change execRopePlace l cl px py s = _
  simp [execRopePlace, hfill, hch, hx, hi, hres, hrope, hfit, hclear]

end

section
variable (hx : s.launches.look l = some x)
include hx

theorem exec_ropeWaitReserve {cl px py : Nat} (hw : x.waits = true) (hrope : x.hdr.rope = true) (hrect : x.rect = none)
    (ht : x.waitFrom + 65536 ≤ s.dieClk) (hno : s.fitsSomewhere l x = false) (hcould : s.rectCould x.hdr cl px py = true)
    (hclash : s.rectClash l x cl px py = false) :
    exec (.ropeWaitReserve l cl px py) s = .next (s.modLaunch l (fun x => { x with rect := some (cl, px, py) })) := by
  change execRopeWaitReserve l cl px py s = _
  simp [execRopeWaitReserve, hx, hw, hrope, hrect, ht, hno, hcould, hclash]

theorem exec_launchAging (hw : x.waits = true) (ha : x.aged = false) (ht : 4194304 ≤ x.fitted) :
    exec (.launchAging l) s = .next (s.modLaunch l (fun x => { x with aged := true })) := by
  change execLaunchAging l s = _
  simp [execLaunchAging, hx, hw, ha, ht]

theorem exec_implicitFilla {k : Nat} {t : Tracker} (ht : s.taskTracker l = some (k, t)) (hs : x.status.isSome = true)
    (hd : t.decided = false) : exec (.implicitFilla l) s = .next (s.decideBlock k none) := by
  change execImplicitFilla l s = _
  simp [execImplicitFilla, hx, ht, hs, hd]

end

end

/-- Settles O53: each event's meaning under its condition, of which no absent memory stops one outside base camp; a fill task's launch
keeps its fields, and its tracker those it was given, while its workgroup is put. -/
theorem dispatcherSteps : Obligations.DispatcherSteps := by
  intro s l hs hb
  refine ⟨fun x c i bs s1 hfill hch hx hi hrope hres hfit => ⟨fun hc => ?_, fun hc => ?_⟩,
    fun x cl px py i bs s1 hfill hch hx hi hrope hres hfit hc => ?_,
    fun x cl px py hx hw hrope hrect ht hno hcould hclash => exec_ropeWaitReserve hx hw hrope hrect ht hno hcould hclash,
    fun x hx hw ha ht => exec_launchAging hx hw ha ht,
    fun k t c s1 hn ht hp => event_next rfl rfl hs hb (exec_fillLaunch_refused hn ht hp),
    fun k t c s0 s1 r kh b hn ht hp hfit hpref hord hc => ?fill, fun x k t hx ht hst hd => exec_implicitFilla hx ht hst hd⟩
  · exact event_next rfl rfl hs hb (exec_workgroupPlace_clearing hfill hch hx hi hres hrope hfit hc)
  · exact event_next rfl rfl hs hb (exec_workgroupPlace hfill hch hx hi hres hrope hfit hc)
  · exact event_next rfl rfl hs hb (exec_ropePlace hfill hch hx hi hres hrope hfit hc)
  case fill =>
    obtain ⟨hl, htr⟩ := State.putOne_of_fill (State.withFillTask_launch s1 k t r kh c
      (s0.fillFits kh t.level c false).isSome) rfl 0 c b [] _
    refine ⟨_, _, event_next rfl rfl hs hb (exec_fillLaunch hn ht hp hfit hpref hord hc), hl, rfl, rfl, rfl, rfl, rfl, rfl, rfl, ?args,
      fun t1 ht1 => ?tracker⟩
    case args => exact s1.fillTaskLaunch_args k t r kh
    case tracker => rw [htr, State.withFillTask_tracker ht1]

end Sys2Proof.Machine

/-! PROOFS, spec/12, spec/17. Rope stops: the dump, the debug port's commands, and its unlock (R296 to R299, R408, R413). -/

namespace Sys2Proof.Machine

section
variable {s : State}

/-- Once no operation of its workgroups is waited for, a stopping rope's dump is written and the rope is stopped. -/
theorem exec_ropeStop {k : Nat} {r : Rope} {t : RopeStop} (hr : s.ropes.look k = some r) (ht : r.stop = some t) (hd : t.dumped = false)
    (hw : ∀ c ∈ s.cores, ∀ o ∈ c.2.ops, (∃ x ∈ r.wgs, x.2 = o.wg) → s.stopWaits c.1 o = false) :
    let held := (s.cores.map (fun c => (c.2.ops.filter (fun o => r.wgs.any (fun x => x.2 == o.wg) && o.held.isSome)).length)).sum
    let n := (r.wgs.map (fun x => ((s.groupsOf x.2).filter (fun g => !g.2.ended)).length)).sum
    let done (s : State) : State := s.modRope k (fun r => { r with stop := r.stop.map (fun t =>
      { t with dumped := true, held := held, ngrp := n }) })
    exec (.ropeStop k) s = finish (s.devWrite (16 * r.cluster + r.origin) (bits (s.cluster r.cluster).dbgctl.toNat 16 16)
      (s.cluster r.cluster).dumpbase.toNat (s.dumpBytes r t held) (k, true) done done) := by
  have hany : s.cores.any (fun c => c.2.ops.any (fun o => r.wgs.any (fun x => x.2 == o.wg) && s.stopWaits c.1 o)) = false := by
    simp only [List.any_eq_false, List.any_eq_true, Bool.and_eq_true, beq_iff_eq]
    rintro c hc ⟨o, ho, hx, hwait⟩
    rw [hw c hc o ho hx] at hwait
    cases hwait
  change execRopeStop k s = _
  simp only [execRopeStop, hr, ht, hd, hany, Bool.false_eq_true, if_false]

theorem exec_dbgcmdStop {cl w : Nat} (he : (s.cluster cl).dbgctl.getLsbD 0 = true) (hw : w % 4 = 1) :
    exec (.dbgcmdStop cl w) s = .next ((s.namedRopes cl (bits w 32 32)).foldl (fun s r =>
      s.beginStop r ⟨1, 0, 0xFF, 0xFF, 2, 0, 0, (s.core (16 * cl + ((s.ropes.look r).map (·.origin)).getD 0)).clk,
        false, 0, 0⟩) s) := by
  change execDbgcmdStop cl w s = _
  unfold execDbgcmdStop
  rw [if_neg (by rw [he, hw]; decide)]
  refine congrArg (fun f => Host.Outcome.next (List.foldl f s (s.namedRopes cl (bits w 32 32)))) ?_
  funext s r
  cases s.ropes.look r <;> rfl

theorem exec_dbgcmdResume {cl w : Nat} (he : (s.cluster cl).dbgctl.getLsbD 0 = true) (hw : w % 4 = 2) :
    exec (.dbgcmdResume cl w) s = .next ((s.namedRopes cl (bits w 32 32)).foldl State.resumeRope s) := by
  change execDbgcmdResume cl w s = _
  unfold execDbgcmdResume
  rw [if_neg (by rw [he, hw]; decide)]

theorem exec_debugUnlock (hk : s.life.keyStore = true) (hd : s.devSt ≠ 4) :
    exec (.debugUnlock true) s = .next { s with life := { s.life with unlocked := true } } := by
  change execDebugUnlock true s = _
  simp [execDebugUnlock, hk, hd]

end

/-- Settles O56: each event's meaning under its condition; outside base camp no absent memory stops a dump. -/
theorem debugSteps : Obligations.DebugSteps := fun _ hs hb =>
  ⟨fun _ _ _ hr ht hd hw => event_next rfl rfl hs hb (exec_ropeStop hr ht hd hw),
    fun _ _ he => ⟨exec_dbgcmdStop he, exec_dbgcmdResume he⟩, exec_debugUnlock⟩

end Sys2Proof.Machine

/-! PROOFS, spec/12, spec/14, spec/17. Writes to the registers of window 0: how they arrive, what each register takes, and the fields
that are clamped (R295, R330, R338, R345, R385, R408, R409, R414, R415, R425). -/

namespace Sys2Proof.Machine

/-! Fields of numbers and of masked words -/

theorem testBit_bits (x lo n i : Nat) : (bits x lo n).testBit i = (decide (i < n) && x.testBit (lo + i)) := by
  rw [bits, Nat.testBit_mod_two_pow, Nat.testBit_div_two_pow, Nat.add_comm]

/-- A clamped field lies between what was below and above it. -/
theorem clampField_eq (v lo w mx : Nat) :
    clampField v lo w mx = 2 ^ lo * (2 ^ w * (v / 2 ^ lo / 2 ^ w) + min mx (bits v lo w)) + v % 2 ^ lo := by
  have h1 : 2 ^ w * (v / 2 ^ lo / 2 ^ w) + bits v lo w = v / 2 ^ lo := Nat.div_add_mod ..
  have h2 : 2 ^ lo * (v / 2 ^ lo) + v % 2 ^ lo = v := Nat.div_add_mod ..
  rw [← h1, Nat.mul_add] at h2
  rw [clampField, Nat.mul_add]
  rw [Nat.mul_comm (bits v lo w), Nat.mul_comm (min mx _)]
  omega

theorem testBit_clampField {mx w : Nat} (h : mx < 2 ^ w) (v lo i : Nat) :
    (clampField v lo w mx).testBit i = if lo ≤ i ∧ i < lo + w then (min mx (bits v lo w)).testBit (i - lo) else v.testBit i := by
  have hm : min mx (bits v lo w) < 2 ^ w := Nat.lt_of_le_of_lt (Nat.min_le_left ..) h
  rw [clampField_eq, Nat.testBit_two_pow_mul_add _ (Nat.mod_lt _ (Nat.two_pow_pos lo)), Nat.testBit_two_pow_mul_add _ hm]
  by_cases h1 : i < lo
  · rw [if_pos h1, if_neg (by omega), Nat.testBit_mod_two_pow, decide_eq_true h1, Bool.true_and]
  · rw [if_neg h1]
    by_cases h2 : i - lo < w
    · rw [if_pos h2, if_pos (by omega)]
    · rw [if_neg h2, if_neg (by omega), Nat.testBit_div_two_pow, Nat.testBit_div_two_pow]
      congr 1
      omega

theorem bits_clampField_self {mx w : Nat} (h : mx < 2 ^ w) (v lo : Nat) : bits (clampField v lo w mx) lo w = min mx (bits v lo w) := by
  refine Nat.eq_of_testBit_eq fun i => ?_
  rw [testBit_bits, testBit_clampField h, Nat.add_sub_cancel_left]
  by_cases hi : i < w
  · rw [if_pos (by omega), decide_eq_true hi, Bool.true_and]
  · rw [decide_eq_false hi, Bool.false_and, Nat.testBit_lt_two_pow]
    calc min mx (bits v lo w) ≤ mx := Nat.min_le_left ..
      _ < 2 ^ w := h
      _ ≤ 2 ^ i := Nat.pow_le_pow_right (by decide) (Nat.not_lt.1 hi)

theorem bits_clampField_apart {mx w : Nat} (h : mx < 2 ^ w) (v lo : Nat) {lo' w' : Nat} (ha : lo' + w' ≤ lo ∨ lo + w ≤ lo') :
    bits (clampField v lo w mx) lo' w' = bits v lo' w' := by
  refine Nat.eq_of_testBit_eq fun i => ?_
  rw [testBit_bits, testBit_bits, testBit_clampField h]
  by_cases hi : i < w'
  · rw [if_neg (by omega)]
  · rw [decide_eq_false hi, Bool.false_and, Bool.false_and]

/-- A mask keeps the fields whose every bit it has. -/
theorem bits_ofNat_and {m : DWord} {lo w : Nat} (hm : ∀ i < w, m.getLsbD (lo + i) = true) (x : Nat) :
    bits (BitVec.ofNat 64 x &&& m).toNat lo w = bits x lo w := by
  refine Nat.eq_of_testBit_eq fun i => ?_
  rw [testBit_bits, testBit_bits, BitVec.testBit_toNat]
  by_cases hi : i < w
  · have hlt : lo + i < 64 := BitVec.lt_of_getLsbD (hm i hi)
    rw [BitVec.getLsbD_and, hm i hi, BitVec.getLsbD_ofNat, decide_eq_true hlt, Bool.true_and, Bool.and_true]
  · rw [decide_eq_false hi, Bool.false_and, Bool.false_and]

/-! The fields of a reserve: they are clamped one after the other, and the mask keeps each whole (spec/12 R295) -/

theorem bits_frsvWord_valid (v : Nat) : bits (frsvWord v).toNat 0 1 = v % 2 := by
  unfold frsvWord
  rw [bits_ofNat_and (by decide)]
  iterate 5 rw [bits_clampField_apart (by decide) _ _ (by decide)]
  rw [bits, Nat.pow_zero, Nat.div_one, Nat.pow_one]

theorem bits_frsvWord_gran (v : Nat) : bits (frsvWord v).toNat 13 5 = min 28 (bits v 13 5) := by
  unfold frsvWord
  rw [bits_ofNat_and (by decide), bits_clampField_self (by decide)]
  iterate 4 rw [bits_clampField_apart (by decide) _ _ (by decide)]

theorem bits_frsvWord_accs (v : Nat) : bits (frsvWord v).toNat 18 4 = min 8 (bits v 18 4) := by
  unfold frsvWord
  rw [bits_ofNat_and (by decide), bits_clampField_apart (by decide) _ _ (by decide), bits_clampField_self (by decide)]
  iterate 3 rw [bits_clampField_apart (by decide) _ _ (by decide)]

theorem bits_frsvWord_tiles (v : Nat) : bits (frsvWord v).toNat 22 5 = min 16 (bits v 22 5) := by
  unfold frsvWord
  rw [bits_ofNat_and (by decide)]
  iterate 2 rw [bits_clampField_apart (by decide) _ _ (by decide)]
  rw [bits_clampField_self (by decide)]
  iterate 2 rw [bits_clampField_apart (by decide) _ _ (by decide)]

theorem bits_frsvWord_ctx (v : Nat) : bits (frsvWord v).toNat 27 5 = min 16 (bits v 27 5) := by
  unfold frsvWord
  rw [bits_ofNat_and (by decide)]
  iterate 3 rw [bits_clampField_apart (by decide) _ _ (by decide)]
  rw [bits_clampField_self (by decide), bits_clampField_apart (by decide) _ _ (by decide)]

theorem bits_frsvWord_regs (v : Nat) : bits (frsvWord v).toNat 32 9 = min 384 (bits v 32 9) := by
  unfold frsvWord
  rw [bits_ofNat_and (by decide)]
  iterate 4 rw [bits_clampField_apart (by decide) _ _ (by decide)]
  exact bits_clampField_self (by decide) ..

/-! The words of PLIM, SAMPPER, WPnC and PREEMPT as they are stored -/

/-- The bits of WPnC that are kept: the low four, and those from 42 on (spec/14 R345). -/
theorem getLsbD_wpcMask : ∀ i < 64, (0xFFFFFC000000000F : DWord).getLsbD i = (decide (i < 4) || decide (42 ≤ i)) := by decide

theorem wpcWord_eq (v : Nat) :
    wpcWord v = BitVec.ofNat 64 (bits v 0 4 + 2 ^ 42 * min 32 (bits v 42 6) + 2 ^ 48 * bits v 48 16) := by
  have hm : min 32 (bits v 42 6) < 2 ^ 6 := Nat.lt_of_le_of_lt (Nat.min_le_left ..) (by decide)
  have h0 : bits v 0 4 < 2 ^ 42 := Nat.lt_trans (bits_lt v 0 4) (by decide)
  have hsum : bits v 0 4 + 2 ^ 42 * min 32 (bits v 42 6) + 2 ^ 48 * bits v 48 16 =
      2 ^ 42 * (2 ^ 6 * bits v 48 16 + min 32 (bits v 42 6)) + bits v 0 4 := by omega
  refine BitVec.eq_of_getLsbD_eq fun i hi => ?_
  rw [wpcWord, BitVec.getLsbD_and, getLsbD_wpcMask i hi, BitVec.getLsbD_ofNat, BitVec.getLsbD_ofNat, hsum,
    Nat.testBit_two_pow_mul_add _ h0, Nat.testBit_two_pow_mul_add _ hm, testBit_clampField (by decide), testBit_bits, testBit_bits,
    decide_eq_true hi, Bool.true_and, Bool.true_and]
  by_cases h1 : i < 42
  · have h2 : ¬ 42 ≤ i := Nat.not_le.2 h1
    rw [if_neg (by omega), if_pos h1, decide_eq_false h2, Bool.or_false, Nat.zero_add, Bool.and_comm]
  · have h2 : 42 ≤ i := Nat.not_lt.1 h1
    rw [if_neg h1, decide_eq_true h2, Bool.or_true, Bool.and_true]
    by_cases h3 : i < 48
    · rw [if_pos (by omega), if_pos (by omega)]
    · rw [if_neg (by omega), if_neg (by omega), decide_eq_true (by omega), Bool.true_and]
      congr 1
      omega

theorem bits_zero (x n : Nat) : bits x 0 n = x % 2 ^ n := by
  rw [bits, Nat.pow_zero, Nat.div_one]

theorem plimWord_eq (v : Nat) : plimWord v = BitVec.ofNat 64 (max 150 (min 600 (v % 2 ^ 10))) := by
  rw [plimWord, bits_zero]

theorem va64_and_low32 (v : Nat) : va64 v &&& 0xFFFFFFFF = BitVec.ofNat 64 (v % 2 ^ 32) := by
  refine BitVec.eq_of_toNat_eq ?_
  rw [BitVec.toNat_and, va64, BitVec.toNat_ofNat, BitVec.toNat_ofNat]
  change v % 2 ^ 64 &&& (2 ^ 32 - 1) = _
  rw [Nat.and_two_pow_sub_one_eq_mod]
  omega

theorem and_busy_eq_zero {x : DWord} (h : x.getLsbD 19 = false) : x &&& 0x80000 = 0 := by
  have hm : ∀ i < 64, (0x80000 : DWord).getLsbD i = decide (i = 19) := by decide
  refine BitVec.eq_of_getLsbD_eq fun i hi => ?_
  rw [BitVec.getLsbD_and, hm i hi]
  by_cases h19 : i = 19
  · rw [h19, h, Bool.false_and]
    rfl
  · rw [decide_eq_false h19, Bool.and_false]
    exact BitVec.getLsbD_zero.symm

/-! PREEMPT (spec/14 R338) -/

section
variable {s : State} {v : Nat}

/-- Without a request and without BUSY the new ASID is all that PREEMPT then holds. -/
theorem State.writePreempt_asid (hv : bits v 16 3 = 0) (hb : s.preempt.getLsbD 19 = false) :
    s.writePreempt v = { s with preempt := BitVec.ofNat 64 (v % 65536) } := by
  have h0 : (0 : DWord) ||| BitVec.ofNat 64 (bits v 0 16) = BitVec.ofNat 64 (v % 65536) := by rw [bits_zero]; exact BitVec.zero_or
  unfold State.writePreempt
  simp only [hv, hb, and_busy_eq_zero hb, h0, ne_eq, not_true_eq_false, decide_false, Bool.false_and, Bool.false_eq_true, if_false,
    Bool.not_false, if_true]

theorem State.writePreempt_busy (hv : bits v 16 3 ≠ 0) (hb : s.preempt.getLsbD 19 = true) : s.writePreempt v = s := by
  unfold State.writePreempt
  simp only [hv, hb, ne_eq, not_false_eq_true, decide_true, Bool.and_self, if_true]

/-- The request bits of a word, one by one. -/
theorem testBit_request {c : Nat} (hv : bits v 16 3 = c) : v.testBit 16 = c.testBit 0 ∧ v.testBit 17 = c.testBit 1 ∧
    v.testBit 18 = c.testBit 2 := by
  subst hv
  exact ⟨(testBit_bits v 16 3 0).symm, (testBit_bits v 16 3 1).symm, (testBit_bits v 16 3 2).symm⟩

/-- A single request without BUSY is the event of its name. -/
theorem State.writePreempt_request (hb : s.preempt.getLsbD 19 = false) :
    (bits v 16 3 = 1 → s.writePreempt v = outState s (exec (.preemptPre (v % 65536)) s)) ∧
    (bits v 16 3 = 2 → s.writePreempt v = outState s (exec (.preemptRes (v % 65536)) s)) ∧
    (bits v 16 3 = 4 → s.writePreempt v = outState s (exec (.preemptKill (v % 65536)) s)) := by
  have h0 : bits v 0 16 = v % 65536 := bits_zero ..
  refine ⟨fun hv => ?_, fun hv => ?_, fun hv => ?_⟩
  all_goals
    obtain ⟨h16, h17, h18⟩ := testBit_request hv
    unfold State.writePreempt
    rw [hv, hb, h0, h16, h17, h18]
    rfl

end

/-! How a write arrives (spec/17 R409, R413, R415) -/

section
variable {s : State} {v a : Nat} {half : Bool}

theorem exec_registerWrite_optN (h : s.life.optN = true) : exec (.registerWrite a v half) s = .next s := by
  change execRegisterWrite a v half s = _
  simp only [execRegisterWrite, h, if_true]

theorem exec_registerWrite_window0 (h : s.life.optN = false) (ha : a < 2 ^ 22) :
    exec (.registerWrite a v half) s = finish ({ s with hostErr := false }.regAccess a v half) := by
  change execRegisterWrite a v half s = _
  simp only [execRegisterWrite, h, ha, Bool.false_eq_true, if_false, true_or, if_true]

/-- A peer's write through a port that takes register packets is an access. -/
theorem exec_registerPacket_write {src : Nat} (hon : s.fabcfg.getLsbD 12 = true) (hn : s.fabNext = none)
    (hsrc : s.fabcfg.getLsbD (8 + src % 4) = true) :
    exec (.registerPacket true src a v half) s = finish (s.regAccess a v half) := by
  change execRegisterPacket true src a v half s = _
  simp only [execRegisterPacket, State.fabOn, hon, hn, hsrc, Option.isNone_none, Bool.and_self, Bool.not_true, Bool.false_eq_true,
    if_false, if_true]

/-- The device of window k, as State.windowPort finds it. -/
def State.windowDev (s : State) (k : Nat) : Nat := (bits s.fabcfg.toNat 0 2 + k) % 4

theorem State.windowPort_of_route {k p : Nat} (hok : s.peerOk (s.windowDev k) 0 = true) (hp : s.peerRoute (s.windowDev k) 0 = some p) :
    s.windowPort k = some (s.windowDev k, p) := by
  unfold State.windowDev at *
  simp only [State.windowPort, hok, hp, if_true, Option.map_some]

theorem State.windowPort_unreached {k : Nat} (hok : s.peerOk (s.windowDev k) 0 = false) : s.windowPort k = none := by
  unfold State.windowDev at *
  simp only [State.windowPort, hok, Bool.false_eq_true, if_false]

section
variable (hn : s.life.optN = false) (hc : s.closed = false) (h1 : 2 ^ 22 ≤ a) (h2 : a < 2 ^ 24)
include hn hc h1 h2

/-- A write to a peer's window goes out as a packet. -/
theorem exec_registerWrite_window {dev p : Nat} (hp : s.windowPort (a / 2 ^ 22) = some (dev, p)) : exec (.registerWrite a v half) s =
    .next ({ s with hostErr := false }.send p none (.reg dev true (a % 2 ^ 22) v half)) := by
  change execRegisterWrite a v half s = _
  unfold execRegisterWrite
  rw [hn, hc, if_neg Bool.false_ne_true, if_neg (by omega), if_neg Bool.false_ne_true, hp]

/-- A write to a window whose device cannot be reached ends in an error. -/
theorem exec_registerWrite_unreached (hp : s.windowPort (a / 2 ^ 22) = none) :
    exec (.registerWrite a v half) s = .next { s with hostErr := true } := by
  change execRegisterWrite a v half s = _
  unfold execRegisterWrite
  rw [hn, hc, if_neg Bool.false_ne_true, if_neg (by omega), if_neg Bool.false_ne_true, hp]

end

/-! What an access comes to -/

theorem State.regAccess_window (s : State) (ha : 2 ^ 22 ≤ a) : s.regAccess a v half = s := by
  unfold State.regAccess
  rw [decide_eq_true ha, Bool.or_true, if_pos rfl]

theorem State.regAccess_word_misaligned (s : State) (h : a % 8 ≠ 0) : s.regAccess a v false = s := by
  unfold State.regAccess
  rw [if_neg Bool.false_ne_true, if_neg h, ite_self]

theorem State.regAccess_half_misaligned (s : State) (h : a % 4 ≠ 0) : s.regAccess a v true = s := by
  unfold State.regAccess
  rw [if_pos rfl, if_neg h, ite_self]

section
variable (hc : s.closed = false) (ha : a < 2 ^ 22)
include hc ha

theorem State.regAccess_word (h : a % 8 = 0) : s.regAccess a v false = s.regStore a v := by
  unfold State.regAccess
  rw [hc, decide_eq_false (Nat.not_le.2 ha), Bool.or_false, if_neg Bool.false_ne_true, if_neg Bool.false_ne_true, if_pos h]

theorem State.regAccess_half (h : a % 4 = 0) : s.regAccess a v true = s.regWriteHalf a v := by
  unfold State.regAccess
  rw [hc, decide_eq_false (Nat.not_le.2 ha), Bool.or_false, if_neg Bool.false_ne_true, if_pos rfl, if_pos h]

end

end

/-! A register that takes a write, however it arrives -/

/-- A write of v to a, from the host or from a peer, makes f of the state. -/
def State.Writes (s : State) (v : Nat) (half : Bool) (a : Nat) (f : State → State) : Prop :=
  (s.life.optN = false → a < 2 ^ 22 → exec (.registerWrite a v half) s = .next (f { s with hostErr := false })) ∧
  (∀ src, s.fabcfg.getLsbD 12 = true → s.fabNext = none → s.fabcfg.getLsbD (8 + src % 4) = true →
    exec (.registerPacket true src a v half) s = .next (f s))

/-- A write of v to a is the event i in the state that pre leaves. -/
def State.Passes (s : State) (v a : Nat) (i : Instr) (pre : State → State) : Prop :=
  (s.life.optN = false → ∀ t, exec i (pre { s with hostErr := false }) = .next t → t.stuck = none →
    exec (.registerWrite a v false) s = .next t) ∧
  (∀ src, s.fabcfg.getLsbD 12 = true → s.fabNext = none → s.fabcfg.getLsbD (8 + src % 4) = true →
    ∀ t, exec i (pre s) = .next t → t.stuck = none → exec (.registerPacket true src a v false) s = .next t)

section
variable {s : State} {v a : Nat} {f : State → State}

/-- Both ways a write arrives are an access, which differs in the host's error flag alone. -/
theorem State.writes_of_access {half : Bool} (hs : s.stuck = none) (hf : ∀ t, (f t).stuck = t.stuck)
    (h : ∀ e, State.regAccess { s with hostErr := e } a v half = f { s with hostErr := e }) : s.Writes v half a f := by
  have hx (e : Bool) : finish (State.regAccess { s with hostErr := e } a v half) = .next (f { s with hostErr := e }) := by
    rw [h]
    exact finish_next ((hf _).trans hs)
  exact ⟨fun hn ha => (exec_registerWrite_window0 hn ha).trans (hx false),
    fun src h1 h2 h3 => (exec_registerPacket_write h1 h2 h3).trans (hx s.hostErr)⟩

section
variable (hs : s.stuck = none) (hc : s.closed = false) (ha : a < 2 ^ 22)
include hs hc ha

theorem State.writes_word (h8 : a % 8 = 0) (hf : ∀ t, (f t).stuck = t.stuck)
    (h : ∀ e, State.regStore { s with hostErr := e } a v = f { s with hostErr := e }) : s.Writes v false a f :=
  State.writes_of_access hs hf fun e => (State.regAccess_word (s := { s with hostErr := e }) hc ha h8).trans (h e)

theorem State.writes_half (h4 : a % 4 = 0) (hf : ∀ t, (f t).stuck = t.stuck)
    (h : ∀ e, State.regWriteHalf { s with hostErr := e } a v = f { s with hostErr := e }) : s.Writes v true a f :=
  State.writes_of_access hs hf fun e => (State.regAccess_half (s := { s with hostErr := e }) hc ha h4).trans (h e)

end

theorem State.passes_of_store (hc : s.closed = false) (ha : a < 2 ^ 22) (h8 : a % 8 = 0) {i : Instr} {pre : State → State}
    (h : ∀ e, State.regStore { s with hostErr := e } a v =
      outState (pre { s with hostErr := e }) (exec i (pre { s with hostErr := e }))) :
    s.Passes v a i pre := by
  have hx (e : Bool) (t : State) (ht : exec i (pre { s with hostErr := e }) = .next t) (hst : t.stuck = none) :
      finish (State.regAccess { s with hostErr := e } a v false) = .next t := by
    rw [State.regAccess_word (s := { s with hostErr := e }) hc ha h8, h, ht]
    exact finish_next hst
  exact ⟨fun hn t ht hst => (exec_registerWrite_window0 hn ha).trans (hx false t ht hst),
    fun src h1 h2 h3 t ht hst => (exec_registerPacket_write h1 h2 h3).trans (hx s.hostErr t ht hst)⟩

end

/-! The registers of window 0 (spec/17 R409). Of a block of them, each address is looked at by itself. -/

/-- A word with its low half, or its high half, replaced by that of v. -/
def lowHalf (x : DWord) (v : Nat) : DWord := BitVec.ofNat 64 (x.toNat / 2 ^ 32 * 2 ^ 32 + v % 2 ^ 32)
def highHalf (x : DWord) (v : Nat) : DWord := BitVec.ofNat 64 (x.toNat % 2 ^ 32 + 2 ^ 32 * (v % 2 ^ 32))

/-- A change of the registers of ring k. -/
def State.modRing (s : State) (k : Nat) (f : Ring → Ring) : State := { s with rings := s.rings.put k (f (s.rings.lookD Ring.reset k)) }

/-- The halves of a write-only register, kept for 4-byte writes (log 58). -/
def State.keepHalves (s : State) (a v : Nat) : State :=
  { s with halves := s.halves.putD (0, 0) a (BitVec.ofNat 32 v, BitVec.ofNat 32 (v / 2 ^ 32)) }

section
variable (s : State) (v : Nat)

theorem State.ringIdle_stuck (k : Nat) : (s.ringIdle k).stuck = s.stuck := by
  unfold State.ringIdle
  dsimp only
  repeat' split
  all_goals rfl

theorem State.regStore_plim : s.regStore 0x08 v = { s with plim := BitVec.ofNat 64 (max 150 (min 600 (v % 2 ^ 10))) } := by
  rw [← plimWord_eq]
  rfl

theorem State.regStore_sampper : s.regStore 0x40 v = { s with sampper := BitVec.ofNat 64 (v % 2 ^ 32) } := by
  rw [← va64_and_low32]
  rfl

theorem State.regStore_preempt : s.regStore 0x28 v = s.writePreempt v := rfl

theorem State.regStore_vserr :
    s.regStore 0x58 v = if bits v 2 30 = 0 then { s with vserr := s.vserr &&& 0xFFFFFFFF00000003 } else s := rfl

theorem State.regStore_fltresp : s.regStore 0x30 v =
    let t := s.keepHalves 0x30 v
    if bits v 32 2 = 1 then outState t (exec (.fltrespRetry (bits v 0 32)) t)
    else if bits v 32 2 = 2 then outState t (exec (.fltrespUnresolved (bits v 0 32)) t) else t := rfl

section
variable {k : Nat} (hk : k < 4)
include hk

theorem State.regStore_ringBase :
    s.regStore (0x100 + 0x40 * k) v = (s.modRing k (fun r => { r with base := va64 v, off := false })).ringIdle k := by
  iterate 4 (obtain _ | k := k; · rfl)
  omega

theorem State.regStore_ringSize :
    s.regStore (0x108 + 0x40 * k) v = (s.modRing k (fun r => { r with size := va64 v, off := false })).ringIdle k := by
  iterate 4 (obtain _ | k := k; · rfl)
  omega

theorem State.regStore_ringHead : s.regStore (0x110 + 0x40 * k) v = s := by
  iterate 4 (obtain _ | k := k; · rfl)
  omega

theorem State.regStore_ringTail : s.regStore (0x118 + 0x40 * k) v = s.modRing k (fun r => { r with tail := va64 v }) := by
  iterate 4 (obtain _ | k := k; · rfl)
  omega

theorem State.regStore_ringVec : s.regStore (0x120 + 0x40 * k) v = s.modRing k (fun r => { r with vec := va64 v }) := by
  iterate 4 (obtain _ | k := k; · rfl)
  omega

theorem State.regWriteHalf_ringTail_low :
    s.regWriteHalf (0x118 + 0x40 * k) v = s.modRing k (fun r => { r with tail := lowHalf r.tail v }) := by
  iterate 4 (obtain _ | k := k; · rfl)
  omega

theorem State.regWriteHalf_ringTail_high :
    s.regWriteHalf (0x11C + 0x40 * k) v = s.modRing k (fun r => { r with tail := highHalf r.tail v }) := by
  iterate 4 (obtain _ | k := k; · rfl)
  omega

end

theorem State.regStore_watchAddress {k : Nat} (hk : k < 8) :
    s.regStore (0x200 + 16 * k) v = { s with wps := s.wps.put k (va64 v, (s.wps.lookD (0, 0) k).2) } := by
  iterate 8 (obtain _ | k := k; · rfl)
  omega

theorem State.regStore_watchControl {k : Nat} (hk : k < 8) :
    s.regStore (0x208 + 16 * k) v = { s with wps := s.wps.put k ((s.wps.lookD (0, 0) k).1, wpcWord v) } := by
  iterate 8 (obtain _ | k := k; · rfl)
  omega

section
variable {k : Nat} (hk : k < 12)
include hk

theorem State.regStore_dbgctl :
    s.regStore (0x1000 + 0x40 * k) v = s.modCluster k (fun c => { c with dbgctl := va64 v &&& 0xFFFF0007 }) := by
  iterate 12 (obtain _ | k := k; · rfl)
  omega

theorem State.regStore_dumpbase : s.regStore (0x1008 + 0x40 * k) v = s.modCluster k (fun c => { c with dumpbase := va64 v }) := by
  iterate 12 (obtain _ | k := k; · rfl)
  omega

theorem State.regStore_frsva : s.regStore (0x1010 + 0x40 * k) v = s.modCluster k (fun c => { c with frsva := frsvWord v }) := by
  iterate 12 (obtain _ | k := k; · rfl)
  omega

theorem State.regStore_frsvb : s.regStore (0x1018 + 0x40 * k) v = s.modCluster k (fun c => { c with frsvb := frsvWord v }) := by
  iterate 12 (obtain _ | k := k; · rfl)
  omega

theorem State.regStore_dbgcmd : s.regStore (0x1020 + 0x40 * k) v =
    let t := s.keepHalves (0x1020 + 0x40 * k) v
    if v % 4 = 1 then outState t (exec (.dbgcmdStop k v) t) else if v % 4 = 2 then outState t (exec (.dbgcmdResume k v) t) else t := by
  iterate 12 (obtain _ | k := k; · rfl)
  omega

end

variable {s} in
/-- A word of the MSI-X table that unmasks no pending vector is but stored. -/
theorem State.msixWrite_quiet {i : Nat} {w : Word} (h : i % 4 ≠ 3 ∨ w.getLsbD 0 = true ∨ s.msiPend.contains (i / 4) = false) :
    s.msixWrite i w = { s with msix := s.msix.putD (msixReset i) i w } := by
  unfold State.msixWrite
  refine if_neg fun ⟨h3, hw, hp⟩ => ?_
  rcases h with h | h | h
  · exact h h3
  · rw [h] at hw; cases hw
  · exact Bool.eq_false_iff.1 h hp

theorem State.regWriteHalf_msix {i : Nat} (hi : i < 8192) :
    s.regWriteHalf (0x300000 + 4 * i) v = s.msixWrite i (BitVec.ofNat 32 v) := by
  unfold State.regWriteHalf
  rw [if_pos (by omega), Nat.add_sub_cancel_left, Nat.mul_div_cancel_left i (by decide)]

end

/-! What each register takes, however the write arrives -/

section
variable {s : State} (v : Nat) (hs : s.stuck = none) (hc : s.closed = false)
include hs hc

/-- The registers at one address each, by words. -/
theorem State.writes_word_base :
    s.Writes v false 0x00 id ∧ s.Writes v false 0x08 (fun s => { s with plim := BitVec.ofNat 64 (max 150 (min 600 (v % 2 ^ 10))) }) ∧
    s.Writes v false 0x10 (fun s => { s with qtabbase := va64 v }) ∧ s.Writes v false 0x20 (fun s => { s with ctxbase := va64 v }) ∧
    s.Writes v false 0x38 (fun s => { s with cntbase := va64 v }) ∧
    s.Writes v false 0x40 (fun s => { s with sampper := BitVec.ofNat 64 (v % 2 ^ 32) }) := by
  refine ⟨?_, ?_, ?_, ?_, ?_, ?_⟩
  all_goals refine State.writes_word hs hc (by decide) (by decide) (fun _ => rfl) fun e => ?_
  · rfl
  · exact State.regStore_plim ..
  · rfl
  · rfl
  · rfl
  · exact State.regStore_sampper ..

/-- The base registers by halves. -/
theorem State.writes_half_base :
    s.Writes v true 0x10 (fun s => { s with qtabbase := lowHalf s.qtabbase v }) ∧
    s.Writes v true 0x14 (fun s => { s with qtabbase := highHalf s.qtabbase v }) ∧
    s.Writes v true 0x20 (fun s => { s with ctxbase := lowHalf s.ctxbase v }) ∧
    s.Writes v true 0x24 (fun s => { s with ctxbase := highHalf s.ctxbase v }) ∧
    s.Writes v true 0x38 (fun s => { s with cntbase := lowHalf s.cntbase v }) ∧
    s.Writes v true 0x3C (fun s => { s with cntbase := highHalf s.cntbase v }) := by
  refine ⟨?_, ?_, ?_, ?_, ?_, ?_⟩
  all_goals exact State.writes_half hs hc (by decide) (by decide) (fun _ => rfl) fun _ => rfl

theorem State.writes_ring {k : Nat} (hk : k < 4) :
    s.Writes v false (0x100 + 0x40 * k) (fun s => (s.modRing k (fun r => { r with base := va64 v, off := false })).ringIdle k) ∧
    s.Writes v false (0x108 + 0x40 * k) (fun s => (s.modRing k (fun r => { r with size := va64 v, off := false })).ringIdle k) ∧
    s.Writes v false (0x110 + 0x40 * k) id ∧
    s.Writes v false (0x118 + 0x40 * k) (State.modRing · k (fun r => { r with tail := va64 v })) ∧
    s.Writes v false (0x120 + 0x40 * k) (State.modRing · k (fun r => { r with vec := va64 v })) ∧
    s.Writes v true (0x118 + 0x40 * k) (State.modRing · k (fun r => { r with tail := lowHalf r.tail v })) ∧
    s.Writes v true (0x11C + 0x40 * k) (State.modRing · k (fun r => { r with tail := highHalf r.tail v })) :=
  ⟨State.writes_word hs hc (by omega) (by omega) (fun _ => State.ringIdle_stuck ..) fun _ => State.regStore_ringBase _ v hk,
    State.writes_word hs hc (by omega) (by omega) (fun _ => State.ringIdle_stuck ..) fun _ => State.regStore_ringSize _ v hk,
    State.writes_word hs hc (by omega) (by omega) (fun _ => rfl) fun _ => State.regStore_ringHead _ v hk,
    State.writes_word hs hc (by omega) (by omega) (fun _ => rfl) fun _ => State.regStore_ringTail _ v hk,
    State.writes_word hs hc (by omega) (by omega) (fun _ => rfl) fun _ => State.regStore_ringVec _ v hk,
    State.writes_half hs hc (by omega) (by omega) (fun _ => rfl) fun _ => State.regWriteHalf_ringTail_low _ v hk,
    State.writes_half hs hc (by omega) (by omega) (fun _ => rfl) fun _ => State.regWriteHalf_ringTail_high _ v hk⟩

theorem State.writes_watchpoint {k : Nat} (hk : k < 8) :
    s.Writes v false (0x200 + 16 * k) (fun s => { s with wps := s.wps.put k (va64 v, (s.wps.lookD (0, 0) k).2) }) ∧
    s.Writes v false (0x208 + 16 * k) (fun s => { s with wps := s.wps.put k ((s.wps.lookD (0, 0) k).1, wpcWord v) }) :=
  ⟨State.writes_word hs hc (by omega) (by omega) (fun _ => rfl) fun _ => State.regStore_watchAddress _ v hk,
    State.writes_word hs hc (by omega) (by omega) (fun _ => rfl) fun _ => State.regStore_watchControl _ v hk⟩

theorem State.writes_cluster {k : Nat} (hk : k < 12) :
    s.Writes v false (0x1000 + 0x40 * k) (State.modCluster · k (fun c => { c with dbgctl := va64 v &&& 0xFFFF0007 })) ∧
    s.Writes v false (0x1008 + 0x40 * k) (State.modCluster · k (fun c => { c with dumpbase := va64 v })) ∧
    s.Writes v false (0x1010 + 0x40 * k) (State.modCluster · k (fun c => { c with frsva := frsvWord v })) ∧
    s.Writes v false (0x1018 + 0x40 * k) (State.modCluster · k (fun c => { c with frsvb := frsvWord v })) :=
  ⟨State.writes_word hs hc (by omega) (by omega) (fun _ => rfl) fun _ => State.regStore_dbgctl _ v hk,
    State.writes_word hs hc (by omega) (by omega) (fun _ => rfl) fun _ => State.regStore_dumpbase _ v hk,
    State.writes_word hs hc (by omega) (by omega) (fun _ => rfl) fun _ => State.regStore_frsva _ v hk,
    State.writes_word hs hc (by omega) (by omega) (fun _ => rfl) fun _ => State.regStore_frsvb _ v hk⟩

theorem State.writes_msix {i : Nat} (hi : i < 8192) (h : i % 4 ≠ 3 ∨ v % 2 = 1 ∨ s.msiPend.contains (i / 4) = false) :
    s.Writes v true (0x300000 + 4 * i) (fun s => { s with msix := s.msix.putD (msixReset i) i (BitVec.ofNat 32 v) }) := by
  have hodd : v % 2 = 1 → (BitVec.ofNat 32 v).getLsbD 0 = true := fun hv => by
    rw [BitVec.getLsbD_ofNat, Nat.testBit_zero, hv]
    rfl
  exact State.writes_half hs hc (by omega) (by omega) (fun _ => rfl) fun e =>
    (State.regWriteHalf_msix _ v hi).trans (State.msixWrite_quiet (s := { s with hostErr := e }) (h.imp_right (Or.imp_left hodd)))

theorem State.writes_vserr :
    (bits v 2 30 = 0 → s.Writes v false 0x58 (fun s => { s with vserr := s.vserr &&& 0xFFFFFFFF00000003 })) ∧
    (bits v 2 30 ≠ 0 → s.Writes v false 0x58 id) :=
  ⟨fun h => State.writes_word hs hc (by decide) (by decide) (fun _ => rfl) fun _ => (State.regStore_vserr _ v).trans (if_pos h),
    fun h => State.writes_word hs hc (by decide) (by decide) (fun _ => rfl) fun _ => (State.regStore_vserr _ v).trans (if_neg h)⟩

/-- PREEMPT without a request, or with one that BUSY has ignored. -/
theorem State.writes_preempt :
    (bits v 16 3 = 0 → s.preempt.getLsbD 19 = false →
      s.Writes v false 0x28 (fun s => { s with preempt := BitVec.ofNat 64 (v % 65536) })) ∧
    (bits v 16 3 ≠ 0 → s.preempt.getLsbD 19 = true → s.Writes v false 0x28 id) :=
  ⟨fun h hb => State.writes_word hs hc (by decide) (by decide) (fun _ => rfl) fun e =>
      State.writePreempt_asid (s := { s with hostErr := e }) h hb,
    fun h hb => State.writes_word hs hc (by decide) (by decide) (fun _ => rfl) fun e =>
      State.writePreempt_busy (s := { s with hostErr := e }) h hb⟩

omit hs

theorem State.passes_preempt (hb : s.preempt.getLsbD 19 = false) :
    (bits v 16 3 = 1 → s.Passes v 0x28 (.preemptPre (v % 65536)) id) ∧
    (bits v 16 3 = 2 → s.Passes v 0x28 (.preemptRes (v % 65536)) id) ∧
    (bits v 16 3 = 4 → s.Passes v 0x28 (.preemptKill (v % 65536)) id) := by
  have hr (e : Bool) := State.writePreempt_request (s := { s with hostErr := e }) (v := v) hb
  refine ⟨fun h => State.passes_of_store hc (by decide) (by decide) fun e => ?_,
    fun h => State.passes_of_store hc (by decide) (by decide) fun e => ?_,
    fun h => State.passes_of_store hc (by decide) (by decide) fun e => ?_⟩
  all_goals
    obtain ⟨hpre, hres, hkill⟩ := hr e
    rw [State.regStore_preempt]
  · exact hpre h
  · exact hres h
  · exact hkill h

theorem State.passes_fltresp :
    (bits v 32 2 = 1 → s.Passes v 0x30 (.fltrespRetry (bits v 0 32)) (State.keepHalves · 0x30 v)) ∧
    (bits v 32 2 = 2 → s.Passes v 0x30 (.fltrespUnresolved (bits v 0 32)) (State.keepHalves · 0x30 v)) := by
  refine ⟨fun h => State.passes_of_store hc (by decide) (by decide) fun e => ?_,
    fun h => State.passes_of_store hc (by decide) (by decide) fun e => ?_⟩
  · rw [State.regStore_fltresp]
    exact if_pos h
  · rw [State.regStore_fltresp, h]
    rfl

theorem State.passes_dbgcmd {k : Nat} (hk : k < 12) :
    (v % 4 = 1 → s.Passes v (0x1020 + 0x40 * k) (.dbgcmdStop k v) (State.keepHalves · (0x1020 + 0x40 * k) v)) ∧
    (v % 4 = 2 → s.Passes v (0x1020 + 0x40 * k) (.dbgcmdResume k v) (State.keepHalves · (0x1020 + 0x40 * k) v)) := by
  refine ⟨fun h => State.passes_of_store hc (by omega) (by omega) fun e => ?_,
    fun h => State.passes_of_store hc (by omega) (by omega) fun e => ?_⟩
  · rw [State.regStore_dbgcmd _ v hk]
    exact if_pos h
  · rw [State.regStore_dbgcmd _ v hk, h]
    rfl

/-- The registers whose every write is an event of its own. -/
theorem State.passes_base : s.Passes v 0x18 (.qkick (v % 2 ^ 32)) id ∧ s.Passes v 0x48 (.vsbaseWrite v) id ∧
    s.Passes v 0x50 (.vssizeWrite v) id ∧ s.Passes v 0x60 (.fabcfgWrite v) id ∧ s.Passes v 0x68 (.portstatWrite 0 v) id ∧
    s.Passes v 0x70 (.portstatWrite 1 v) id := by
  refine ⟨?_, ?_, ?_, ?_, ?_, ?_⟩
  all_goals exact State.passes_of_store hc (by decide) (by decide) fun _ => rfl

end

/-- A write to a misaligned address writes nothing. -/
theorem State.writes_misaligned {s : State} (v : Nat) (hs : s.stuck = none) :
    (∀ a, a % 8 ≠ 0 → s.Writes v false a id) ∧ (∀ a, a % 4 ≠ 0 → s.Writes v true a id) :=
  ⟨fun _ h => State.writes_of_access hs (fun _ => rfl) fun _ => State.regAccess_word_misaligned _ h,
    fun _ h => State.writes_of_access hs (fun _ => rfl) fun _ => State.regAccess_half_misaligned _ h⟩

theorem bits_frsvWord (v : Nat) :
    bits (frsvWord v).toNat 0 1 = v % 2 ∧ bits (frsvWord v).toNat 13 5 = min 28 (bits v 13 5) ∧
    bits (frsvWord v).toNat 18 4 = min 8 (bits v 18 4) ∧ bits (frsvWord v).toNat 22 5 = min 16 (bits v 22 5) ∧
    bits (frsvWord v).toNat 27 5 = min 16 (bits v 27 5) ∧ bits (frsvWord v).toNat 32 9 = min 384 (bits v 32 9) :=
  ⟨bits_frsvWord_valid v, bits_frsvWord_gran v, bits_frsvWord_accs v, bits_frsvWord_tiles v, bits_frsvWord_ctx v, bits_frsvWord_regs v⟩

/-- Settles O60: every write is an access, of the host or of a peer, and each register's clause is what an access makes of it. -/
theorem registerWrites : Obligations.RegisterWrites := by
  intro s v hs hc wrote wr half via kept ring lo hi wpc
  obtain ⟨hw00, hw08, hw10, hw20, hw38, hw40⟩ := State.writes_word_base v hs hc
  obtain ⟨hh10, hh14, hh20, hh24, hh38, hh3c⟩ := State.writes_half_base v hs hc
  obtain ⟨hasid, hbusy⟩ := State.writes_preempt v hs hc
  obtain ⟨hqkick, hvsbase, hvssize, hfabcfg, hport0, hport1⟩ := State.passes_base v hc
  obtain ⟨hretry, hunresolved⟩ := State.passes_fltresp v hc
  obtain ⟨hclear, hkeep⟩ := State.writes_vserr v hs hc
  obtain ⟨hword, hhalf⟩ := State.writes_misaligned v hs
  refine ⟨fun hn _ _ => exec_registerWrite_optN hn, hw00, hw08, hw10, hw20, hw38, hw40, hh10, hh14, hh20, hh24, hh38, hh3c, hasid, hbusy,
    fun hb => State.passes_preempt v hc hb, hqkick, hretry, hunresolved, hvsbase, hvssize, hfabcfg, hport0, hport1,
    fun k hk => State.passes_dbgcmd v hc hk, hclear, hkeep, fun k hk => State.writes_ring v hs hc hk, fun k hk => ?watchpoint,
    fun k hk => State.writes_cluster v hs hc hk, bits_frsvWord v, fun i hi h => State.writes_msix v hs hc hi h, hword, hhalf,
    fun a src h ha hon hn hsrc => ?packet, fun a h hn h1 h2 => ?window⟩
  case watchpoint =>
    have hwpc : wpcWord v = wpc v := wpcWord_eq v
    rw [← hwpc]
    exact State.writes_watchpoint v hs hc hk
  case packet =>
    rw [exec_registerPacket_write hon hn hsrc, State.regAccess_window s ha]
    exact finish_next hs
  case window =>
    exact ⟨fun p hok hp => exec_registerWrite_window hn hc h1 h2 (State.windowPort_of_route hok hp),
      fun hok => exec_registerWrite_unreached hn hc h1 h2 (State.windowPort_unreached hok)⟩

end Sys2Proof.Machine

/-! PROOFS, spec/14. Pre-emption: its requests, the report of an overrun, saves, discards and resumptions (R338 to R344). -/

namespace Sys2Proof.Machine

/-! Requests (spec/14 R338) -/

/-- The launches of an ASID that have not ended and are no fill tasks: those that KILL ends. -/
def State.liveOf (s : State) (asid : Nat) : Tbl Launch :=
  s.launches.filter (fun x => x.2.status.isNone && x.2.fill.isNone && x.2.asid == asid)

/-- Those of them with a save region, which PRE asks. -/
def State.askedOf (s : State) (asid : Nat) : List Nat := ((s.liveOf asid).filter (fun x => x.2.saveA != 0)).map (·.1)

@[simp] theorem State.askLaunch_wgs (s : State) (l : Nat) : (s.askLaunch l).wgs = s.wgs := rfl

section
variable {s : State} {asid : Nat}

/-- While BUSY stands, a request does nothing. -/
theorem exec_preempt_busy (hbusy : s.preempt.getLsbD 19 = true) :
    exec (.preemptPre asid) s = .next s ∧ exec (.preemptRes asid) s = .next s ∧ exec (.preemptKill asid) s = .next s :=
  ⟨if_pos hbusy, if_pos hbusy, if_pos hbusy⟩

section
variable (hidle : s.preempt.getLsbD 19 = false)
include hidle

/-- Asking the launches changes no workgroup, so those discarded are picked among the workgroups as they were. -/
theorem exec_preemptPre : exec (.preemptPre asid) s =
    finish (((s.wgs.filter (fun w => (s.askedOf asid).contains w.2.launch)).map (·.1)).foldl (fun s w => (s.tryDiscard w).1)
      ((s.askedOf asid).foldl State.askLaunch { s with preempt := BitVec.ofNat 64 (asid % 65536) ||| 0x80000 })).settlePreempt := by
  have hasked : (s.launches.filter (fun x => x.2.status.isNone && x.2.fill.isNone && x.2.asid == asid && x.2.saveA != 0)).map (·.1) =
      s.askedOf asid := by
    simp only [State.askedOf, State.liveOf, List.filter_filter, Bool.and_comm]
  have hwgs (ls : List Nat) (u : State) : (ls.foldl State.askLaunch u).wgs = u.wgs := foldl_proj State.wgs State.askLaunch_wgs ls u
  change execPreemptPre asid s = _
  simp only [execPreemptPre, hidle, Bool.false_eq_true, if_false, hasked, hwgs]

theorem exec_preemptRes : exec (.preemptRes asid) s =
    .next { s with preempt := BitVec.ofNat 64 (asid % 65536), launches := s.launches.mapAll (fun _ x =>
      if x.status.isNone ∧ x.asid = asid ∧ x.preempting then { x with preempting := false, placeable := true, waitFrom := s.dieClk, fitted := 0 }
      else x) } :=
  if_neg (ne_true_of_eq_false hidle)

theorem exec_preemptKill : exec (.preemptKill asid) s =
    .next (((s.liveOf asid).map (·.1)).foldl (fun t l => t.endLaunch l 10 0 0 0 0 0 t.dieClk)
      { s with preempt := BitVec.ofNat 64 (asid % 65536) }) :=
  if_neg (ne_true_of_eq_false hidle)

end

end

section
variable {s : State} {c ctx : Nat} {g : Group} {x : Launch} (hg : s.group? c ctx = some g) (hx : s.launches.look g.launch = some x)
  (hp : x.preempting = true)
include hg hx hp

/-! Overruns (spec/14 R340) -/

/-- A slot past its spacing is reported once: after the report both slots' counts stand at 2^40. -/
theorem exec_preemptOverrun {n : Nat} (hv : (g.slotOf n).valid = true) (hstop : (g.slotOf n).atStopPoint = false)
    (hfar : x.hdr.spgap ≤ (g.slotOf n).passed) (h0 : g.slot0.passed < 2 ^ 40) (h1 : g.slot1.passed < 2 ^ 40) :
    exec (.preemptOverrun c ctx n) s =
      .next ((s.report 4 0 x.asid 0 (g.slotOf n).pc 0 0 (s.stamp c g n false) (s.core c).clk).modGroup c ctx (fun g =>
        { g with slot0 := { g.slot0 with passed := 2 ^ 40 }, slot1 := { g.slot1 with passed := 2 ^ 40 } })) := by
  change execPreemptOverrun c ctx n s = _
  simp only [execPreemptOverrun, hg, hx, hp, hv, hstop, hfar, h0, h1, decide_true, Bool.not_false, Bool.and_self, if_true]

end

/-! Saves (spec/14 R341, R343) -/

/-- A group's save area, written to its slot: once it is there the group is done, and a fatal fault ends the launch with status 9. -/
def State.keepGroup (s : State) (c ctx : Nat) (g : Group) (asid slot : Nat) (bytes : List Byte) : State :=
  s.devWrite c asid slot bytes (g.launch, false) (fun s => (s.modGroup c ctx (fun g => { g with save := .done })).tryFinish g.wg)
    (fun s => s.endLaunch g.launch 9 8 (va64 slot) 0 5 0 (s.core c).clk)

/-- The slot a group's routine would run in, and that slot's row of the safe-point table, where it stands at a safe point alone. -/
def Group.saveSlot (g : Group) : Nat := if g.slot0.valid then 0 else 1
def Group.safeRow (g : Group) (k : KHdr) : Option (BitVec 32 × BitVec 32 × Nat) :=
  if !(g.slotOf (1 - g.saveSlot)).valid && (g.slotOf g.saveSlot).atStop then
    k.safeAt (codeOff g.kernel (g.slotOf g.saveSlot).clause) else none

/-- What becomes of a group that stands at its stops and is not discarded. -/
def State.saveStopped (s : State) (c ctx : Nat) (g : Group) (x : Launch) (w : Wg) : Out :=
  let slot := x.slotAt w.linear g.grpid
  let full : Out := if s.groupQuiet c g then finish (s.keepGroup c ctx g x.asid slot g.saveArea) else .next s
  match g.safeRow x.hdr with
  | some (save, _, _) => if save ≠ 0 then .next (s.startSave c ctx g.saveSlot save (slot + 128)) else full
  | none => full

/-- A group whose save is due: its launch, which has not ended, is being pre-empted, and the group is no bobbin program's nor of a
stopping rope. -/
structure State.SaveDue (s : State) (c ctx : Nat) (g : Group) (x : Launch) (w : Wg) : Prop where
  group : s.group? c ctx = some g
  launch : s.launches.look g.launch = some x
  wg : s.wgs.look g.wg = some w
  preempting : x.preempting = true
  running : x.status = none
  context : ctx ≠ 64
  unstopped : s.stopped g = false

section
variable {s : State} {c ctx : Nat} {g : Group} {x : Launch} {w : Wg} (h : s.SaveDue c ctx g x w)
include h

theorem State.SaveDue.not_skipped : (!x.preempting || x.status.isSome || ctx == 64 || s.stopped g) = false := by
  simp [h.preempting, h.running, h.context, h.unstopped]

/-- A group whose routine has ended keeps its header. -/
theorem exec_groupSave_saved (hsave : g.save = .saved) (hq : s.groupQuiet c g = true) : exec (.groupSave c ctx) s =
    finish (s.keepGroup c ctx g x.asid (x.slotAt w.linear g.grpid) g.routineHdr.bytes) := by
  change execGroupSave c ctx s = _
  simp only [execGroupSave, h.group, h.launch, h.wg, h.not_skipped, hsave, hq, Bool.false_eq_true, if_false, if_true]
  rfl

/-- A group that is saved, or has ended, has its workgroup finished. -/
theorem exec_groupSave_done (hsave : g.save = .done ∨ (g.save = .none ∧ g.ended = true)) :
    exec (.groupSave c ctx) s = finish (s.tryFinish g.wg) := by
  change execGroupSave c ctx s = _
  rcases hsave with hsave | ⟨hsave, hended⟩
  · simp only [execGroupSave, h.group, h.launch, h.wg, h.not_skipped, hsave, Bool.false_eq_true, if_false]
  · simp only [execGroupSave, h.group, h.launch, h.wg, h.not_skipped, hsave, hended, Bool.false_eq_true, if_false, if_true]

section
variable (hsave : g.save = .none) (hended : g.ended = false) (hhand : g.inHandler = false) (h0 : g.slot0.atStopPoint = true)
  (h1 : g.slot1.atStopPoint = true) {s1 : State}
include hsave hended hhand h0 h1

/-- Where its workgroup, or rope, may be discarded, it is. -/
theorem exec_groupSave_discard (hd : s.tryDiscard g.wg = (s1, true)) : exec (.groupSave c ctx) s = finish s1.settlePreempt := by
  change execGroupSave c ctx s = _
  simp only [execGroupSave, h.group, h.launch, h.wg, h.not_skipped, hsave, hended, hhand, h0, h1, hd, Bool.not_true, Bool.or_self,
    Bool.false_eq_true, if_false]

/-- Where it may not, its safe-point row decides: its routine is started, or, without one, it is saved in full once it is quiet. -/
theorem exec_groupSave_stopped (hd : s.tryDiscard g.wg = (s1, false)) : exec (.groupSave c ctx) s =
    s.saveStopped c ctx g x w := by
  change execGroupSave c ctx s = _
  simp only [execGroupSave, h.group, h.launch, h.wg, h.not_skipped, hsave, hended, hhand, h0, h1, hd, Bool.not_true, Bool.or_self,
    Bool.false_eq_true, if_false]
  rfl

end

end

section
variable {s : State} {c ctx : Nat} {g : Group} {x : Launch} {w : Wg}

theorem State.saveStopped_routine {save a : BitVec 32} {b : Nat} (hrow : g.safeRow x.hdr = some (save, a, b)) (hne : save ≠ 0) :
    s.saveStopped c ctx g x w = .next (s.startSave c ctx g.saveSlot save (x.slotAt w.linear g.grpid + 128)) := by
  rw [State.saveStopped, hrow]
  exact if_pos hne

theorem State.saveStopped_full (hrow : ∀ save a b, g.safeRow x.hdr = some (save, a, b) → save = 0) (hq : s.groupQuiet c g = true) :
    s.saveStopped c ctx g x w = finish (s.keepGroup c ctx g x.asid (x.slotAt w.linear g.grpid) g.saveArea) := by
  rw [State.saveStopped]
  cases hr : g.safeRow x.hdr with
  | none => exact if_pos hq
  | some row => exact (if_neg (not_not_intro (hrow _ _ _ hr))).trans (if_pos hq)

end

/-! Resumption (spec/14 R344) -/

/-- The bytes of a workgroup's block among those that were read. -/
def bytesRead (blocks : List (Nat × List Byte)) (j : Nat) : List Byte := ((blocks.find? (fun b => b.1 == j)).map (fun b => b.2)).getD []

/-- The barrier counts of a saved workgroup, as its launch's record keeps them. -/
def WgInfo.roundTbl (i : WgInfo) : Tbl Nat := ((i.rounds.zipIdx).map (fun r => (r.2, r.1))).filter (fun r => r.2 ≠ 0)

/-- The workgroups that are placed with workgroup i: its rope's, or itself. -/
def Launch.unitAt (x : Launch) (i : Nat) : List Nat :=
  let first := i / x.hdr.ropeN * x.hdr.ropeN
  (List.range (min x.hdr.ropeN (x.total - first))).map (fun v => first + v)

/-- The state with workgroup i on core c again, restored from the blocks read, and its barriers looked at. -/
def State.resumeOn (s : State) (l : Nat) (x : Launch) (i c b : Nat) (blocks : List (Nat × List Byte)) : State :=
  let all := x.unitAt i
  let t := (all.foldl (fun s j => s.afterResume x j (bytesRead blocks j))
    (s.putOne l i c b (x.wgAt i).roundTbl (fun y id g => y.resumeGroup l i (bytesRead blocks i) (s.core c).clk id g)).1).tookTurn l
  (t.wgs.filter (fun w => w.2.launch == l && all.contains w.2.linear)).foldl (fun s w => s.checkBarriers w.1) t

theorem exec_groupResume {s s0 s1 : State} {l c i : Nat} {x : Launch} {bs : List Nat} {blocks : List (Nat × List Byte)}
    (hfill : s.nextFill = none) (hch : s.dispatchChoice = some l) (hx : s.launches.look l = some x) (hi : x.next = some i)
    (hres : x.resumes = true) (hrope : x.hdr.rope = false) (hfit : s.fits l x 1 c = some bs)
    (hclear : s.clearAll x.hdr.gran [(c, bs)] = (s0, true)) (hread : State.readBlocks x c (x.unitAt i) s0 [] = (s1, .ok blocks)) :
    exec (.groupResume l c) s = finish (s1.resumeOn l x i c (bs.headD 0) blocks) := by
  unfold Launch.unitAt at hread
  change execGroupResume l c s = _
  simp only [execGroupResume, hfill, hch, hx, hi, hres, hrope, hfit, Option.isSome_none, Bool.false_eq_true, ne_eq, not_true_eq_false,
    or_self, Bool.not_true, if_false, Option.map_some, hclear, hread]
  rfl

/-- Settles O54: each event's meaning under its condition, of which no absent memory stops one outside base camp. -/
theorem preemptionSteps : Obligations.PreemptionSteps := by
  intro s hs hb
  refine ⟨fun asid hidle => ⟨event_next rfl rfl hs hb (exec_preemptPre hidle), exec_preemptRes hidle, exec_preemptKill hidle⟩,
    fun asid hbusy => exec_preempt_busy hbusy,
    fun c ctx n g x hg hx hp hv hstop hfar h0 h1 => exec_preemptOverrun hg hx hp hv hstop hfar h0 h1,
    fun c ctx g x w hg hx hw hp hst hctx hrun => ?save,
    fun l x c i bs blocks s0 s1 hfill hch hx hi hres hrope hfit hclear hread =>
      event_next rfl rfl hs hb (exec_groupResume hfill hch hx hi hres hrope hfit hclear hread)⟩
  case save =>
    have h : s.SaveDue c ctx g x w := ⟨hg, hx, hw, hp, hst, hctx, hrun⟩
    refine ⟨fun hsave hq => event_next rfl rfl hs hb (exec_groupSave_saved h hsave hq),
      fun hsave => event_next rfl rfl hs hb (exec_groupSave_done h hsave), fun hsave hended hhand h0 h1 =>
        ⟨fun s1 hd => event_next rfl rfl hs hb (exec_groupSave_discard h hsave hended hhand h0 h1 hd), fun s1 hd => ?stopped⟩⟩
    have hx := exec_groupSave_stopped h hsave hended hhand h0 h1 hd
    exact ⟨fun save a b hrow hne => hx.trans (State.saveStopped_routine hrow hne),
      fun hrow hq => event_next rfl rfl hs hb (hx.trans (State.saveStopped_full hrow hq))⟩

end Sys2Proof.Machine

/-! PROOFS, spec/14, spec/16. The memory system's own steps: page walks, answers to faults, ring records, the counter sweep, evictions
and the victim store's registers (R326, R328, R330 to R332, R347, R382, R384). -/

namespace Sys2Proof.Machine

section
variable {s : State} {seq : Nat}

/-! Answers to faults (spec/14 R331, R332) -/

/-- A fault that is outstanding is found by its SEQ. -/
theorem exists_find_seq (h : ∃ f ∈ s.faults, f.seq = seq) : ∃ f, s.faults.find? (fun f => f.seq == seq) = some f := by
  rw [← Option.isSome_iff_exists, List.find?_isSome]
  simpa using h

/-- The state a retry leaves before the write-backs that waited are tried again. -/
def State.retried (s : State) (seq : Nat) : State :=
  let t := s.answer seq false
  { t with
    cores := t.cores.mapAll (fun _ k => { k with ops := k.ops.map (fun o =>
      if o.held.any (fun x => x.1 == seq) then { o with held := none } else o) }),
    chans := t.chans.mapAll (fun _ k => if k.held = some seq then { k with held := none } else k),
    wbHeld := t.wbHeld.filter (fun w => w.2.2.2 != seq), devHeld := t.devHeld.filter (fun d => d.1 != seq) }

theorem exec_fltrespRetry (h : ∃ f ∈ s.faults, f.seq = seq) : exec (.fltrespRetry seq) s =
    finish ((s.wbHeld.filter (fun w => w.2.2.2 == seq)).foldl (fun s w => s.tryBack w.1 w.2.1 w.2.2.1) (s.retried seq)) := by
  have hany : s.faults.any (fun f => f.seq == seq) = true := by simpa using h
  exact if_neg (by rw [hany]; decide)

/-- Where no operation, channel, access of the device or write-back waits for the fault, the answer is all that happens. -/
theorem exec_fltrespUnresolved_unwaited (h : ∃ f ∈ s.faults, f.seq = seq)
    (hops : ∀ k ∈ s.cores, ∀ o ∈ k.2.ops, ∀ x, o.held = some x → x.1 ≠ seq) (hchans : ∀ k ∈ s.chans, k.2.held ≠ some seq)
    (hdev : ∀ d ∈ s.devHeld, d.1 ≠ seq) (hwb : ∀ w ∈ s.wbHeld, w.2.2.2 ≠ seq) :
    exec (.fltrespUnresolved seq) s = finish (s.answer seq true) := by
  obtain ⟨f, hf⟩ := exists_find_seq h
  have hnoOps : s.cores.flatMap (fun k => (k.2.ops.filter (fun o => o.held.any (fun x => x.1 == seq))).map (fun o => (k.1, o))) = [] := by
    simp only [List.flatMap_eq_nil_iff, List.map_eq_nil_iff, List.filter_eq_nil_iff, Option.any_eq_true, beq_iff_eq]
    rintro k hk o ho ⟨x, hx, he⟩
    exact hops k hk o ho x hx he
  have hnoChans : s.chans.filter (fun k => k.2.held == some seq) = [] := by simpa [List.filter_eq_nil_iff] using hchans
  have hnoDev : s.devHeld.filter (fun d => d.1 == seq) = [] := by simpa [List.filter_eq_nil_iff] using hdev
  have hdevKept : s.devHeld.filter (fun d => d.1 != seq) = s.devHeld := by simpa [List.filter_eq_self] using hdev
  have hnoWb : s.wbHeld.filter (fun w => w.2.2.2 == seq) = [] := by simpa [List.filter_eq_nil_iff] using hwb
  have hwbKept : s.wbHeld.filter (fun w => w.2.2.2 != seq) = s.wbHeld := by simpa [List.filter_eq_self] using hwb
  change execFltrespUnresolved seq s = _
  simp only [execFltrespUnresolved, hf, State.answer, hnoOps, hnoChans, hnoDev, hdevKept, hnoWb, hwbKept, List.foldl_nil]

end

/-! Ring records (spec/14 R330) -/

section
variable {s : State} {ring : Nat} {r : Ring} (hr : s.rings.lookD Ring.reset ring = r) {rec' : List Byte} {rest : List (List Byte)}
  (hwait : r.wait = rec' :: rest) (hon : r.on = true)
include hr hwait hon

theorem exec_ringRecordWrite (hroom : (r.head - r.tail).toNat < r.size.toNat) {s1 : State} {ps : List (Nat × Nat)}
    (hps : State.engPlaces (firstOfLines ((List.range (ringBytes ring)).map (fun i =>
      r.base.toNat + ringBytes ring * (r.head.toNat % r.size.toNat) + i))) s (procWho 0) [] = (s1, .ok ps)) :
    let t := s1.engWrite (procWho 0) ps (cellsFrom (r.base.toNat + ringBytes ring * (r.head.toNat % r.size.toNat)) rec')
    exec (.ringRecordWrite ring) s =
      finish ({ t with rings := t.rings.put ring { r with wait := rest, head := r.head + 1 } }.raiseMsi (r.vec.toNat % 2048)) := by
  subst hr
  change execRingRecordWrite ring s = _
  simp only [execRingRecordWrite, hwait, hon, Nat.not_le.2 hroom, hps, Bool.not_true, Bool.false_eq_true, if_false]

/-- A full sample or trace ring loses the record, and counts it. -/
theorem exec_ringRecordWrite_full (hfull : r.size.toNat ≤ (r.head - r.tail).toNat) (hring : ring = 1 ∨ ring = 2) :
    exec (.ringRecordWrite ring) s = .next ({ s with rings := s.rings.put ring { r with wait := rest } }.count 268 4 1) := by
  subst hr
  change execRingRecordWrite ring s = _
  simp only [execRingRecordWrite, hwait, hon, hfull, hring, Bool.not_true, Bool.false_eq_true, if_true, if_false]

end

section
variable {s : State}

/-! The counter sweep (spec/14 R347) -/

/-- The state with one counter's change since the last sweep added to its total in memory. -/
def State.sweepOne (s : State) (x : Nat × Word) : State :=
  let d := (x.2 - s.swept.lookD 0 x.1).toNat
  let a := s.cntbase.toNat + 8 * x.1
  if d = 0 then s else s.cohWrite false (cellsFrom a (leBytes 8 ((s.numAt false a 8 + d) % 2 ^ 64)))

theorem exec_counterSweep (h : s.cntbase ≠ 0) : exec .counterSweep s =
    finish { s.counters.foldl State.sweepOne s with swept := (s.counters.foldl State.sweepOne s).counters } :=
  if_neg h

/-! Generated lines (spec/16 R384) -/

section
variable {asid line : Nat} {l : GenLine} (hl : s.genLine? asid line = some l)
include hl

theorem exec_llcEviction_pinned (hpin : l.pol = 3 ∧ l.poison = false) : exec (.llcEviction asid line) s = .next s := by
  change execLlcEviction asid line s = _
  simp [execLlcEviction, hl, hpin]

theorem exec_llcEviction (hfree : l.pol ≠ 3 ∨ l.poison = true) :
    exec (.llcEviction asid line) s = .next (s.leaveGen asid line) := by
  have hpin : ¬(l.pol = 3 ∧ (!l.poison) = true) := by
    rintro ⟨hp, hq⟩
    rcases hfree with h | h
    · exact h hp
    · simp [h] at hq
  change execLlcEviction asid line s = _
  simp only [execLlcEviction, hl, hpin, if_false]

end

/-! The victim store's registers (spec/16 R382) -/

theorem exec_vsbaseWrite (v : Nat) :
    let t := { s.dropStore with vsbase := BitVec.ofNat 64 (v / 2 ^ 26 % 2 ^ 26 * 2 ^ 26) }
    exec (.vsbaseWrite v) s = .next (if t.vsSteps = 0 then t else t.vsClear) := rfl

theorem exec_vssizeWrite (v : Nat) :
    let t := { s.dropStore with vssize := BitVec.ofNat 64 (min 384 (v % 512)) }
    exec (.vssizeWrite v) s = .next (if t.vsSteps = 0 then t else t.vsClear) := by
  have hsteps : bits v 0 9 = v % 512 := bits_zero v 9
  change execVssizeWrite v s = _
  rw [execVssizeWrite, hsteps]

end

/-- Settles O55: each event's meaning under its condition, of which no absent memory stops one outside base camp. -/
theorem memorySystemSteps : Obligations.MemorySystemSteps := by
  intro s hs hb
  refine ⟨fun cl asid va => event_next rfl rfl hs hb rfl, fun seq hseq => ?retry,
    fun seq hseq hops hchans hdev hwb => event_next rfl rfl hs hb (exec_fltrespUnresolved_unwaited hseq hops hchans hdev hwb),
    fun ring rec' rest hwait hon => ⟨fun hroom s1 ps hps => ?record, fun hfull hring => exec_ringRecordWrite_full rfl hwait hon hfull hring⟩,
    fun hbase => event_next rfl rfl hs hb (exec_counterSweep hbase),
    fun asid line l hl => ⟨exec_llcEviction_pinned hl, exec_llcEviction hl⟩, exec_vsbaseWrite, exec_vssizeWrite⟩
  case retry => exact ⟨s.retried seq, rfl, event_next rfl rfl hs hb (exec_fltrespRetry hseq), rfl, rfl, rfl, rfl⟩
  case record => exact event_next rfl rfl hs hb (exec_ringRecordWrite rfl hwait hon hroom hps)

end Sys2Proof.Machine

/-! PROOFS, spec/17. The machine after a cold reset (R409, R410). -/

namespace Sys2Proof.Machine

theorem ite_eq_of_both {α : Type} {c : Prop} [Decidable c] {a b v : α} (ha : a = v) (hb : b = v) : (if c then a else b) = v := by
  rw [ha, hb, ite_self]

/-- Above PLIM every register of window 0 reads zero after a cold reset: each of them, by the block of addresses it stands in. -/
theorem State.reset_regRead {a : Nat} (h : 8 < a) (ha : a < 0x300000) : State.reset.regRead a = 0 := by
  have hmsix : ¬(0x300000 ≤ a ∧ a < 0x308000) := by omega
  have hpend : ¬(0x380000 ≤ a ∧ a < 0x380100) := by omega
  unfold State.regRead
  rw [if_neg (by omega : a ≠ 0), if_neg (by omega : a ≠ 8), if_neg hmsix, if_neg hpend]
  repeat' with_reducible refine ite_eq_of_both ?_ ?_
  any_goals (split <;> rfl)
  all_goals rfl

/-- Settles O5: the registers block by block, everything else as State.reset lists it. -/
theorem resetState : Obligations.ResetState := by
  refine ⟨?sound, rfl, rfl, rfl, fun a h ha => State.reset_regRead h ha, rfl, rfl, rfl, rfl, rfl, rfl, rfl, rfl, fun p a => ?byte, rfl, rfl⟩
  case sound => exact ⟨⟨rfl, rfl⟩, by decide⟩
  case byte => cases p <;> rfl

end Sys2Proof.Machine

/-! PROOFS, spec/17. A device that FREEZE or a thermal trip holds takes no turn but a cold reset and a security alarm (R410, R412). -/

namespace Sys2Proof.Machine

/-! The default turn -/

theorem drainTurn_eq_drain {s : State} {u : Turn} (h : s.drainTurn = some u) : ∃ c which arg, u = .drain c which arg := by
  obtain ⟨k, -, hk⟩ := List.exists_of_findSome?_eq_some h
  split at hk
  · cases hk; exact ⟨_, _, _, rfl⟩
  · obtain ⟨q, -, rfl⟩ := Option.map_eq_some_iff.1 hk
    exact ⟨_, _, _, rfl⟩

/-- The default turn is no event but CLK_ADVANCE. -/
theorem defaultTurn_event {s : State} {i : Instr} (h : s.defaultTurn = .event i) : ∃ c, i = .clkAdvance c := by
  unfold State.defaultTurn at h
  dsimp only at h
  split at h
  · cases h
  · split at h
    · cases h
    · split at h
      next t ht =>
        obtain ⟨c, which, arg, rfl⟩ := drainTurn_eq_drain ht
        cases h
      next => exact ⟨_, (Turn.event.inj h).symm⟩

/-- A step that goes on takes a turn, the one the agenda names first or the default one, from the state with that turn off the
agenda. -/
theorem step_next_takes {s t : State} (h : step s = .next t) :
    ∃ u, { s with agenda := s.agenda.tail }.take u = .next t ∧ (s.agenda.head? = some u ∨ u = s.defaultTurn) := by
  have hs : s.stuck = none := by
    cases hs : s.stuck with
    | none => rfl
    | some f => simp [step, hs] at h
  cases ha : s.agenda with
  | nil =>
    rw [step_eq_take hs (.inr ⟨ha, rfl, rfl⟩)] at h
    exact ⟨_, by rw [List.tail_nil, ← ha]; exact h, .inr rfl⟩
  | cons u rest => exact ⟨u, (step_eq_take hs (.inl ⟨rest, ha, rfl⟩)).symm.trans h, .inl rfl⟩

/-! A frozen device -/

section
variable {s : State} (hf : s.life.frozen = true)
include hf

/-- The pins a frozen device answers (R412). -/
theorem admits_of_frozen {i : Instr} (h : s.admits i = true) :
    (∃ strap opt grade fw, i = .coldReset strap opt grade fw) ∨ ∃ c, i = .securityAlarm c := by
  unfold State.admits at h
  rw [if_pos hf] at h
  split at h
  next strap opt grade fw => exact .inl ⟨strap, opt, grade, fw, rfl⟩
  next c => exact .inr ⟨c, rfl⟩
  next => cases h

theorem take_frozen {u : Turn} (hr : ∀ strap opt grade fw, u ≠ .event (.coldReset strap opt grade fw))
    (ha : ∀ c, u ≠ .event (.securityAlarm c)) : s.take u = .next s := by
  cases u
  case event i =>
    refine take_event_refused (.inr (Bool.eq_false_iff.2 fun h => ?_))
    obtain ⟨strap, opt, grade, fw, rfl⟩ | ⟨c, rfl⟩ := admits_of_frozen hf h
    · exact hr strap opt grade fw rfl
    · exact ha c rfl
  all_goals simp [State.take, hf]

/-- A security alarm leaves a frozen device frozen. -/
theorem take_securityAlarm_frozen {c : Nat} {t : State} (h : s.take (.event (.securityAlarm c)) = .next t) : t.life.frozen = true := by
  rw [take_event_admitted rfl (by simp [State.admits, hf])] at h
  change nextWith (execSecurityAlarm c s) _ = _ at h
  unfold execSecurityAlarm at h
  split at h <;> cases h <;> exact hf

end

/-- Settles O20: the turn a step takes is refused, be it the agenda's first or the default one, or it is a security alarm. -/
theorem frozenDeviceKeepsItsState : Obligations.FrozenDeviceKeepsItsState := by
  intro s t hf hstep hr
  obtain ⟨u, hu, hturn⟩ := step_next_takes hstep
  have hf0 : ({ s with agenda := s.agenda.tail } : State).life.frozen = true := hf
  have named : ∀ i, u = .event i → s.agenda.head? = some (.event i) ∨ ∃ c, i = .clkAdvance c := by
    rintro i rfl
    exact hturn.imp id fun h => defaultTurn_event h.symm
  by_cases hsec : ∃ c, u = .event (.securityAlarm c)
  · obtain ⟨c, rfl⟩ := hsec
    obtain h | ⟨_, hc⟩ := named _ rfl
    · exact ⟨take_securityAlarm_frozen hf0 hu, fun hn => absurd h (hn c)⟩
    · cases hc
  · rw [take_frozen hf0 (fun strap opt grade fw h => ?_) (not_exists.1 hsec)] at hu
    · cases hu
      exact ⟨hf, fun _ => rfl⟩
    · obtain h | ⟨_, hc⟩ := named _ h
      · exact hr _ _ _ _ h
      · cases hc

end Sys2Proof.Machine

/-! PROOFS, spec/16, spec/17. What every step keeps: State.sound (R382, R409, R410, R414). A calm operation keeps it, since it leaves
memory canonical and the device's registers as they are; each of the few events that write those registers keeps them in range. -/

namespace Sys2Proof.Machine

/-! Calm operations -/

theorem Calm.sound {s t : State} (h : Calm s t) (hs : s.sound) : t.sound := by
  obtain ⟨hm, hrest⟩ := hs
  obtain ⟨hdev, hplim, -, -, -, hsamp, -, hvs, -⟩ : t.devstate = s.devstate ∧ t.plim = s.plim ∧ t.qtabbase = s.qtabbase ∧
      t.ctxbase = s.ctxbase ∧ t.cntbase = s.cntbase ∧ t.sampper = s.sampper ∧ t.vsbase = s.vsbase ∧ t.vssize = s.vssize ∧
      t.wps = s.wps ∧ t.life = s.life := by simpa [State.devRegs] using h.regs
  unfold State.sound
  rw [hdev, hplim, hsamp, hvs]
  exact ⟨h.mem hm, hrest⟩

/-- The next state of a meaning that goes on is reached calmly. -/
theorem Goes.calm_next {s t : State} {o : Out} (h : Goes s o) (ho : o = .next t) : Calm s t := by
  obtain ⟨-, rfl⟩ | ⟨u, hu, rfl | rfl⟩ := h
  · cases ho
  · unfold Machine.finish at ho
    split at ho <;> cases ho
    exact hu
  · cases ho
    exact hu

theorem Onward.calm_next {s t : State} {o : Out} (h : Onward s o) (ho : o = .next t) : Calm s t := Goes.calm_next (.inr h) ho

theorem outState_next (s t : State) : outState s (.next t) = t := rfl

/-- The state a register's own meaning leaves is reached calmly. -/
theorem Onward.calm_outState {s : State} {o : Out} (h : Onward s o) : Calm s (outState s o) := by
  cases ho : o with
  | next t => exact h.calm_next ho
  | fault f => exact Calm.rfl
  | refused r => exact Calm.rfl

theorem nextWith_eq_next {o : Out} {f : State → State} {t : State} (h : nextWith o f = .next t) : ∃ u, o = .next u ∧ f u = t := by
  cases o with
  | next u => exact ⟨u, rfl, Host.Outcome.next.inj h⟩
  | _ => cases h

/-! Writes of registers -/

theorem State.sound_ite {a b : State} {c : Prop} [Decidable c] (ha : a.sound) (hb : b.sound) : (if c then a else b).sound := by
  split <;> assumption

theorem Calm.modRings {s : State} (t : Tbl Ring) : Calm s { s with rings := t } := Calm.upd_iff.2 Calm.rfl

theorem calm_writePreempt (s : State) (v : Nat) : Calm s (s.writePreempt v) := by
  unfold State.writePreempt
  extract_lets asid req killed resumed
  have hk : Calm s killed := .ite (goes_execPreemptKill ..).calm_outState .rfl
  have hr : Calm s resumed := .ite (hk.trans (goes_execPreemptRes ..).calm_outState) hk
  exact .ite .rfl (.ite (Calm.upd_iff.2 .rfl) (.ite (hr.trans (goes_execPreemptPre ..).calm_outState) hr))

theorem devWord_state (st cause : Nat) : (devWord st cause).toNat % 16 = st % 16 := by
  rw [devWord, BitVec.toNat_ofNat]
  omega

/-- DEVSTATE names one of its five states. -/
def legalState (w : DWord) : Prop := 1 ≤ w.toNat % 16 ∧ w.toNat % 16 ≤ 5

theorem legalState_devWord {st : Nat} (h : 1 ≤ st ∧ st ≤ 5) (cause : Nat) : legalState (devWord st cause) := by
  rw [legalState, devWord_state]
  omega

/-- PLIM holds 150 to 600 W, however it is written (R414). -/
theorem plimWord_range (v : Nat) : 150 ≤ (plimWord v).toNat ∧ (plimWord v).toNat ≤ 600 := by
  rw [plimWord, BitVec.toNat_ofNat, Nat.mod_eq_of_lt (by omega)]
  omega

/-- VSSIZE is stored clamped to 384 (R382). -/
theorem vssizeWord_le (n : Nat) : (BitVec.ofNat 64 (min 384 n)).toNat ≤ 384 := by
  rw [BitVec.toNat_ofNat]
  exact Nat.le_trans (Nat.mod_le ..) (Nat.min_le_left ..)

theorem sampperWord_lt (v : Nat) : (va64 v &&& 0xFFFFFFFF).toNat < 2 ^ 32 := by
  rw [va64_and_low32, BitVec.toNat_ofNat]
  omega

section
variable {s : State} (hs : s.sound) (a v : Nat)
include hs

theorem State.sound_plim {w : DWord} (hlo : 150 ≤ w.toNat) (hhi : w.toNat ≤ 600) : ({ s with plim := w } : State).sound := by
  obtain ⟨hm, -, -, hrest⟩ := hs
  exact ⟨hm, hlo, hhi, hrest⟩

theorem State.sound_vssize {w : DWord} (hw : w.toNat ≤ 384) : ({ s with vssize := w } : State).sound := by
  obtain ⟨hm, hlo, hhi, -, hrest⟩ := hs
  exact ⟨hm, hlo, hhi, hw, hrest⟩

theorem State.sound_sampper {w : DWord} (hw : w.toNat < 2 ^ 32) : ({ s with sampper := w } : State).sound := by
  obtain ⟨hm, hlo, hhi, hvs, -, hdev⟩ := hs
  exact ⟨hm, hlo, hhi, hvs, hw, hdev⟩

theorem State.sound_devstate {w : DWord} (hw : legalState w) : ({ s with devstate := w } : State).sound := by
  obtain ⟨hm, hlo, hhi, hvs, hsamp, -⟩ := hs
  exact ⟨hm, hlo, hhi, hvs, hsamp, hw⟩

theorem State.sound_vsbase (w : DWord) : ({ s with vsbase := w } : State).sound := hs

theorem sound_vsbaseWrite : (outState s (execVsbaseWrite v s)).sound := by
  have h := State.sound_vsbase ((calm_dropStore s).sound hs) (BitVec.ofNat 64 (v / 2 ^ 26 % 2 ^ 26 * 2 ^ 26))
  rw [show execVsbaseWrite v s = _ from exec_vsbaseWrite v, outState_next]
  exact State.sound_ite h ((calm_vsClear _).sound h)

theorem sound_vssizeWrite : (outState s (execVssizeWrite v s)).sound := by
  have h := State.sound_vssize ((calm_dropStore s).sound hs) (vssizeWord_le (v % 512))
  rw [show execVssizeWrite v s = _ from exec_vssizeWrite v, outState_next]
  exact State.sound_ite h ((calm_vsClear _).sound h)

theorem State.sound_regWrite : (s.regWrite a v).sound := by
  unfold State.regWrite
  extract_lets w ring
  have calm {t : State} (h : Calm s t) : t.sound := h.sound hs
  refine sound_ite (sound_plim hs (plimWord_range v).1 (plimWord_range v).2) <| sound_ite hs <| sound_ite (calm (goes_execQkick ..).calm_outState) <| sound_ite hs <|
    sound_ite (calm (calm_writePreempt ..)) <| sound_ite ?fltresp <| sound_ite hs <| sound_ite (sound_sampper hs (sampperWord_lt v)) <|
    sound_ite (sound_vsbaseWrite hs v) <| sound_ite (sound_vssizeWrite hs v) <| sound_ite (sound_ite hs hs) <|
    sound_ite (calm (goes_execFabcfgWrite ..).calm_outState) <| sound_ite (calm (goes_execPortstatWrite ..).calm_outState) <|
    sound_ite (calm (goes_execPortstatWrite ..).calm_outState) <| sound_ite ?ring <| sound_ite (sound_ite hs (sound_ite hs hs)) <|
    sound_ite ?cluster <| sound_ite (calm ((calm_msixWrite ..).trans (calm_msixWrite ..))) hs
  case fltresp =>
    exact sound_ite (calm (goes_execFltrespRetry ..).calm_outState) (sound_ite (calm (goes_execFltrespUnresolved ..).calm_outState) hs)
  case ring =>
    have hring : ∀ k f, Calm s (ring k f) := fun k f => Calm.modRings _
    clear_value ring
    split
    · exact calm ((hring ..).trans (calm_ringIdle ..))
    · exact calm ((hring ..).trans (calm_ringIdle ..))
    · exact calm (hring ..)
    · exact calm (hring ..)
    · exact hs
  case cluster =>
    split
    · exact calm (calm_modCluster ..)
    · exact calm (calm_modCluster ..)
    · exact calm (calm_modCluster ..)
    · exact calm (calm_modCluster ..)
    · exact sound_ite (calm (goes_execDbgcmdStop ..).calm_outState) (sound_ite (calm (goes_execDbgcmdResume ..).calm_outState) hs)
    · exact hs

theorem State.sound_regStore : (s.regStore a v).sound := by
  unfold State.regStore
  extract_lets t
  have ht : t.sound := sound_ite hs hs
  exact sound_regWrite ht a v

theorem State.sound_regAccess (half : Bool) : (s.regAccess a v half).sound := by
  have hhalf : (s.regWriteHalf a v).sound :=
    sound_ite ((calm_msixWrite ..).sound hs) (sound_ite hs (sound_ite (sound_regStore hs ..) (sound_regStore hs ..)))
  exact sound_ite hs (sound_ite (sound_ite hhalf hs) (sound_ite (sound_regStore hs ..) hs))

end

/-! The events that write the device's registers -/

theorem finish_eq_next {u t : State} (h : finish u = .next t) : u = t := by
  unfold finish at h
  split at h <;> cases h
  rfl

section
variable {s t : State} (hs : s.sound)
include hs

theorem sound_coldReset {strap opt grade : Nat} {fw : Bool} (h : execColdReset strap opt grade fw s = .next t) : t.sound := by
  obtain ⟨⟨hm, hp⟩, -⟩ := hs
  obtain ⟨-, hlo, hhi, hvs, hsamp, -⟩ := resetState.1
  unfold execColdReset at h
  cases h
  refine (calm_trainPorts _).sound ⟨⟨Memory.wf_filter _ hm, hp⟩, hlo, hhi, hvs, hsamp, ?_⟩
  show legalState (if !s.life.keyStore then devWord 5 2 else if !fw then devWord 5 1 else devWord 1 0)
  repeat' split
  all_goals exact legalState_devWord (by decide) _

theorem sound_basecampTestResult {cause : Nat} (h : execBasecampTestResult cause s = .next t) : t.sound := by
  unfold execBasecampTestResult at h
  split at h
  · cases h; exact hs
  · split at h
    · cases h; exact hs
    · cases h; exact State.sound_devstate hs (legalState_devWord (by decide) _)

theorem sound_enterRun (h : execEnterRun s = .next t) : t.sound := by
  unfold execEnterRun at h
  dsimp only at h
  split at h
  · cases h; exact hs
  · cases h
    obtain ⟨⟨hm, hp⟩, hlo, hhi, hvs, hsamp, -⟩ := hs
    exact ⟨⟨Memory.wf_filter _ hm, hp⟩, hlo, hhi, hvs, hsamp, legalState_devWord (by decide) _⟩

theorem sound_securityAlarm {cause : Nat} (h : execSecurityAlarm cause s = .next t) : t.sound := by
  unfold execSecurityAlarm at h
  split at h
  · cases h; exact hs
  · cases h; exact State.sound_devstate hs (legalState_devWord (by decide) _)

theorem sound_ucieLinkTraining {kind arg : Nat} (h : execUcieLinkTraining kind arg s = .next t) : t.sound := by
  unfold execUcieLinkTraining at h
  repeat' split at h
  all_goals cases h; exact hs

theorem sound_debugUnlock {auth : Bool} (h : execDebugUnlock auth s = .next t) : t.sound := by
  unfold execDebugUnlock at h
  split at h
  all_goals cases h; exact hs

theorem sound_registerWrite {addr v : Nat} {half : Bool} (h : execRegisterWrite addr v half s = .next t) : t.sound := by
  unfold execRegisterWrite at h
  split at h
  · cases h; exact hs
  · split at h
    · rw [← finish_eq_next h]
      exact State.sound_regAccess (s := { s with hostErr := false }) hs ..
    · split at h
      · cases h; exact hs
      · split at h
        · cases h; exact hs
        · cases h; exact (calm_send ..).sound (s := { s with hostErr := false }) hs

theorem sound_registerPacket {write half : Bool} {src addr v : Nat} (h : execRegisterPacket write src addr v half s = .next t) :
    t.sound := by
  unfold execRegisterPacket at h
  split at h
  · cases h; exact (calm_reply ..).sound hs
  · split at h
    · rw [← finish_eq_next h]
      exact State.sound_regAccess hs ..
    · cases h; exact (calm_reply ..).sound hs

/-- Every meaning keeps what State.sound says: calm ones by their frame, the device's own events by their lemmas above. -/
theorem sound_exec {i : Instr} (h : exec i s = .next t) : t.sound := by
  by_cases hd : i.setsDevice = false
  · exact ((goes_exec s i hd).calm_next h).sound hs
  cases i
  case vsbaseWrite v => rw [← outState_next s t, ← h]; exact sound_vsbaseWrite hs v
  case vssizeWrite v => rw [← outState_next s t, ← h]; exact sound_vssizeWrite hs v
  case registerPacket => exact sound_registerPacket hs h
  case coldReset => exact sound_coldReset hs h
  case basecampTestResult => exact sound_basecampTestResult hs h
  case enterRun => exact sound_enterRun hs h
  case freezeAssert => cases h; exact hs
  case securityAlarm => exact sound_securityAlarm hs h
  case thermalTrip => cases h; exact hs
  case registerWrite => exact sound_registerWrite hs h
  case ucieLinkTraining => exact sound_ucieLinkTraining hs h
  case debugUnlock => exact sound_debugUnlock hs h
  all_goals exact absurd rfl hd

end

/-! Turns -/

theorem toRaw_of_setsDevice {i : Instr} (h : i.setsDevice = true) : i.toRaw = none := by
  unfold Instr.setsDevice at h
  split at h
  any_goals rfl
  cases h

/-- No instruction that words name sets the device's registers: those are events, which have no words. -/
theorem setsDevice_of_decodeWords {w0 w1 w2 : Word} {i : Instr} (h : decodeWords w0 w1 w2 = .ok i) : i.setsDevice = false := by
  unfold decodeWords at h
  split at h
  · cases h; rfl
  · cases h
  · split at h
    next j hj =>
      cases h
      obtain ⟨-, -, hraw⟩ := decodeRaw_eq_some_iff.1 hj
      refine Bool.eq_false_iff.2 fun hd => ?_
      rw [toRaw_of_setsDevice hd] at hraw
      cases hraw
    next => cases h

theorem setsDevice_of_fetchRest {s t : State} {e : Env} {k n : Nat} {w0 : Word} {i : Instr} (h : s.fetchRest e k w0 = (t, .instr i n)) :
    i.setsDevice = false := by
  unfold State.fetchRest at h
  dsimp only at h
  repeat' split at h
  all_goals cases h
  all_goals exact setsDevice_of_decodeWords ‹_›

theorem setsDevice_of_fetchInstr {s t : State} {e : Env} {i : Instr} {n : Nat} (h : s.fetchInstr e = (t, .instr i n)) :
    i.setsDevice = false := by
  unfold State.fetchInstr at h
  split at h
  · cases h
  · cases h
  · cases h
  · split at h
    · cases h; rfl
    · cases h
    · exact setsDevice_of_fetchRest h

theorem setsDevice_of_nextInstr {s t : State} {c ctx n : Nat} {i : Instr} (h : s.nextInstr c ctx n = (t, some i)) :
    i.setsDevice = false := by
  unfold State.nextInstr at h
  dsimp only at h
  split at h
  · cases h
  · split at h
    next hf => cases h; exact setsDevice_of_fetchInstr hf
    all_goals cases h

theorem calm_issueTurn {s t : State} {c p : Nat} (h : s.issueTurn c p = .next t) : Calm s t := by
  unfold State.issueTurn at h
  split at h
  · cases h; exact .rfl
  · next ctx n hc =>
    have hn := (calm_lowerKept s c ctx n).trans (calm_nextInstr (s.lowerKept c ctx n) c ctx n)
    split at h
    next t0 i hi =>
      rw [hi] at hn
      obtain ⟨u, hu, rfl⟩ := nextWith_eq_next h
      have hx := (goes_exec _ i (setsDevice_of_nextInstr hi)).calm_next hu
      exact (hn.trans ((Calm.upd_iff.2 .rfl).trans hx)).trans (calm_afterIssue ..)
    next t0 hi =>
      rw [hi] at hn
      rw [← finish_eq_next h]
      exact hn.trans (calm_raiseKept ..)

/-- Every turn keeps what State.sound says: an event by its meaning, every other turn calmly. -/
theorem sound_take {s t : State} {u : Turn} (hs : s.sound) (h : s.take u = .next t) : t.sound := by
  have calm {c : Prop} [Decidable c] {v : State} (hv : Calm s v) (h : (if c then .next s else finish v : Out) = .next t) : t.sound :=
    ((Onward.ite (.next .rfl) (.finish hv)).calm_next h).sound hs
  have calmNext {c : Prop} [Decidable c] {v : State} (hv : Calm s v) (h : (if c then .next s else .next v : Out) = .next t) : t.sound :=
    ((Onward.ite (.next .rfl) (.next hv)).calm_next h).sound hs
  cases u
  case event i =>
    unfold State.take at h
    dsimp only at h
    split at h
    · obtain ⟨v, hv, rfl⟩ := nextWith_eq_next h
      exact (calm_afterEvent i v).sound (sound_exec hs hv)
    · cases h; exact hs
  case issue c p =>
    unfold State.take at h
    dsimp only at h
    split at h
    · cases h; exact hs
    · exact (calm_issueTurn h).sound hs
  case drain => exact ((Onward.ite (.next .rfl) (goes_execStoreQueueLeave ..)).calm_next h).sound hs
  case arrive => exact calm ((calm_arriveTurn ..).trans (calm_stopDiscard ..)) h
  case evictL1 => exact calm (calm_evictL1 ..) h
  case evictL2 => exact calm (calm_evictL2 ..) h
  case evictTlb => exact calm (calm_evictTlb ..) h
  case evictLlc => exact calm (calm_evictLlc ..) h
  case passPrio => exact calm (calm_passPrio ..) h
  case peerAck => exact calm (calm_peerAck ..) h
  case vsError => exact calm (calm_vsError ..) h
  case eccError => exact calm (calm_eccError ..) h
  case hostError => exact calm (calm_hostError ..) h
  case peerPerform => exact calm (calm_land ..) h
  case peerError => exact calm (calm_peerFails ..) h
  case peerWrite => exact calm (calm_peerWrites ..) h
  case flitSend => exact calmNext (calm_flitSend ..) h
  case forward => exact calmNext (calm_forwardOn ..) h
  case peersRound => exact calm (calm_peersRound ..) h
  case splitSq => exact calm (calm_splitSq ..) h
  case movePart => exact calm (calm_movePart ..) h
  case readFirst => exact calmNext (calm_modSlot ..) h
  case chanPart => exact calm (calm_chanPart ..) h
  case l1Next => exact calmNext (calm_modCore ..) h

/-- Settles O10: a step takes a turn, and every turn keeps it. -/
theorem everyStepKeepsTheInvariant : Obligations.EveryStepKeepsTheInvariant := by
  intro s t hs h
  obtain ⟨u, hu, -⟩ := step_next_takes h
  exact sound_take (s := { s with agenda := s.agenda.tail }) hs hu

end Sys2Proof.Machine

/-! PROOFS, spec/17. The life of the device and the host's writes (R407, R410-R414). -/

namespace Sys2Proof.Machine

/-! What ports and interrupts change -/

/-- The state without its ports and its interrupts. -/
def State.sansPorts (s : State) : State := { s with ports := [], msiPend := [], msiSent := [] }

theorem State.sansPorts_send (s : State) (p : Nat) (id : Option Nat) (m : PMsg) : (s.send p id m).sansPorts = s.sansPorts := rfl

theorem State.sansPorts_raiseMsi (s : State) (vec : Nat) : (s.raiseMsi vec).sansPorts = s.sansPorts := by
  unfold State.raiseMsi
  dsimp only
  repeat' split
  all_goals rfl

theorem State.sansPorts_setPort (s : State) (p : Nat) (x : Port) : (s.setPort p x).sansPorts = s.sansPorts := by
  unfold State.setPort
  dsimp only
  split
  · rw [State.sansPorts_raiseMsi]
    split <;> rfl
  · split <;> rfl

theorem State.sansPorts_trainPorts (s : State) : s.trainPorts.sansPorts = s.sansPorts := by
  refine foldl_proj State.sansPorts (fun t p => ?_) _ s
  dsimp only
  split
  · exact State.sansPorts_setPort ..
  · rfl

/-- What the ports and the interrupts do not enter is as it was after training began. -/
theorem State.trainPorts_frame {β : Type} (g : State → β) (hg : ∀ t : State, g t.sansPorts = g t) (s : State) : g s.trainPorts = g s := by
  rw [← hg, State.sansPorts_trainPorts, hg]

/-! Tables -/

/-- What a table reads after several keys were put. -/
theorem Tbl.look_foldl_put {α : Type} (f : Nat → α) (ks : List Nat) (t : Tbl α) (c : Nat) :
    (ks.foldl (fun t k => t.put k (f k)) t).look c = if c ∈ ks then some (f c) else t.look c := by
  induction ks generalizing t with
  | nil => rfl
  | cons k ks ih =>
    rw [List.foldl_cons, ih]
    by_cases hc : c ∈ ks
    · simp [hc]
    · by_cases hk : c = k
      · subst hk; simp [hc, Tbl.look_put_self]
      · simp [hc, hk, Tbl.look_put_ne _ _ hk]

section
variable {s : State}

/-! The life of the device (R410-R414) -/

/-- The machine after a cold reset, before its ports train: every register at its reset value; the key store, the straps and the
host's memory stay (R410; log 61). -/
def State.coldState (s : State) (strap opt grade : Nat) (fw : Bool) : State :=
  { State.reset with
    mem := s.mem.filter (fun c => isHost c.1), peerMem := s.peerMem, agenda := s.agenda, serial := s.serial,
    life := { Life.reset with keyStore := s.life.keyStore, straps := strap % 4, optN := decide (opt ≠ 0), gradeE := decide (grade ≠ 0) },
    devstate := if !s.life.keyStore then devWord 5 2 else if !fw then devWord 5 1 else devWord 1 0,
    fabcfg := if decide (opt ≠ 0) then fabOptN strap else 0 }

theorem exec_coldReset (strap opt grade : Nat) (fw : Bool) :
    exec (.coldReset strap opt grade fw) s = .next (s.coldState strap opt grade fw).trainPorts := rfl

theorem State.coldState_state (strap opt grade : Nat) (fw : Bool) :
    (s.coldState strap opt grade fw).devstate.toNat % 16 = if !s.life.keyStore || !fw then 5 else 1 := by
  unfold State.coldState
  cases s.life.keyStore <;> cases fw <;> exact devWord_state ..

theorem exec_basecampTestResult_pass (h : s.devSt = 1) :
    exec (.basecampTestResult 0) s = .next { s with life := { s.life with testPass := true } } :=
  (if_neg (not_not_intro h)).trans (if_pos rfl)

theorem exec_basecampTestResult_fail {cause : Nat} (h : s.devSt = 1) (hc : cause ≠ 0) :
    exec (.basecampTestResult cause) s = .next { s with devstate := devWord 3 (min 2 cause) } :=
  (if_neg (not_not_intro h)).trans (if_neg hc)

theorem exec_enterRun (h : s.devSt = 1) (hp : s.life.testPass = true) (hl : s.launches = []) : ∃ t, exec .enterRun s = .next t ∧
    t.devstate = devWord 2 0 ∧ t.groups = s.groups ∧ t.mem = s.mem.filter (fun c => decide (2 ^ 26 ≤ c.1)) ∧
    ∀ c, c < 12 → (t.cluster c).mhz = 2300 := by
  have hgo : ¬(s.devSt ≠ 1 ∨ (!s.life.testPass) = true ∨ s.launches.any (fun l => l.2.status.isNone &&
      !(l.2.status.isNone && !l.2.placeable && !l.2.preempting && l.2.fill.isNone)) = true) := by simp [h, hp, hl]
  refine ⟨_, if_neg hgo, rfl, rfl, rfl, fun c hc => ?_⟩
  simp [State.cluster, Tbl.lookD, Tbl.look_foldl_put, hc]

theorem exec_securityAlarm {cause : Nat} (h : s.devSt ≠ 4) : exec (.securityAlarm cause) s = .next { s with
    devstate := devWord 4 cause, life := { s.life with keyStore := false, stopped := true, unlocked := false } } :=
  if_neg h

theorem exec_powerThrottle {cl mhz : Nat} (hstep : mhz + 100 = (s.cluster cl).mhz ∨ mhz = (s.cluster cl).mhz + 100) (hpos : 0 < mhz)
    (htop : mhz ≤ (if s.baseCamp then 800 else 2300)) :
    exec (.powerThrottle cl mhz) s = .next (s.modCluster cl (fun k => { k with mhz := mhz })) :=
  if_pos ⟨hstep, hpos, htop⟩

/-! The host attachment (R407) -/

theorem exec_ucieLinkTraining_rate {rate : Nat} (hn : s.life.optN = false) (hr : rate ∈ [4, 8, 12, 16, 32]) :
    exec (.ucieLinkTraining 0 rate) s = .next { s with
      life := { s.life with gts := rate, modules := if s.life.modules = 0 then 4 else s.life.modules } } := by
  have hr' : rate = 4 ∨ rate = 8 ∨ rate = 12 ∨ rate = 16 ∨ rate = 32 := by simpa using hr
  exact (if_neg (by simp [hn])).trans (if_pos hr')

/-- A cell that the host may not write: no device memory answers it. -/
def State.hostBars (s : State) (c : Nat × Byte) : Bool :=
  decide (2 ^ 52 ≤ c.1) || (!isHost c.1 && (s.closed || s.life.optN || s.hole c.1))

theorem State.hostBars_iff {c : Nat × Byte} : s.hostBars c = true ↔
    2 ^ 52 ≤ c.1 ∨ (isHost c.1 = false ∧ (s.closed = true ∨ s.life.optN = true ∨ s.hole c.1 = true)) := by
  simp only [State.hostBars, Bool.or_eq_true, Bool.and_eq_true, decide_eq_true_eq, Bool.not_eq_true', or_assoc]

/-- A write of the host is performed at the coherent caches, or, where a byte of it is barred, answered with an error. -/
theorem exec_hostRequest_store (addr : Nat) (data : List Byte) : exec (.hostRequest 1 addr data) s =
    if (cellsFrom addr data).any s.hostBars then .next { s with hostErr := true }
    else finish ({ s with hostErr := false }.cohWrite false (cellsFrom addr data)) := by
  change (if (1 : Nat) ≠ 1 ∨ (cellsFrom addr data).any s.hostBars = true then Host.Outcome.next { s with hostErr := (cellsFrom addr data).any s.hostBars }
    else finish ({ s with hostErr := false }.cohWrite false (cellsFrom addr data)) : Out) = _
  cases (cellsFrom addr data).any s.hostBars <;> rfl

theorem exec_hostRequest_write {addr : Nat} {data : List Byte} (hs : s.stuck = none) (hb : s.baseCamp = false)
    (h : (cellsFrom addr data).any s.hostBars = false) :
    exec (.hostRequest 1 addr data) s = .next ({ s with hostErr := false }.cohWrite false (cellsFrom addr data)) :=
  event_next rfl rfl hs hb ((exec_hostRequest_store addr data).trans (if_neg (by rw [h]; decide)))

theorem exec_hostRequest_refused {addr : Nat} {data : List Byte} (h : (cellsFrom addr data).any s.hostBars = true) :
    exec (.hostRequest 1 addr data) s = .next { s with hostErr := true } :=
  (exec_hostRequest_store addr data).trans (if_pos h)

end

/-- Settles O59: each request of the host and each event of the device's life, under its own condition. -/
theorem lifeSteps : Obligations.LifeSteps := by
  intro s hs
  refine ⟨fun strap opt grade fw => ⟨_, exec_coldReset strap opt grade fw, ?reset⟩, exec_basecampTestResult_pass, fun cause h => exec_basecampTestResult_fail h, exec_enterRun, rfl, rfl,
    fun cause => exec_securityAlarm, rfl, fun cl mhz => exec_powerThrottle, fun rate => exec_ucieLinkTraining_rate,
    fun addr data hb h => exec_hostRequest_write hs hb ?write, fun addr data h => exec_hostRequest_refused ?refused⟩
  case reset =>
    have kept {β : Type} (g : State → β) (hg : ∀ t : State, g t.sansPorts = g t) := State.trainPorts_frame g hg (s.coldState strap opt grade fw)
    rw [kept State.devstate fun _ => rfl, kept State.life fun _ => rfl, kept State.groups fun _ => rfl, kept State.cores fun _ => rfl,
      kept State.launches fun _ => rfl, kept State.wgs fun _ => rfl, kept State.packets fun _ => rfl, kept State.plim fun _ => rfl,
      kept State.mem fun _ => rfl]
    exact ⟨State.coldState_state .., rfl, rfl, rfl, rfl, rfl, rfl, rfl, rfl, rfl, rfl, rfl⟩
  case write => 
    rw [List.any_eq_false]
    intro c hc
    obtain ⟨hlt, hok⟩ := h c hc
    rw [State.hostBars_iff]
    rintro (hle | ⟨hdev, hbar⟩)
    · exact absurd hlt (Nat.not_lt.2 hle)
    · obtain hhost | ⟨hopen, hn, hhole⟩ := hok
      · rw [hhost] at hdev; cases hdev
      · simp [hopen, hn, hhole] at hbar
  case refused =>
    obtain ⟨c, hc, hbar⟩ := h
    exact List.any_eq_true.2 ⟨c, hc, State.hostBars_iff.2 hbar⟩

end Sys2Proof.Machine

/-! PROOFS, spec/16. The instructions of a fill task (R375 to R380). -/

namespace Sys2Proof.Machine

section
variable {s : State} {e : Env} {h : Hdr} (hl : e.lead h = true) (hb : s.baseCamp = false)
include hl hb

/-- FILLC decides its block at issue; the commit reads the block's bytes at their place in the carve-out (R376). -/
theorem exec_fillc {k : Nat} {t : Tracker} {w : Wg} {a : Opd} (ht : s.taskTracker e.g.launch = some (k, t))
    (hw : s.wgs.look e.g.wg = some w) (hi : (Instr.fillc h a).Issues s e h) (hp : e.siblingPends = false)
    (hal : (e.word a 0).toNat % 128 = 0) (hin : (e.word a 0).toNat + 2 ^ t.blklog ≤ wgBytes w) :
    exec (.fillc h a) s = .next (((s.modTracker k (fun t => { t with decided := true })).start e
      (e.op s (e.flag h) (.fillc k (w.core * 2 ^ 20 + w.base * 384 + (e.word a 0).toNat)))).retire e h) := by
  have d : Does (.fillc h a) s h _ _ := ⟨rfl, by change execFillc h a s = _; unfold execFillc; rfl⟩
  refine d.next_run hi rfl hb ?_
  simp only [hl, ht, hw, hp, hal, Nat.not_lt.2 hin, ne_eq, not_true_eq_false, Bool.not_true, Bool.false_eq_true, if_false]
  rfl

/-- FILLA poisons its block's pending lines once the group's stores are performed (R377). -/
theorem exec_filla {k : Nat} {t : Tracker} (ht : s.taskTracker e.g.launch = some (k, t)) (hi : (Instr.filla h).Issues s e h)
    (hp : e.siblingPends = false) (hd : s.drained e 3 = true) :
    exec (.filla h) s = .next (((s.dataWrite e h []).decideBlock k none).retire e h) :=
  have d : Does (.filla h) s h _ _ := ⟨rfl, by change execFilla h s = _; unfold execFilla; rfl⟩
  d.next_run hi rfl hb (by simp only [hl, ht, hp, hd, Bool.not_true, Bool.not_false, Bool.and_self, Bool.false_eq_true, if_false, if_true])

theorem exec_fillv {k : Nat} {t : Tracker} {b : SrcB} (ht : s.taskTracker e.g.launch = some (k, t))
    (hi : (Instr.fillv h b).Issues s e h) :
    exec (.fillv h b) s = .next ((s.modTracker k (fun t => { t with fillv := e.sval b % 4 })).retire e h) :=
  have d : Does (.fillv h b) s h _ _ := ⟨rfl, by change execFillv h b s = _; unfold execFillv; rfl⟩
  d.next_run hi rfl hb (by simp only [hl, ht, Bool.not_true, Bool.false_eq_true, if_false])

omit hb in
theorem exec_ftinfo {which : BitVec 3} {d : Opd} {b : SrcB} (hi : (Instr.ftinfo h which d b).Issues s e h) :
    exec (.ftinfo h which d b) s = .next (s.dataIssued e h (wideWrites d (e.active h) (BitVec.ofNat 32
      (s.ftinfo e which.toNat (if which = 3 then e.sval b else 0)))) []) :=
  have d : Does (.ftinfo h which d b) s h _ _ := ⟨rfl, by change execFtinfo h which d b s = _; unfold execFtinfo; rfl⟩
  d.starts hi (by simp only [hl, Bool.not_true, Bool.false_eq_true, if_false]; rfl)

omit hb in
/-- FILLQ reports the state of the line that the leading lane addresses, and 0xFF where no generator backs it (R380). -/
theorem exec_fillq {d : Opd} {adr : Addr} {l : Nat} {r : List Nat} {x : Xl} (hi : (Instr.fillq h d adr).Issues s e h)
    (ha : e.active h = l :: r) (hx : (s.translate (clusterOf e.core) e.asid (e.addrOf .global adr l) .read).2 = .ok x) :
    exec (.fillq h d adr) s = .next (s.dataIssued e h (wideWrites d (l :: r) (BitVec.ofNat 32
      (if x.gen then s.lineState e.asid ((e.addrOf .global adr l).toNat % 2 ^ 57) x.blklog else 255))) []) :=
  have d : Does (.fillq h d adr) s h _ _ := ⟨rfl, by change execFillq h d adr s = _; unfold execFillq; rfl⟩
  d.starts hi (by simp only [hl, ha, hx, Bool.not_true, Bool.false_eq_true, if_false]; rfl)

end

/-- Settles O48: each is its effect at issue. -/
theorem fillInstructions : Obligations.FillInstructions := fun _ _ _ hl hb =>
  ⟨fun _ _ _ _ ht hw hi hp hal hin => exec_fillc hl hb ht hw hi hp hal hin,
    fun _ _ ht => ⟨fun hi hp hd => exec_filla hl hb ht hi hp hd, fun _ hi => exec_fillv hl hb ht hi⟩,
    fun _ _ _ hi => exec_ftinfo hl hi, fun _ _ _ _ _ hi ha hx => exec_fillq hl hi ha hx⟩

end Sys2Proof.Machine

/-! PROOFS, spec/17. The enqueue instructions on a queue the group may use (R397, R398). -/

namespace Sys2Proof.Machine

section
variable {s : State} {e : Env} {h : Hdr} {a : Opd} (hl : e.lead h = true) (hb : s.baseCamp = false)
include hl hb

/-- QRESV tells the index it reserved from, and reserves where the ring has room (R397). -/
theorem exec_qresv {pd : BitVec 7} {d : Fin 64} {b : SrcB} (hq : s.queueBad e (e.word a 0).toNat = false)
    (hp : e.siblingPends = false) (hi : (Instr.qresv h pd (.s d) a b).Issues s e h) :
    let x := s.qdesc (e.word a 0).toNat
    let ok := decide ((x.widx + e.sval b + 2 ^ 64 - x.ridx) % 2 ^ 64 ≤ x.size)
    let s1 := if ok then s.cohWrite false (cellsFrom (s.qAddr (e.word a 0).toNat + 16) (leBytes 8 (x.widx + e.sval b))) else s
    exec (.qresv h pd (.s d) a b) s = .next ((s1.dataWrite e h (sWrites (.s d) true (BitVec.ofNat 64 x.widx) ++
      (if pd = 127 then [] else (e.active h).map (fun l => ⟨.p, pd.toNat, l, if ok then 1 else 0⟩)))).retire e h) := by
  intro x ok s1
  have d : Does (.qresv h pd (.s d) a b) s h _ _ := ⟨rfl, by change execQresv h pd (.s d) a b s = _; unfold execQresv; rfl⟩
  refine d.next_run hi rfl hb ?_
  simp only [hl, hq, hp, Bool.not_true, Bool.false_eq_true, if_false]
  rfl

/-- QPUT reads the image's bytes behind its header word and stores them in the slot (R398). -/
theorem exec_qput {b c : Opd} {s1 s2 : State} {bs r : List Byte} {y : Xl} (hq : s.queueBad e (e.word a 0).toNat = false)
    (hi : (Instr.qput h a b c).Issues s e h) (hal : (e.wide .i64 c 0).toNat % 64 = 0)
    (hacq : (s.core e.core).acqPending e.ctx e.g.uid = false) (hp : e.siblingPends = false)
    (hld : s.loadBytes e (e.wide .i64 c 0 + 4) 60 { alloc := some .glob, victim := false } = (s1, .done bs)) :
    let va := (s1.qdesc (e.word a 0).toNat).slotVa (e.wide .i64 b 0).toNat + 4
    s1.writePlace e va = (s2, some y, .done r) →
    exec (.qput h a b c) s = .next (((s2.start e (e.op s2 (e.flag h) .store)).enqueue e (some e.serial)
      (.bytes (storeCells (va.toNat % 2 ^ 57) y.tgt bs (decide (y.cp = 2))))).retire e h) := by
  intro va hwp
  have d : Does (.qput h a b c) s h _ _ := ⟨rfl, by change execQput h a b c s = _; unfold execQput; rfl⟩
  refine d.next_run hi rfl hb ?_
  simp only [hl, hq, hal, hacq, hp, hld, ne_eq, not_true_eq_false, Bool.not_true, Bool.or_self, Bool.false_eq_true, if_false, State.oneLane]
  rw [show s1.writePlace e _ = _ from hwp]
  rfl

/-- QCOMMIT stores the header word at the slot's home, and its queue has work (R398). -/
theorem exec_qcommit {sc : BitVec 3} {b d : Opd} {s1 : State} {y : Xl} {r : List Byte} (hq : s.queueBad e (e.word a 0).toNat = false)
    (hi : (Instr.qcommit h sc a b d).Issues s e h) (hr : s.release e sc.toNat true = .go) :
    let va := (s.qdesc (e.word a 0).toNat).slotVa (e.wide .i64 b 0).toNat
    s.writePlace e va = (s1, some y, .done r) → exec (.qcommit h sc a b d) s =
      .next (((s1.homeStore e va y (leBytes 4 (e.word d 0).toNat)).markWork (e.word a 0).toNat).retire e h) := by
  intro va hwp
  have d : Does (.qcommit h sc a b d) s h _ _ := ⟨rfl, by change execQcommit h sc a b d s = _; unfold execQcommit; rfl⟩
  refine d.next_run hi rfl hb ?_
  simp only [hl, hq, hr, Bool.not_true, Bool.false_eq_true, if_false]
  rw [show s.writePlace e _ = _ from hwp]
  rfl

/-- QSIG stores its word at the signal's home, or adds it to what stands there (R398). -/
theorem exec_qsig {store : Bool} {sc : BitVec 3} {c : Opd} {s1 : State} {y : Xl} {r : List Byte}
    (hi : (Instr.qsig h store sc a c).Issues s e h) (hr : s.release e sc.toNat true = .go) (hal : (e.wide .i64 a 0).toNat % 8 = 0)
    (hwp : s.writePlace e (e.wide .i64 a 0) = (s1, some y, .done r)) : exec (.qsig h store sc a c) s =
      .next (((s1.flushLine e.core y.tgt).homeStore e (e.wide .i64 a 0) y (leBytes 8 (if store then (e.wide .i64 c 0).toNat
        else (s1.flushLine e.core y.tgt).numAt y.peer y.addr 8 + (e.wide .i64 c 0).toNat))).retire e h) := by
  have d : Does (.qsig h store sc a c) s h _ _ := ⟨rfl, by change execQsig h store sc a c s = _; unfold execQsig; rfl⟩
  refine d.next_run hi rfl hb ?_
  simp only [hl, hr, hal, hwp, ne_eq, not_true_eq_false, Bool.not_true, Bool.false_eq_true, if_false]
  rfl

end

/-- Settles O40: past its waits each makes its one access, whose place the translation gives. -/
theorem enqueueInstructions : Obligations.EnqueueInstructions := fun _ _ _ _ hl hb =>
  ⟨fun _ _ _ hq hp hi => exec_qresv hl hb hq hp hi,
    fun _ _ _ _ _ _ _ hq hi hal hacq hp hld hwp => exec_qput hl hb hq hi hal hacq hp hld hwp,
    fun _ _ _ _ _ _ hq hi hr hwp => exec_qcommit hl hb hq hi hr hwp,
    fun _ _ _ _ _ _ hi hr hal hwp => exec_qsig hl hb hi hr hal hwp⟩

end Sys2Proof.Machine

/-! PROOFS, spec/19. A flit's bytes: its header, fifteen slots and the CRC of both (R432, R433). -/

namespace Sys2Proof.Machine

/-! Little-endian numbers and lists of blocks -/

theorem leBytes_add (m n x : Nat) : leBytes (m + n) x = leBytes m x ++ leBytes n (x / 256 ^ m) := by
  induction m generalizing x with
  | zero => simp [leBytes]
  | succ m ih => rw [Nat.succ_add, leBytes, leBytes, ih, List.cons_append, Nat.div_div_eq_div_mul, Nat.pow_succ']

theorem leBytes_mod (n x : Nat) : leBytes n (x % 256 ^ n) = leBytes n x := by
  induction n generalizing x with
  | zero => rfl
  | succ n ih =>
    have hlow : BitVec.ofNat 8 (x % 256 ^ (n + 1)) = BitVec.ofNat 8 x :=
      BitVec.eq_of_toNat_eq (by
        rw [BitVec.toNat_ofNat, BitVec.toNat_ofNat]
        exact Nat.mod_mod_of_dvd x ⟨256 ^ n, Nat.pow_succ'⟩)
    have hhigh : x % 256 ^ (n + 1) / 256 = x / 256 % 256 ^ n := by rw [Nat.pow_succ', Nat.mod_mul_right_div_self]
    rw [leBytes, leBytes, hlow, hhigh, ih]

theorem leNat_leBytes_mod (n x : Nat) : leNat (leBytes n x) = x % 256 ^ n := by
  rw [← leBytes_mod, leNat_leBytes (Nat.mod_lt _ (Nat.pow_pos (by decide)))]

section
variable {α β : Type} {f : α → List β} {k : Nat} (hf : ∀ a, (f a).length = k)
include hf

theorem length_flatMap_block (l : List α) : (l.flatMap f).length = l.length * k := by
  induction l with
  | nil => rw [List.flatMap_nil, List.length_nil, List.length_nil, Nat.zero_mul]
  | cons a l ih => rw [List.flatMap_cons, List.length_append, hf, ih, List.length_cons, Nat.succ_mul, Nat.add_comm]

theorem drop_flatMap_block (l : List α) (i : Nat) : (l.flatMap f).drop (k * i) = (l.drop i).flatMap f := by
  induction l generalizing i with
  | nil => simp
  | cons a l ih =>
    cases i with
    | zero => simp
    | succ i => rw [List.flatMap_cons, Nat.mul_succ, Nat.add_comm, ← List.drop_drop, List.drop_left' (hf a), ih, List.drop_succ_cons]

/-- Of blocks of one length laid out in a row, block i stands at i times that length. -/
theorem take_drop_flatMap_block {l : List α} {i : Nat} (hi : i < l.length) : ((l.flatMap f).drop (k * i)).take k = f l[i] := by
  rw [drop_flatMap_block hf, List.drop_eq_getElem_cons hi, List.flatMap_cons, List.take_left' (hf _)]

end

theorem flitBytes_eq_flatMap {ws : List Nat} (h : ws.length = 32) : flitBytes ws = ws.flatMap (leBytes 8) := by
  have hws : (List.range 32).map (fun i => ws.getD i 0) = ws :=
    List.ext_getElem (by simp [h]) fun i hi _ => by simp at hi; simp [List.getD_eq_getElem?_getD, h, hi]
  have hrow : flitBytes ws = ((List.range 32).map (fun i => ws.getD i 0)).flatMap (leBytes 8) := by
    rw [List.flatMap_map]
    rfl
  rw [hrow, hws]

/-! The words of a flit -/

/-- A flit's header word: SEQ, ACKSEQ, KIND and the number of its slots (R432). -/
def flitHeader (seq ack kind n : Nat) : Nat := seq % 1024 + 2 ^ 10 * (ack % 1024) + 2 ^ 20 * (kind % 4) + 2 ^ 22 * (n % 16)

section
variable (seq ack kind n : Nat)

theorem bits_flitHeader_seq : bits (flitHeader seq ack kind n) 0 10 = seq % 1024 := by
  unfold bits flitHeader
  omega

theorem bits_flitHeader_ack : bits (flitHeader seq ack kind n) 10 10 = ack % 1024 := by
  unfold bits flitHeader
  omega

theorem bits_flitHeader_kind : bits (flitHeader seq ack kind n) 20 2 = kind % 4 := by
  unfold bits flitHeader
  omega

theorem bits_flitHeader_slots : bits (flitHeader seq ack kind n) 22 4 = n % 16 := by
  unfold bits flitHeader
  omega

theorem flitHeader_lt : flitHeader seq ack kind n < 256 ^ 8 := by
  unfold flitHeader
  omega

end

/-- The first 248 bytes of a flit: its header and its slots. -/
def flitBody (seq ack kind : Nat) (slots : List Nat) : List Byte :=
  leBytes 8 (flitHeader seq ack kind slots.length) ++ (List.range 15).flatMap (fun i => leBytes 16 (slots.getD i 0))

section
variable (seq ack kind : Nat) (slots : List Nat)

theorem length_flitBody : (flitBody seq ack kind slots).length = 248 := by
  rw [flitBody, List.length_append, length_leBytes, length_flatMap_block (fun _ => length_leBytes ..), List.length_range]

/-- A slot's two words are its 16 bytes. -/
theorem flatMap_leBytes_slotWords (x : Nat) : [x % 2 ^ 64, x / 2 ^ 64 % 2 ^ 64].flatMap (leBytes 8) = leBytes 16 x := by
  rw [show (16 : Nat) = 8 + 8 from rfl, leBytes_add]
  simp only [List.flatMap_cons, List.flatMap_nil, List.append_nil]
  rw [← leBytes_mod 8 x, ← leBytes_mod 8 (x / 256 ^ 8), show (256 : Nat) ^ 8 = 2 ^ 64 from rfl]

theorem length_flitWords : (flitWords seq ack kind slots).length = 32 := rfl

theorem flitBytes_flitWords : flitBytes (flitWords seq ack kind slots) =
    flitBody seq ack kind slots ++ leBytes 8 (crc64 (flitBody seq ack kind slots)).toNat := by
  have hbody : (flitHeader seq ack kind slots.length :: (List.range 15).flatMap (fun i =>
      [slots.getD i 0 % 2 ^ 64, slots.getD i 0 / 2 ^ 64 % 2 ^ 64])).flatMap (leBytes 8) = flitBody seq ack kind slots := by
    rw [List.flatMap_cons, List.flatMap_assoc]
    simp only [flatMap_leBytes_slotWords, flitBody]
  rw [flitBytes_eq_flatMap (length_flitWords ..), ← hbody]
  unfold flitWords
  rw [List.flatMap_append]
  simp only [List.flatMap_cons, List.flatMap_nil, List.append_nil]
  rfl

theorem take_flitBytes : (flitBytes (flitWords seq ack kind slots)).take 248 = flitBody seq ack kind slots := by
  rw [flitBytes_flitWords, List.take_left' (length_flitBody ..)]

/-- The last word is the CRC of the others. -/
theorem crc64_flitBytes : let bs := flitBytes (flitWords seq ack kind slots)
    crc64 (bs.take 248) = BitVec.ofNat 64 (leNat (bs.drop 248)) := by
  dsimp only
  rw [take_flitBytes, flitBytes_flitWords, List.drop_left' (length_flitBody ..), leNat_leBytes (crc64 _).isLt, BitVec.ofNat_toNat,
    BitVec.setWidth_eq]

theorem leNat_take_flitBytes :
    leNat ((flitBytes (flitWords seq ack kind slots)).take 8) = flitHeader seq ack kind slots.length := by
  rw [flitBytes_flitWords, flitBody, List.append_assoc, List.take_left' (length_leBytes ..), leNat_leBytes (flitHeader_lt ..)]

/-- Slot i stands in bytes 8 + 16 i on. -/
theorem leNat_slot_flitBytes {i : Nat} (hi : i < 15) :
    leNat (((flitBytes (flitWords seq ack kind slots)).drop (8 + 16 * i)).take 16) = (slots[i]?).getD 0 % 2 ^ 128 := by
  have hlen : ((List.range 15).flatMap (fun i => leBytes 16 (slots.getD i 0))).length = 240 := by
    rw [length_flatMap_block (fun _ => length_leBytes ..), List.length_range]
  rewrite [flitBytes_flitWords, flitBody, List.append_assoc, ← List.drop_drop, List.drop_left' (length_leBytes ..),
    List.drop_append_of_le_length (by omega), List.take_append_of_le_length (by rw [List.length_drop]; omega),
    take_drop_flatMap_block (fun _ => length_leBytes ..) (by rw [List.length_range]; exact hi), List.getElem_range, leNat_leBytes_mod,
    List.getD_eq_getElem?_getD]
  rfl

end

end Sys2Proof.Machine

/-! PROOFS, spec/17, spec/19. The fabric's ports, flits, requests and interrupts (R415, R425 to R428, R431 to R436). -/

namespace Sys2Proof.Machine

section
variable {s : State} {p : Nat}

/-! FABCFG (R425) -/

theorem exec_fabcfgWrite_kept {v : Nat} (hon : s.fabcfg.getLsbD 12 = true) (hw : (va64 v &&& 0x1FFF1F7F).getLsbD 12 = true) :
    exec (.fabcfgWrite v) s = .next s :=
  if_pos (by rw [hon, show (va64 v &&& fabMask).getLsbD 12 = true from hw]; rfl)

theorem exec_fabcfgWrite_off {v : Nat} (hon : s.fabcfg.getLsbD 12 = true) (hw : (va64 v &&& 0x1FFF1F7F).getLsbD 12 = false) :
    exec (.fabcfgWrite v) s = .next { s with fabNext := some (va64 v &&& 0x1FFF1F7F) }.settleFabric :=
  (if_neg (by rw [hon, show (va64 v &&& fabMask).getLsbD 12 = false from hw]; decide)).trans (if_pos hon)

theorem exec_fabcfgWrite_new {v : Nat} (hoff : s.fabcfg.getLsbD 12 = false) : exec (.fabcfgWrite v) s =
    .next ({ s with fabcfg := va64 v &&& 0x1FFF1F7F, fabNext := none,
                    ports := s.ports.mapAll (fun _ x => { x with lost := false }) } : State).trainPorts :=
  (if_neg (by rw [hoff, Bool.false_and]; decide)).trans (if_neg (by rw [hoff]; decide))

/-! Ports and requests in flight (R434 to R436) -/

theorem exec_portFail {down : Bool} (hup : (s.port p).state = 2) : exec (.portFail p down) s =
    .next ((s.setPort p { s.port p with state := if down then 0 else 3, width := 0 }).failPort p s) :=
  if_neg (not_not_intro hup)

theorem exec_peerTimeout_request {id : Nat} {r : PeerReq} (hr : s.peerReqs.find? (fun r => r.id == id && !r.back && !r.bad) = some r) :
    exec (.peerTimeout id) s = .next (s.failReq r).settleFabric := by
  change execPeerTimeout id s = _
  simp only [execPeerTimeout, State.peerFails, hr]

/-- The validations with one struck: it has the answer that its line's confirmation was refused. -/
def Validation.struck (v w : Validation) : Validation := if w.id = v.id then { w with answer := some false } else w

theorem exec_peerTimeout_validation {id q : Nat} {v : Validation}
    (hr : s.peerReqs.find? (fun r => r.id == id && !r.back && !r.bad) = none)
    (hv : (s.cores.flatMap (fun k => k.2.vals)).find? (fun v => v.id == id && v.answer != some false) = some v) (hq : v.port = some q) :
    exec (.peerTimeout id) s =
      .next (({ s with cores := s.cores.mapAll (fun _ k => { k with vals := k.vals.map v.struck }) } : State).setPort q
        { s.port q with faults := min 255 ((s.port q).faults + 1) }) := by
  change execPeerTimeout id s = _
  simp only [execPeerTimeout, State.peerFails, hr, hv, State.failVal, hq]
  rfl

/-! Inbound requests (R427, R428, R431) -/

/-- The device answers requests of peers to these bytes of its memory. -/
structure State.Serves (s : State) (src addr : Nat) (data : List Byte) : Prop where
  enabled : s.fabcfg.getLsbD 12 = true
  settled : s.fabNext = none
  admits  : s.fabcfg.getLsbD (8 + src % 4) = true
  running : s.devstate.toNat % 16 = 2
  inside  : addr + data.length ≤ 2 ^ 35
  starts  : addr < 2 ^ 35

/-- The condition of PEER_INBOUND_REQUEST. -/
def State.inboundOpen (s : State) (src addr : Nat) (data : List Byte) : Bool :=
  s.fabOn && s.fabcfg.getLsbD (8 + src % 4) && s.devstate.toNat % 16 == 2 && decide (addr + data.length ≤ 2 ^ 35) && decide (addr < 2 ^ 35)

theorem State.inboundOpen_iff {src addr : Nat} {data : List Byte} : s.inboundOpen src addr data = true ↔ s.Serves src addr data := by
  simp only [State.inboundOpen, State.fabOn, Bool.and_eq_true, Option.isNone_iff_eq_none, beq_iff_eq, decide_eq_true_eq]
  exact ⟨fun ⟨⟨⟨⟨⟨h1, h2⟩, h3⟩, h4⟩, h5⟩, h6⟩ => ⟨h1, h2, h3, h4, h5, h6⟩, fun ⟨h1, h2, h3, h4, h5, h6⟩ => ⟨⟨⟨⟨⟨h1, h2⟩, h3⟩, h4⟩, h5⟩, h6⟩⟩

theorem exec_peerInboundRequest_refused {src kind addr : Nat} {data : List Byte} (h : ¬ s.Serves src addr data) :
    exec (.peerInboundRequest src kind addr data) s = .next (s.reply (src % 4) addr (.error (src % 4))) :=
  if_pos (by rw [Bool.not_eq_true', ← Bool.not_eq_true]; exact fun ho => h (State.inboundOpen_iff.1 ho))

section
variable {src addr : Nat} {data : List Byte} (ho : s.Serves src addr data)
include ho

theorem not_inboundOpen : ¬ (!s.inboundOpen src addr data) = true := by
  rw [State.inboundOpen_iff.2 ho]
  decide

theorem exec_peerInboundRequest_read : exec (.peerInboundRequest src 0 addr data) s = .next (s.inboundRead (src % 4) addr) :=
  (if_neg (not_inboundOpen ho)).trans (if_pos rfl)

theorem exec_peerInboundRequest_validate :
    exec (.peerInboundRequest src 2 addr data) s = .next (s.inboundValidate (src % 4) addr (leNat data)) :=
  (if_neg (not_inboundOpen ho)).trans ((if_neg (by decide)).trans ((if_neg (by decide)).trans (if_pos rfl)))

variable (hs : s.stuck = none) (hb : s.baseCamp = false)
include hs hb

theorem exec_peerInboundRequest_write : exec (.peerInboundRequest src 1 addr data) s =
    .next ((s.cohWrite false (cellsFrom addr data)).reply (src % 4) addr (.ack (src % 4))) :=
  event_next rfl rfl hs hb ((if_neg (not_inboundOpen ho)).trans ((if_neg (by decide)).trans (if_pos rfl)))

theorem exec_peerInboundRequest_atomic {ty k : Nat} {op : Option AtomOp} (hty : ty < 8) (hop : inboundOp k = some op) :
    let n := atomBytes ty
    exec (.peerInboundRequest src (16 + 8 * k + ty) addr data) s = .next ((s.cohWrite false (cellsFrom addr (leBytes n
      (AtomInfo.apply ⟨op, ty, 5, true, false⟩ (s.numAt false addr n) (leNat (data.take n)) (leNat ((data.drop n).take n)))))).reply
        (src % 4) addr (.value (src % 4) (s.numAt false addr n))) := by
  intro n
  have hk : (16 + 8 * k + ty - 16) / 8 = k := by omega
  have ht : (16 + 8 * k + ty - 16) % 8 = ty := by omega
  refine event_next rfl rfl hs hb ((if_neg (not_inboundOpen ho)).trans ?_)
  rw [if_neg (by omega), if_neg (by omega), if_neg (by omega), if_neg (by omega), hk, hop, ht]

theorem exec_peerInboundRequest_add {ty k : Nat} {f : FFmt} (hty : ty < 8) (hop : inboundOp k = none) (hf : inboundAdd k = some f) :
    exec (.peerInboundRequest src (16 + 8 * k + ty) addr data) s = .next ((s.cohWrite false (cellsFrom addr (leBytes 2
      (addRne f (s.numAt false addr 2) (leNat (data.take 2)))))).reply (src % 4) addr (.ack (src % 4))) := by
  have hk : (16 + 8 * k + ty - 16) / 8 = k := by omega
  refine event_next rfl rfl hs hb ((if_neg (not_inboundOpen ho)).trans ?_)
  rw [if_neg (by omega), if_neg (by omega), if_neg (by omega), if_neg (by omega), hk, hop, hf]

end

/-! The link (R432 to R434) -/

theorem Port.acked_accepted (x : Port) (a : Nat) : (x.acked a).accepted = x.accepted := by
  unfold Port.acked
  split
  · rfl
  · split <;> rfl

section
variable {ws : List Nat} (hup : (s.port p).state = 2)
include hup

theorem exec_flitReceive_badCrc (hc : crc64 ((flitBytes ws).take 248) ≠ BitVec.ofNat 64 (leNat ((flitBytes ws).drop 248))) :
    exec (.flitReceive p ws) s =
      .next (s.setPort p (({ s.port p with crcerr := min 65535 ((s.port p).crcerr + 1) } : Port).emit 2 (s.port p).lastAcc [])) :=
  (if_neg (not_not_intro hup)).trans (if_pos hc)

variable (hc : crc64 ((flitBytes ws).take 248) = BitVec.ofNat 64 (leNat ((flitBytes ws).drop 248)))
include hc

theorem exec_flitReceive_outOfOrder (hseq : leNat ((flitBytes ws).take 8) % 1024 ≠ ((s.port p).lastAcc + 1) % 1024) :
    exec (.flitReceive p ws) s = .next (s.setPort p ((s.port p).emit 2 (s.port p).lastAcc [])) :=
  (if_neg (not_not_intro hup)).trans ((if_neg (not_not_intro hc)).trans (if_pos (by rw [bits_zero]; exact hseq)))

/-- A flit that follows the last accepted one is accepted: with KIND 0 its packets are, a NAK is served, the rest only acknowledges. -/
theorem exec_flitReceive_accepted (hseq : leNat ((flitBytes ws).take 8) % 1024 = ((s.port p).lastAcc + 1) % 1024) :
    let bs := flitBytes ws
    let h := leNat (bs.take 8)
    let packets := if bits h 20 2 = 0 then (List.range (bits h 22 4)).map (fun i =>
      [leNat ((bs.drop (8 + 16 * i)).take 8), leNat ((bs.drop (16 + 16 * i)).take 8)]) else []
    let t := s.setPort p { (s.port p).acked (bits h 10 10) with lastAcc := h % 1024, accepted := (s.port p).accepted ++ packets }
    exec (.flitReceive p ws) s = .next (if bits h 20 2 = 2 then t.nak p (bits h 10 10) else t) := by
  intro bs h packets t
  have hseq' : ¬ bits h 0 10 ≠ ((s.port p).lastAcc + 1) % 1024 := by rw [bits_zero]; exact not_not_intro hseq
  refine (if_neg (not_not_intro hup)).trans ((if_neg (not_not_intro hc)).trans ((if_neg hseq').trans ?_))
  rewrite [bits_zero]
  rfl

theorem exec_flitReceive_packets (hseq : leNat ((flitBytes ws).take 8) % 1024 = ((s.port p).lastAcc + 1) % 1024)
    (hk : bits (leNat ((flitBytes ws).take 8)) 20 2 = 0) :
    let bs := flitBytes ws
    let h := leNat (bs.take 8)
    exec (.flitReceive p ws) s = .next (s.setPort p { (s.port p).acked (bits h 10 10) with
      lastAcc := h % 1024, accepted := (s.port p).accepted ++ (List.range (bits h 22 4)).map (fun i =>
        [leNat ((bs.drop (8 + 16 * i)).take 8), leNat ((bs.drop (16 + 16 * i)).take 8)]) }) := by
  rw [exec_flitReceive_accepted hup hc hseq, if_pos hk, if_neg (by rw [hk]; decide)]

/-- A flit without packets leaves those accepted as they were. -/
theorem exec_flitReceive_empty (hseq : leNat ((flitBytes ws).take 8) % 1024 = ((s.port p).lastAcc + 1) % 1024)
    (hk : bits (leNat ((flitBytes ws).take 8)) 20 2 ≠ 0) :
    let h := leNat ((flitBytes ws).take 8)
    let t := s.setPort p { (s.port p).acked (bits h 10 10) with lastAcc := h % 1024 }
    exec (.flitReceive p ws) s = .next (if bits h 20 2 = 2 then t.nak p (bits h 10 10) else t) := by
  rw [exec_flitReceive_accepted hup hc hseq, if_neg hk, List.append_nil]
  simp only [← Port.acked_accepted (s.port p) (bits (leNat ((flitBytes ws).take 8)) 10 10)]

end

theorem exec_ackTimeoutRetrain (hu : (s.port p).unacked ≠ []) (hup : (s.port p).state = 2) : exec (.ackTimeoutRetrain p) s =
    .next (s.setPort p { s.port p with state := 1, width := 0, retrains := min 255 ((s.port p).retrains + 1), naks := 0 }) :=
  (if_neg hu).trans (congrArg Host.Outcome.next (if_neg (not_not_intro hup)))

section
variable (htr : (s.port p).state = 1)
include htr

theorem exec_portTrainingDone_up {n : Nat} (hn : n = 1 ∨ n = 2) : exec (.portTrainingDone p n) s = .next (s.setPort p
    { s.port p with state := 2, width := n, fails := 0, resend := (s.port p).unacked.map (fun u => u.1) }) := by
  have hmin : min 2 n = n := by omega
  refine (if_neg (not_not_intro htr)).trans ((if_neg (by omega)).trans ?_)
  rw [hmin]

theorem exec_portTrainingDone_again (hf : (s.port p).fails < 2) :
    exec (.portTrainingDone p 0) s = .next (s.setPort p { s.port p with fails := (s.port p).fails + 1 }) :=
  (if_neg (not_not_intro htr)).trans ((if_pos rfl).trans (if_neg (Nat.not_le.2 hf)))

theorem exec_portTrainingDone_failed (hf : 2 ≤ (s.port p).fails) : exec (.portTrainingDone p 0) s =
    .next ((s.setPort p { s.port p with state := 3, fails := (s.port p).fails + 1, width := 0 }).failPort p s) :=
  (if_neg (not_not_intro htr)).trans ((if_pos rfl).trans (if_pos hf))

end

end

/-- Settles O58: each event under its own condition; a flit's fields and CRC are read off its bytes. -/
theorem fabricSteps : Obligations.FabricSteps := by
  intro s p hs hb
  refine ⟨fun v => ⟨exec_fabcfgWrite_kept, exec_fabcfgWrite_off, exec_fabcfgWrite_new⟩, fun v => rfl, fun down => exec_portFail,
    fun id r => exec_peerTimeout_request, fun id v q hr hv hq => exec_peerTimeout_validation hr hv hq,
    fun src addr data hon hn hadm hrun hin hst => ?inbound, fun src kind addr data h => exec_peerInboundRequest_refused ?refused,
    fun src vec => rfl, fun seq _ => rfl, fun ws hup => ?flits, fun x kind ack ms hroom hkind hlen => ?emit, exec_ackTimeoutRetrain,
    fun htr => ⟨fun n => exec_portTrainingDone_up htr, exec_portTrainingDone_again htr, exec_portTrainingDone_failed htr⟩⟩
  case inbound =>
    have ho : s.Serves src addr data := ⟨hon, hn, hadm, hrun, hin, hst⟩
    refine ⟨fun hecc => ?bad, fun hecc => ?good, exec_peerInboundRequest_write ho hs hb, fun ok hok => ?validate,
      fun ty k op hty hop => exec_peerInboundRequest_atomic ho hs hb hty hop, fun bf ty hty => ?add⟩
    case bad => rw [exec_peerInboundRequest_read ho, State.inboundRead, if_pos hecc]
    case good => rw [exec_peerInboundRequest_read ho, State.inboundRead, if_neg (by rw [hecc]; decide)]
    case validate => subst hok; exact exec_peerInboundRequest_validate ho
    case add =>
      cases bf
      · exact exec_peerInboundRequest_add ho hs hb (k := 11) hty rfl rfl
      · exact exec_peerInboundRequest_add ho hs hb (k := 12) hty rfl rfl
  case refused =>
    rintro ⟨hon, hn, hadm, hrun, hin, hst⟩
    obtain h | h | h | h | h | h := h
    · rw [hon] at h; cases h
    · exact h hn
    · rw [hadm] at h; cases h
    · exact h hrun
    · omega
    · omega
  case flits =>
    refine ⟨exec_flitReceive_badCrc hup, exec_flitReceive_outOfOrder hup, exec_flitReceive_packets hup, fun hc hseq hk => ?nak,
      fun hc hseq hk => ?other⟩
    case nak => rw [exec_flitReceive_empty hup hc hseq (by rw [hk]; decide), if_pos hk]
    case other => rw [exec_flitReceive_empty hup hc hseq (by rw [hk]; decide), if_neg (by rw [hk]; decide)]
  case emit =>
    have hemit : x.emit kind ack ms = _ := if_neg (Nat.not_le.2 hroom)
    rw [hemit]
    refine ⟨flitWords x.nextSeq ack kind (ms.flatMap PMsg.slots), rfl, rfl, rfl, length_flitWords .., crc64_flitBytes .., ?_⟩
    rw [leNat_take_flitBytes]
    exact ⟨bits_flitHeader_seq .., bits_flitHeader_ack .., (bits_flitHeader_kind ..).trans (Nat.mod_eq_of_lt hkind),
      (bits_flitHeader_slots ..).trans (Nat.mod_eq_of_lt (by omega)), fun i hi => leNat_slot_flitBytes _ _ _ _ (by omega)⟩

end Sys2Proof.Machine

/-! PROOFS, spec/16, spec/17. The queue processor's own turns (R387, R390, R400 to R402, R404, R408, R439). -/

namespace Sys2Proof.Machine

/-! Kicks (R390, R408) -/

theorem State.qstate_markWork_self (s : State) (q : Nat) : ((s.markWork q).qstate q).work = true := by
  unfold State.markWork State.qstate
  dsimp only
  split
  next hw => exact hw
  next => rw [Tbl.lookD_put_self]

theorem State.qstate_markWork_ne (s : State) {q r : Nat} (h : r ≠ q) : (s.markWork q).qstate r = s.qstate r := by
  unfold State.markWork State.qstate
  dsimp only
  split
  · rfl
  · exact Tbl.lookD_put_ne _ _ _ h

/-- A queue that gets work changes nothing but its run state and the model's own count. -/
theorem State.markWork_frame {β : Type} (g : State → β) (hg : ∀ (t : State) x n, g { t with queues := x, serial := n } = g t) (s : State)
    (q : Nat) : g (s.markWork q) = g s := by
  unfold State.markWork
  dsimp only
  split
  · rfl
  · exact hg ..

section
variable {s : State} {v : Nat}

theorem exec_qkick (h : s.qtabbase.toNat % 131072 = 0) : exec (.qkick v) s = .next (s.markWork (v % 1024)) :=
  if_neg (not_not_intro h)

theorem exec_qkick_badBase (h : s.qtabbase.toNat % 131072 ≠ 0) : exec (.qkick v) s = .next s := if_pos h

end

/-! A step of the processor (R401, R404) -/

theorem exec_queueStep_next {s : State} (hs : s.stuck = none) (hb : s.baseCamp = false) :
    ∃ t, exec .queueStep s = .next t ∧ t.stuck = none ∧ t.devRegs = s.devRegs ∧ (s.memOk → t.memOk) := by
  obtain ⟨t, ht, hc⟩ := (onward_exec (i := .queueStep) rfl (.inl rfl)).exists_next hs hb
  exact ⟨t, ht, hc.stuck hb hs, hc.regs, hc.mem⟩

section
variable {s : State} (hidle : s.queues.all (fun x => x.2.work == false && x.2.lane.isNone) = true)
include hidle

theorem idle_of_mem {x : Nat × QState} (hx : x ∈ s.queues) : x.2.work = false ∧ x.2.lane = none := by
  simpa using List.all_eq_true.1 hidle x hx

theorem State.bindLanes_idle : s.bindLanes = s := by
  have hnone : s.queues.filter (fun x => x.2.work && x.2.lane.isNone) = [] :=
    List.filter_eq_nil_iff.2 fun x hx => by simp [idle_of_mem hidle hx]
  have hw : s.waitingQueues = [] := by simp [State.waitingQueues, hnone]
  simp [State.bindLanes, hw]

/-- No queue holds a lane. -/
theorem State.bound_idle : (List.range 32).filterMap (fun n => (s.queues.find? (fun x => x.2.lane == some n)).map (fun x => x.1)) = [] := by
  refine List.filterMap_eq_nil_iff.2 fun n _ => ?_
  rw [Option.map_eq_none_iff, List.find?_eq_none]
  intro x hx
  simp [idle_of_mem hidle hx]

theorem exec_queueStep_idle (hs : s.stuck = none) (hb : s.baseCamp = false) (hp : s.packets = []) :
    exec .queueStep s = .next s.publishAll := by
  refine event_next rfl rfl hs hb ?_
  change execQueueStep s = _
  unfold execQueueStep
  rw [State.bindLanes_idle hidle]
  dsimp only
  rw [State.bound_idle hidle]
  simp [passes, hp]

end

/-! BARRIERs (R400, R402) -/

/-- A BARRIER that waits tries again, as it stands by then. -/
def State.retryBarrier (t : State) (r : Packet) : State := match t.packet? r.q r.idx with | some r => t.serveBarrier r | none => t

/-- The signals a BARRIER names. -/
def Packet.signals (p : Packet) : List Nat := [p.f 0x10 8, p.f 0x18 8, p.f 0x20 8].filter (fun a => a != 0)

section
variable {s s1 : State} {p : Packet} {vs : List Nat} (hr : State.readSigs p.signals s p.asid [] = (s1, .ok vs))
include hr

theorem State.sigNegative_read : s.sigNegative p = vs.any (fun v => decide (2 ^ 63 ≤ v)) := by
  unfold State.sigNegative
  rw [show State.readSigs ([p.f 0x10 8, p.f 0x18 8, p.f 0x20 8].filter (fun a => a != 0)) s p.asid [] = _ from hr]

/-- A BARRIER that reads its signals completes, aborts its queue, or waits on. -/
theorem State.serveBarrier_read (hst : p.status = none) (hh : p.held = none) (hf : p.fatal = false) :
    s.serveBarrier p = if vs.any (fun v => decide (2 ^ 63 ≤ v)) then s1.abortQueue p 11
      else if vs.all (fun v => v == 0) then s1.endPacket p 0
      else if p.begun then s1 else s1.setPacket { p with begun := true } := by
  unfold State.serveBarrier
  rw [show State.readSigs ([p.f 0x10 8, p.f 0x18 8, p.f 0x20 8].filter (fun a => a != 0)) s p.asid [] = _ from hr]
  simp only [hh, hst, hf, Option.isSome_none, Bool.or_self, Bool.false_eq_true, if_false]

end

section
variable {s : State} (hs : s.stuck = none) (hb : s.baseCamp = false) {q n : Nat} {p : Packet} (hp : s.packet? q n = some p)
include hs hb hp

/-- A negative signal aborts with this BARRIER every other one that waits on one (R402). -/
theorem exec_barrierPacket_negative (hst : p.status = none) (ht : p.type = 3) (hneg : s.sigNegative p = true) : exec (.barrierPacket q n) s =
    .next ((s.packets.filter (fun r =>
        r.type == 3 && r.status.isNone && r.begun && (r.q != q || r.idx != n) && s.sigNegative r)).foldl State.retryBarrier
          (s.serveBarrier p)).publishAll := by
  refine event_next rfl rfl hs hb ?_
  change execBarrierPacket q n s = _
  simp only [execBarrierPacket, hp, ht, hst, hneg, ne_eq, not_true_eq_false, if_false, if_true, Option.isNone_none, Bool.and_self]
  rfl

theorem exec_barrierPacket_alone (ht : p.type = 3) (hpos : s.sigNegative p = false) :
    exec (.barrierPacket q n) s = .next (s.serveBarrier p).publishAll := by
  refine event_next rfl rfl hs hb ?_
  change execBarrierPacket q n s = _
  simp only [execBarrierPacket, hp, ht, hpos, ne_eq, not_true_eq_false, if_false, Bool.and_false, Bool.false_eq_true, List.foldl_nil]

/-! COPYs, INVALs and SIGNALs (R387, R400, R439) -/

/-- The channel of a COPY at the start of its record. -/
def Packet.copyChan (p : Packet) (ch : Nat) : Chan :=
  { running := true, err := false, cause := 0, who := { procWho p.asid with key := some (chanKey ch) },
    recA := p.f 0x10 8, byPacket := some (p.q, p.idx), held := none, stage := 0, parts := [], dead := none, idleAt := 0 }

omit hs hb in
theorem exec_copyPacket {ch : Nat} (hst : p.status = none) (ht : p.type = 5) (hc : p.chan = none)
    (hch : (p.f 0x18 1 = ch ∧ ch ≠ 255 ∧ (s.chan ch).running = false) ∨ (p.f 0x18 1 = 255 ∧ s.firstIdle = some ch)) :
    exec (.copyPacket q n ch) s = .next ((s.setChan ch (p.copyChan ch)).setPacket { p with chan := some ch }) := by
  change execCopyPacket q n ch s = _
  have hserve : s.serveCopy p (some ch) = (s.setChan ch (p.copyChan ch)).setPacket { p with chan := some ch } := by
    unfold State.serveCopy
    obtain ⟨hw, hne, hidle⟩ | ⟨hw, -⟩ := hch
    · simp only [hc, hst, hw, hne, hidle, Option.isSome_none, Bool.or_self, Bool.false_eq_true, if_false, Packet.copyChan]
    · simp only [hc, hst, hw, Option.isSome_none, Bool.or_self, Bool.false_eq_true, if_false, if_true, Packet.copyChan]
  have hmine : (if p.f 0x18 1 = 255 then s.firstIdle == some ch else p.f 0x18 1 == ch) = true := by
    obtain ⟨hw, hne, -⟩ | ⟨hw, hi⟩ := hch
    · simp [hw, hne]
    · simp [hw, hi]
  simp only [execCopyPacket, hp]
  rw [if_pos ⟨ht, hmine⟩, hserve]

theorem exec_inval (ht : p.type = 6) : exec (.inval q n) s = .next (s.serveInval p).publishAll := by
  refine event_next rfl rfl hs hb ?_
  change execInval q n s = _
  simp only [execInval, hp, ht, if_true]

omit hs hb hp in
/-- An INVAL waits while a fill of its range is under way (R387). -/
theorem State.serveInval_busy {v : Inval} (hst : p.status = none)
    (hv : s.invals.find? (fun v => v.q == p.q && v.idx == p.idx) = some v)
    (hbusy : s.trackers.any (fun t => t.2.asid == v.asid && decide (t.2.block < v.hi) && decide (v.lo < t.2.block + 2 ^ t.2.blklog)) = true) :
    s.serveInval p = s := by
  unfold State.serveInval
  simp only [hst, hv, hbusy, Option.isSome_none, Bool.false_eq_true, if_false, if_true]

theorem exec_packetComplete_signal {s1 : State} (hst : p.status = none) (hh : p.held = none) (hf : p.fatal = false) (ht : p.type = 4)
    (hw : s.procWord p.asid (p.f 0x10 8) 8 (fun old => if p.f 0x20 1 = 1 then p.f 0x18 8 else (old + p.f 0x18 8) % 2 ^ 64) = (s1, .done)) :
    exec (.packetComplete q n) s = .next (s1.endPacket p 0).publishAll := by
  have hserve : s.serveSignal p = s1.endPacket p 0 := by
    unfold State.serveSignal
    simp only [hh, hst, hf, hw, Option.isSome_none, Bool.or_self, Bool.false_eq_true, if_false]
  refine event_next rfl rfl hs hb ?_
  change execPacketComplete q n s = _
  simp only [execPacketComplete, hp, ht, hst, Option.isNone_none, and_self, if_true, hserve]

/-! Completions (R401) -/

/-- A DISPATCH whose launch is over completes with the launch's status. -/
theorem exec_packetComplete_launch {l st : Nat} {x : Launch} (hst : p.status = none) (ht : p.type ≠ 4) (hl : p.launch = some l)
    (hx : s.launches.look l = some x) (hxs : x.status = some st) (ho : s.launchOver l x = true) :
    exec (.packetComplete q n) s = .next (({ s with launches := s.launches.del l }).endPacket p st).publishAll := by
  refine event_next rfl rfl hs hb ?_
  change execPacketComplete q n s = _
  simp only [execPacketComplete, hp, hst, ht, hl, hx, hxs, ho, false_and, if_false, if_true, Option.bind_some, Option.map_some]

theorem exec_packetComplete_ended {st : Nat} (hst : p.status = some st) :
    exec (.packetComplete q n) s = .next (s.finishPacket p).publishAll := by
  refine event_next rfl rfl hs hb ?_
  change execPacketComplete q n s = _
  simp only [execPacketComplete, hp, hst, Option.isNone_some, Bool.false_eq_true, and_false, if_false]

end

/-- The last steps of a completion, for a packet that declares no table: its header word, CSIG where it has one, and it is done. -/
theorem State.finishPacket_ended {s s1 : State} {p : Packet} {st : Nat} (hst : p.status = some st) (hd : p.done = false)
    (hh : p.held = none) (hf : p.fatal = false) (ht : p.type ≠ 7) (hw : s.procWord p.asid p.va 4 (fun _ => 65536 * st) = (s1, .done)) :
    (p.csig = 0 → s.finishPacket p = s1.setPacket { p with done := true }) ∧
    (∀ s2, p.csig ≠ 0 → p.csig % 8 = 0 →
      s1.procWord p.asid p.csig 8 (fun old => if st = 0 then (old + 2 ^ 64 - 1) % 2 ^ 64 else 2 ^ 64 - 1) = (s2, .done) →
      s.finishPacket p = s2.setPacket { p with done := true }) := by
  unfold State.finishPacket
  refine ⟨fun hc => ?_, fun s2 hc hal hw2 => ?_⟩
  · simp only [hst, hd, hh, hf, hw, hc, Option.isSome_none, Bool.or_self, Bool.false_and, Bool.false_eq_true, if_false,
      true_or, if_true]
    exact if_pos (.inl ht)
  · have hgo : ¬(p.csig = 0 ∨ p.csig % 8 ≠ 0) := by omega
    simp only [hst, hd, hh, hf, hw, hgo, hw2, Option.isSome_none, Bool.or_self, Bool.false_and, Bool.false_eq_true, if_false]
    exact if_pos (.inl ht)

/-- Settles O57: each turn of the processor by what its packet is and what its accesses come to. -/
theorem queueSteps : Obligations.QueueSteps := by
  intro s hs hb
  refine ⟨fun v hq => ?kick, fun v => exec_qkick_badBase, exec_queueStep_next hs hb, fun hidle => exec_queueStep_idle hidle hs hb,
    fun q n p hp hst hh hf => ⟨fun s1 vs ht hr => ?barrier, fun ch ht hc hch => exec_copyPacket hp hst ht hc hch,
      fun v ht hv => ⟨fun hbusy => ?busy, fun _ => exec_inval hs hb hp ht⟩,
      fun s1 ht hw => exec_packetComplete_signal hs hb hp hst hh hf ht hw,
      fun l x st ht hl hx hxs ho => exec_packetComplete_launch hs hb hp hst ht hl hx hxs ho⟩,
    fun q n p st s1 hp hst hd hh hf ht hw => ⟨fun hc => ?unsignalled, fun s2 hc hal hw2 => ?signalled⟩⟩
  case kick =>
    refine ⟨_, exec_qkick hq, State.qstate_markWork_self .., fun q hne => State.qstate_markWork_ne _ hne, ?_, ?_, ?_, ?_⟩
    all_goals exact State.markWork_frame _ (fun _ _ _ => rfl) ..
  case barrier =>
    have hserve : s.serveBarrier p = _ := State.serveBarrier_read hr hst hh hf
    have hneg : s.sigNegative p = _ := State.sigNegative_read hr
    refine ⟨fun ⟨v, hv, hlt⟩ => ?negative, fun hz => ?zero, fun hpos ⟨v, hv, hne⟩ => ?wait⟩
    case negative =>
      have hany : vs.any (fun v => decide (2 ^ 63 ≤ v)) = true := List.any_eq_true.2 ⟨v, hv, decide_eq_true hlt⟩
      rw [exec_barrierPacket_negative hs hb hp hst ht (hneg.trans hany), hserve, if_pos hany]
      rfl
    case zero =>
      have hany : vs.any (fun v => decide (2 ^ 63 ≤ v)) = false := List.any_eq_false.2 fun v hv => by simp [hz v hv]
      have hall : vs.all (fun v => v == 0) = true := List.all_eq_true.2 fun v hv => by simp [hz v hv]
      rw [exec_barrierPacket_alone hs hb hp ht (hneg.trans hany), hserve, if_neg (by rw [hany]; decide), if_pos hall]
    case wait =>
      have hany : vs.any (fun v => decide (2 ^ 63 ≤ v)) = false :=
        List.any_eq_false.2 fun v hv h => Nat.not_le.2 (hpos v hv) (of_decide_eq_true h)
      have hall : ¬ vs.all (fun v => v == 0) = true := fun h => hne (by simpa using List.all_eq_true.1 h v hv)
      rw [exec_barrierPacket_alone hs hb hp ht (hneg.trans hany), hserve, if_neg (by rw [hany]; decide), if_neg hall]
  case busy => rw [exec_inval hs hb hp ht, State.serveInval_busy hst hv hbusy]
  case unsignalled =>
    rw [exec_packetComplete_ended hs hb hp hst, (State.finishPacket_ended hst hd hh hf ht hw).1 hc]
  case signalled =>
    rw [exec_packetComplete_ended hs hb hp hst, (State.finishPacket_ended hst hd hh hf ht hw).2 s2 hc hal hw2]

end Sys2Proof.Machine
